-- ==== Sys2Proof/Word.lean ====
section
/-!
DEFINITION. The word types of the Gnoesk G4 (spec/00 R6, spec/03 R70, spec/08 R217).
-/
namespace Sys2Proof

/-- A 32-bit word (v, s, j, p as a lane mask; R70). -/
abbrev Word := BitVec 32
/-- A 64-bit value (affine bases, addresses, f64 patterns; R70, R73). -/
abbrev Dword := BitVec 64
/-- A lane mask: bit L stands for lane L (R6). -/
abbrev Mask := BitVec 32
/-- One byte of memory, R217's location. -/
abbrev Byte := BitVec 8

end Sys2Proof
end

