-- ==== Sys2Proof/Config.lean ====
section
/-!
DEFINITION. What one implementation fixes and the spec leaves open: constants without a body, so that nothing proved about the machine
depends on their values.
-/
namespace Sys2Proof.Config

/-- The set of the cluster cache that a line falls in (R214 gives 4,096 sets, no map) (DESIGN CHOICE, log 18). -/
opaque cacheSet : Nat → Nat
/-- Whether the owner of a remote page admits an access that the device itself makes there: slice, page, and when (R460) (DESIGN CHOICE, log 23). -/
opaque ownerAdmits : Nat → Nat → Nat → Bool
/-- A value that the spec leaves open, one for each count (DESIGN CHOICE, log 5). -/
opaque freeValue : Nat → Nat

/-- The four channels of one texel, 16 bits each, R lowest, of a block in a format whose decoding R361 takes from another
specification (BC6H, BC7, ASTC): the format's code, the block, the texel's place in it (PRESUMED, log 26). -/
opaque blockTexel : Nat → Nat → Nat → Nat → Nat
/-- A block of an ASTC format is illegal, or has an HDR endpoint mode, by that other specification (PRESUMED, log 26). -/
opaque astcError : Nat → Nat → Bool
/-- T, U and V of a candidate that the memory no longer gives: 96 bits from the ray's record (R376 forms T again; where the triangle or box has changed
so that it has none, the spec states no value) (DESIGN CHOICE, log 46). -/
opaque staleHit : Nat → Nat

/-- An encoder session as its state area holds it (R439): 0 AV1 or 1 HEVC, sample depth, width, height, size of the area, frames encoded
so far, and whether a key frame is due. -/
structure Session where
  codec : Nat
  depth : Nat
  width : Nat
  height : Nat
  bytes : Nat
  frames : Nat
  due : Bool
deriving DecidableEq, Repr, Inhabited

/-- The session that the first 65,536 bytes of a state area hold, if they are one that CONFIG wrote (R439 gives no layout) (DESIGN CHOICE, log 29). -/
opaque sessionOf : Nat → Option Session
/-- The state area of a fresh session (DESIGN CHOICE, log 29). -/
opaque freshSession : Session → Nat
/-- One frame encoded from the state area, the source planes and the payload: the access unit's length, its bytes, and the state area
after it (the bit streams are AV1's and HEVC's own) (DESIGN CHOICE, log 29). -/
opaque encodeFrame : Nat → Nat → Nat → Nat → Nat × Nat × Nat

/-- SHA-256 of a list of bytes, as a 256-bit number of the same byte order (R452, R453) (DESIGN CHOICE, log 30). -/
opaque sha256 : List (BitVec 8) → BitVec 256
/-- The LMS signature check of R452: public key hash, message, signature (DESIGN CHOICE, log 30). -/
opaque lmsVerify : Nat → List (BitVec 8) → List (BitVec 8) → Bool
/-- The digests of the security controller's ROM and of its fuse configuration, and the public key's hash in the fuses (R452, R453) (DESIGN CHOICE, log 30). -/
opaque romDigest : BitVec 256
/-- DESIGN CHOICE, log 30. -/
opaque fuseDigest : BitVec 256
/-- DESIGN CHOICE, log 30. -/
opaque keyHash : Nat
/-- The reply of the SPDM responder to a request, from the measurement registers (R454 names the protocol, DMTF's own) (DESIGN CHOICE, log 30). -/
opaque spdmReply : List (BitVec 8) → List (BitVec 256) → List (BitVec 8)
/-- The head of a MEASUREMENTS message for some blocks and a record's length, and its end with the signature over a record under the key derived from
MR1 (R454) (DESIGN CHOICE, log 30). -/
opaque measureHead : List Nat → Nat → List (BitVec 8)
/-- DESIGN CHOICE, log 30. -/
opaque measureTail : BitVec 256 → List (BitVec 8) → List (BitVec 8)
/-- The header of a measurement block in DMTF's format (R454) (DESIGN CHOICE, log 30). -/
opaque blockHeader : Nat → List (BitVec 8)

end Sys2Proof.Config
end

