-- ==== Sys2Proof/Syntax.lean ====
section
/-!
DEFINITION. Syntax of the Gnoesk G4: the operand forms of the instruction word (spec/01, spec/02) and the ONE inductive `Instr`,
one constructor per row of spec/opcode_table.json. A row with a source mnemonic is an instruction and starts with its
issue-control fields (`Ctl`); the other rows are steps of the device's other agents and carry the names of what they act on.
-/
namespace Sys2Proof

/-- The fields every instruction word carries beside its operands: guard (R18), END (R22), and the hints of R19. -/
structure Ctl where
  /-- GP: 0-14 name p0-p14, 15 means always -/
  gp : BitVec 4
  /-- GN: guard negate -/
  gn : Bool
  /-- END: last instruction of its clause -/
  fin : Bool
  yld : Bool
  rua : Bool
  rub : Bool
  stall : BitVec 3
deriving DecidableEq, Repr, Inhabited

/-- A destination register field; its class is fixed by the opcode (R16). A run is named by its first register (R48). -/
inductive Dst where
  | reg (n : Nat)
  /-- code 511: the result is discarded -/
  | discard
deriving DecidableEq, Repr, Inhabited

/-- A source register field (R16, R17); its class is fixed by the opcode. -/
inductive Src where
  | reg (n : Nat)
  /-- code 510: the immediate, with the word's IMM field -/
  | imm (v : Word)
  /-- code 511: reads zero -/
  | zero
  /-- affine code 64: base 0, stride 1 -/
  | lane
  /-- uniform code 128 + n: system value n (R86) -/
  | sys (n : Nat)
deriving DecidableEq, Repr, Inhabited

/-- Integer type (R49). -/
inductive IT where | i32 | n32 | i64 | n64
deriving DecidableEq, Repr, Inhabited
/-- Float type (R49). -/
inductive FT where | f32 | f64 | f16 | bf16
deriving DecidableEq, Repr, Inhabited
/-- Rounding mode (R20, R99). -/
inductive Rnd where | rne | rtz | rdn | rup
deriving DecidableEq, Repr, Inhabited
/-- Combining type of a compare (R135). -/
inductive Cmb where | set | and | or | xor | andx | orx | nest | anyall
deriving DecidableEq, Repr, Inhabited
/-- Integer condition (R53): i signed, n unsigned. -/
inductive ICond where | eq | ne | ilt | ile | igt | ige | nlt | nle | ngt | nge
deriving DecidableEq, Repr, Inhabited
/-- Float condition (R56, R155). -/
inductive FCond where | eq | ne | lt | le | gt | ge | num | nan | equ | neu | ltu | leu | gtu | geu
deriving DecidableEq, Repr, Inhabited
/-- Destination of an integer narrowing (R58, R172). -/
inductive NT where | i16 | n16 | i8 | n8
deriving DecidableEq, Repr, Inhabited
/-- Mode of `shfl` (R189). -/
inductive ShflMode where | idx | up | down | bfly
deriving DecidableEq, Repr, Inhabited
/-- Operation of an integer `reduce` or `scan` (R60). -/
inductive RedOp where | add | minI | maxI | and | or | xor | minN | maxN
deriving DecidableEq, Repr, Inhabited
/-- Operation of a float `reduce` or `scan` (R192). -/
inductive FRedOp where | add | min | max
deriving DecidableEq, Repr, Inhabited
/-- Key type of `match` (R194). -/
inductive MatchTy where | b32 | b64 | f32 | f64
deriving DecidableEq, Repr, Inhabited
/-- Flag select (R20, R21). -/
inductive Flg where | none | set0 | set1
deriving DecidableEq, Repr, Inhabited
/-- Base class AC of a memory operand (R61). -/
inductive AC where | aff | var | uni
deriving DecidableEq, Repr, Inhabited
/-- Cache policy (R61): changes placement only (R214). -/
inductive Pol where | dflt | strm | last
deriving DecidableEq, Repr, Inhabited
/-- Count of a memory access or fragment load (R61, R273). -/
inductive Cnt where | x1 | x2 | x4
deriving DecidableEq, Repr, Inhabited
/-- Data type of a memory access (R61). -/
inductive MTy where | n8 | i8 | n16 | i16 | b32 | b64
deriving DecidableEq, Repr, Inhabited
/-- Memory scope (R10, R20). -/
inductive Scope where | grp | team | clu | die | slc | dom
deriving DecidableEq, Repr, Inhabited
/-- Ordering of an atomic (R61, R223). -/
inductive MemOrd where | rlx | acq | rel | ar
deriving DecidableEq, Repr, Inhabited
/-- Atomic operation (R62, R240). -/
inductive AtomOp where | add | minI | maxI | minN | maxN | and | or | xor | exch | cas | addF
deriving DecidableEq, Repr, Inhabited
/-- Condition of `waitv` (R405); `.ge` and `.lt` unsigned. -/
inductive WCond where | eq | ne | ge | lt
deriving DecidableEq, Repr, Inhabited

/-- The MEM layout of IMM (R61). -/
structure MemOp where
  pol : Pol
  cnt : Cnt
  ty : MTy
  off : BitVec 24
deriving DecidableEq, Repr, Inhabited

/-- The ATOM layout of IMM (R61). -/
structure AtomFld where
  sc : Scope
  ord : MemOrd
  w64 : Bool
  ac : AC
  off : BitVec 24
deriving DecidableEq, Repr, Inhabited

/-- Which instance of a special register a write reaches (R324, R409, R421, R429, R445, R473). -/
inductive RegPlace where
  | slice (sl : Nat)
  | sliceDie (sl die : Nat)
  | sliceCluster (sl cl : Nat)
  | package
deriving DecidableEq, Repr, Inhabited

/-- One constructor per row of spec/opcode_table.json: the instructions first, then the steps of the other agents. -/
inductive Instr where
  /-- NOP (R27): `nop`. Does nothing beyond advancing the PC. -/
  | nop (c : Ctl)
  /-- BRA (R176): `bra`. Sends the lanes of E to a PC-relative target. -/
  | bra (c : Ctl) (imm : Word)
  /-- BRX_V (R176): `brx.v`. Sends each lane of E to a target held in a varying register pair. -/
  | brxV (c : Ctl) (a : Src)
  /-- BRX_S (R176): `brx.s`. Sends every lane of E to one target held in a uniform register pair. -/
  | brxS (c : Ctl) (a : Src)
  /-- CALL (R176): `call`. Writes the return address to D and sends the lanes of E to a PC-relative target. -/
  | call (c : Ctl) (d : Dst) (imm : Word)
  /-- CALL_INDIRECT (R176): `call`. Writes the return address to D and sends the lanes of E to a target held in registers. -/
  | callIndirect (c : Ctl) (d : Dst) (a : Src)
  /-- RET (R176): `ret`. Sends each lane of E to the return address held in a varying register pair. -/
  | ret (c : Ctl) (a : Src)
  /-- EXIT (R177): `exit`. Makes the lanes of E exited at the end of the issue cycle. -/
  | exit (c : Ctl)
  /-- YIELD (R178): `yield`. Sends every lane of M to the next clause and ranks that path last in its next arbitration. -/
  | yieldPath (c : Ctl)
  /-- JSET (R179): `jset`. Sets a rejoin mask to the effective mask. -/
  | jset (c : Ctl) (j : Nat)
  /-- JADD (R179): `jadd`. Adds the effective mask to a rejoin mask. -/
  | jadd (c : Ctl) (j : Nat)
  /-- JSUB (R179): `jsub`. Removes the effective mask from a rejoin mask. -/
  | jsub (c : Ctl) (j : Nat)
  /-- JGET (R179): `jget`. Copies a rejoin mask into a uniform register. -/
  | jget (c : Ctl) (d : Dst) (j : Nat)
  /-- JPUT (R179): `jput`. Copies a uniform value into a rejoin mask. -/
  | jput (c : Ctl) (j : Nat) (a : Src)
  /-- REJOIN (R180): `rejoin`. Makes the lanes of E whose bit is set in the mask wait on it. -/
  | rejoin (c : Ctl) (j : Nat)
  /-- REJOIN_TMO (R181): `rejoin.tmo`. Makes lanes wait on a rejoin mask with a deadline in die ticks. -/
  | rejoinTmo (c : Ctl) (p : Nat) (j : Nat) (b : Src)
  /-- BRK (R184): `brk`. Parks the lanes of E with BREAK and a code, or stops the team when a debugger has claimed BREAK. -/
  | brk (c : Ctl) (code : BitVec 16)
  /-- TRAP (R184): `trap`. Parks the lanes of E with TRAP and a code. -/
  | trap (c : Ctl) (code : BitVec 16)
  /-- HRET (R186): `hret`. Resumes the lanes of E from the state's resume record, replaying faulted accesses or calls first. -/
  | hret (c : Ctl)
  /-- ADD_V (R122): `add.v`. Adds two varying integers, wrapping or saturating. -/
  | addV (c : Ctl) (t : IT) (sat : Bool) (d : Dst) (a : Src) (b : Src)
  /-- ADD_S (R122): `add.s`. Adds two uniform integers, wrapping or saturating. -/
  | addS (c : Ctl) (t : IT) (sat : Bool) (d : Dst) (a : Src) (b : Src)
  /-- SUB_V (R122): `sub.v`. Subtracts two varying integers, wrapping or saturating. -/
  | subV (c : Ctl) (t : IT) (sat : Bool) (d : Dst) (a : Src) (b : Src)
  /-- SUB_S (R122): `sub.s`. Subtracts two uniform integers, wrapping or saturating. -/
  | subS (c : Ctl) (t : IT) (sat : Bool) (d : Dst) (a : Src) (b : Src)
  /-- MUL_V (R123): `mul.v`. Multiplies two varying integers, returning the low or high half. -/
  | mulV (c : Ctl) (t : IT) (hi : Bool) (d : Dst) (a : Src) (b : Src)
  /-- MUL_S (R123): `mul.s`. Multiplies two uniform integers, returning the low or high half. -/
  | mulS (c : Ctl) (t : IT) (hi : Bool) (d : Dst) (a : Src) (b : Src)
  /-- MAD_V (R124): `mad.v`. Multiplies and adds varying integers, returning the low w bits. -/
  | madV (c : Ctl) (t : IT) (d : Dst) (a : Src) (b : Src) (e : Src)
  /-- MAD_S (R124): `mad.s`. Multiplies and adds uniform integers, returning the low w bits. -/
  | madS (c : Ctl) (t : IT) (d : Dst) (a : Src) (b : Src) (e : Src)
  /-- ADDC_V (R125): `addc.v`. Adds with a carry held in a predicate and writes the carry-out there. -/
  | addcV (c : Ctl) (t : IT) (d : Dst) (a : Src) (b : Src) (p : Nat)
  /-- SUBC_V (R125): `subc.v`. Subtracts with a borrow held in a predicate and writes the borrow-out there. -/
  | subcV (c : Ctl) (t : IT) (d : Dst) (a : Src) (b : Src) (p : Nat)
  /-- MIN_V (R127): `min.v`. Writes the smaller of two varying integers. -/
  | minV (c : Ctl) (t : IT) (d : Dst) (a : Src) (b : Src)
  /-- MIN_S (R127): `min.s`. Writes the smaller of two uniform integers. -/
  | minS (c : Ctl) (t : IT) (d : Dst) (a : Src) (b : Src)
  /-- MAX_V (R127): `max.v`. Writes the larger of two varying integers. -/
  | maxV (c : Ctl) (t : IT) (d : Dst) (a : Src) (b : Src)
  /-- MAX_S (R127): `max.s`. Writes the larger of two uniform integers. -/
  | maxS (c : Ctl) (t : IT) (d : Dst) (a : Src) (b : Src)
  /-- ABS_V (R127): `abs.v`. Writes the absolute value of a signed varying integer. -/
  | absV (c : Ctl) (w64 : Bool) (d : Dst) (a : Src)
  /-- ABS_S (R127): `abs.s`. Writes the absolute value of a signed uniform integer. -/
  | absS (c : Ctl) (w64 : Bool) (d : Dst) (a : Src)
  /-- NEG_V (R127): `neg.v`. Negates a signed varying integer. -/
  | negV (c : Ctl) (w64 : Bool) (d : Dst) (a : Src)
  /-- NEG_S (R127): `neg.s`. Negates a signed uniform integer. -/
  | negS (c : Ctl) (w64 : Bool) (d : Dst) (a : Src)
  /-- AND_V (R128): `and.v`. Bitwise AND of varying values. -/
  | andV (c : Ctl) (w64 : Bool) (d : Dst) (a : Src) (b : Src)
  /-- AND_S (R128): `and.s`. Bitwise AND of uniform values. -/
  | andS (c : Ctl) (w64 : Bool) (d : Dst) (a : Src) (b : Src)
  /-- OR_V (R128): `or.v`. Bitwise OR of varying values. -/
  | orV (c : Ctl) (w64 : Bool) (d : Dst) (a : Src) (b : Src)
  /-- OR_S (R128): `or.s`. Bitwise OR of uniform values. -/
  | orS (c : Ctl) (w64 : Bool) (d : Dst) (a : Src) (b : Src)
  /-- XOR_V (R128): `xor.v`. Bitwise XOR of varying values. -/
  | xorV (c : Ctl) (w64 : Bool) (d : Dst) (a : Src) (b : Src)
  /-- XOR_S (R128): `xor.s`. Bitwise XOR of uniform values. -/
  | xorS (c : Ctl) (w64 : Bool) (d : Dst) (a : Src) (b : Src)
  /-- ANDN_V (R128): `andn.v`. Bitwise A AND NOT B of varying values. -/
  | andnV (c : Ctl) (w64 : Bool) (d : Dst) (a : Src) (b : Src)
  /-- ANDN_S (R128): `andn.s`. Bitwise A AND NOT B of uniform values. -/
  | andnS (c : Ctl) (w64 : Bool) (d : Dst) (a : Src) (b : Src)
  /-- ORN_V (R128): `orn.v`. Bitwise A OR NOT B of varying values. -/
  | ornV (c : Ctl) (w64 : Bool) (d : Dst) (a : Src) (b : Src)
  /-- ORN_S (R128): `orn.s`. Bitwise A OR NOT B of uniform values. -/
  | ornS (c : Ctl) (w64 : Bool) (d : Dst) (a : Src) (b : Src)
  /-- XNOR_V (R128): `xnor.v`. Bitwise XNOR of varying values. -/
  | xnorV (c : Ctl) (w64 : Bool) (d : Dst) (a : Src) (b : Src)
  /-- XNOR_S (R128): `xnor.s`. Bitwise XNOR of uniform values. -/
  | xnorS (c : Ctl) (w64 : Bool) (d : Dst) (a : Src) (b : Src)
  /-- NOT_V (R128): `not.v`. Bitwise NOT of a varying value. -/
  | notV (c : Ctl) (w64 : Bool) (d : Dst) (a : Src)
  /-- NOT_S (R128): `not.s`. Bitwise NOT of a uniform value. -/
  | notS (c : Ctl) (w64 : Bool) (d : Dst) (a : Src)
  /-- SHL_V (R129): `shl.v`. Shifts a varying value left by a full count. -/
  | shlV (c : Ctl) (w64 : Bool) (d : Dst) (a : Src) (b : Src)
  /-- SHL_S (R129): `shl.s`. Shifts a uniform value left by a full count. -/
  | shlS (c : Ctl) (w64 : Bool) (d : Dst) (a : Src) (b : Src)
  /-- SHR_V (R129): `shr.v`. Shifts a varying value right logically by a full count. -/
  | shrV (c : Ctl) (w64 : Bool) (d : Dst) (a : Src) (b : Src)
  /-- SHR_S (R129): `shr.s`. Shifts a uniform value right logically by a full count. -/
  | shrS (c : Ctl) (w64 : Bool) (d : Dst) (a : Src) (b : Src)
  /-- SAR_V (R129): `sar.v`. Shifts a varying value right arithmetically by a full count. -/
  | sarV (c : Ctl) (w64 : Bool) (d : Dst) (a : Src) (b : Src)
  /-- SAR_S (R129): `sar.s`. Shifts a uniform value right arithmetically by a full count. -/
  | sarS (c : Ctl) (w64 : Bool) (d : Dst) (a : Src) (b : Src)
  /-- SHF_V (R130): `shf.v`. Funnel-shifts the varying concatenation of B and A and returns 32 bits. -/
  | shfV (c : Ctl) (right : Bool) (clamp : Bool) (d : Dst) (a : Src) (b : Src) (e : Src)
  /-- SHF_S (R130): `shf.s`. Funnel-shifts the uniform concatenation of B and A and returns 32 bits. -/
  | shfS (c : Ctl) (right : Bool) (clamp : Bool) (d : Dst) (a : Src) (b : Src) (e : Src)
  /-- BFE_V (R131): `bfe.v`. Extracts a varying bit field, signed or unsigned. -/
  | bfeV (c : Ctl) (sg : Bool) (d : Dst) (a : Src) (b : Src) (e : Src)
  /-- BFE_S (R131): `bfe.s`. Extracts a uniform bit field, signed or unsigned. -/
  | bfeS (c : Ctl) (sg : Bool) (d : Dst) (a : Src) (b : Src) (e : Src)
  /-- BFI_V (R131): `bfi.v`. Inserts a varying bit field into a base word. -/
  | bfiV (c : Ctl) (d : Dst) (a : Src) (b : Src) (e : Src)
  /-- BFI_S (R131): `bfi.s`. Inserts a uniform bit field into a base word. -/
  | bfiS (c : Ctl) (d : Dst) (a : Src) (b : Src) (e : Src)
  /-- BREV_V (R131): `brev.v`. Reverses the bits of a varying word. -/
  | brevV (c : Ctl) (d : Dst) (a : Src)
  /-- BREV_S (R131): `brev.s`. Reverses the bits of a uniform word. -/
  | brevS (c : Ctl) (d : Dst) (a : Src)
  /-- POPC_V (R132): `popc.v`. Counts the 1 bits of a varying value. -/
  | popcV (c : Ctl) (w64 : Bool) (d : Dst) (a : Src)
  /-- POPC_S (R132): `popc.s`. Counts the 1 bits of a uniform value. -/
  | popcS (c : Ctl) (w64 : Bool) (d : Dst) (a : Src)
  /-- CLZ_V (R132): `clz.v`. Counts leading zero bits of a varying value. -/
  | clzV (c : Ctl) (w64 : Bool) (d : Dst) (a : Src)
  /-- CLZ_S (R132): `clz.s`. Counts leading zero bits of a uniform value. -/
  | clzS (c : Ctl) (w64 : Bool) (d : Dst) (a : Src)
  /-- CTZ_V (R132): `ctz.v`. Counts trailing zero bits of a varying value. -/
  | ctzV (c : Ctl) (w64 : Bool) (d : Dst) (a : Src)
  /-- CTZ_S (R132): `ctz.s`. Counts trailing zero bits of a uniform value. -/
  | ctzS (c : Ctl) (w64 : Bool) (d : Dst) (a : Src)
  /-- BGAT_V (R133): `bgat.v`. Builds a varying word from four selected, reversed or constant bytes. -/
  | bgatV (c : Ctl) (d : Dst) (a : Src) (b : Src) (e : Src)
  /-- BGAT_S (R133): `bgat.s`. Builds a uniform word from four selected, reversed or constant bytes. -/
  | bgatS (c : Ctl) (d : Dst) (a : Src) (b : Src) (e : Src)
  /-- CMP_V (R134): `cmp.v`. Compares varying integers and writes two predicates through a combining type. -/
  | cmpV (c : Ctl) (w64 : Bool) (cond : ICond) (cmb : Cmb) (pd : Nat) (pc : Nat) (a : Src) (b : Src)
  /-- CMP_S (R134): `cmp.s`. Compares uniform integers and writes two predicates through a combining type. -/
  | cmpS (c : Ctl) (w64 : Bool) (cond : ICond) (cmb : Cmb) (pd : Nat) (pc : Nat) (a : Src) (b : Src)
  /-- MOV_V (R136): `mov.v`. Copies a varying value. -/
  | movV (c : Ctl) (w64 : Bool) (d : Dst) (a : Src)
  /-- MOV_S (R136): `mov.s`. Copies a uniform value. -/
  | movS (c : Ctl) (w64 : Bool) (d : Dst) (a : Src)
  /-- SEL_V (R136): `sel.v`. Chooses per lane between two values by a predicate. -/
  | selV (c : Ctl) (w64 : Bool) (d : Dst) (a : Src) (b : Src) (p : Nat)
  /-- DIV_V (R126): `div.v`. Divides varying integers with truncation, never faulting. -/
  | divV (c : Ctl) (t : IT) (d : Dst) (a : Src) (b : Src)
  /-- DIV_S (R126): `div.s`. Divides uniform integers with truncation, never faulting. -/
  | divS (c : Ctl) (t : IT) (d : Dst) (a : Src) (b : Src)
  /-- REM_V (R126): `rem.v`. Takes the remainder of varying integers, never faulting. -/
  | remV (c : Ctl) (t : IT) (d : Dst) (a : Src) (b : Src)
  /-- REM_S (R126): `rem.s`. Takes the remainder of uniform integers, never faulting. -/
  | remS (c : Ctl) (t : IT) (d : Dst) (a : Src) (b : Src)
  /-- ADD_A (R137): `add.a`. Adds affine values or an affine and a uniform value into an affine register. -/
  | addA (c : Ctl) (sg : Bool) (bu : Bool) (d : Dst) (a : Src) (b : Src)
  /-- SUB_A (R137): `sub.a`. Subtracts affine values or a uniform value into an affine register. -/
  | subA (c : Ctl) (sg : Bool) (bu : Bool) (d : Dst) (a : Src) (b : Src)
  /-- MUL_A (R137): `mul.a`. Multiplies an affine register by a uniform value. -/
  | mulA (c : Ctl) (sg : Bool) (d : Dst) (a : Src) (b : Src)
  /-- MAD_A (R137): `mad.a`. Multiplies an affine register by a uniform value and adds an affine register. -/
  | madA (c : Ctl) (sg : Bool) (d : Dst) (a : Src) (b : Src) (e : Src)
  /-- SHL_A (R137): `shl.a.b64`. Shifts an affine register's base and stride left. -/
  | shlA (c : Ctl) (d : Dst) (a : Src) (b : Src)
  /-- CMP_A (R138): `cmp.a`. Compares affine lane values and writes predicates. -/
  | cmpA (c : Ctl) (bu : Bool) (cond : ICond) (cmb : Cmb) (pd : Nat) (pc : Nat) (a : Src) (b : Src)
  /-- MOV_A (R137): `mov.a.b64`. Copies an affine register. -/
  | movA (c : Ctl) (d : Dst) (a : Src)
  /-- RAMP_A (R140): `ramp.a.i64`. Builds an affine register from a uniform base and stride. -/
  | rampA (c : Ctl) (d : Dst) (a : Src) (b : Src)
  /-- SPREAD (R139): `spread.v`. Copies a uniform value into every lane of E. -/
  | spread (c : Ctl) (w64 : Bool) (d : Dst) (a : Src)
  /-- MAT (R139): `mat.v`. Writes each lane's affine value into a varying register. -/
  | mat (c : Ctl) (w64 : Bool) (d : Dst) (a : Src)
  /-- AGREE (R141): `agree.s`. Takes the lowest lane's value into a uniform register and reports whether all lanes agree. -/
  | agree (c : Ctl) (w64 : Bool) (d : Dst) (a : Src) (p : Nat)
  /-- FIRST (R141): `first.s`. Takes the lowest lane's value into a uniform register. -/
  | firstLane (c : Ctl) (w64 : Bool) (d : Dst) (a : Src)
  /-- ADD_V_F (R150): `add.v`. Adds varying floats with one rounding. -/
  | addVF (c : Ctl) (t : FT) (sat : Bool) (r : Rnd) (d : Dst) (a : Src) (b : Src)
  /-- SUB_V_F (R150): `sub.v`. Subtracts varying floats with one rounding. -/
  | subVF (c : Ctl) (t : FT) (sat : Bool) (r : Rnd) (d : Dst) (a : Src) (b : Src)
  /-- MUL_V_F (R150): `mul.v`. Multiplies varying floats with one rounding. -/
  | mulVF (c : Ctl) (t : FT) (sat : Bool) (r : Rnd) (d : Dst) (a : Src) (b : Src)
  /-- FMA_V (R150): `fma.v`. Fused multiply-add of varying floats with one rounding. -/
  | fmaV (c : Ctl) (t : FT) (sat : Bool) (r : Rnd) (d : Dst) (a : Src) (b : Src) (e : Src)
  /-- MIN_V_F (R152): `min.v`. IEEE minimum of varying floats. -/
  | minVF (c : Ctl) (t : FT) (d : Dst) (a : Src) (b : Src)
  /-- MAX_V_F (R152): `max.v`. IEEE maximum of varying floats. -/
  | maxVF (c : Ctl) (t : FT) (d : Dst) (a : Src) (b : Src)
  /-- MINNUM_V (R152): `minnum.v`. minimumNumber of varying floats. -/
  | minnumV (c : Ctl) (t : FT) (d : Dst) (a : Src) (b : Src)
  /-- MAXNUM_V (R152): `maxnum.v`. maximumNumber of varying floats. -/
  | maxnumV (c : Ctl) (t : FT) (d : Dst) (a : Src) (b : Src)
  /-- CMP_V_F (R154): `cmp.v`. Compares f32 or f64 varying floats and writes two predicates. -/
  | cmpVF (c : Ctl) (ty : Bool) (cond : FCond) (cmb : Cmb) (pd : Nat) (pc : Nat) (a : Src) (b : Src)
  /-- CMP_V_F16 (R154): `cmp.v`. Compares f16 or bf16 varying floats and writes two predicates. -/
  | cmpVF16 (c : Ctl) (ty : Bool) (cond : FCond) (cmb : Cmb) (pd : Nat) (pc : Nat) (a : Src) (b : Src)
  /-- RND_V (R157): `rnd.v`. Rounds a float to an integral value in the same format. -/
  | rndV (c : Ctl) (t : FT) (r : Rnd) (d : Dst) (a : Src)
  /-- RCP_V (R158): `rcp.v`. Correctly rounded reciprocal of a varying float. -/
  | rcpV (c : Ctl) (t : FT) (r : Rnd) (d : Dst) (a : Src)
  /-- SQRT_V (R158): `sqrt.v`. Correctly rounded square root of a varying float. -/
  | sqrtV (c : Ctl) (t : FT) (r : Rnd) (d : Dst) (a : Src)
  /-- DIV_V_F (R158): `div.v`. Correctly rounded division of varying floats. -/
  | divVF (c : Ctl) (t : FT) (r : Rnd) (d : Dst) (a : Src) (b : Src)
  /-- EX2 (R159): `ex2.v`. Correctly rounded 2^a. -/
  | ex2 (c : Ctl) (half : Bool) (d : Dst) (a : Src)
  /-- LG2 (R159): `lg2.v`. Correctly rounded log2 a. -/
  | lg2 (c : Ctl) (half : Bool) (d : Dst) (a : Src)
  /-- SINPI (R159): `sinpi.v`. Correctly rounded sin(pi a). -/
  | sinpi (c : Ctl) (half : Bool) (d : Dst) (a : Src)
  /-- COSPI (R159): `cospi.v`. Correctly rounded cos(pi a). -/
  | cospi (c : Ctl) (half : Bool) (d : Dst) (a : Src)
  /-- DOT_V (R161): `dot.v.f32.f16`. Sum of two 16-bit products and an f32, rounded once to f32. -/
  | dotV (c : Ctl) (bf : Bool) (r : Rnd) (d : Dst) (a : Src) (b : Src) (e : Src)
  /-- ABS_V_F (R153): `abs.v`. Clears the sign bit of a varying float. -/
  | absVF (c : Ctl) (t : FT) (d : Dst) (a : Src)
  /-- NEG_V_F (R153): `neg.v`. Inverts the sign bit of a varying float. -/
  | negVF (c : Ctl) (t : FT) (d : Dst) (a : Src)
  /-- COPYSIGN_V (R153): `copysign.v`. Replaces the sign bit of A with that of B. -/
  | copysignV (c : Ctl) (t : FT) (d : Dst) (a : Src) (b : Src)
  /-- CLASS (R156): `class.v`. Tests a float's class against a mask into a predicate. -/
  | classV (c : Ctl) (t : FT) (p : Nat) (a : Src) (k : BitVec 10)
  /-- ADD_V_Q (R164): `add.v.q`. Adds packed narrow elements under a format register. -/
  | addVQ (c : Ctl) (sat : Bool) (fm : BitVec 2) (d : Dst) (a : Src) (b : Src)
  /-- SUB_V_Q (R164): `sub.v.q`. Subtracts packed narrow elements under a format register. -/
  | subVQ (c : Ctl) (sat : Bool) (fm : BitVec 2) (d : Dst) (a : Src) (b : Src)
  /-- MUL_V_Q (R164): `mul.v.q`. Multiplies packed narrow elements under a format register. -/
  | mulVQ (c : Ctl) (sat : Bool) (fm : BitVec 2) (d : Dst) (a : Src) (b : Src)
  /-- FMA_V_Q (R164): `fma.v.q`. Fused multiply-add of packed narrow elements. -/
  | fmaVQ (c : Ctl) (sat : Bool) (fm : BitVec 2) (d : Dst) (a : Src) (b : Src) (e : Src)
  /-- MIN_V_Q (R165): `min.v.q`. Minimum of packed narrow elements. -/
  | minVQ (c : Ctl) (fm : BitVec 2) (d : Dst) (a : Src) (b : Src)
  /-- MAX_V_Q (R165): `max.v.q`. Maximum of packed narrow elements. -/
  | maxVQ (c : Ctl) (fm : BitVec 2) (d : Dst) (a : Src) (b : Src)
  /-- DOT_V_Q (R166): `dot.v.f32.q`. Exact dot product of packed narrow elements plus an f32, rounded once. -/
  | dotVQ (c : Ctl) (fm : BitVec 2) (d : Dst) (a : Src) (b : Src) (e : Src)
  /-- ABS_V_Q (R165): `abs.v.q`. Absolute value of packed narrow elements. -/
  | absVQ (c : Ctl) (fm : BitVec 2) (d : Dst) (a : Src)
  /-- NEG_V_Q (R165): `neg.v.q`. Negation of packed narrow elements. -/
  | negVQ (c : Ctl) (fm : BitVec 2) (d : Dst) (a : Src)
  /-- CVT_FLOAT_FLOAT (R167): `cvt.v`. Converts between float types under a rounding mode. -/
  | cvtFloatFloat (c : Ctl) (dt : FT) (st : FT) (r : Rnd) (d : Dst) (a : Src)
  /-- CVT_FLOAT_INT (R168): `cvt.v`. Converts a float to an integer type, saturating with NV. -/
  | cvtFloatInt (c : Ctl) (dt : IT) (st : FT) (r : Rnd) (d : Dst) (a : Src)
  /-- CVT_INT_FLOAT (R169): `cvt.v`. Converts an integer to a float type. -/
  | cvtIntFloat (c : Ctl) (dt : FT) (st : IT) (r : Rnd) (d : Dst) (a : Src)
  /-- CVT_Q_FLOAT (R170): `cvt.v.q`. Rounds a float into one element of a packed word. -/
  | cvtQFloat (c : Ctl) (st : FT) (fm : BitVec 2) (idx : BitVec 3) (d : Dst) (a : Src) (e : Src)
  /-- CVT_FLOAT_Q (R171): `cvt.v.f32.q`. Converts one packed narrow element to a float. -/
  | cvtFloatQ (c : Ctl) (dt : FT) (fm : BitVec 2) (idx : BitVec 3) (d : Dst) (a : Src)
  /-- CVT_NARROW (R172): `cvt.v`. Narrows a 32-bit integer to 16 or 8 bits and extends it. -/
  | cvtNarrow (c : Ctl) (sat : Bool) (un : Bool) (dt : NT) (d : Dst) (a : Src)
  /-- ADD_S_F (R162): `add.s`. Adds uniform floats. -/
  | addSF (c : Ctl) (t : FT) (sat : Bool) (r : Rnd) (d : Dst) (a : Src) (b : Src)
  /-- SUB_S_F (R162): `sub.s`. Subtracts uniform floats. -/
  | subSF (c : Ctl) (t : FT) (sat : Bool) (r : Rnd) (d : Dst) (a : Src) (b : Src)
  /-- MUL_S_F (R162): `mul.s`. Multiplies uniform floats. -/
  | mulSF (c : Ctl) (t : FT) (sat : Bool) (r : Rnd) (d : Dst) (a : Src) (b : Src)
  /-- FMA_S (R162): `fma.s`. Fused multiply-add of uniform floats. -/
  | fmaS (c : Ctl) (t : FT) (sat : Bool) (r : Rnd) (d : Dst) (a : Src) (b : Src) (e : Src)
  /-- MIN_S_F (R162): `min.s`. IEEE minimum of uniform floats. -/
  | minSF (c : Ctl) (t : FT) (d : Dst) (a : Src) (b : Src)
  /-- MAX_S_F (R162): `max.s`. IEEE maximum of uniform floats. -/
  | maxSF (c : Ctl) (t : FT) (d : Dst) (a : Src) (b : Src)
  /-- MINNUM_S (R162): `minnum.s`. minimumNumber of uniform floats. -/
  | minnumS (c : Ctl) (t : FT) (d : Dst) (a : Src) (b : Src)
  /-- MAXNUM_S (R162): `maxnum.s`. maximumNumber of uniform floats. -/
  | maxnumS (c : Ctl) (t : FT) (d : Dst) (a : Src) (b : Src)
  /-- CMP_S_F (R162): `cmp.s`. Compares uniform f32 or f64 values into predicates. -/
  | cmpSF (c : Ctl) (ty : Bool) (cond : FCond) (cmb : Cmb) (pd : Nat) (pc : Nat) (a : Src) (b : Src)
  /-- RCP_S (R162): `rcp.s`. Reciprocal of a uniform float. -/
  | rcpS (c : Ctl) (t : FT) (r : Rnd) (d : Dst) (a : Src)
  /-- SQRT_S (R162): `sqrt.s`. Square root of a uniform float. -/
  | sqrtS (c : Ctl) (t : FT) (r : Rnd) (d : Dst) (a : Src)
  /-- DIV_S_F (R162): `div.s`. Division of uniform floats. -/
  | divSF (c : Ctl) (t : FT) (r : Rnd) (d : Dst) (a : Src) (b : Src)
  /-- ABS_S_F (R162): `abs.s`. Clears the sign bit of a uniform float. -/
  | absSF (c : Ctl) (t : FT) (d : Dst) (a : Src)
  /-- NEG_S_F (R162): `neg.s`. Inverts the sign bit of a uniform float. -/
  | negSF (c : Ctl) (t : FT) (d : Dst) (a : Src)
  /-- COPYSIGN_S (R162): `copysign.s`. Copies a sign onto a uniform float. -/
  | copysignS (c : Ctl) (t : FT) (d : Dst) (a : Src) (b : Src)
  /-- SHFL (R189): `shfl`. Reads A from a lane of E chosen per lane by B. -/
  | shfl (c : Ctl) (w64 : Bool) (md : ShflMode) (d : Dst) (a : Src) (b : Src)
  /-- VOTE_ALL (R190): `vote.all`. Sets a predicate when every lane of E holds 1. -/
  | voteAll (c : Ctl) (pd : Nat) (pa : Nat)
  /-- VOTE_ANY (R190): `vote.any`. Sets a predicate when some lane of E holds 1. -/
  | voteAny (c : Ctl) (pd : Nat) (pa : Nat)
  /-- VOTE_EQ (R190): `vote.eq`. Sets a predicate when every lane of E holds the same bit. -/
  | voteEq (c : Ctl) (pd : Nat) (pa : Nat)
  /-- VOTE_BALLOT (R190): `vote.ballot`. Writes the mask of lanes of E with the predicate set into a uniform register. -/
  | voteBallot (c : Ctl) (d : Dst) (pa : Nat)
  /-- REDUCE_INT (R191): `reduce`. Reduces an integer over the lanes of E into a uniform register. -/
  | reduceInt (c : Ctl) (op : RedOp) (d : Dst) (a : Src)
  /-- REDUCE_FLOAT (R192): `reduce`. Reduces a float over the lanes of E with one rounding into a uniform register. -/
  | reduceFloat (c : Ctl) (f64 : Bool) (op : FRedOp) (d : Dst) (a : Src)
  /-- SCAN_INT (R193): `scan`. Writes each lane the integer prefix combination over E. -/
  | scanInt (c : Ctl) (excl : Bool) (op : RedOp) (d : Dst) (a : Src)
  /-- SCAN_FLOAT (R193): `scan`. Writes each lane the float prefix combination over E. -/
  | scanFloat (c : Ctl) (excl : Bool) (f64 : Bool) (op : FRedOp) (d : Dst) (a : Src)
  /-- MATCH (R194): `match`. Writes each lane the mask of lanes of E with an equal key. -/
  | matchLanes (c : Ctl) (ty : MatchTy) (d : Dst) (a : Src)
  /-- LDG_V (R235): `ldg.v`. Loads global memory into varying registers. -/
  | ldgV (c : Ctl) (fl : Flg) (ac : AC) (m : MemOp) (d : Dst) (a : Src)
  /-- LDG_S (R236): `ldg.s`. Loads global memory once into uniform registers. -/
  | ldgS (c : Ctl) (fl : Flg) (m : MemOp) (d : Dst) (a : Src)
  /-- STG_V (R235): `stg.v`. Stores varying registers to global memory. -/
  | stgV (c : Ctl) (fl : Flg) (ac : AC) (m : MemOp) (a : Src) (b : Src)
  /-- STG_S (R236): `stg.s`. Stores a uniform run to global memory. -/
  | stgS (c : Ctl) (fl : Flg) (ac : AC) (m : MemOp) (a : Src) (b : Src)
  /-- LDTM_V (R235): `ldtm.v`. Loads team memory into varying registers. -/
  | ldtmV (c : Ctl) (fl : Flg) (ac : AC) (m : MemOp) (d : Dst) (a : Src)
  /-- LDTM_S (R236): `ldtm.s`. Loads team memory once into uniform registers. -/
  | ldtmS (c : Ctl) (fl : Flg) (m : MemOp) (d : Dst) (a : Src)
  /-- STTM_V (R235): `sttm.v`. Stores varying registers to team memory. -/
  | sttmV (c : Ctl) (fl : Flg) (ac : AC) (m : MemOp) (a : Src) (b : Src)
  /-- STTM_S (R236): `sttm.s`. Stores a uniform run to team memory. -/
  | sttmS (c : Ctl) (fl : Flg) (ac : AC) (m : MemOp) (a : Src) (b : Src)
  /-- LDC_V (R237): `ldc.v`. Loads grid-constant global data into varying registers. -/
  | ldcV (c : Ctl) (fl : Flg) (ac : AC) (m : MemOp) (d : Dst) (a : Src)
  /-- LDC_S (R237): `ldc.s`. Loads grid-constant global data into uniform registers. -/
  | ldcS (c : Ctl) (fl : Flg) (m : MemOp) (d : Dst) (a : Src)
  /-- STMSK (R239): `stmsk.b32`. Stores the mask-selected bytes of a word at any alignment. -/
  | stmsk (c : Ctl) (fl : Flg) (ac : AC) (m : MemOp) (a : Src) (b : Src) (e : Src)
  /-- ATOM (R242): `atom`. Performs a global atomic at its scope's home and returns the old value. -/
  | atom (c : Ctl) (fl : Flg) (op : AtomOp) (m : AtomFld) (d : Dst) (a : Src) (b : Src) (e : Src)
  /-- RED (R242): `red`. Performs a global reduction at its scope's home, returning nothing. -/
  | red (c : Ctl) (fl : Flg) (op : AtomOp) (m : AtomFld) (a : Src) (b : Src)
  /-- ATOMTM (R242): `atomtm`. Performs a team-memory atomic and returns the old value. -/
  | atomtm (c : Ctl) (fl : Flg) (op : AtomOp) (m : AtomFld) (d : Dst) (a : Src) (b : Src) (e : Src)
  /-- PUBLISH (R243): `publish`. Publishes the group's stores at a scope. -/
  | publish (c : Ctl) (sc : Scope)
  /-- ADOPT (R243): `adopt`. Adopts published stores at a scope. -/
  | adopt (c : Ctl) (sc : Scope)
  /-- FENCE (R243): `fence`. Publishes and then adopts at a scope. -/
  | fence (c : Ctl) (sc : Scope)
  /-- PIN (R253): `pin`. Pins cluster-cache lines for the slice within its quota and returns a status. -/
  | pinLines (c : Ctl) (fl : Flg) (d : Dst) (a : Src) (b : Src)
  /-- UNPIN (R253): `unpin`. Releases pinned lines and returns their number. -/
  | unpinLines (c : Ctl) (fl : Flg) (d : Dst) (a : Src) (b : Src)
  /-- BAR_INIT (R246): `bar.init`. Initialises a barrier object in team memory. -/
  | barInit (c : Ctl) (a : Src) (b : Src)
  /-- BAR_ARRIVE (R246): `bar.arrive`. Publishes and arrives at a barrier once per lane of E. -/
  | barArrive (c : Ctl) (sc : Scope) (a : Src)
  /-- BAR_EXPECT (R246): `bar.expect`. Adds expected bytes to a barrier's current phase. -/
  | barExpect (c : Ctl) (a : Src) (b : Src)
  /-- BAR_WAIT (R246): `bar.wait`. Holds the path until the barrier's phase parity differs from P. -/
  | barWait (c : Ctl) (sc : Scope) (a : Src)
  /-- BAR_TEST (R246): `bar.test`. Writes a predicate saying whether the barrier's phase has moved past P. -/
  | barTest (c : Ctl) (sc : Scope) (p : Nat) (a : Src)
  /-- CHINIT (R249): `chinit`. Initialises a channel ring in team memory. -/
  | chinit (c : Ctl) (ch : Nat) (a : Src) (b : Src)
  /-- CHRES (R249): `chres`. Reserves the next free slot of a channel, holding while none is free. -/
  | chres (c : Ctl) (ch : Nat) (d : Dst)
  /-- CHCOMMIT (R249): `chcommit`. Publishes and commits the oldest reserved slot. -/
  | chcommit (c : Ctl) (sc : Scope) (ch : Nat)
  /-- CHTAKE (R249): `chtake`. Takes the oldest committed slot, holding while none is filled. -/
  | chtake (c : Ctl) (sc : Scope) (ch : Nat) (d : Dst)
  /-- CHFREE (R249): `chfree`. Frees the oldest taken slot. -/
  | chfree (c : Ctl) (ch : Nat)
  /-- CPY_G2T (R250): `cpy.g2t`. Hands a global-to-team copy to the copy engine. -/
  | cpyG2t (c : Ctl) (a : Src) (b : Src) (e : Src) (bar : BitVec 18)
  /-- CPY_T2G (R250): `cpy.t2g`. Hands a team-to-global copy to the copy engine. -/
  | cpyT2g (c : Ctl) (a : Src) (b : Src) (e : Src) (bar : BitVec 18)
  /-- CPY_G2G (R250): `cpy.g2g`. Hands a global-to-global copy to the copy engine. -/
  | cpyG2g (c : Ctl) (a : Src) (b : Src) (e : Src) (bar : BitVec 18)
  /-- CPY_T2T (R250): `cpy.t2t`. Hands a team-to-team copy to the copy engine. -/
  | cpyT2t (c : Ctl) (a : Src) (b : Src) (e : Src) (bar : BitVec 18)
  /-- VGROW (R254): `vgrow`. Raises the group's VCUR up to VMAX, zeroing the new registers. -/
  | vgrow (c : Ctl) (a : Src)
  /-- VSHRINK (R254): `vshrink`. Lowers the group's VCUR, discarding the registers above. -/
  | vshrink (c : Ctl) (a : Src)
  /-- OBRES (R269): `obres`. Sets a reservation record of the operand buffer. -/
  | obres (c : Ctl) (o : Nat) (a : Src)
  /-- OBREL (R269): `obrel`. Clears a reservation record. -/
  | obrel (c : Ctl) (o : Nat)
  /-- OBLD_G (R271): `obld.g`. Copies a reservation's bytes from global memory into the operand buffer. -/
  | obldG (c : Ctl) (o : Nat) (a : Src) (bar : BitVec 18)
  /-- OBLD_TM (R271): `obld.tm`. Copies a reservation's bytes from team memory into the operand buffer. -/
  | obldTm (c : Ctl) (o : Nat) (a : Src) (bar : BitVec 18)
  /-- LDFRAG (R274): `ldfrag`. Loads 8x8 fragments of 16-bit elements from team memory, optionally transposed. -/
  | ldfrag (c : Ctl) (fl : Flg) (un : Bool) (tr : Bool) (cnt : Cnt) (pitch : BitVec 12) (off : BitVec 18) (d : Dst) (a : Src)
  /-- MMA (R275): `mma`. Issues a multiply-accumulate of two reservations into a tile. -/
  | mma (c : Ctl) (fl : Flg) (int : Bool) (k : BitVec 2) (nz : Bool) (ga : BitVec 8) (gb : BitVec 8) (x : Nat) (oa : Nat) (ob : Nat)
  /-- DRAIN_F64 (R284): `drain.f64`. Writes a binary64 tile to global memory as raw patterns. -/
  | drainF64 (c : Ctl) (fl : Flg) (pitch : BitVec 20) (x : Nat) (b : Src)
  /-- DRAIN_Q (R285): `drain.q`. Writes a tile to global memory as blocks through the quantising store. -/
  | drainQ (c : Ctl) (fl : Flg) (fm : BitVec 2) (pitch : BitVec 20) (ltv : Bool) (obn : BitVec 4) (ltn : BitVec 2) (x : Nat) (b : Src)
  /-- DRAIN_I64 (R284): `drain.i64`. Writes an int64 tile to global memory as raw patterns. -/
  | drainI64 (c : Ctl) (fl : Flg) (pitch : BitVec 20) (x : Nat) (b : Src)
  /-- XZERO (R287): `xzero`. Zeroes a tile and its status word. -/
  | xzero (c : Ctl) (x : Nat)
  /-- XSTAT_NAN (R287): `xstat.nan`. Reads a tile's NaN count into a uniform register. -/
  | xstatNan (c : Ctl) (d : Dst) (x : Nat)
  /-- XSTAT_OVF (R287): `xstat.ovf`. Reads a tile's overflow flag into a uniform register. -/
  | xstatOvf (c : Ctl) (d : Dst) (x : Nat)
  /-- XGET (R288): `xget`. Moves a half-row of a tile into a varying register pair. -/
  | xget (c : Ctl) (fl : Flg) (d : Dst) (x : Nat) (b : Src)
  /-- XPUT (R288): `xput`. Moves a varying register pair into a half-row of a tile. -/
  | xput (c : Ctl) (x : Nat) (a : Src) (b : Src)
  /-- CCALL (R304): `ccall`. Publishes and hands reserved call slots of a channel to the router. -/
  | ccall (c : Ctl) (ch : Nat) (b : Src)
  /-- CRECV (R308): `crecv`. Issues a take of the next return record of a channel. -/
  | crecv (c : Ctl) (fl : Flg) (d : Dst) (ch : Nat)
  /-- TOK_WAIT (R319): `tok.wait`. Holds the path until the named token streams are drained. -/
  | tokWait (c : Ctl) (a : Src)
  /-- TOK_READ (R319): `tok.read`. Reads the stall and drained bits of the slice's token streams. -/
  | tokRead (c : Ctl) (d : Dst)
  /-- TOK_RESUME (R320): `tok.resume`. Releases stalled token streams of a slice in one ordered unit. -/
  | tokResume (c : Ctl) (d : Dst) (a : Src) (b : Src)
  /-- CBAR_ARRIVE (R322): `cbar.arrive`. Publishes and arrives at a cluster barrier in global memory. -/
  | cbarArrive (c : Ctl) (sc : Scope) (a : Src)
  /-- CBAR_WAIT (R322): `cbar.wait`. Holds the path until a cluster barrier's phase moves past P. -/
  | cbarWait (c : Ctl) (sc : Scope) (a : Src)
  /-- ENQ (R393): `enq`. Publishes and appends a task entry to a bound work queue, returning a status. -/
  | enq (c : Ctl) (fl : Flg) (d : Dst) (a : Src) (b : Src)
  /-- LAUNCH (R394): `launch`. Publishes and hands a grid straight to the die's scheduler. -/
  | launchGrid (c : Ctl) (fl : Flg) (d : Dst) (a : Src) (b : Src)
  /-- WAITV (R405): `waitv`. Holds the path until a memory word meets a condition or a timeout passes. -/
  | waitv (c : Ctl) (cond : WCond) (p : Nat) (a : Src) (b : Src) (e : Src)
  /-- SETDL (R404): `setdl`. Sets the issuing team's deadline. -/
  | setdl (c : Ctl) (a : Src)
  /-- GETSR (R408): `getsr`. Reads a special register into a uniform register under its views. -/
  | getsr (c : Ctl) (d : Dst) (n : BitVec 12)
  /-- SETSR (R408): `setsr`. Writes a special register under its views at the end of the issue cycle. -/
  | setsr (c : Ctl) (n : BitVec 12) (a : Src)
  /-- TLBINV_ASID (R416): `tlbinv.asid`. Discards every stage-1 translation of an ASID of a slice. -/
  | tlbinvAsid (c : Ctl) (a : Src)
  /-- TLBINV_PAGE (R416): `tlbinv.page`. Discards translations covering one address at stage 1 or stage 2. -/
  | tlbinvPage (c : Ctl) (a : Src) (b : Src)
  /-- TLBINV_SLICE (R416): `tlbinv.slice`. Discards every translation of a slice. -/
  | tlbinvSlice (c : Ctl) (a : Src)
  /-- XLAT (R417): `xlat`. Probes a translation without faulting and writes the result. -/
  | xlat (c : Ctl) (fl : Flg) (d : Dst) (a : Src) (b : Src)
  /-- DBG_STOP (R423): `dbg.stop`. Stops a team, writes back its image and optionally claims BREAK. -/
  | dbgStop (c : Ctl) (d : Dst) (a : Src)
  /-- DBG_RESUME (R423): `dbg.resume`. Resumes sub-groups held by a claimed break and returns the team to ranking. -/
  | dbgResume (c : Ctl) (d : Dst) (a : Src)
  /-- DBG_RD (R423): `dbg.rd`. Reads a word of a stopped team's image. -/
  | dbgRd (c : Ctl) (file : BitVec 4) (r : BitVec 8) (d : Dst) (a : Src)
  /-- DBG_WR (R424): `dbg.wr`. Writes a word of a stopped team's image unless a completion is pending. -/
  | dbgWr (c : Ctl) (file : BitVec 4) (r : BitVec 8) (d : Dst) (a : Src) (b : Src)
  /-- DBG_WR_FORCE (R424): `dbg.wr.force`. Writes a word of a stopped team's image, discarding a pending completion not yet in delivery. -/
  | dbgWrForce (c : Ctl) (file : BitVec 4) (r : BitVec 8) (d : Dst) (a : Src) (b : Src)
  /-- DBG_ACT_RESUME (R425): `dbg.act`. Resumes a held sub-group as hret by all its lanes would. -/
  | dbgActResume (c : Ctl) (d : Dst) (a : Src) (b : Src)
  /-- DBG_ACT_EXIT (R425): `dbg.act`. Makes every lane of a held sub-group exited. -/
  | dbgActExit (c : Ctl) (d : Dst) (a : Src) (b : Src)
  /-- ENDGRID (R425): `dbg.act`. Ends a team's grid as a failed grid. -/
  | endgrid (c : Ctl) (d : Dst) (a : Src) (b : Src)
  /-- COLL_ALLREDUCE (R467): `coll.allreduce`. Publishes and starts an all-reduce across a collective group. -/
  | collAllreduce (c : Ctl) (fl : Flg) (d : Dst) (a : Src)
  /-- COLL_ALLGATHER (R467): `coll.allgather`. Publishes and starts an all-gather across a collective group. -/
  | collAllgather (c : Ctl) (fl : Flg) (d : Dst) (a : Src)
  /-- COLL_REDSCAT (R467): `coll.redscat`. Publishes and starts a reduce-scatter across a collective group. -/
  | collRedscat (c : Ctl) (fl : Flg) (d : Dst) (a : Src)
  /-- COLL_BCAST (R467): `coll.bcast`. Publishes and starts a broadcast across a collective group. -/
  | collBcast (c : Ctl) (fl : Flg) (d : Dst) (a : Src)
  /-- CLAUSE_START (R25): A path starts a clause once every flag in WAIT is clear and the header's form check passes. -/
  | clauseStart (t : Nat) (g : Nat) (m : Mask)
  /-- REJOIN_RELEASE (R180): When a mask's release condition holds at the end of a cycle, every lane waiting on it is released and the states merge. -/
  | rejoinRelease (t : Nat) (g : Nat) (j : Nat)
  /-- REJOIN_TIMEOUT (R181): A bounded wait whose deadline has passed without release ends with the predicate set to 1. -/
  | rejoinTimeout (t : Nat) (g : Nat)
  /-- REJOIN_DEADLOCK (R182): When no lane runs and no waiting lane can be released or time out, the waiting lanes park with REJOIN_DEADLOCK. -/
  | rejoinDeadlock (t : Nat) (g : Nat)
  /-- BAR_WAIT_COMPLETE (R246): A path holding in bar.wait completes when the phase has moved on, observing the phase's completion. -/
  | barWaitComplete (t : Nat) (g : Nat) (h : Nat)
  /-- CHRES_GRANT (R249): A path holding in chres is granted a slot once one is free, in reservation order. -/
  | chresGrant (t : Nat) (g : Nat) (h : Nat)
  /-- CHTAKE_GRANT (R249): A path holding in chtake takes a filled slot, adopting the commit. -/
  | chtakeGrant (t : Nat) (g : Nat) (h : Nat)
  /-- ENGINE_BYTE_COUNT (R247): An engine writes bytes of its operation and counts them into the bound barrier. -/
  | engineByteCount (op : Nat) (off : Nat) (n : Nat)
  /-- ACCESS_CHECK (R256): The late translation and permission check of an access ends, possibly finding MEM_XLATE or MEM_PERM. -/
  | accessCheck (op : Nat)
  /-- LATE_FAULT_PARK (R259): A lane with a late fault parks at its consumer clause header with a replay record. -/
  | lateFaultPark (t : Nat) (g : Nat)
  /-- POISON_FOUND (R263): A load or atomic meets poisoned data, writes 0 and marks the lane. -/
  | poisonFound (op : Nat)
  /-- POISON_PARK (R263): A marked lane parks with MEM_POISON at the first clause that waits on the flag or holds exit. -/
  | poisonPark (t : Nat) (g : Nat)
  /-- LOAD_COMPLETION (R233): A load's data is written to its destination and its flag falls. -/
  | loadCompletion (op : Nat) (asOf : Nat)
  /-- STORE_COMPLETION (R233): A store enters co(x) for each byte and its flag falls. -/
  | storeCompletion (op : Nat)
  /-- ATOMIC_COMPLETION (R233): An atomic's reply is written and its flag falls. -/
  | atomicCompletion (op : Nat)
  /-- REDUCTION_COMPLETION (R233): A reduction is performed at its home and its flag falls. -/
  | reductionCompletion (op : Nat)
  /-- PIN_COMPLETION (R233): A pin or unpin status is written and its flag falls. -/
  | pinCompletion (op : Nat)
  /-- MMA_ACCUMULATE (R278): The engine checks every header, then accumulates the product group by group into the tile. -/
  | mmaAccumulate (op : Nat)
  /-- DRAIN_COMPLETION (R286): Every byte of a drain has entered co(x); the bytes join the group's order and the flag falls. -/
  | drainCompletion (op : Nat)
  /-- ROUTER_DISPATCH (R305): The router reserves a return slot and dispatches a channel's head record to a unit, or discards a failed head. -/
  | routerDispatch (t : Nat) (ch : Nat)
  /-- CRECV_TAKE (R308): A pending crecv takes a committed return slot, adopts the call's stores and writes the slot address. -/
  | crecvTake (op : Nat)
  /-- TOK_WAIT_DRAINED (R319): A path holding in tok.wait completes once its streams are drained, adopting their commits. -/
  | tokWaitDrained (t : Nat) (g : Nat) (h : Nat)
  /-- CBAR_WAIT_COMPLETE (R322): A path holding in cbar.wait completes once the phase has moved, acquiring the counted stores. -/
  | cbarWaitComplete (t : Nat) (g : Nat) (h : Nat)
  /-- QUEUE_DEPTH_EXCHANGE (R323): Every 4,096 cluster cycles a cluster sends its depths and pushes best-effort entries to a shallower neighbour. -/
  | queueDepthExchange (cl : Nat)
  /-- BINNER_CALL (R333): The binner bins a mesh batch into the pool's tile lists and assigns tokens. -/
  | binnerCall (call : Nat)
  /-- RASTERISER_CALL (R340): The rasteriser writes a region's coverage map and the depth plane. -/
  | rasteriserCall (call : Nat)
  /-- STREAM_BIND (R341): Binds a token stream of a depth-stencil unit or blender to a target and clears its chain states. -/
  | streamBind (call : Nat)
  /-- STREAM_CLEAR (R341): Sets every chain state of a bound stream to none. -/
  | streamClear (call : Nat)
  /-- DEPTH_STENCIL_COMMIT (R346): An ordered depth-stencil record commits, testing and updating every covered sample. -/
  | depthStencilCommit (call : Nat)
  /-- BLEND_COMMIT (R350): An ordered blender record commits, blending every covered sample. -/
  | blendCommit (call : Nat)
  /-- TESSELLATOR_CALL (R355): The tessellator writes a patch's points and primitives. -/
  | tessellatorCall (call : Nat)
  /-- TEXTURE_CALL (R364): The texture filter samples and filters a texture for every lane of the record. -/
  | textureCall (call : Nat)
  /-- TRACE (R375): The traversal unit starts or resumes each lane's ray and runs traversal steps. -/
  | traceRays (call : Nat)
  /-- VERDICT (R376): The traversal unit applies each lane's verdict to an awaiting ray and runs steps. -/
  | verdict (call : Nat)
  /-- ENCODER_CONFIG (R439): An encoder lane writes a fresh session into a state area. -/
  | encoderConfig (call : Nat)
  /-- ENCODER_ENCODE (R439): An encoder lane encodes one frame into an access unit. -/
  | encoderEncode (call : Nat)
  /-- WAITV_TEST (R405): A waiting waitv tests its word on a store to its line, at restore or periodically, ending when the condition holds. -/
  | waitvTest (t : Nat) (g : Nat) (h : Nat)
  /-- WAITV_TIMEOUT (R405): A waitv whose deadline passes ends with the predicate set to 1. -/
  | waitvTimeout (t : Nat) (g : Nat) (h : Nat)
  /-- QUEUE_TAKE (R391): The scheduler takes a queue's head entry and turns the grid into team tasks. -/
  | queueTake (sl : Nat) (qid : Nat)
  /-- BEST_EFFORT_FILL (R397): The scheduler takes a best-effort grid and places its teams in cluster task lists. -/
  | bestEffortFill (sl : Nat) (die : Nat)
  /-- TEAM_ADMIT (R398): A core with room admits the best-ranked waiting task and restores its image. -/
  | teamAdmit (sl : Nat) (die : Nat)
  /-- TEAM_PREEMPT (R400): The scheduler chooses victims and suspends them to make room for a better-ranked task. -/
  | teamPreempt (sl : Nat) (die : Nat)
  /-- REGISTER_CACHE_ALLOCATE (R209): The register cache allocates a line, evicting and writing back a victim. -/
  | registerCacheAllocate (core : Nat) (t : Nat) (line : Nat)
  /-- DISPLAY_TRIGGER (R403): A display grid unfinished at its trigger tick counts a miss and may launch a fallback grid. -/
  | displayTrigger (gr : Nat)
  /-- IDLE_SWAP (R407): A team idle for WAIT_TH ticks is suspended whole. -/
  | idleSwap (t : Nat)
  /-- TEAM_WAKE (R407): An idle team is woken by a store, a delivery, a deadline or 16 x WAIT_TH ticks. -/
  | teamWake (t : Nat)
  /-- FAULT_RECORD_DELIVERY (R420): A source writes its next fault record into its slice's ring and raises FR_TAIL. -/
  | faultRecordDelivery (sl : Nat) (die : Nat) (kind : Nat) (src : Nat)
  /-- COLLECTIVE_COMPLETION (R470): A collective completes, writing its DST and status and adopting at .dom. -/
  | collectiveCompletion (op : Nat)
  /-- REMOTE_REQUEST (R460): An owning package checks a remote access against its export table and performs or refuses it. -/
  | remoteRequest (id : Nat)
  /-- REMOTE_TIMEOUT (R463): A remote request unanswered within TIMEOUT is lost and ends as poison or a fault record. `op` names a part of an
operation: 2^64 times its number, and the part. -/
  | remoteTimeout (op : Nat)
  /-- FLIT_CRC_FAIL (R457): A flit that fails its link CRC is sent again. -/
  | flitCrcFail (port : Nat)
  /-- PORT_LANE_LOSS (R457): A port that loses lanes continues on the rest. -/
  | portLaneLoss (port : Nat) (lanes : Nat)
  /-- PORT_UP_CHANGE (R473): A Mirane port trains or goes down, changing DOM_PORTn.UP and reachability. -/
  | portUpChange (port : Nat) (up : Bool) (lanes : Nat) (peer : Nat)
  /-- CMD_TAIL (R432): A doorbell write makes the command processor examine the slot at CMD_HEAD. -/
  | cmdTail (sl : Nat) (v : Word)
  /-- LAUNCH_CMD (R433): Appends a task entry to a queue of the ring's slice and completes when the grid ends. -/
  | launchCmd (sl : Nat)
  /-- WRITE32 (R433): Performs one 32-bit store for the command ring. -/
  | write32 (sl : Nat)
  /-- WAIT32 (R433): Waits until a 32-bit word meets a condition. -/
  | wait32 (sl : Nat)
  /-- WAIT32_SATISFIED (R433): A test finds a WAIT32's condition and the command completes. -/
  | wait32Satisfied (sl : Nat) (n : Nat)
  /-- NOP_CMD (R433): A ring command that completes at once. -/
  | nopCmd (sl : Nat)
  /-- BIND (R435): Binds a queue to a slice and writes its privileged queue table entry. -/
  | bindQueue
  /-- UNBIND (R435): Unbinds a queue. -/
  | unbindQueue
  /-- RESHAPE (R438): Sets the resource sets of one slice, suspending, flushing and zeroing as needed. -/
  | reshape
  /-- LEASE (R441): Lends one core's matrix engine to a core of another slice in the same cluster. -/
  | lease
  /-- LEASE_END (R441): Ends a matrix engine loan at the next operation boundary. -/
  | leaseEnd
  /-- LEASE_TERM_EXPIRY (R441): A lease ends when the die counter passes its start plus TERM. -/
  | leaseTermExpiry (core : Nat)
  /-- COLLGRP (R470): Sets up a collective group on the package. -/
  | collgrp
  /-- REMAP (R472): Installs a forwarding entry for a moved range on every member. -/
  | remap
  /-- UNREMAP (R472): Removes a forwarding entry on every member. -/
  | unremap
  /-- SLICE_RESET (R442): Writing SLICE_CTL.RESET starts a slice reset that discards the slice's work and state. -/
  | sliceReset (sl : Nat)
  /-- SLICE_RESET_DONE (R442): A slice reset completes and RESETTING clears. -/
  | sliceResetDone (sl : Nat)
  /-- SLICE_FREEZE (R444): Setting FREEZE stops the slice, suspends its teams and holds others' accesses to its channels. -/
  | sliceFreeze (sl : Nat)
  /-- FREEZE_COMPLETE (R444): FROZEN is set once every image is written back and every operation of the slice has completed. -/
  | freezeComplete (sl : Nat)
  /-- SLICE_THAW (R444): Clearing FREEZE thaws the slice and performs held accesses. -/
  | sliceThaw (sl : Nat)
  /-- VF_FLR (R447): A VF function-level reset performs the slice reset. -/
  | vfFlr (sl : Nat)
  /-- PF_FLR (R447): A PF function-level reset resets every slice and the package registers. -/
  | pfFlr
  /-- DEVICE_RESET (R451): Device reset clears the measurement registers and runs the secure boot chain. -/
  | deviceReset
  /-- GET_VERSION (R454): SPDM GET_VERSION request over DOE. -/
  | getVersion (req : List Byte)
  /-- GET_CAPABILITIES (R454): SPDM GET_CAPABILITIES request over DOE. -/
  | getCapabilities (req : List Byte)
  /-- NEGOTIATE_ALGORITHMS (R454): SPDM NEGOTIATE_ALGORITHMS request over DOE. -/
  | negotiateAlgorithms (req : List Byte)
  /-- GET_DIGESTS (R454): SPDM GET_DIGESTS request over DOE. -/
  | getDigests (req : List Byte)
  /-- GET_CERTIFICATE (R454): SPDM GET_CERTIFICATE request over DOE. -/
  | getCertificate (req : List Byte)
  /-- CHALLENGE (R454): SPDM CHALLENGE request over DOE. -/
  | challenge (req : List Byte)
  /-- GET_MEASUREMENTS (R454): Returns measurement blocks read at a single instant. -/
  | getMeasurements (blocks : List Nat)
  /-- UNSUPPORTED_REQUEST (R454): Any other SPDM request returns ERROR UnsupportedRequest. -/
  | unsupportedRequest (req : List Byte)
  /-- MR_EXTEND (R453): A write of INDEX 5-7 starts an extend of that MR with MR_DATA, or sets ERR for 0-4. -/
  | mrExtend (ix : BitVec 3)
  /-- MR_EXTEND_DONE (R453): An extend of a measurement register completes and BUSY clears. -/
  | mrExtendDone
  /-- MEM_CRC_ERROR (R449): A GDDR 7 CRC error is retried, and the channel retrains if retries fail. -/
  | memCrcError (ch : Nat) (retries : Nat)
  /-- CHANNEL_RETRAIN (R449): A channel retrains, and three failures in a row set FAILED. -/
  | channelRetrain (ch : Nat) (ok : Bool)
  /-- CORRECTED_ERROR (R450): A corrected error raises CECNT. -/
  | correctedError (ch : Nat)
  /-- UNCORRECTABLE_ERROR (R450): An uncorrectable error poisons its sector and raises UECNT. -/
  | uncorrectableError (pa : Nat)
  /-- PATROL_SCRUB (R449): The patrol scrub reads every sector of every channel once each 24 hours. -/
  | patrolScrub (ch : Nat) (ce : Nat) (ue : List Nat)
  /-- POWER_WINDOW (R456): At the end of each 10 ms window the clock target moves by 100 MHz against the cap. -/
  | powerWindow (watts : Nat)
  /-- DROOP_STRETCH (R455): A supply sag stretches a cluster's clock periods and raises DROOP_CNT. -/
  | droopStretch (cl : Nat)
  /-- DROOP_RELEASE (R455): The supply recovers and the stretch ends. -/
  | droopRelease (cl : Nat)
  /-- FMT_WRITE (R83): A write to FMT0-FMT3 recomputes VALID and EW, checked under R75. -/
  | fmtWrite (n : BitVec 2) (v : Word)
  /-- FP_CTL_WRITE (R146): A write to the state's trap enables, checked under R75. -/
  | fpCtlWrite (v : Word)
  /-- FP_STATUS_CLEAR (R149): W1C write to FP_STATUS, merged with same-cycle raises. -/
  | fpStatusClear (v : Word)
  /-- PIN_QUOTA_WRITE (R216): A write to PIN_QUOTA.LINES is clamped to the slice's ways. -/
  | pinQuotaWrite (sl : Nat) (cl : Nat) (v : Word)
  /-- CL_REORDER_WRITE (R324): A reorder quota write takes the largest value keeping the sum within 1,024. -/
  | clReorderWrite (sl : Nat) (cl : Nat) (v : Word)
  /-- CL_WAYS_WRITE (R324): A way count write, ignored if it removes a pinned way, writing back removed ways. -/
  | clWaysWrite (sl : Nat) (cl : Nat) (v : Word)
  /-- FR_HEAD_WRITE (R421): Frees fault records, ignored if it would pass undelivered records. -/
  | frHeadWrite (sl : Nat) (die : Nat) (v : Word)
  /-- FR_BASE_WRITE (R420): Setting a nonzero ring base lets held fault records be delivered. -/
  | frBaseWrite (sl : Nat) (die : Nat) (hi : Bool) (v : Word)
  /-- FR_TAIL_READ (R420): A getsr of FR_TAIL is an adopt at .slc joined to the record publications. -/
  | frTailRead (d : Dst)
  /-- CMD_CTL_WRITE (R429): A write that sets EN also resets CMD_HEAD to 0. -/
  | cmdCtlWrite (sl : Nat) (v : Word)
  /-- MEM_STAT_CLEAR (R445): W1C write to the selected channel's corrected-error count. -/
  | memStatClear (v : Word)
  /-- PWR_CAP_WRITE (R445): A power cap write clamped to 300-1,800 W. -/
  | pwrCapWrite (v : Word)
  /-- DOM_CTL_WRITE (R473): Sets fabric enable and timeout, a zero timeout taking 1. -/
  | domCtlWrite (v : Word)
  /-- DOM_EXPCNT_WRITE (R473): Sets the export table entry count, clamped to 4,096. -/
  | domExpcntWrite (v : Word)
  /-- MEM_SEL_WRITE (R445): Selects the reported channel, values above 191 reading as 191. -/
  | memSelWrite (v : Word)
  /-- REGISTER_WRITE (R9): A write to a register field with no behaviour of its own, under its access code. -/
  | registerWrite (x : RegPlace) (priv : Bool) (n : BitVec 12) (v : Word)
  /-- ENQ_COMPLETION (R393): The enq operation reads its entry, appends to the queue or fails, writes its status to S[d] and its flag falls. -/
  | enqCompletion (op : Nat)
  /-- LAUNCH_COMPLETION (R394): The launch operation reads image 0's header, makes the grid pending or refuses it, writes S[d] and its flag falls. -/
  | launchCompletion (op : Nat)
  /-- XLAT_COMPLETION (R417): The probe walk of an xlat ends, its result is written to the pair D and its flag falls. -/
  | xlatCompletion (op : Nat)
  /-- TRANSIT_ENTRY_RECEIVED (R323): A best-effort entry pushed by the queue-depth exchange is received by the neighbour cluster and leaves the sender's depth. -/
  | transitEntryReceived (gr : Nat) (k : Nat)
deriving DecidableEq, Repr

end Sys2Proof
end

