-- ==== Sys2Proof/WellFormed.lean ====
section
/-!
DEFINITION. Which instructions the encoding tables admit: the register codes, runs, immediates, modifiers and restrictions whose breach
raises ILLEGAL_OP under order 2 of R28 (spec/01 R16-R18, R20, R21; spec/02 R47-R65 and the entries they name).
-/
namespace Sys2Proof

/-- R18: GP = 15 with GN = 1 is illegal. -/
def Ctl.ok (c : Ctl) : Bool := !(c.gp == 15#4 && c.gn)

/-- A run of `k` registers named by its first code `n`, within a class of `hi` registers (R48). -/
def runOk (hi k n : Nat) : Bool := n % k == 0 && decide (n + k ≤ hi)

/-- A varying, uniform or affine destination (R16, R48). -/
def Dst.okV (k : Nat) : Dst → Bool
  | .reg n => runOk 256 k n
  | .discard => true
/-- A uniform destination: s0-s127 (R16). -/
def Dst.okU (k : Nat) : Dst → Bool
  | .reg n => runOk 128 k n
  | .discard => true
/-- An affine destination: a0-a63; LANE is read-only (R16). -/
def Dst.okA : Dst → Bool
  | .reg n => decide (n < 64)
  | .discard => true

/-- A varying source (R16, R48). -/
def Src.okV (k : Nat) : Src → Bool
  | .reg n => runOk 256 k n
  | .imm _ | .zero => true
  | .lane | .sys _ => false
/-- A uniform source: s0-s127, or the assigned system values 0-9 (R16, R86). -/
def Src.okU (k : Nat) : Src → Bool
  | .reg n => runOk 128 k n
  | .sys n => runOk 10 k n
  | .imm _ | .zero => true
  | .lane => false
/-- An affine source (R16). -/
def Src.okA : Src → Bool
  | .reg n => decide (n < 64)
  | .lane | .imm _ | .zero => true
  | .sys _ => false

/-- No source of an opcode with extended fields is coded 510 (R17). -/
def Src.noImm : Src → Bool
  | .imm _ => false
  | _ => true

/-- R17: an immediate of a 16-bit float type has IMM[31:16] = 0. -/
def Src.imm16 (narrow : Bool) : Src → Bool
  | .imm v => !narrow || v.toNat < 65536
  | _ => true

/-- An entry that fixes IMM to zero leaves a source coded 510 only the value zero (R253, R322, R417). -/
def Src.immZero : Src → Bool
  | .imm v => v == 0#32
  | _ => true

/-- Several sources coded 510 read the same IMM (R17). -/
def sameImm : List Src → Bool
  | [] => true
  | .imm v :: rest => rest.all fun a => match a with
    | .imm w => v == w
    | _ => true
  | _ :: rest => sameImm rest

def IT.wide : IT → Bool
  | .i64 | .n64 => true
  | .i32 | .n32 => false
def IT.signed : IT → Bool
  | .i32 | .i64 => true
  | .n32 | .n64 => false
/-- Registers of an operand of the type (R48). -/
def IT.k (t : IT) : Nat := if t.wide then 2 else 1
def FT.k : FT → Nat
  | .f64 => 2
  | _ => 1
def FT.narrow : FT → Bool
  | .f16 | .bf16 => true
  | _ => false
/-- Registers of a 32- or 64-bit operand. -/
def kOf (w64 : Bool) : Nat := if w64 then 2 else 1

def Cnt.num : Cnt → Nat
  | .x1 => 1
  | .x2 => 2
  | .x4 => 4
def MTy.bytes : MTy → Nat
  | .n8 | .i8 => 1
  | .n16 | .i16 => 2
  | .b32 => 4
  | .b64 => 8
/-- The data run of R61: (type bits x count) / 32 registers, rounded up to 1. -/
def MemOp.run (m : MemOp) : Nat :=
  match m.ty with
  | .b32 => m.cnt.num
  | .b64 => 2 * m.cnt.num
  | _ => 1
/-- A count other than x1 requires b32 or b64 (R61). -/
def MemOp.ok (m : MemOp) : Bool := m.cnt == .x1 || m.ty == .b32 || m.ty == .b64
/-- Stores accept data types 0, 2, 4 and 5 only (R61). -/
def MemOp.okStore (m : MemOp) : Bool := m.ok && m.ty != .i8 && m.ty != .i16
/-- Team forms have cache policy 0 (R234). -/
def MemOp.okTeam (m : MemOp) : Bool := m.pol == .dflt

/-- A global base of class AC (R61); no source of these opcodes is coded 510. -/
def baseG (ac : AC) (a : Src) : Bool :=
  a.noImm && match ac with
    | .aff => a.okA
    | .var => a.okV 2
    | .uni => a.okU 2
/-- A team base of class AC (R61). -/
def baseT (ac : AC) (a : Src) : Bool :=
  a.noImm && match ac with
    | .aff => a.okA
    | .var => a.okV 1
    | .uni => a.okU 1

/-- R134: D and C naming the same predicate, other than p15, is illegal. -/
def predsOk (pd pc : Nat) : Bool := decide (pd < 16) && decide (pc < 16) && (pd != pc || pd == 15)

/-- The special-register numbers that name a register (R64; R87, R146, R147, R216, R290, R324, R409, R421, R429, R445, R473). -/
def srAssigned (n : Nat) : Bool :=
  n ∈ [0x000, 0x001, 0x002, 0x004, 0x005, 0x006, 0x007, 0x008, 0x00C, 0x00D, 0x010, 0x011, 0x012, 0x013, 0x020, 0x021, 0x022,
    0x100, 0x101, 0x120, 0x121, 0x122, 0x128, 0x200, 0x201, 0x202, 0x203, 0x300, 0x301, 0x302, 0x303, 0x304, 0x308, 0x30A, 0x30B,
    0x30C, 0x400, 0x401, 0x402, 0x403, 0x404, 0x405, 0x410, 0x411, 0x412, 0x420, 0x421, 0x422, 0x423, 0x424, 0x500, 0x501, 0x502,
    0x504, 0x505, 0x506, 0x507, 0x508, 0x509, 0x50C, 0x50D, 0x50E, 0x50F, 0x510, 0x511, 0x600, 0x610, 0x618, 0x619, 0x61A, 0x620,
    0x621, 0x622, 0x700, 0x701, 0x702, 0x703, 0x704, 0x705]
  || (decide (0x608 ≤ n) && decide (n ≤ 0x60F)) || (decide (0x710 ≤ n) && decide (n ≤ 0x71F))

/-- R422: the register files a debugger names, and the last register of each. -/
def dbgFileOk (file r : Nat) : Bool :=
  match file with
  | 0 => decide (r ≤ 255)
  | 1 => decide (r ≤ 127)
  | 2 | 3 | 4 => decide (r ≤ 63)
  | 5 => decide (r ≤ 14)
  | 6 => decide (r ≤ 7)
  | 7 => decide (r ≤ 11)
  | _ => false

/-- Two- and three-operand shapes shared by many rows. -/
def vv (k : Nat) (d : Dst) (a b : Src) : Bool := d.okV k && a.okV k && b.okV k && sameImm [a, b]
def uu (k : Nat) (d : Dst) (a b : Src) : Bool := d.okU k && a.okU k && b.okU k && sameImm [a, b]
def vvv (k : Nat) (d : Dst) (a b e : Src) : Bool := d.okV k && a.okV k && b.okV k && e.okV k && sameImm [a, b, e]
def uuu (k : Nat) (d : Dst) (a b e : Src) : Bool := d.okU k && a.okU k && b.okU k && e.okU k && sameImm [a, b, e]
/-- Float shapes: the same, with R17's condition on 16-bit immediates. -/
def fvv (t : FT) (d : Dst) (a b : Src) : Bool := vv t.k d a b && a.imm16 t.narrow && b.imm16 t.narrow
def fuu (t : FT) (d : Dst) (a b : Src) : Bool := uu t.k d a b && a.imm16 t.narrow && b.imm16 t.narrow
def fvvv (t : FT) (d : Dst) (a b e : Src) : Bool :=
  vvv t.k d a b e && a.imm16 t.narrow && b.imm16 t.narrow && e.imm16 t.narrow
def fuuu (t : FT) (d : Dst) (a b e : Src) : Bool :=
  uuu t.k d a b e && a.imm16 t.narrow && b.imm16 t.narrow && e.imm16 t.narrow
def fv (t : FT) (d : Dst) (a : Src) : Bool := d.okV t.k && a.okV t.k && a.imm16 t.narrow
def fu (t : FT) (d : Dst) (a : Src) : Bool := d.okU t.k && a.okU t.k && a.imm16 t.narrow
/-- A compare of two operands of `k` registers, varying or uniform. -/
def cmpOk (okSrc : Src → Bool) (pd pc : Nat) (a b : Src) : Bool :=
  predsOk pd pc && okSrc a && okSrc b && sameImm [a, b]

/-- The instruction is one its encoding table admits. A row that is not an instruction word is not well formed as one. R17 has no row for an immediate
of a packed operand (a `q` word, two 16-bit elements of `dot`): all 32 bits of IMM are the operand, under no condition (DESIGN CHOICE, log 47). -/
def Instr.wellFormed : Instr → Bool
  | .nop c | .exit c | .yieldPath c | .hret c => c.ok
  | .bra c imm => c.ok && imm.toNat % 4 == 0
  | .brxV c a => c.ok && a.okV 2
  | .brxS c a => c.ok && a.okU 2
  | .call c d imm => c.ok && d.okV 2 && imm.toNat % 4 == 0
  | .callIndirect c d a => c.ok && d.okV 2 && a.okV 2
  | .ret c a => c.ok && a.okV 2
  | .jset c j | .jadd c j | .jsub c j | .rejoin c j => c.ok && decide (j < 8)
  | .jget c d j => c.ok && d.okU 1 && decide (j < 8)
  | .jput c j a => c.ok && decide (j < 8) && a.okU 1
  | .rejoinTmo c p j b => c.ok && decide (p < 16) && decide (j < 8) && b.okU 1
  | .brk c _ | .trap c _ => c.ok
  | .addV c t _ d a b | .subV c t _ d a b | .mulV c t _ d a b => c.ok && vv t.k d a b
  | .addS c t _ d a b | .subS c t _ d a b | .mulS c t _ d a b => c.ok && uu t.k d a b
  | .madV c t d a b e => c.ok && vvv t.k d a b e
  | .madS c t d a b e => c.ok && uuu t.k d a b e
  | .addcV c t d a b p | .subcV c t d a b p => c.ok && vv t.k d a b && decide (p < 16)
  | .minV c t d a b | .maxV c t d a b | .divV c t d a b | .remV c t d a b => c.ok && vv t.k d a b
  | .minS c t d a b | .maxS c t d a b | .divS c t d a b | .remS c t d a b => c.ok && uu t.k d a b
  | .absV c w d a | .negV c w d a | .notV c w d a | .movV c w d a => c.ok && d.okV (kOf w) && a.okV (kOf w)
  | .absS c w d a | .negS c w d a | .notS c w d a | .movS c w d a => c.ok && d.okU (kOf w) && a.okU (kOf w)
  | .andV c w d a b | .orV c w d a b | .xorV c w d a b | .andnV c w d a b | .ornV c w d a b | .xnorV c w d a b =>
    c.ok && vv (kOf w) d a b
  | .andS c w d a b | .orS c w d a b | .xorS c w d a b | .andnS c w d a b | .ornS c w d a b | .xnorS c w d a b =>
    c.ok && uu (kOf w) d a b
  | .shlV c w d a b | .shrV c w d a b | .sarV c w d a b =>
    c.ok && d.okV (kOf w) && a.okV (kOf w) && b.okV 1 && sameImm [a, b]
  | .shlS c w d a b | .shrS c w d a b | .sarS c w d a b =>
    c.ok && d.okU (kOf w) && a.okU (kOf w) && b.okU 1 && sameImm [a, b]
  | .shfV c _ _ d a b e | .bfeV c _ d a b e => c.ok && vvv 1 d a b e
  | .shfS c _ _ d a b e | .bfeS c _ d a b e => c.ok && uuu 1 d a b e
  | .bfiV c d a b e | .bgatV c d a b e => c.ok && vvv 1 d a b e
  | .bfiS c d a b e | .bgatS c d a b e => c.ok && uuu 1 d a b e
  | .brevV c d a => c.ok && d.okV 1 && a.okV 1
  | .brevS c d a => c.ok && d.okU 1 && a.okU 1
  | .popcV c w d a | .clzV c w d a | .ctzV c w d a => c.ok && d.okV 1 && a.okV (kOf w)
  | .popcS c w d a | .clzS c w d a | .ctzS c w d a => c.ok && d.okU 1 && a.okU (kOf w)
  | .cmpV c w _ _ pd pc a b => c.ok && cmpOk (Src.okV (kOf w)) pd pc a b
  | .cmpS c w _ _ pd pc a b => c.ok && cmpOk (Src.okU (kOf w)) pd pc a b
  | .selV c w d a b p => c.ok && vv (kOf w) d a b && decide (p < 16)
  | .addA c _ bu d a b | .subA c _ bu d a b =>
    c.ok && d.okA && a.okA && (if bu then b.okU 1 else b.okA) && sameImm [a, b]
  | .mulA c _ d a b | .shlA c d a b => c.ok && d.okA && a.okA && b.okU 1 && sameImm [a, b]
  | .madA c _ d a b e => c.ok && d.okA && a.okA && b.okU 1 && e.okA && sameImm [a, b, e]
  | .cmpA c bu _ _ pd pc a b =>
    c.ok && predsOk pd pc && a.okA && (if bu then b.okU 1 else b.okA) && sameImm [a, b]
  | .movA c d a => c.ok && d.okA && a.okA
  | .rampA c d a b => c.ok && d.okA && a.okU 2 && b.okU 1 && sameImm [a, b]
  | .spread c w d a => c.ok && d.okV (kOf w) && a.okU (kOf w)
  | .mat c w d a => c.ok && d.okV (kOf w) && a.okA
  | .agree c w d a p => c.ok && d.okU (kOf w) && a.okV (kOf w) && decide (p < 16)
  | .firstLane c w d a => c.ok && d.okU (kOf w) && a.okV (kOf w)
  | .addVF c t _ _ d a b | .subVF c t _ _ d a b | .mulVF c t _ _ d a b | .divVF c t _ d a b => c.ok && fvv t d a b
  | .addSF c t _ _ d a b | .subSF c t _ _ d a b | .mulSF c t _ _ d a b | .divSF c t _ d a b => c.ok && fuu t d a b
  | .fmaV c t _ _ d a b e => c.ok && fvvv t d a b e
  | .fmaS c t _ _ d a b e => c.ok && fuuu t d a b e
  | .minVF c t d a b | .maxVF c t d a b | .minnumV c t d a b | .maxnumV c t d a b | .copysignV c t d a b => c.ok && fvv t d a b
  | .minSF c t d a b | .maxSF c t d a b | .minnumS c t d a b | .maxnumS c t d a b | .copysignS c t d a b => c.ok && fuu t d a b
  | .cmpVF c ty _ _ pd pc a b => c.ok && cmpOk (Src.okV (kOf ty)) pd pc a b
  | .cmpVF16 c _ _ _ pd pc a b => c.ok && cmpOk (Src.okV 1) pd pc a b && a.imm16 true && b.imm16 true
  | .cmpSF c ty _ _ pd pc a b => c.ok && cmpOk (Src.okU (kOf ty)) pd pc a b
  | .rndV c t _ d a | .rcpV c t _ d a | .sqrtV c t _ d a => c.ok && fv t d a
  | .rcpS c t _ d a | .sqrtS c t _ d a => c.ok && fu t d a
  | .ex2 c h d a | .lg2 c h d a | .sinpi c h d a | .cospi c h d a => c.ok && d.okV 1 && a.okV 1 && a.imm16 h
  | .dotV c _ _ d a b e => c.ok && vvv 1 d a b e
  | .absVF c t d a | .negVF c t d a => c.ok && fv t d a
  | .absSF c t d a | .negSF c t d a => c.ok && fu t d a
  | .classV c t p a _ => c.ok && decide (p < 16) && a.okV t.k && a.noImm
  | .addVQ c _ _ d a b | .subVQ c _ _ d a b | .mulVQ c _ _ d a b => c.ok && vv 1 d a b
  | .fmaVQ c _ _ d a b e | .dotVQ c _ d a b e => c.ok && vvv 1 d a b e
  | .minVQ c _ d a b | .maxVQ c _ d a b => c.ok && vv 1 d a b
  | .absVQ c _ d a | .negVQ c _ d a => c.ok && d.okV 1 && a.okV 1
  | .cvtFloatFloat c dt st _ d a => c.ok && dt != st && d.okV dt.k && a.okV st.k && a.imm16 st.narrow
  | .cvtFloatInt c dt st _ d a => c.ok && d.okV dt.k && a.okV st.k && a.imm16 st.narrow
  | .cvtIntFloat c dt st _ d a => c.ok && d.okV dt.k && a.okV st.k
  | .cvtQFloat c st _ _ d a e => c.ok && d.okV 1 && a.okV st.k && e.okV 1 && a.noImm && e.noImm
  | .cvtFloatQ c dt _ _ d a => c.ok && d.okV dt.k && a.okV 1 && a.noImm
  | .cvtNarrow c _ _ _ d a => c.ok && d.okV 1 && a.okV 1
  | .shfl c w _ d a b => c.ok && d.okV (kOf w) && a.okV (kOf w) && b.okV 1 && sameImm [a, b]
  | .voteAll c pd pa | .voteAny c pd pa | .voteEq c pd pa => c.ok && decide (pd < 16) && decide (pa < 16)
  | .voteBallot c d pa => c.ok && d.okU 1 && decide (pa < 16)
  | .reduceInt c _ d a => c.ok && d.okU 1 && a.okV 1
  | .reduceFloat c w _ d a => c.ok && d.okU (kOf w) && a.okV (kOf w)
  | .scanInt c _ _ d a => c.ok && d.okV 1 && a.okV 1
  | .scanFloat c _ w _ d a => c.ok && d.okV (kOf w) && a.okV (kOf w)
  | .matchLanes c ty d a => c.ok && d.okV 1 && a.okV (if ty == .b64 || ty == .f64 then 2 else 1)
  | .ldgV c fl ac m d a | .ldcV c fl ac m d a => c.ok && fl != .none && m.ok && baseG ac a && d.okV m.run
  | .ldgS c fl m d a | .ldcS c fl m d a => c.ok && fl != .none && m.ok && baseG .uni a && d.okU m.run
  | .stgV c _ ac m a b => c.ok && m.okStore && baseG ac a && b.okV m.run && b.noImm
  | .stgS c _ ac m a b => c.ok && m.okStore && baseG ac a && b.okU m.run && b.noImm
  | .ldtmV c fl ac m d a => c.ok && fl != .none && m.ok && m.okTeam && baseT ac a && d.okV m.run
  | .ldtmS c fl m d a => c.ok && fl != .none && m.ok && m.okTeam && baseT .uni a && d.okU m.run
  | .sttmV c _ ac m a b => c.ok && m.okStore && m.okTeam && baseT ac a && b.okV m.run && b.noImm
  | .sttmS c _ ac m a b => c.ok && m.okStore && m.okTeam && baseT ac a && b.okU m.run && b.noImm
  | .stmsk c _ ac m a b e =>
    c.ok && m.ty == .b32 && m.cnt == .x1 && baseG ac a && b.okV 1 && e.okV 1 && b.noImm && e.noImm
  | .atom c fl op m d a b e =>
    c.ok && fl != .none && baseG m.ac a && d.okV (kOf m.w64) && b.okV (kOf m.w64) && b.noImm
      && (if op == .cas then e.okV (kOf m.w64) && e.noImm else e == .reg 0)
  | .red c _ op m a b =>
    c.ok && op != .exch && op != .cas && (m.ord == .rlx || m.ord == .rel) && baseG m.ac a && b.okV (kOf m.w64) && b.noImm
  | .atomtm c fl op m d a b e =>
    c.ok && fl != .none && m.sc == .grp && m.ord == .rlx && baseT m.ac a && d.okV (kOf m.w64) && b.okV (kOf m.w64) && b.noImm
      && (if op == .cas then e.okV (kOf m.w64) && e.noImm else e == .reg 0)
  | .publish c _ | .adopt c _ | .fence c _ => c.ok
  | .pinLines c fl d a b | .unpinLines c fl d a b =>
    c.ok && fl != .none && d.okU 1 && a.okU 2 && b.okU 1 && a.immZero && b.immZero
  | .barInit c a b | .barExpect c a b => c.ok && a.okU 1 && b.okU 1 && sameImm [a, b]
  | .barArrive c _ a | .barWait c _ a => c.ok && a.okU 1
  | .barTest c _ p a => c.ok && decide (p < 16) && a.okU 1
  | .chinit c ch a b => c.ok && decide (ch < 16) && a.okU 1 && b.okU 1 && sameImm [a, b]
  | .chres c ch d | .chtake c _ ch d => c.ok && decide (ch < 16) && d.okU 1
  | .chcommit c _ ch | .chfree c ch => c.ok && decide (ch < 16)
  | .cpyG2t c a b e _ => c.ok && a.okU 1 && b.okU 2 && e.okU 1 && a.noImm && b.noImm && e.noImm
  | .cpyT2g c a b e _ => c.ok && a.okU 2 && b.okU 1 && e.okU 1 && a.noImm && b.noImm && e.noImm
  | .cpyG2g c a b e _ => c.ok && a.okU 2 && b.okU 2 && e.okU 1 && a.noImm && b.noImm && e.noImm
  | .cpyT2t c a b e _ => c.ok && a.okU 1 && b.okU 1 && e.okU 1 && a.noImm && b.noImm && e.noImm
  | .vgrow c a | .vshrink c a => c.ok && a.okU 1
  | .obres c o a => c.ok && decide (o < 16) && a.okU 1
  | .obrel c o => c.ok && decide (o < 16)
  | .obldG c o a _ => c.ok && decide (o < 16) && a.okU 2 && a.noImm
  | .obldTm c o a _ => c.ok && decide (o < 16) && a.okU 1 && a.noImm
  | .ldfrag c fl un _ cnt pitch _ d a =>
    c.ok && fl != .none && (un != (pitch == 0#12)) && d.okV cnt.num && a.noImm && (if un then a.okU 1 else a.okA)
  | .mma c fl int _ nz _ _ x oa ob =>
    c.ok && fl != .none && !(int && nz) && decide (x < 8) && decide (oa < 16) && decide (ob < 16)
  | .drainF64 c fl _ x b | .drainI64 c fl _ x b => c.ok && fl != .none && decide (x < 8) && b.okU 2 && b.noImm
  | .drainQ c fl _ _ ltv obn ltn x b =>
    c.ok && fl != .none && (ltv || (obn == 0#4 && ltn == 0#2)) && decide (x < 8) && b.okU 2 && b.noImm
  | .xzero c x => c.ok && decide (x < 8)
  | .xstatNan c d x | .xstatOvf c d x => c.ok && d.okU 1 && decide (x < 8)
  | .xget c fl d x b => c.ok && fl != .none && d.okV 2 && decide (x < 8) && b.okU 1
  | .xput c x a b => c.ok && decide (x < 8) && a.okV 2 && b.okU 1 && sameImm [a, b]
  | .ccall c ch b => c.ok && decide (ch < 16) && b.okU 1
  | .crecv c fl d ch => c.ok && fl != .none && d.okU 1 && decide (ch < 16)
  | .tokWait c a => c.ok && a.okU 1
  | .tokRead c d => c.ok && d.okU 1
  | .tokResume c d a b => c.ok && d.okU 1 && a.okU 1 && b.okU 1 && a.noImm && b.noImm
  | .cbarArrive c sc a | .cbarWait c sc a =>
    c.ok && (sc == .clu || sc == .die || sc == .slc) && a.okU 2 && a.immZero
  | .enq c fl d a b => c.ok && fl != .none && d.okU 1 && a.okU 2 && b.okU 2 && a.noImm && b.noImm
  | .launchGrid c fl d a b => c.ok && fl != .none && d.okU 1 && a.okU 2 && b.okU 1 && sameImm [a, b]
  | .waitv c _ p a b e => c.ok && decide (p < 16) && a.okU 2 && b.okU 1 && e.okU 1 && sameImm [a, b, e]
  | .setdl c a => c.ok && a.okU 2
  | .getsr c d n => c.ok && d.okU 1 && srAssigned n.toNat
  | .setsr c n a => c.ok && a.okU 1 && a.noImm && srAssigned n.toNat
  | .tlbinvAsid c a | .tlbinvSlice c a => c.ok && a.okU 1
  | .tlbinvPage c a b => c.ok && a.okU 2 && b.okU 1 && sameImm [a, b]
  | .xlat c fl d a b => c.ok && fl != .none && d.okU 2 && a.okU 2 && b.okU 1 && a.immZero && b.immZero
  | .dbgStop c d a | .dbgResume c d a => c.ok && d.okU 1 && a.okU 1 && a.noImm
  | .dbgRd c file r d a => c.ok && d.okU 1 && a.okU 1 && a.noImm && dbgFileOk file.toNat r.toNat
  | .dbgWr c file r d a b | .dbgWrForce c file r d a b =>
    c.ok && d.okU 1 && a.okU 1 && b.okU 1 && a.noImm && b.noImm && dbgFileOk file.toNat r.toNat && file != 7#4
  | .dbgActResume c d a b | .dbgActExit c d a b | .endgrid c d a b =>
    c.ok && d.okU 1 && a.okU 1 && b.okU 1 && a.noImm && b.noImm
  | .collAllreduce c fl d a | .collAllgather c fl d a | .collRedscat c fl d a | .collBcast c fl d a =>
    c.ok && fl != .none && d.okU 1 && a.okU 2
  | .clauseStart .. | .rejoinRelease .. | .rejoinTimeout .. | .rejoinDeadlock .. | .barWaitComplete .. | .chresGrant ..
  | .chtakeGrant .. | .engineByteCount .. | .accessCheck .. | .lateFaultPark .. | .poisonFound .. | .poisonPark ..
  | .loadCompletion .. | .storeCompletion .. | .atomicCompletion .. | .reductionCompletion .. | .pinCompletion ..
  | .mmaAccumulate .. | .drainCompletion .. | .routerDispatch .. | .crecvTake .. | .tokWaitDrained .. | .cbarWaitComplete ..
  | .queueDepthExchange .. | .binnerCall .. | .rasteriserCall .. | .streamBind .. | .streamClear .. | .depthStencilCommit ..
  | .blendCommit .. | .tessellatorCall .. | .textureCall .. | .traceRays .. | .verdict .. | .encoderConfig ..
  | .encoderEncode .. | .waitvTest .. | .waitvTimeout .. | .queueTake .. | .bestEffortFill .. | .teamAdmit ..
  | .teamPreempt .. | .registerCacheAllocate .. | .displayTrigger .. | .idleSwap .. | .teamWake .. | .faultRecordDelivery ..
  | .collectiveCompletion .. | .remoteRequest .. | .remoteTimeout .. | .flitCrcFail .. | .portLaneLoss .. | .portUpChange ..
  | .cmdTail .. | .launchCmd .. | .write32 .. | .wait32 .. | .wait32Satisfied .. | .nopCmd .. | .bindQueue ..
  | .unbindQueue .. | .reshape .. | .lease .. | .leaseEnd .. | .leaseTermExpiry .. | .collgrp .. | .remap .. | .unremap ..
  | .sliceReset .. | .sliceResetDone .. | .sliceFreeze .. | .freezeComplete .. | .sliceThaw .. | .vfFlr .. | .pfFlr ..
  | .deviceReset .. | .getVersion .. | .getCapabilities .. | .negotiateAlgorithms .. | .getDigests .. | .getCertificate ..
  | .challenge .. | .getMeasurements .. | .unsupportedRequest .. | .mrExtend .. | .mrExtendDone .. | .memCrcError ..
  | .channelRetrain .. | .correctedError .. | .uncorrectableError .. | .patrolScrub .. | .powerWindow .. | .droopStretch ..
  | .droopRelease .. | .fmtWrite .. | .fpCtlWrite .. | .fpStatusClear .. | .pinQuotaWrite .. | .clReorderWrite ..
  | .clWaysWrite .. | .frHeadWrite .. | .frBaseWrite .. | .frTailRead .. | .cmdCtlWrite .. | .memStatClear ..
  | .pwrCapWrite .. | .domCtlWrite .. | .domExpcntWrite .. | .memSelWrite .. | .registerWrite .. | .enqCompletion ..
  | .launchCompletion .. | .xlatCompletion .. | .transitEntryReceived .. => false

end Sys2Proof
end

