-- ==== Sys2Proof/Decode.lean ====
section
/-!
DEFINITION. The instruction word (spec/01 R14-R22, spec/02 R47-R65): its fields, the decoder from bytes to `Instr` (total, rejecting
by name), the encoder written from the same tables, and `decodeTableWord`.
-/
namespace Sys2Proof

/-- The fields of a word (R15). -/
structure Fields where
  maj : BitVec 8
  min : BitVec 4
  c : Ctl
  d : BitVec 9
  a : BitVec 9
  b : BitVec 9
  e : BitVec 9
  mod : BitVec 4
  imm : Word
deriving DecidableEq, Repr

/-- R15: bits 95 down to 0. -/
def Fields.toBits (f : Fields) : BitVec 96 :=
  f.maj ++ f.min ++ f.c.gp ++ BitVec.ofBool f.c.gn ++ f.d ++ f.a ++ f.b ++ f.e ++ f.mod ++ BitVec.ofBool f.c.fin
    ++ BitVec.ofBool f.c.yld ++ BitVec.ofBool f.c.rua ++ BitVec.ofBool f.c.rub ++ f.c.stall ++ f.imm

/-- R15. -/
def Fields.ofBits (w : BitVec 96) : Fields where
  maj := w.extractLsb' 88 8
  min := w.extractLsb' 84 4
  c := { gp := w.extractLsb' 80 4, gn := w.getLsbD 79, fin := w.getLsbD 38, yld := w.getLsbD 37, rua := w.getLsbD 36,
         rub := w.getLsbD 35, stall := w.extractLsb' 32 3 }
  d := w.extractLsb' 70 9
  a := w.extractLsb' 61 9
  b := w.extractLsb' 52 9
  e := w.extractLsb' 43 9
  mod := w.extractLsb' 39 4
  imm := w.extractLsb' 0 32

/-- The word's bytes from the instruction's address upward (R6, R14): byte k holds W[8k + 7 : 8k]. -/
def wordBytes (w : BitVec 96) : List Byte := (List.range 12).map fun k => w.extractLsb' (8 * k) 8

/-- A little-endian value from its bytes (R6). -/
def leNat : List Byte → Nat
  | [] => 0
  | b :: bs => b.toNat + 256 * leNat bs

/-- Why a word is not an instruction: every one of these raises ILLEGAL_OP, but for a header, which R23's form check catches. -/
inductive DecodeError where
  /-- fewer than 12 bytes -/
  | truncated
  /-- a MAJ that R65 reserves -/
  | reservedMajor
  /-- a MIN that the tables do not assign to its MAJ, or a combination that its row restricts (R65) -/
  | unassignedMinor
  /-- MAJ 0x00, MIN 0x1: a clause header (R22) -/
  | clauseHeader
  /-- a register code, run, immediate or option that R16-R21, R48 or the row forbids -/
  | illegalOperand
  /-- a nonzero unused or reserved field (R16, R20, R17) -/
  | unusedField
deriving DecidableEq, Repr

/-- Destination codes (R16). -/
def Dst.ofCode (n : BitVec 9) : Dst := if n = 511#9 then .discard else .reg n.toNat
def Dst.code : Dst → BitVec 9
  | .reg n => BitVec.ofNat 9 n
  | .discard => 511#9

/-- Source codes (R16, R17); 64 is LANE in an affine field, 128-191 are system values in a uniform one. -/
def Src.ofV (imm : Word) (n : BitVec 9) : Src :=
  if n = 510#9 then .imm imm else if n = 511#9 then .zero else .reg n.toNat
def Src.ofA (imm : Word) (n : BitVec 9) : Src :=
  if n = 510#9 then .imm imm else if n = 511#9 then .zero else if n = 64#9 then .lane else .reg n.toNat
def Src.ofU (imm : Word) (n : BitVec 9) : Src :=
  if n = 510#9 then .imm imm else if n = 511#9 then .zero
  else if 128 ≤ n.toNat ∧ n.toNat < 192 then .sys (n.toNat - 128) else .reg n.toNat
def Src.code : Src → BitVec 9
  | .reg n => BitVec.ofNat 9 n
  | .imm _ => 510#9
  | .zero => 511#9
  | .lane => 64#9
  | .sys n => BitVec.ofNat 9 (128 + n)

/-- The IMM field of a word without extended fields: the value of its sources coded 510, else zero (R17). -/
def immOf : List Src → Word
  | [] => 0#32
  | .imm v :: _ => v
  | _ :: rest => immOf rest

/-- A file number (P, J, X, O, H fields; R48). -/
def codeOf (n : Nat) : BitVec 9 := BitVec.ofNat 9 n

/-- Integer types (R49). -/
def IT.bits : IT → BitVec 2
  | .i32 => 0#2
  | .n32 => 1#2
  | .i64 => 2#2
  | .n64 => 3#2
def IT.ofBits : BitVec 2 → Option IT
  | 0#2 => some .i32
  | 1#2 => some .n32
  | 2#2 => some .i64
  | 3#2 => some .n64

/-- Float types (R49). -/
def FT.bits : FT → BitVec 2
  | .f32 => 0#2
  | .f64 => 1#2
  | .f16 => 2#2
  | .bf16 => 3#2
def FT.ofBits : BitVec 2 → Option FT
  | 0#2 => some .f32
  | 1#2 => some .f64
  | 2#2 => some .f16
  | 3#2 => some .bf16

/-- Rounding (R20). -/
def Rnd.bits : Rnd → BitVec 2
  | .rne => 0#2
  | .rtz => 1#2
  | .rdn => 2#2
  | .rup => 3#2
def Rnd.ofBits : BitVec 2 → Option Rnd
  | 0#2 => some .rne
  | 1#2 => some .rtz
  | 2#2 => some .rdn
  | 3#2 => some .rup

/-- Combining types (R135). -/
def Cmb.bits : Cmb → BitVec 3
  | .set => 0#3
  | .and => 1#3
  | .or => 2#3
  | .xor => 3#3
  | .andx => 4#3
  | .orx => 5#3
  | .nest => 6#3
  | .anyall => 7#3
def Cmb.ofBits : BitVec 3 → Option Cmb
  | 0#3 => some .set
  | 1#3 => some .and
  | 2#3 => some .or
  | 3#3 => some .xor
  | 4#3 => some .andx
  | 5#3 => some .orx
  | 6#3 => some .nest
  | 7#3 => some .anyall

/-- Integer conditions (R53). -/
def ICond.bits : ICond → BitVec 4
  | .eq => 0#4
  | .ne => 1#4
  | .ilt => 2#4
  | .ile => 3#4
  | .igt => 4#4
  | .ige => 5#4
  | .nlt => 6#4
  | .nle => 7#4
  | .ngt => 8#4
  | .nge => 9#4
def ICond.ofBits : BitVec 4 → Option ICond
  | 0#4 => some .eq
  | 1#4 => some .ne
  | 2#4 => some .ilt
  | 3#4 => some .ile
  | 4#4 => some .igt
  | 5#4 => some .ige
  | 6#4 => some .nlt
  | 7#4 => some .nle
  | 8#4 => some .ngt
  | 9#4 => some .nge
  | _ => none

/-- Float conditions (R56). -/
def FCond.bits : FCond → BitVec 4
  | .eq => 0#4
  | .ne => 1#4
  | .lt => 2#4
  | .le => 3#4
  | .gt => 4#4
  | .ge => 5#4
  | .num => 6#4
  | .nan => 7#4
  | .equ => 8#4
  | .neu => 9#4
  | .ltu => 10#4
  | .leu => 11#4
  | .gtu => 12#4
  | .geu => 13#4
def FCond.ofBits : BitVec 4 → Option FCond
  | 0#4 => some .eq
  | 1#4 => some .ne
  | 2#4 => some .lt
  | 3#4 => some .le
  | 4#4 => some .gt
  | 5#4 => some .ge
  | 6#4 => some .num
  | 7#4 => some .nan
  | 8#4 => some .equ
  | 9#4 => some .neu
  | 10#4 => some .ltu
  | 11#4 => some .leu
  | 12#4 => some .gtu
  | 13#4 => some .geu
  | _ => none

/-- Narrowing destinations (R58). -/
def NT.bits : NT → BitVec 2
  | .i16 => 0#2
  | .n16 => 1#2
  | .i8 => 2#2
  | .n8 => 3#2
def NT.ofBits : BitVec 2 → Option NT
  | 0#2 => some .i16
  | 1#2 => some .n16
  | 2#2 => some .i8
  | 3#2 => some .n8

/-- Shuffle modes (R60). -/
def ShflMode.bits : ShflMode → BitVec 2
  | .idx => 0#2
  | .up => 1#2
  | .down => 2#2
  | .bfly => 3#2
def ShflMode.ofBits : BitVec 2 → Option ShflMode
  | 0#2 => some .idx
  | 1#2 => some .up
  | 2#2 => some .down
  | 3#2 => some .bfly

/-- Reduction operations (R60). -/
def RedOp.bits : RedOp → BitVec 3
  | .add => 0#3
  | .minI => 1#3
  | .maxI => 2#3
  | .and => 3#3
  | .or => 4#3
  | .xor => 5#3
  | .minN => 6#3
  | .maxN => 7#3
def RedOp.ofBits : BitVec 3 → Option RedOp
  | 0#3 => some .add
  | 1#3 => some .minI
  | 2#3 => some .maxI
  | 3#3 => some .and
  | 4#3 => some .or
  | 5#3 => some .xor
  | 6#3 => some .minN
  | 7#3 => some .maxN

/-- Float reduction operations (R60). -/
def FRedOp.bits : FRedOp → BitVec 2
  | .add => 0#2
  | .min => 1#2
  | .max => 2#2
def FRedOp.ofBits : BitVec 2 → Option FRedOp
  | 0#2 => some .add
  | 1#2 => some .min
  | 2#2 => some .max
  | _ => none

/-- Match types (R60). -/
def MatchTy.bits : MatchTy → BitVec 4
  | .b32 => 0#4
  | .b64 => 1#4
  | .f32 => 2#4
  | .f64 => 3#4
def MatchTy.ofBits : BitVec 4 → Option MatchTy
  | 0#4 => some .b32
  | 1#4 => some .b64
  | 2#4 => some .f32
  | 3#4 => some .f64
  | _ => none

/-- Flag select (R20). -/
def Flg.bits : Flg → BitVec 2
  | .none => 0#2
  | .set0 => 1#2
  | .set1 => 2#2
def Flg.ofBits : BitVec 2 → Option Flg
  | 0#2 => some .none
  | 1#2 => some .set0
  | 2#2 => some .set1
  | _ => none

/-- Base classes (R61). -/
def AC.bits : AC → BitVec 2
  | .aff => 0#2
  | .var => 1#2
  | .uni => 2#2
def AC.ofBits : BitVec 2 → Option AC
  | 0#2 => some .aff
  | 1#2 => some .var
  | 2#2 => some .uni
  | _ => none

/-- Cache policies (R61). -/
def Pol.bits : Pol → BitVec 3
  | .dflt => 0#3
  | .strm => 1#3
  | .last => 2#3
def Pol.ofBits : BitVec 3 → Option Pol
  | 0#3 => some .dflt
  | 1#3 => some .strm
  | 2#3 => some .last
  | _ => none

/-- Counts (R61, R273). -/
def Cnt.bits : Cnt → BitVec 2
  | .x1 => 0#2
  | .x2 => 1#2
  | .x4 => 2#2
def Cnt.ofBits : BitVec 2 → Option Cnt
  | 0#2 => some .x1
  | 1#2 => some .x2
  | 2#2 => some .x4
  | _ => none

/-- Data types (R61). -/
def MTy.bits : MTy → BitVec 3
  | .n8 => 0#3
  | .i8 => 1#3
  | .n16 => 2#3
  | .i16 => 3#3
  | .b32 => 4#3
  | .b64 => 5#3
def MTy.ofBits : BitVec 3 → Option MTy
  | 0#3 => some .n8
  | 1#3 => some .i8
  | 2#3 => some .n16
  | 3#3 => some .i16
  | 4#3 => some .b32
  | 5#3 => some .b64
  | _ => none

/-- Scopes (R20). -/
def Scope.bits : Scope → BitVec 3
  | .grp => 0#3
  | .team => 1#3
  | .clu => 2#3
  | .die => 3#3
  | .slc => 4#3
  | .dom => 5#3
def Scope.ofBits : BitVec 3 → Option Scope
  | 0#3 => some .grp
  | 1#3 => some .team
  | 2#3 => some .clu
  | 3#3 => some .die
  | 4#3 => some .slc
  | 5#3 => some .dom
  | _ => none

/-- Orderings (R61). -/
def MemOrd.bits : MemOrd → BitVec 2
  | .rlx => 0#2
  | .acq => 1#2
  | .rel => 2#2
  | .ar => 3#2
def MemOrd.ofBits : BitVec 2 → Option MemOrd
  | 0#2 => some .rlx
  | 1#2 => some .acq
  | 2#2 => some .rel
  | 3#2 => some .ar

/-- Atomic operations (R62). -/
def AtomOp.bits : AtomOp → BitVec 4
  | .add => 0#4
  | .minI => 1#4
  | .maxI => 2#4
  | .minN => 3#4
  | .maxN => 4#4
  | .and => 5#4
  | .or => 6#4
  | .xor => 7#4
  | .exch => 8#4
  | .cas => 9#4
  | .addF => 10#4
def AtomOp.ofBits : BitVec 4 → Option AtomOp
  | 0#4 => some .add
  | 1#4 => some .minI
  | 2#4 => some .maxI
  | 3#4 => some .minN
  | 4#4 => some .maxN
  | 5#4 => some .and
  | 6#4 => some .or
  | 7#4 => some .xor
  | 8#4 => some .exch
  | 9#4 => some .cas
  | 10#4 => some .addF
  | _ => none

/-- Conditions of waitv (R63). -/
def WCond.bits : WCond → BitVec 4
  | .eq => 0#4
  | .ne => 1#4
  | .ge => 2#4
  | .lt => 3#4
def WCond.ofBits : BitVec 4 → Option WCond
  | 0#4 => some .eq
  | 1#4 => some .ne
  | 2#4 => some .ge
  | 3#4 => some .lt
  | _ => none

/-- The MEM layout (R61). -/
def MemOp.bits (m : MemOp) : Word := m.pol.bits ++ m.cnt.bits ++ m.ty.bits ++ m.off
def MemOp.ofBits (w : Word) : Option MemOp := do
  let pol ← Pol.ofBits (w.extractLsb' 29 3)
  let cnt ← Cnt.ofBits (w.extractLsb' 27 2)
  let ty ← MTy.ofBits (w.extractLsb' 24 3)
  pure { pol, cnt, ty, off := w.extractLsb' 0 24 }

/-- The ATOM layout (R61). -/
def AtomFld.bits (m : AtomFld) : Word := m.sc.bits ++ m.ord.bits ++ BitVec.ofBool m.w64 ++ m.ac.bits ++ m.off
def AtomFld.ofBits (w : Word) : Option AtomFld := do
  let sc ← Scope.ofBits (w.extractLsb' 29 3)
  let ord ← MemOrd.ofBits (w.extractLsb' 27 2)
  let ac ← AC.ofBits (w.extractLsb' 24 2)
  pure { sc, ord, w64 := w.getLsbD 26, ac, off := w.extractLsb' 0 24 }

/-- A global or team base of class AC (R61). -/
def Src.ofBase (imm : Word) (ac : AC) (n : BitVec 9) : Src :=
  match ac with
  | .aff => Src.ofA imm n
  | .var => Src.ofV imm n
  | .uni => Src.ofU imm n

/-- MOD with a flag select and with a combining type (R20, R50). -/
def flMod (fl : Flg) : BitVec 4 := fl.bits ++ 0#2
def cmbMod (hi : Bool) (cmb : Cmb) : BitVec 4 := BitVec.ofBool hi ++ cmb.bits
/-- MOD with a rounding mode or format register, and with a scope (R20). -/
def lowMod (r : BitVec 2) : BitVec 4 := 0#2 ++ r
def scMod (sc : Scope) : BitVec 4 := 0#1 ++ sc.bits
/-- Low and high bits of a 4-bit field. -/
def lo2 (m : BitVec 4) : BitVec 2 := m.extractLsb' 0 2
def hi2 (m : BitVec 4) : BitVec 2 := m.extractLsb' 2 2
def lo3 (m : BitVec 4) : BitVec 3 := m.extractLsb' 0 3

/-! The operand fields as their class reads them; `n` names a file number (R48). -/
def Fields.dst (f : Fields) : Dst := Dst.ofCode f.d
def Fields.va (f : Fields) : Src := Src.ofV f.imm f.a
def Fields.vb (f : Fields) : Src := Src.ofV f.imm f.b
def Fields.ve (f : Fields) : Src := Src.ofV f.imm f.e
def Fields.ua (f : Fields) : Src := Src.ofU f.imm f.a
def Fields.ub (f : Fields) : Src := Src.ofU f.imm f.b
def Fields.ue (f : Fields) : Src := Src.ofU f.imm f.e
def Fields.aa (f : Fields) : Src := Src.ofA f.imm f.a
def Fields.ab (f : Fields) : Src := Src.ofA f.imm f.b
def Fields.ae (f : Fields) : Src := Src.ofA f.imm f.e
def Fields.nd (f : Fields) : Nat := f.d.toNat
def Fields.na (f : Fields) : Nat := f.a.toNat
def Fields.nb (f : Fields) : Nat := f.b.toNat
def Fields.ne (f : Fields) : Nat := f.e.toNat
/-- An affine field that may be uniform (R54, R273). -/
def Fields.aub (f : Fields) (un : Bool) : Src := if un then f.ub else f.ab
def Fields.aua (f : Fields) (un : Bool) : Src := if un then f.ua else f.aa

/-- Control, 0x00-0x0F (R51); MAJ 0x00 MIN 1 is the clause header, no instruction. -/
def decodeControl (f : Fields) : Option Instr :=
  match f.maj with
  | 0x00#8 =>
    match f.min with
    | 0#4 => some (.nop f.c)
    | _ => none
  | 0x01#8 =>
    match f.min with
    | 0#4 => some (.bra f.c f.imm)
    | _ => none
  | 0x02#8 =>
    match f.min with
    | 0#4 => some (.brxV f.c f.va)
    | 1#4 => some (.brxS f.c f.ua)
    | _ => none
  | 0x03#8 =>
    match f.min with
    | 0#4 => some (.call f.c f.dst f.imm)
    | 1#4 => some (.callIndirect f.c f.dst f.va)
    | _ => none
  | 0x04#8 =>
    match f.min with
    | 0#4 => some (.ret f.c f.va)
    | _ => none
  | 0x05#8 =>
    match f.min with
    | 0#4 => some (.exit f.c)
    | _ => none
  | 0x06#8 =>
    match f.min with
    | 0#4 => some (.yieldPath f.c)
    | _ => none
  | 0x07#8 =>
    match f.min with
    | 0#4 => some (.jset f.c f.nd)
    | 1#4 => some (.jadd f.c f.nd)
    | 2#4 => some (.jsub f.c f.nd)
    | 3#4 => some (.jget f.c f.dst f.na)
    | 4#4 => some (.jput f.c f.nd f.ua)
    | _ => none
  | 0x08#8 =>
    match f.min with
    | 0#4 => some (.rejoin f.c f.na)
    | 1#4 => some (.rejoinTmo f.c f.nd f.na f.ub)
    | _ => none
  | 0x09#8 =>
    match f.min with
    | 0#4 => some (.brk f.c (f.imm.extractLsb' 0 16))
    | _ => none
  | 0x0A#8 =>
    match f.min with
    | 0#4 => some (.trap f.c (f.imm.extractLsb' 0 16))
    | _ => none
  | 0x0B#8 =>
    match f.min with
    | 0#4 => some (.hret f.c)
    | _ => none
  | _ => none

/-- Varying integers and promotion, 0x10-0x1F (R52, R53, R55). -/
def decodeIntV (f : Fields) : Option Instr :=
  match f.maj with
  | 0x10#8 => do let t ← IT.ofBits (lo2 f.min); some (.addV f.c t (f.min.getLsbD 2) f.dst f.va f.vb)
  | 0x11#8 => do let t ← IT.ofBits (lo2 f.min); some (.subV f.c t (f.min.getLsbD 2) f.dst f.va f.vb)
  | 0x12#8 => do let t ← IT.ofBits (lo2 f.min); some (.mulV f.c t (f.min.getLsbD 2) f.dst f.va f.vb)
  | 0x13#8 => do let t ← IT.ofBits (lo2 f.min); some (.madV f.c t f.dst f.va f.vb f.ve)
  | 0x14#8 => do
       let t ← IT.ofBits (lo2 f.min)
       if f.min.getLsbD 2 then some (.subcV f.c t f.dst f.va f.vb f.ne) else some (.addcV f.c t f.dst f.va f.vb f.ne)
  | 0x15#8 => do
       let t ← IT.ofBits (lo2 f.min)
       match hi2 f.min with
       | 0#2 => some (.minV f.c t f.dst f.va f.vb)
       | 1#2 => some (.maxV f.c t f.dst f.va f.vb)
       | 2#2 => if t.signed then some (.absV f.c t.wide f.dst f.va) else none
       | _ => if t.signed then some (.negV f.c t.wide f.dst f.va) else none
  | 0x16#8 => 
       match lo3 f.min with
       | 0#3 => some (.andV f.c (f.min.getLsbD 3) f.dst f.va f.vb)
       | 1#3 => some (.orV f.c (f.min.getLsbD 3) f.dst f.va f.vb)
       | 2#3 => some (.xorV f.c (f.min.getLsbD 3) f.dst f.va f.vb)
       | 3#3 => some (.andnV f.c (f.min.getLsbD 3) f.dst f.va f.vb)
       | 4#3 => some (.ornV f.c (f.min.getLsbD 3) f.dst f.va f.vb)
       | 5#3 => some (.xnorV f.c (f.min.getLsbD 3) f.dst f.va f.vb)
       | 6#3 => some (.notV f.c (f.min.getLsbD 3) f.dst f.va)
       | _ => none
  | 0x17#8 => 
       match lo3 f.min with
       | 0#3 => some (.shlV f.c (f.min.getLsbD 3) f.dst f.va f.vb)
       | 1#3 => some (.shrV f.c (f.min.getLsbD 3) f.dst f.va f.vb)
       | 2#3 => some (.sarV f.c (f.min.getLsbD 3) f.dst f.va f.vb)
       | _ => none
  | 0x18#8 => some (.shfV f.c (f.min.getLsbD 0) (f.min.getLsbD 1) f.dst f.va f.vb f.ve)
  | 0x19#8 =>
    match f.min with
    | 0#4 => some (.bfeV f.c true f.dst f.va f.vb f.ve)
    | 1#4 => some (.bfeV f.c false f.dst f.va f.vb f.ve)
    | 2#4 => some (.bfiV f.c f.dst f.va f.vb f.ve)
    | 3#4 => some (.brevV f.c f.dst f.va)
    | _ => none
  | 0x1A#8 => 
       match lo2 f.min with
       | 0#2 => some (.popcV f.c (f.min.getLsbD 2) f.dst f.va)
       | 1#2 => some (.clzV f.c (f.min.getLsbD 2) f.dst f.va)
       | 2#2 => some (.ctzV f.c (f.min.getLsbD 2) f.dst f.va)
       | _ => none
  | 0x1B#8 =>
    match f.min with
    | 0#4 => some (.bgatV f.c f.dst f.va f.vb f.ve)
    | _ => none
  | 0x1C#8 => do
       let cond ← ICond.ofBits f.min; let cmb ← Cmb.ofBits (lo3 f.mod)
       some (.cmpV f.c (f.mod.getLsbD 3) cond cmb f.nd f.ne f.va f.vb)
  | 0x1D#8 => 
       match lo3 f.min with
       | 0#3 => some (.movV f.c (f.min.getLsbD 3) f.dst f.va)
       | 1#3 => some (.selV f.c (f.min.getLsbD 3) f.dst f.va f.vb f.ne)
       | _ => none
  | 0x1E#8 =>
    match f.min with
    | 0#4 => some (.spread f.c false f.dst f.ua)
    | 1#4 => some (.spread f.c true f.dst f.ua)
    | 2#4 => some (.mat f.c false f.dst f.aa)
    | 3#4 => some (.mat f.c true f.dst f.aa)
    | _ => none
  | 0x1F#8 => do
       let t ← IT.ofBits (lo2 f.min)
       if f.min.getLsbD 2 then some (.remV f.c t f.dst f.va f.vb) else some (.divV f.c t f.dst f.va f.vb)
  | _ => none

/-- Uniform integers and promotion, 0x30-0x3F (R52, R55). -/
def decodeIntS (f : Fields) : Option Instr :=
  match f.maj with
  | 0x30#8 => do let t ← IT.ofBits (lo2 f.min); some (.addS f.c t (f.min.getLsbD 2) f.dst f.ua f.ub)
  | 0x31#8 => do let t ← IT.ofBits (lo2 f.min); some (.subS f.c t (f.min.getLsbD 2) f.dst f.ua f.ub)
  | 0x32#8 => do let t ← IT.ofBits (lo2 f.min); some (.mulS f.c t (f.min.getLsbD 2) f.dst f.ua f.ub)
  | 0x33#8 => do let t ← IT.ofBits (lo2 f.min); some (.madS f.c t f.dst f.ua f.ub f.ue)
  | 0x35#8 => do
       let t ← IT.ofBits (lo2 f.min)
       match hi2 f.min with
       | 0#2 => some (.minS f.c t f.dst f.ua f.ub)
       | 1#2 => some (.maxS f.c t f.dst f.ua f.ub)
       | 2#2 => if t.signed then some (.absS f.c t.wide f.dst f.ua) else none
       | _ => if t.signed then some (.negS f.c t.wide f.dst f.ua) else none
  | 0x36#8 => 
       match lo3 f.min with
       | 0#3 => some (.andS f.c (f.min.getLsbD 3) f.dst f.ua f.ub)
       | 1#3 => some (.orS f.c (f.min.getLsbD 3) f.dst f.ua f.ub)
       | 2#3 => some (.xorS f.c (f.min.getLsbD 3) f.dst f.ua f.ub)
       | 3#3 => some (.andnS f.c (f.min.getLsbD 3) f.dst f.ua f.ub)
       | 4#3 => some (.ornS f.c (f.min.getLsbD 3) f.dst f.ua f.ub)
       | 5#3 => some (.xnorS f.c (f.min.getLsbD 3) f.dst f.ua f.ub)
       | 6#3 => some (.notS f.c (f.min.getLsbD 3) f.dst f.ua)
       | _ => none
  | 0x37#8 => 
       match lo3 f.min with
       | 0#3 => some (.shlS f.c (f.min.getLsbD 3) f.dst f.ua f.ub)
       | 1#3 => some (.shrS f.c (f.min.getLsbD 3) f.dst f.ua f.ub)
       | 2#3 => some (.sarS f.c (f.min.getLsbD 3) f.dst f.ua f.ub)
       | _ => none
  | 0x38#8 => some (.shfS f.c (f.min.getLsbD 0) (f.min.getLsbD 1) f.dst f.ua f.ub f.ue)
  | 0x39#8 =>
    match f.min with
    | 0#4 => some (.bfeS f.c true f.dst f.ua f.ub f.ue)
    | 1#4 => some (.bfeS f.c false f.dst f.ua f.ub f.ue)
    | 2#4 => some (.bfiS f.c f.dst f.ua f.ub f.ue)
    | 3#4 => some (.brevS f.c f.dst f.ua)
    | _ => none
  | 0x3A#8 => 
       match lo2 f.min with
       | 0#2 => some (.popcS f.c (f.min.getLsbD 2) f.dst f.ua)
       | 1#2 => some (.clzS f.c (f.min.getLsbD 2) f.dst f.ua)
       | 2#2 => some (.ctzS f.c (f.min.getLsbD 2) f.dst f.ua)
       | _ => none
  | 0x3B#8 =>
    match f.min with
    | 0#4 => some (.bgatS f.c f.dst f.ua f.ub f.ue)
    | _ => none
  | 0x3C#8 => do
       let cond ← ICond.ofBits f.min; let cmb ← Cmb.ofBits (lo3 f.mod)
       some (.cmpS f.c (f.mod.getLsbD 3) cond cmb f.nd f.ne f.ua f.ub)
  | 0x3D#8 => 
       match lo3 f.min with
       | 0#3 => some (.movS f.c (f.min.getLsbD 3) f.dst f.ua)
       | _ => none
  | 0x3E#8 =>
    match f.min with
    | 0#4 => some (.agree f.c false f.dst f.va f.ne)
    | 1#4 => some (.agree f.c true f.dst f.va f.ne)
    | 2#4 => some (.firstLane f.c false f.dst f.va)
    | 3#4 => some (.firstLane f.c true f.dst f.va)
    | _ => none
  | 0x3F#8 => do
       let t ← IT.ofBits (lo2 f.min)
       if f.min.getLsbD 2 then some (.remS f.c t f.dst f.ua f.ub) else some (.divS f.c t f.dst f.ua f.ub)
  | _ => none

/-- Affine, 0x20-0x2F (R54). -/
def decodeAffine (f : Fields) : Option Instr :=
  match f.maj with
  | 0x20#8 => some (.addA f.c (!f.min.getLsbD 0) (f.min.getLsbD 3) f.dst f.aa (f.aub (f.min.getLsbD 3)))
  | 0x21#8 => some (.subA f.c (!f.min.getLsbD 0) (f.min.getLsbD 3) f.dst f.aa (f.aub (f.min.getLsbD 3)))
  | 0x22#8 => some (.mulA f.c (!f.min.getLsbD 0) f.dst f.aa f.ub)
  | 0x23#8 => some (.madA f.c (!f.min.getLsbD 0) f.dst f.aa f.ub f.ae)
  | 0x27#8 =>
    match f.min with
    | 8#4 => some (.shlA f.c f.dst f.aa f.ub)
    | _ => none
  | 0x2C#8 => do
       let cond ← ICond.ofBits f.min; let cmb ← Cmb.ofBits (lo3 f.mod)
       some (.cmpA f.c (f.mod.getLsbD 3) cond cmb f.nd f.ne f.aa (f.aub (f.mod.getLsbD 3)))
  | 0x2D#8 =>
    match f.min with
    | 8#4 => some (.movA f.c f.dst f.aa)
    | _ => none
  | 0x2E#8 =>
    match f.min with
    | 0#4 => some (.rampA f.c f.dst f.ua f.ub)
    | _ => none
  | _ => none

/-- Varying float, 0x40-0x4F (R56). -/
def decodeFltV (f : Fields) : Option Instr :=
  match f.maj with
  | 0x40#8 => do
       let t ← FT.ofBits (lo2 f.min); let r ← Rnd.ofBits (lo2 f.mod)
       some (.addVF f.c t (f.min.getLsbD 2) r f.dst f.va f.vb)
  | 0x41#8 => do
       let t ← FT.ofBits (lo2 f.min); let r ← Rnd.ofBits (lo2 f.mod)
       some (.subVF f.c t (f.min.getLsbD 2) r f.dst f.va f.vb)
  | 0x42#8 => do
       let t ← FT.ofBits (lo2 f.min); let r ← Rnd.ofBits (lo2 f.mod)
       some (.mulVF f.c t (f.min.getLsbD 2) r f.dst f.va f.vb)
  | 0x43#8 => do
       let t ← FT.ofBits (lo2 f.min); let r ← Rnd.ofBits (lo2 f.mod)
       some (.fmaV f.c t (f.min.getLsbD 2) r f.dst f.va f.vb f.ve)
  | 0x44#8 => do
       let t ← FT.ofBits (lo2 f.min)
       match hi2 f.min with
       | 0#2 => some (.minVF f.c t f.dst f.va f.vb)
       | 1#2 => some (.maxVF f.c t f.dst f.va f.vb)
       | 2#2 => some (.minnumV f.c t f.dst f.va f.vb)
       | _ => some (.maxnumV f.c t f.dst f.va f.vb)
  | 0x45#8 => do
       let cond ← FCond.ofBits f.min; let cmb ← Cmb.ofBits (lo3 f.mod)
       some (.cmpVF f.c (f.mod.getLsbD 3) cond cmb f.nd f.ne f.va f.vb)
  | 0x46#8 => do
       let cond ← FCond.ofBits f.min; let cmb ← Cmb.ofBits (lo3 f.mod)
       some (.cmpVF16 f.c (f.mod.getLsbD 3) cond cmb f.nd f.ne f.va f.vb)
  | 0x47#8 => do let t ← FT.ofBits (lo2 f.min); let r ← Rnd.ofBits (lo2 f.mod); some (.rndV f.c t r f.dst f.va)
  | 0x48#8 => do
       let t ← FT.ofBits (lo2 f.min); let r ← Rnd.ofBits (lo2 f.mod)
       match hi2 f.min with
       | 0#2 => some (.rcpV f.c t r f.dst f.va)
       | 1#2 => some (.sqrtV f.c t r f.dst f.va)
       | 2#2 => some (.divVF f.c t r f.dst f.va f.vb)
       | _ => none
  | 0x49#8 => 
       match hi2 f.min with
       | 0#2 => some (.ex2 f.c (f.min.getLsbD 1) f.dst f.va)
       | 1#2 => some (.lg2 f.c (f.min.getLsbD 1) f.dst f.va)
       | 2#2 => some (.sinpi f.c (f.min.getLsbD 1) f.dst f.va)
       | _ => some (.cospi f.c (f.min.getLsbD 1) f.dst f.va)
  | 0x4A#8 => do let r ← Rnd.ofBits (lo2 f.mod); some (.dotV f.c (f.min.getLsbD 0) r f.dst f.va f.vb f.ve)
  | 0x4B#8 => do
       let t ← FT.ofBits (lo2 f.min)
       match hi2 f.min with
       | 0#2 => some (.absVF f.c t f.dst f.va)
       | 1#2 => some (.negVF f.c t f.dst f.va)
       | 2#2 => some (.copysignV f.c t f.dst f.va f.vb)
       | _ => none
  | 0x4C#8 => do let t ← FT.ofBits (lo2 f.min); some (.classV f.c t f.nd f.va (f.imm.extractLsb' 0 10))
  | _ => none

/-- Uniform float, 0x60-0x67 (R59). -/
def decodeFltS (f : Fields) : Option Instr :=
  match f.maj with
  | 0x60#8 => do
       let t ← FT.ofBits (lo2 f.min); let r ← Rnd.ofBits (lo2 f.mod)
       some (.addSF f.c t (f.min.getLsbD 2) r f.dst f.ua f.ub)
  | 0x61#8 => do
       let t ← FT.ofBits (lo2 f.min); let r ← Rnd.ofBits (lo2 f.mod)
       some (.subSF f.c t (f.min.getLsbD 2) r f.dst f.ua f.ub)
  | 0x62#8 => do
       let t ← FT.ofBits (lo2 f.min); let r ← Rnd.ofBits (lo2 f.mod)
       some (.mulSF f.c t (f.min.getLsbD 2) r f.dst f.ua f.ub)
  | 0x63#8 => do
       let t ← FT.ofBits (lo2 f.min); let r ← Rnd.ofBits (lo2 f.mod)
       some (.fmaS f.c t (f.min.getLsbD 2) r f.dst f.ua f.ub f.ue)
  | 0x64#8 => do
       let t ← FT.ofBits (lo2 f.min)
       match hi2 f.min with
       | 0#2 => some (.minSF f.c t f.dst f.ua f.ub)
       | 1#2 => some (.maxSF f.c t f.dst f.ua f.ub)
       | 2#2 => some (.minnumS f.c t f.dst f.ua f.ub)
       | _ => some (.maxnumS f.c t f.dst f.ua f.ub)
  | 0x65#8 => do
       let cond ← FCond.ofBits f.min; let cmb ← Cmb.ofBits (lo3 f.mod)
       some (.cmpSF f.c (f.mod.getLsbD 3) cond cmb f.nd f.ne f.ua f.ub)
  | 0x66#8 => do
       let t ← FT.ofBits (lo2 f.min); let r ← Rnd.ofBits (lo2 f.mod)
       match hi2 f.min with
       | 0#2 => some (.rcpS f.c t r f.dst f.ua)
       | 1#2 => some (.sqrtS f.c t r f.dst f.ua)
       | 2#2 => some (.divSF f.c t r f.dst f.ua f.ub)
       | _ => none
  | 0x67#8 => do
       let t ← FT.ofBits (lo2 f.min)
       match hi2 f.min with
       | 0#2 => some (.absSF f.c t f.dst f.ua)
       | 1#2 => some (.negSF f.c t f.dst f.ua)
       | 2#2 => some (.copysignS f.c t f.dst f.ua f.ub)
       | _ => none
  | _ => none

/-- Packed narrow, 0x50-0x57 (R57). -/
def decodePack (f : Fields) : Option Instr :=
  match f.maj with
  | 0x50#8 => some (.addVQ f.c (f.min.getLsbD 0) (lo2 f.mod) f.dst f.va f.vb)
  | 0x51#8 => some (.subVQ f.c (f.min.getLsbD 0) (lo2 f.mod) f.dst f.va f.vb)
  | 0x52#8 => some (.mulVQ f.c (f.min.getLsbD 0) (lo2 f.mod) f.dst f.va f.vb)
  | 0x53#8 => some (.fmaVQ f.c (f.min.getLsbD 0) (lo2 f.mod) f.dst f.va f.vb f.ve)
  | 0x54#8 =>
    match f.min with
    | 0#4 => some (.minVQ f.c (lo2 f.mod) f.dst f.va f.vb)
    | 1#4 => some (.maxVQ f.c (lo2 f.mod) f.dst f.va f.vb)
    | _ => none
  | 0x55#8 =>
    match f.min with
    | 0#4 => some (.dotVQ f.c (lo2 f.mod) f.dst f.va f.vb f.ve)
    | _ => none
  | 0x56#8 =>
    match f.min with
    | 0#4 => some (.absVQ f.c (lo2 f.mod) f.dst f.va)
    | 1#4 => some (.negVQ f.c (lo2 f.mod) f.dst f.va)
    | _ => none
  | _ => none

/-- Conversions, 0x58-0x5F (R58). -/
def decodeCvt (f : Fields) : Option Instr :=
  match f.maj with
  | 0x58#8 => do
       let dt ← FT.ofBits (hi2 f.min); let st ← FT.ofBits (lo2 f.min); let r ← Rnd.ofBits (lo2 f.mod)
       if dt = st then none else some (.cvtFloatFloat f.c dt st r f.dst f.va)
  | 0x59#8 => do
       let dt ← IT.ofBits (hi2 f.min); let st ← FT.ofBits (lo2 f.min); let r ← Rnd.ofBits (lo2 f.mod)
       some (.cvtFloatInt f.c dt st r f.dst f.va)
  | 0x5A#8 => do
       let dt ← FT.ofBits (hi2 f.min); let st ← IT.ofBits (lo2 f.min); let r ← Rnd.ofBits (lo2 f.mod)
       some (.cvtIntFloat f.c dt st r f.dst f.va)
  | 0x5B#8 => do let st ← FT.ofBits (lo2 f.min); some (.cvtQFloat f.c st (lo2 f.mod) (f.imm.extractLsb' 0 3) f.dst f.va f.ve)
  | 0x5C#8 => do let dt ← FT.ofBits (hi2 f.min); some (.cvtFloatQ f.c dt (lo2 f.mod) (f.imm.extractLsb' 0 3) f.dst f.va)
  | 0x5D#8 => do let dt ← NT.ofBits (lo2 f.min); some (.cvtNarrow f.c (f.min.getLsbD 3) (f.min.getLsbD 2) dt f.dst f.va)
  | _ => none

/-- Cross-lane, 0x68-0x6F (R60). -/
def decodeCross (f : Fields) : Option Instr :=
  match f.maj with
  | 0x68#8 => do let md ← ShflMode.ofBits (lo2 f.min); some (.shfl f.c (f.min.getLsbD 3) md f.dst f.va f.vb)
  | 0x69#8 =>
    match f.min with
    | 0#4 => some (.voteAll f.c f.nd f.na)
    | 1#4 => some (.voteAny f.c f.nd f.na)
    | 2#4 => some (.voteEq f.c f.nd f.na)
    | 3#4 => some (.voteBallot f.c f.dst f.na)
    | _ => none
  | 0x6A#8 => do let op ← RedOp.ofBits (lo3 f.min); some (.reduceInt f.c op f.dst f.va)
  | 0x6B#8 => do let op ← FRedOp.ofBits (lo2 f.min); some (.reduceFloat f.c (f.min.getLsbD 2) op f.dst f.va)
  | 0x6C#8 => do let op ← RedOp.ofBits (lo3 f.min); some (.scanInt f.c (f.min.getLsbD 3) op f.dst f.va)
  | 0x6D#8 => do let op ← FRedOp.ofBits (lo2 f.min); some (.scanFloat f.c (f.min.getLsbD 3) (f.min.getLsbD 2) op f.dst f.va)
  | 0x6E#8 => do let ty ← MatchTy.ofBits f.min; some (.matchLanes f.c ty f.dst f.va)
  | _ => none

/-- Memory and synchronisation, 0x70-0x8F (R61, R62). -/
def decodeMem (f : Fields) : Option Instr :=
  match f.maj with
  | 0x70#8 => do
       let ac ← AC.ofBits (lo2 f.min); let fl ← Flg.ofBits (hi2 f.mod); let m ← MemOp.ofBits f.imm
       if f.min.getLsbD 2 then (if ac = .uni then some (.ldgS f.c fl m f.dst f.ua) else none)
       else some (.ldgV f.c fl ac m f.dst (Src.ofBase f.imm ac f.a))
  | 0x72#8 => do
       let ac ← AC.ofBits (lo2 f.min); let fl ← Flg.ofBits (hi2 f.mod); let m ← MemOp.ofBits f.imm
       if f.min.getLsbD 2 then (if ac = .uni then some (.ldtmS f.c fl m f.dst f.ua) else none)
       else some (.ldtmV f.c fl ac m f.dst (Src.ofBase f.imm ac f.a))
  | 0x74#8 => do
       let ac ← AC.ofBits (lo2 f.min); let fl ← Flg.ofBits (hi2 f.mod); let m ← MemOp.ofBits f.imm
       if f.min.getLsbD 2 then (if ac = .uni then some (.ldcS f.c fl m f.dst f.ua) else none)
       else some (.ldcV f.c fl ac m f.dst (Src.ofBase f.imm ac f.a))
  | 0x71#8 => do
       let ac ← AC.ofBits (lo2 f.min); let fl ← Flg.ofBits (hi2 f.mod); let m ← MemOp.ofBits f.imm
       if f.min.getLsbD 2 then some (.stgS f.c fl ac m (Src.ofBase f.imm ac f.a) f.ub)
       else some (.stgV f.c fl ac m (Src.ofBase f.imm ac f.a) f.vb)
  | 0x73#8 => do
       let ac ← AC.ofBits (lo2 f.min); let fl ← Flg.ofBits (hi2 f.mod); let m ← MemOp.ofBits f.imm
       if f.min.getLsbD 2 then some (.sttmS f.c fl ac m (Src.ofBase f.imm ac f.a) f.ub)
       else some (.sttmV f.c fl ac m (Src.ofBase f.imm ac f.a) f.vb)
  | 0x75#8 => do
       let ac ← AC.ofBits (lo2 f.min); let fl ← Flg.ofBits (hi2 f.mod); let m ← MemOp.ofBits f.imm
       some (.stmsk f.c fl ac m (Src.ofBase f.imm ac f.a) f.vb f.ve)
  | 0x76#8 => do
       let op ← AtomOp.ofBits f.min; let fl ← Flg.ofBits (hi2 f.mod); let m ← AtomFld.ofBits f.imm
       some (.atom f.c fl op m f.dst (Src.ofBase f.imm m.ac f.a) f.vb f.ve)
  | 0x78#8 => do
       let op ← AtomOp.ofBits f.min; let fl ← Flg.ofBits (hi2 f.mod); let m ← AtomFld.ofBits f.imm
       some (.atomtm f.c fl op m f.dst (Src.ofBase f.imm m.ac f.a) f.vb f.ve)
  | 0x77#8 => do
       let op ← AtomOp.ofBits f.min; let fl ← Flg.ofBits (hi2 f.mod); let m ← AtomFld.ofBits f.imm
       some (.red f.c fl op m (Src.ofBase f.imm m.ac f.a) f.vb)
  | 0x79#8 =>
    match f.min with
    | 0#4 => do let sc ← Scope.ofBits (lo3 f.mod); some (.publish f.c sc)
    | 1#4 => do let sc ← Scope.ofBits (lo3 f.mod); some (.adopt f.c sc)
    | 2#4 => do let sc ← Scope.ofBits (lo3 f.mod); some (.fence f.c sc)
    | _ => none
  | 0x7A#8 =>
    match f.min with
    | 0#4 => do let fl ← Flg.ofBits (hi2 f.mod); some (.pinLines f.c fl f.dst f.ua f.ub)
    | 1#4 => do let fl ← Flg.ofBits (hi2 f.mod); some (.unpinLines f.c fl f.dst f.ua f.ub)
    | _ => none
  | 0x7B#8 =>
    match f.min with
    | 0#4 => some (.barInit f.c f.ua f.ub)
    | 1#4 => do let sc ← Scope.ofBits (lo3 f.mod); some (.barArrive f.c sc f.ua)
    | 2#4 => some (.barExpect f.c f.ua f.ub)
    | 3#4 => do let sc ← Scope.ofBits (lo3 f.mod); some (.barWait f.c sc f.ua)
    | 4#4 => do let sc ← Scope.ofBits (lo3 f.mod); some (.barTest f.c sc f.nd f.ua)
    | _ => none
  | 0x7C#8 =>
    match f.min with
    | 0#4 => some (.chinit f.c f.ne f.ua f.ub)
    | 1#4 => some (.chres f.c f.ne f.dst)
    | 2#4 => do let sc ← Scope.ofBits (lo3 f.mod); some (.chcommit f.c sc f.ne)
    | 3#4 => do let sc ← Scope.ofBits (lo3 f.mod); some (.chtake f.c sc f.ne f.dst)
    | 4#4 => some (.chfree f.c f.ne)
    | _ => none
  | 0x7D#8 =>
    match f.min with
    | 0#4 => some (.cpyG2t f.c f.ua f.ub f.ue (f.imm.extractLsb' 0 18))
    | 1#4 => some (.cpyT2g f.c f.ua f.ub f.ue (f.imm.extractLsb' 0 18))
    | 2#4 => some (.cpyG2g f.c f.ua f.ub f.ue (f.imm.extractLsb' 0 18))
    | 3#4 => some (.cpyT2t f.c f.ua f.ub f.ue (f.imm.extractLsb' 0 18))
    | _ => none
  | 0x7E#8 =>
    match f.min with
    | 0#4 => some (.vgrow f.c f.ua)
    | 1#4 => some (.vshrink f.c f.ua)
    | _ => none
  | _ => none

/-- Matrix, calls, queues, system and fabric, 0x90-0xBB (R63, R269-R291, R422-R425). -/
def decodeSys (f : Fields) : Option Instr :=
  match f.maj with
  | 0x90#8 =>
    match f.min with
    | 0#4 => some (.obres f.c f.ne f.ua)
    | 1#4 => some (.obrel f.c f.ne)
    | _ => none
  | 0x91#8 =>
    match f.min with
    | 0#4 => some (.obldG f.c f.ne f.ua (f.imm.extractLsb' 0 18))
    | 1#4 => some (.obldTm f.c f.ne f.ua (f.imm.extractLsb' 0 18))
    | _ => none
  | 0x92#8 => do
       let fl ← Flg.ofBits (hi2 f.mod); let cnt ← Cnt.ofBits (f.imm.extractLsb' 30 2)
       some (.ldfrag f.c fl (f.min.getLsbD 1) (f.min.getLsbD 0) cnt (f.imm.extractLsb' 18 12) (f.imm.extractLsb' 0 18) f.dst (f.aua (f.min.getLsbD 1)))
  | 0x93#8 => do
       let fl ← Flg.ofBits (hi2 f.mod)
       some (.mma f.c fl (f.min.getLsbD 2) (lo2 f.min) (f.mod.getLsbD 0) (f.imm.extractLsb' 0 8) (f.imm.extractLsb' 8 8) f.nd f.na f.nb)
  | 0x94#8 =>
    match f.min with
    | 0#4 => do let fl ← Flg.ofBits (hi2 f.mod); some (.drainF64 f.c fl (f.imm.extractLsb' 0 20) f.na f.ub)
    | 2#4 => do let fl ← Flg.ofBits (hi2 f.mod); some (.drainI64 f.c fl (f.imm.extractLsb' 0 20) f.na f.ub)
    | 1#4 => do
       let fl ← Flg.ofBits (hi2 f.mod)
       some (.drainQ f.c fl (lo2 f.mod) (f.imm.extractLsb' 0 20) (f.imm.getLsbD 27) (f.imm.extractLsb' 28 4) (f.imm.extractLsb' 25 2) f.na f.ub)
    | _ => none
  | 0x95#8 =>
    match f.min with
    | 0#4 => some (.xzero f.c f.nd)
    | _ => none
  | 0x96#8 =>
    match f.min with
    | 0#4 => some (.xstatNan f.c f.dst f.na)
    | 1#4 => some (.xstatOvf f.c f.dst f.na)
    | _ => none
  | 0x97#8 =>
    match f.min with
    | 0#4 => do let fl ← Flg.ofBits (hi2 f.mod); some (.xget f.c fl f.dst f.na f.ub)
    | 1#4 => some (.xput f.c f.nd f.va f.ub)
    | _ => none
  | 0xA0#8 =>
    match f.min with
    | 0#4 => some (.ccall f.c f.na f.ub)
    | _ => none
  | 0xA1#8 =>
    match f.min with
    | 0#4 => do let fl ← Flg.ofBits (hi2 f.mod); some (.crecv f.c fl f.dst f.na)
    | _ => none
  | 0xA2#8 =>
    match f.min with
    | 0#4 => some (.tokWait f.c f.ua)
    | 1#4 => some (.tokRead f.c f.dst)
    | 2#4 => some (.tokResume f.c f.dst f.ua f.ub)
    | _ => none
  | 0xA3#8 =>
    match f.min with
    | 0#4 => do let sc ← Scope.ofBits (lo3 f.mod); some (.cbarArrive f.c sc f.ua)
    | 1#4 => do let sc ← Scope.ofBits (lo3 f.mod); some (.cbarWait f.c sc f.ua)
    | _ => none
  | 0xA8#8 =>
    match f.min with
    | 0#4 => do let fl ← Flg.ofBits (hi2 f.mod); some (.enq f.c fl f.dst f.ua f.ub)
    | _ => none
  | 0xA9#8 =>
    match f.min with
    | 0#4 => do let fl ← Flg.ofBits (hi2 f.mod); some (.launchGrid f.c fl f.dst f.ua f.ub)
    | _ => none
  | 0xAA#8 => do let cond ← WCond.ofBits f.min; some (.waitv f.c cond f.nd f.ua f.ub f.ue)
  | 0xAB#8 =>
    match f.min with
    | 0#4 => some (.setdl f.c f.ua)
    | _ => none
  | 0xB0#8 =>
    match f.min with
    | 0#4 => some (.getsr f.c f.dst (f.imm.extractLsb' 0 12))
    | 1#4 => some (.setsr f.c (f.imm.extractLsb' 0 12) f.ua)
    | _ => none
  | 0xB1#8 =>
    match f.min with
    | 0#4 => some (.tlbinvAsid f.c f.ua)
    | 1#4 => some (.tlbinvPage f.c f.ua f.ub)
    | 2#4 => some (.tlbinvSlice f.c f.ua)
    | _ => none
  | 0xB2#8 =>
    match f.min with
    | 0#4 => do let fl ← Flg.ofBits (hi2 f.mod); some (.xlat f.c fl f.dst f.ua f.ub)
    | _ => none
  | 0xB3#8 =>
    match f.min with
    | 0#4 => some (.dbgStop f.c f.dst f.ua)
    | 1#4 => some (.dbgResume f.c f.dst f.ua)
    | 2#4 => some (.dbgRd f.c (f.imm.extractLsb' 20 4) (f.imm.extractLsb' 0 8) f.dst f.ua)
    | 3#4 => some (.dbgWr f.c (f.imm.extractLsb' 20 4) (f.imm.extractLsb' 0 8) f.dst f.ua f.ub)
    | 4#4 => some (.dbgWrForce f.c (f.imm.extractLsb' 20 4) (f.imm.extractLsb' 0 8) f.dst f.ua f.ub)
    | 5#4 => some (.dbgActResume f.c f.dst f.ua f.ub)
    | _ => none
  | 0xB8#8 =>
    match f.min with
    | 0#4 => do let fl ← Flg.ofBits (hi2 f.mod); some (.collAllreduce f.c fl f.dst f.ua)
    | 1#4 => do let fl ← Flg.ofBits (hi2 f.mod); some (.collAllgather f.c fl f.dst f.ua)
    | 2#4 => do let fl ← Flg.ofBits (hi2 f.mod); some (.collRedscat f.c fl f.dst f.ua)
    | 3#4 => do let fl ← Flg.ofBits (hi2 f.mod); some (.collBcast f.c fl f.dst f.ua)
    | _ => none
  | _ => none

/-- R65: every MAJ the tables reserve. -/
def majReserved (m : Nat) : Bool :=
  decide (0xBC ≤ m) || (decide (0x0C ≤ m) && decide (m ≤ 0x0F)) || (decide (0x24 ≤ m) && decide (m ≤ 0x26))
  || (decide (0x28 ≤ m) && decide (m ≤ 0x2B)) || m == 0x2F || m == 0x34 || (decide (0x4D ≤ m) && decide (m ≤ 0x4F)) || m == 0x57
  || m == 0x5E || m == 0x5F || m == 0x6F || (decide (0x7F ≤ m) && decide (m ≤ 0x8F)) || (decide (0x98 ≤ m) && decide (m ≤ 0x9F))
  || (decide (0xA4 ≤ m) && decide (m ≤ 0xA7)) || (decide (0xAC ≤ m) && decide (m ≤ 0xAF)) || (decide (0xB4 ≤ m) && decide (m ≤ 0xB7))
  || (decide (0xB9 ≤ m) && decide (m ≤ 0xBB))

/-- The instruction that MAJ, MIN and the fields name, before R16-R21 are checked. -/
def rawDecode (f : Fields) : Option Instr :=
  match f.maj.extractLsb' 4 4 with
  | 0#4 => decodeControl f
  | 1#4 => decodeIntV f
  | 2#4 => decodeAffine f
  | 3#4 => decodeIntS f
  | 4#4 => decodeFltV f
  | 5#4 => if f.maj.getLsbD 3 then decodeCvt f else decodePack f
  | 6#4 => if f.maj.getLsbD 3 then decodeCross f else decodeFltS f
  | 7#4 => decodeMem f
  | 9#4 | 10#4 | 11#4 => decodeSys f
  | _ => none

/-- The fields of an instruction's word, from the tables of spec/02; none for a row that is no instruction word. -/
def encodeFields : Instr → Option Fields
  | .nop c =>
    some { maj := 0x00#8, min := 0#4, c := c, d := 0#9, a := 0#9, b := 0#9, e := 0#9, mod := 0#4, imm := 0#32 }
  | .bra c imm =>
    some { maj := 0x01#8, min := 0#4, c := c, d := 0#9, a := 0#9, b := 0#9, e := 0#9, mod := 0#4, imm := imm }
  | .brxV c a =>
    some { maj := 0x02#8, min := 0#4, c := c, d := 0#9, a := a.code, b := 0#9, e := 0#9, mod := 0#4, imm := immOf [a] }
  | .brxS c a =>
    some { maj := 0x02#8, min := 1#4, c := c, d := 0#9, a := a.code, b := 0#9, e := 0#9, mod := 0#4, imm := immOf [a] }
  | .call c d imm =>
    some { maj := 0x03#8, min := 0#4, c := c, d := d.code, a := 0#9, b := 0#9, e := 0#9, mod := 0#4, imm := imm }
  | .callIndirect c d a =>
    some { maj := 0x03#8, min := 1#4, c := c, d := d.code, a := a.code, b := 0#9, e := 0#9, mod := 0#4, imm := immOf [a] }
  | .ret c a =>
    some { maj := 0x04#8, min := 0#4, c := c, d := 0#9, a := a.code, b := 0#9, e := 0#9, mod := 0#4, imm := immOf [a] }
  | .exit c =>
    some { maj := 0x05#8, min := 0#4, c := c, d := 0#9, a := 0#9, b := 0#9, e := 0#9, mod := 0#4, imm := 0#32 }
  | .yieldPath c =>
    some { maj := 0x06#8, min := 0#4, c := c, d := 0#9, a := 0#9, b := 0#9, e := 0#9, mod := 0#4, imm := 0#32 }
  | .jset c j =>
    some { maj := 0x07#8, min := 0#4, c := c, d := codeOf j, a := 0#9, b := 0#9, e := 0#9, mod := 0#4, imm := 0#32 }
  | .jadd c j =>
    some { maj := 0x07#8, min := 1#4, c := c, d := codeOf j, a := 0#9, b := 0#9, e := 0#9, mod := 0#4, imm := 0#32 }
  | .jsub c j =>
    some { maj := 0x07#8, min := 2#4, c := c, d := codeOf j, a := 0#9, b := 0#9, e := 0#9, mod := 0#4, imm := 0#32 }
  | .jget c d j =>
    some { maj := 0x07#8, min := 3#4, c := c, d := d.code, a := codeOf j, b := 0#9, e := 0#9, mod := 0#4, imm := 0#32 }
  | .jput c j a =>
    some { maj := 0x07#8, min := 4#4, c := c, d := codeOf j, a := a.code, b := 0#9, e := 0#9, mod := 0#4, imm := immOf [a] }
  | .rejoin c j =>
    some { maj := 0x08#8, min := 0#4, c := c, d := 0#9, a := codeOf j, b := 0#9, e := 0#9, mod := 0#4, imm := 0#32 }
  | .rejoinTmo c p j b =>
    some { maj := 0x08#8, min := 1#4, c := c, d := codeOf p, a := codeOf j, b := b.code, e := 0#9, mod := 0#4, imm := immOf [b] }
  | .brk c code =>
    some { maj := 0x09#8, min := 0#4, c := c, d := 0#9, a := 0#9, b := 0#9, e := 0#9, mod := 0#4, imm := code.setWidth 32 }
  | .trap c code =>
    some { maj := 0x0A#8, min := 0#4, c := c, d := 0#9, a := 0#9, b := 0#9, e := 0#9, mod := 0#4, imm := code.setWidth 32 }
  | .hret c =>
    some { maj := 0x0B#8, min := 0#4, c := c, d := 0#9, a := 0#9, b := 0#9, e := 0#9, mod := 0#4, imm := 0#32 }
  | .addV c t sat d a b =>
    some { maj := 0x10#8, min := 0#1 ++ BitVec.ofBool sat ++ t.bits, c := c, d := d.code, a := a.code, b := b.code, e := 0#9, mod := 0#4, imm := immOf [a, b] }
  | .subV c t sat d a b =>
    some { maj := 0x11#8, min := 0#1 ++ BitVec.ofBool sat ++ t.bits, c := c, d := d.code, a := a.code, b := b.code, e := 0#9, mod := 0#4, imm := immOf [a, b] }
  | .mulV c t hi d a b =>
    some { maj := 0x12#8, min := 0#1 ++ BitVec.ofBool hi ++ t.bits, c := c, d := d.code, a := a.code, b := b.code, e := 0#9, mod := 0#4, imm := immOf [a, b] }
  | .madV c t d a b e =>
    some { maj := 0x13#8, min := 0#2 ++ t.bits, c := c, d := d.code, a := a.code, b := b.code, e := e.code, mod := 0#4, imm := immOf [a, b, e] }
  | .addcV c t d a b p =>
    some { maj := 0x14#8, min := 0#2 ++ t.bits, c := c, d := d.code, a := a.code, b := b.code, e := codeOf p, mod := 0#4, imm := immOf [a, b] }
  | .subcV c t d a b p =>
    some { maj := 0x14#8, min := 1#2 ++ t.bits, c := c, d := d.code, a := a.code, b := b.code, e := codeOf p, mod := 0#4, imm := immOf [a, b] }
  | .minV c t d a b =>
    some { maj := 0x15#8, min := 0#2 ++ t.bits, c := c, d := d.code, a := a.code, b := b.code, e := 0#9, mod := 0#4, imm := immOf [a, b] }
  | .maxV c t d a b =>
    some { maj := 0x15#8, min := 1#2 ++ t.bits, c := c, d := d.code, a := a.code, b := b.code, e := 0#9, mod := 0#4, imm := immOf [a, b] }
  | .absV c w64 d a =>
    some { maj := 0x15#8, min := 2#2 ++ BitVec.ofBool w64 ++ 0#1, c := c, d := d.code, a := a.code, b := 0#9, e := 0#9, mod := 0#4, imm := immOf [a] }
  | .negV c w64 d a =>
    some { maj := 0x15#8, min := 3#2 ++ BitVec.ofBool w64 ++ 0#1, c := c, d := d.code, a := a.code, b := 0#9, e := 0#9, mod := 0#4, imm := immOf [a] }
  | .andV c w64 d a b =>
    some { maj := 0x16#8, min := BitVec.ofBool w64 ++ 0#3, c := c, d := d.code, a := a.code, b := b.code, e := 0#9, mod := 0#4, imm := immOf [a, b] }
  | .orV c w64 d a b =>
    some { maj := 0x16#8, min := BitVec.ofBool w64 ++ 1#3, c := c, d := d.code, a := a.code, b := b.code, e := 0#9, mod := 0#4, imm := immOf [a, b] }
  | .xorV c w64 d a b =>
    some { maj := 0x16#8, min := BitVec.ofBool w64 ++ 2#3, c := c, d := d.code, a := a.code, b := b.code, e := 0#9, mod := 0#4, imm := immOf [a, b] }
  | .andnV c w64 d a b =>
    some { maj := 0x16#8, min := BitVec.ofBool w64 ++ 3#3, c := c, d := d.code, a := a.code, b := b.code, e := 0#9, mod := 0#4, imm := immOf [a, b] }
  | .ornV c w64 d a b =>
    some { maj := 0x16#8, min := BitVec.ofBool w64 ++ 4#3, c := c, d := d.code, a := a.code, b := b.code, e := 0#9, mod := 0#4, imm := immOf [a, b] }
  | .xnorV c w64 d a b =>
    some { maj := 0x16#8, min := BitVec.ofBool w64 ++ 5#3, c := c, d := d.code, a := a.code, b := b.code, e := 0#9, mod := 0#4, imm := immOf [a, b] }
  | .notV c w64 d a =>
    some { maj := 0x16#8, min := BitVec.ofBool w64 ++ 6#3, c := c, d := d.code, a := a.code, b := 0#9, e := 0#9, mod := 0#4, imm := immOf [a] }
  | .shlV c w64 d a b =>
    some { maj := 0x17#8, min := BitVec.ofBool w64 ++ 0#3, c := c, d := d.code, a := a.code, b := b.code, e := 0#9, mod := 0#4, imm := immOf [a, b] }
  | .shrV c w64 d a b =>
    some { maj := 0x17#8, min := BitVec.ofBool w64 ++ 1#3, c := c, d := d.code, a := a.code, b := b.code, e := 0#9, mod := 0#4, imm := immOf [a, b] }
  | .sarV c w64 d a b =>
    some { maj := 0x17#8, min := BitVec.ofBool w64 ++ 2#3, c := c, d := d.code, a := a.code, b := b.code, e := 0#9, mod := 0#4, imm := immOf [a, b] }
  | .shfV c right clamp d a b e =>
    some { maj := 0x18#8, min := 0#2 ++ BitVec.ofBool clamp ++ BitVec.ofBool right, c := c, d := d.code, a := a.code, b := b.code, e := e.code, mod := 0#4, imm := immOf [a, b, e] }
  | .bfeV c sg d a b e =>
    some { maj := 0x19#8, min := 0#3 ++ BitVec.ofBool (!sg), c := c, d := d.code, a := a.code, b := b.code, e := e.code, mod := 0#4, imm := immOf [a, b, e] }
  | .bfiV c d a b e =>
    some { maj := 0x19#8, min := 2#4, c := c, d := d.code, a := a.code, b := b.code, e := e.code, mod := 0#4, imm := immOf [a, b, e] }
  | .brevV c d a =>
    some { maj := 0x19#8, min := 3#4, c := c, d := d.code, a := a.code, b := 0#9, e := 0#9, mod := 0#4, imm := immOf [a] }
  | .popcV c w64 d a =>
    some { maj := 0x1A#8, min := 0#1 ++ BitVec.ofBool w64 ++ 0#2, c := c, d := d.code, a := a.code, b := 0#9, e := 0#9, mod := 0#4, imm := immOf [a] }
  | .clzV c w64 d a =>
    some { maj := 0x1A#8, min := 0#1 ++ BitVec.ofBool w64 ++ 1#2, c := c, d := d.code, a := a.code, b := 0#9, e := 0#9, mod := 0#4, imm := immOf [a] }
  | .ctzV c w64 d a =>
    some { maj := 0x1A#8, min := 0#1 ++ BitVec.ofBool w64 ++ 2#2, c := c, d := d.code, a := a.code, b := 0#9, e := 0#9, mod := 0#4, imm := immOf [a] }
  | .bgatV c d a b e =>
    some { maj := 0x1B#8, min := 0#4, c := c, d := d.code, a := a.code, b := b.code, e := e.code, mod := 0#4, imm := immOf [a, b, e] }
  | .cmpV c w64 cond cmb pd pc a b =>
    some { maj := 0x1C#8, min := cond.bits, c := c, d := codeOf pd, a := a.code, b := b.code, e := codeOf pc, mod := cmbMod w64 cmb, imm := immOf [a, b] }
  | .movV c w64 d a =>
    some { maj := 0x1D#8, min := BitVec.ofBool w64 ++ 0#3, c := c, d := d.code, a := a.code, b := 0#9, e := 0#9, mod := 0#4, imm := immOf [a] }
  | .selV c w64 d a b p =>
    some { maj := 0x1D#8, min := BitVec.ofBool w64 ++ 1#3, c := c, d := d.code, a := a.code, b := b.code, e := codeOf p, mod := 0#4, imm := immOf [a, b] }
  | .spread c w64 d a =>
    some { maj := 0x1E#8, min := 0#3 ++ BitVec.ofBool w64, c := c, d := d.code, a := a.code, b := 0#9, e := 0#9, mod := 0#4, imm := immOf [a] }
  | .mat c w64 d a =>
    some { maj := 0x1E#8, min := 1#3 ++ BitVec.ofBool w64, c := c, d := d.code, a := a.code, b := 0#9, e := 0#9, mod := 0#4, imm := immOf [a] }
  | .divV c t d a b =>
    some { maj := 0x1F#8, min := 0#2 ++ t.bits, c := c, d := d.code, a := a.code, b := b.code, e := 0#9, mod := 0#4, imm := immOf [a, b] }
  | .remV c t d a b =>
    some { maj := 0x1F#8, min := 1#2 ++ t.bits, c := c, d := d.code, a := a.code, b := b.code, e := 0#9, mod := 0#4, imm := immOf [a, b] }
  | .addS c t sat d a b =>
    some { maj := 0x30#8, min := 0#1 ++ BitVec.ofBool sat ++ t.bits, c := c, d := d.code, a := a.code, b := b.code, e := 0#9, mod := 0#4, imm := immOf [a, b] }
  | .subS c t sat d a b =>
    some { maj := 0x31#8, min := 0#1 ++ BitVec.ofBool sat ++ t.bits, c := c, d := d.code, a := a.code, b := b.code, e := 0#9, mod := 0#4, imm := immOf [a, b] }
  | .mulS c t hi d a b =>
    some { maj := 0x32#8, min := 0#1 ++ BitVec.ofBool hi ++ t.bits, c := c, d := d.code, a := a.code, b := b.code, e := 0#9, mod := 0#4, imm := immOf [a, b] }
  | .madS c t d a b e =>
    some { maj := 0x33#8, min := 0#2 ++ t.bits, c := c, d := d.code, a := a.code, b := b.code, e := e.code, mod := 0#4, imm := immOf [a, b, e] }
  | .minS c t d a b =>
    some { maj := 0x35#8, min := 0#2 ++ t.bits, c := c, d := d.code, a := a.code, b := b.code, e := 0#9, mod := 0#4, imm := immOf [a, b] }
  | .maxS c t d a b =>
    some { maj := 0x35#8, min := 1#2 ++ t.bits, c := c, d := d.code, a := a.code, b := b.code, e := 0#9, mod := 0#4, imm := immOf [a, b] }
  | .absS c w64 d a =>
    some { maj := 0x35#8, min := 2#2 ++ BitVec.ofBool w64 ++ 0#1, c := c, d := d.code, a := a.code, b := 0#9, e := 0#9, mod := 0#4, imm := immOf [a] }
  | .negS c w64 d a =>
    some { maj := 0x35#8, min := 3#2 ++ BitVec.ofBool w64 ++ 0#1, c := c, d := d.code, a := a.code, b := 0#9, e := 0#9, mod := 0#4, imm := immOf [a] }
  | .andS c w64 d a b =>
    some { maj := 0x36#8, min := BitVec.ofBool w64 ++ 0#3, c := c, d := d.code, a := a.code, b := b.code, e := 0#9, mod := 0#4, imm := immOf [a, b] }
  | .orS c w64 d a b =>
    some { maj := 0x36#8, min := BitVec.ofBool w64 ++ 1#3, c := c, d := d.code, a := a.code, b := b.code, e := 0#9, mod := 0#4, imm := immOf [a, b] }
  | .xorS c w64 d a b =>
    some { maj := 0x36#8, min := BitVec.ofBool w64 ++ 2#3, c := c, d := d.code, a := a.code, b := b.code, e := 0#9, mod := 0#4, imm := immOf [a, b] }
  | .andnS c w64 d a b =>
    some { maj := 0x36#8, min := BitVec.ofBool w64 ++ 3#3, c := c, d := d.code, a := a.code, b := b.code, e := 0#9, mod := 0#4, imm := immOf [a, b] }
  | .ornS c w64 d a b =>
    some { maj := 0x36#8, min := BitVec.ofBool w64 ++ 4#3, c := c, d := d.code, a := a.code, b := b.code, e := 0#9, mod := 0#4, imm := immOf [a, b] }
  | .xnorS c w64 d a b =>
    some { maj := 0x36#8, min := BitVec.ofBool w64 ++ 5#3, c := c, d := d.code, a := a.code, b := b.code, e := 0#9, mod := 0#4, imm := immOf [a, b] }
  | .notS c w64 d a =>
    some { maj := 0x36#8, min := BitVec.ofBool w64 ++ 6#3, c := c, d := d.code, a := a.code, b := 0#9, e := 0#9, mod := 0#4, imm := immOf [a] }
  | .shlS c w64 d a b =>
    some { maj := 0x37#8, min := BitVec.ofBool w64 ++ 0#3, c := c, d := d.code, a := a.code, b := b.code, e := 0#9, mod := 0#4, imm := immOf [a, b] }
  | .shrS c w64 d a b =>
    some { maj := 0x37#8, min := BitVec.ofBool w64 ++ 1#3, c := c, d := d.code, a := a.code, b := b.code, e := 0#9, mod := 0#4, imm := immOf [a, b] }
  | .sarS c w64 d a b =>
    some { maj := 0x37#8, min := BitVec.ofBool w64 ++ 2#3, c := c, d := d.code, a := a.code, b := b.code, e := 0#9, mod := 0#4, imm := immOf [a, b] }
  | .shfS c right clamp d a b e =>
    some { maj := 0x38#8, min := 0#2 ++ BitVec.ofBool clamp ++ BitVec.ofBool right, c := c, d := d.code, a := a.code, b := b.code, e := e.code, mod := 0#4, imm := immOf [a, b, e] }
  | .bfeS c sg d a b e =>
    some { maj := 0x39#8, min := 0#3 ++ BitVec.ofBool (!sg), c := c, d := d.code, a := a.code, b := b.code, e := e.code, mod := 0#4, imm := immOf [a, b, e] }
  | .bfiS c d a b e =>
    some { maj := 0x39#8, min := 2#4, c := c, d := d.code, a := a.code, b := b.code, e := e.code, mod := 0#4, imm := immOf [a, b, e] }
  | .brevS c d a =>
    some { maj := 0x39#8, min := 3#4, c := c, d := d.code, a := a.code, b := 0#9, e := 0#9, mod := 0#4, imm := immOf [a] }
  | .popcS c w64 d a =>
    some { maj := 0x3A#8, min := 0#1 ++ BitVec.ofBool w64 ++ 0#2, c := c, d := d.code, a := a.code, b := 0#9, e := 0#9, mod := 0#4, imm := immOf [a] }
  | .clzS c w64 d a =>
    some { maj := 0x3A#8, min := 0#1 ++ BitVec.ofBool w64 ++ 1#2, c := c, d := d.code, a := a.code, b := 0#9, e := 0#9, mod := 0#4, imm := immOf [a] }
  | .ctzS c w64 d a =>
    some { maj := 0x3A#8, min := 0#1 ++ BitVec.ofBool w64 ++ 2#2, c := c, d := d.code, a := a.code, b := 0#9, e := 0#9, mod := 0#4, imm := immOf [a] }
  | .bgatS c d a b e =>
    some { maj := 0x3B#8, min := 0#4, c := c, d := d.code, a := a.code, b := b.code, e := e.code, mod := 0#4, imm := immOf [a, b, e] }
  | .cmpS c w64 cond cmb pd pc a b =>
    some { maj := 0x3C#8, min := cond.bits, c := c, d := codeOf pd, a := a.code, b := b.code, e := codeOf pc, mod := cmbMod w64 cmb, imm := immOf [a, b] }
  | .movS c w64 d a =>
    some { maj := 0x3D#8, min := BitVec.ofBool w64 ++ 0#3, c := c, d := d.code, a := a.code, b := 0#9, e := 0#9, mod := 0#4, imm := immOf [a] }
  | .agree c w64 d a p =>
    some { maj := 0x3E#8, min := 0#3 ++ BitVec.ofBool w64, c := c, d := d.code, a := a.code, b := 0#9, e := codeOf p, mod := 0#4, imm := immOf [a] }
  | .firstLane c w64 d a =>
    some { maj := 0x3E#8, min := 1#3 ++ BitVec.ofBool w64, c := c, d := d.code, a := a.code, b := 0#9, e := 0#9, mod := 0#4, imm := immOf [a] }
  | .divS c t d a b =>
    some { maj := 0x3F#8, min := 0#2 ++ t.bits, c := c, d := d.code, a := a.code, b := b.code, e := 0#9, mod := 0#4, imm := immOf [a, b] }
  | .remS c t d a b =>
    some { maj := 0x3F#8, min := 1#2 ++ t.bits, c := c, d := d.code, a := a.code, b := b.code, e := 0#9, mod := 0#4, imm := immOf [a, b] }
  | .addA c sg bu d a b =>
    some { maj := 0x20#8, min := BitVec.ofBool bu ++ 1#2 ++ BitVec.ofBool (!sg), c := c, d := d.code, a := a.code, b := b.code, e := 0#9, mod := 0#4, imm := immOf [a, b] }
  | .subA c sg bu d a b =>
    some { maj := 0x21#8, min := BitVec.ofBool bu ++ 1#2 ++ BitVec.ofBool (!sg), c := c, d := d.code, a := a.code, b := b.code, e := 0#9, mod := 0#4, imm := immOf [a, b] }
  | .mulA c sg d a b =>
    some { maj := 0x22#8, min := 5#3 ++ BitVec.ofBool (!sg), c := c, d := d.code, a := a.code, b := b.code, e := 0#9, mod := 0#4, imm := immOf [a, b] }
  | .madA c sg d a b e =>
    some { maj := 0x23#8, min := 5#3 ++ BitVec.ofBool (!sg), c := c, d := d.code, a := a.code, b := b.code, e := e.code, mod := 0#4, imm := immOf [a, b, e] }
  | .shlA c d a b =>
    some { maj := 0x27#8, min := 8#4, c := c, d := d.code, a := a.code, b := b.code, e := 0#9, mod := 0#4, imm := immOf [a, b] }
  | .cmpA c bu cond cmb pd pc a b =>
    some { maj := 0x2C#8, min := cond.bits, c := c, d := codeOf pd, a := a.code, b := b.code, e := codeOf pc, mod := cmbMod bu cmb, imm := immOf [a, b] }
  | .movA c d a =>
    some { maj := 0x2D#8, min := 8#4, c := c, d := d.code, a := a.code, b := 0#9, e := 0#9, mod := 0#4, imm := immOf [a] }
  | .rampA c d a b =>
    some { maj := 0x2E#8, min := 0#4, c := c, d := d.code, a := a.code, b := b.code, e := 0#9, mod := 0#4, imm := immOf [a, b] }
  | .addVF c t sat r d a b =>
    some { maj := 0x40#8, min := 0#1 ++ BitVec.ofBool sat ++ t.bits, c := c, d := d.code, a := a.code, b := b.code, e := 0#9, mod := lowMod r.bits, imm := immOf [a, b] }
  | .subVF c t sat r d a b =>
    some { maj := 0x41#8, min := 0#1 ++ BitVec.ofBool sat ++ t.bits, c := c, d := d.code, a := a.code, b := b.code, e := 0#9, mod := lowMod r.bits, imm := immOf [a, b] }
  | .mulVF c t sat r d a b =>
    some { maj := 0x42#8, min := 0#1 ++ BitVec.ofBool sat ++ t.bits, c := c, d := d.code, a := a.code, b := b.code, e := 0#9, mod := lowMod r.bits, imm := immOf [a, b] }
  | .fmaV c t sat r d a b e =>
    some { maj := 0x43#8, min := 0#1 ++ BitVec.ofBool sat ++ t.bits, c := c, d := d.code, a := a.code, b := b.code, e := e.code, mod := lowMod r.bits, imm := immOf [a, b, e] }
  | .minVF c t d a b =>
    some { maj := 0x44#8, min := 0#2 ++ t.bits, c := c, d := d.code, a := a.code, b := b.code, e := 0#9, mod := 0#4, imm := immOf [a, b] }
  | .maxVF c t d a b =>
    some { maj := 0x44#8, min := 1#2 ++ t.bits, c := c, d := d.code, a := a.code, b := b.code, e := 0#9, mod := 0#4, imm := immOf [a, b] }
  | .minnumV c t d a b =>
    some { maj := 0x44#8, min := 2#2 ++ t.bits, c := c, d := d.code, a := a.code, b := b.code, e := 0#9, mod := 0#4, imm := immOf [a, b] }
  | .maxnumV c t d a b =>
    some { maj := 0x44#8, min := 3#2 ++ t.bits, c := c, d := d.code, a := a.code, b := b.code, e := 0#9, mod := 0#4, imm := immOf [a, b] }
  | .cmpVF c ty cond cmb pd pc a b =>
    some { maj := 0x45#8, min := cond.bits, c := c, d := codeOf pd, a := a.code, b := b.code, e := codeOf pc, mod := cmbMod ty cmb, imm := immOf [a, b] }
  | .cmpVF16 c ty cond cmb pd pc a b =>
    some { maj := 0x46#8, min := cond.bits, c := c, d := codeOf pd, a := a.code, b := b.code, e := codeOf pc, mod := cmbMod ty cmb, imm := immOf [a, b] }
  | .rndV c t r d a =>
    some { maj := 0x47#8, min := 0#2 ++ t.bits, c := c, d := d.code, a := a.code, b := 0#9, e := 0#9, mod := lowMod r.bits, imm := immOf [a] }
  | .rcpV c t r d a =>
    some { maj := 0x48#8, min := 0#2 ++ t.bits, c := c, d := d.code, a := a.code, b := 0#9, e := 0#9, mod := lowMod r.bits, imm := immOf [a] }
  | .sqrtV c t r d a =>
    some { maj := 0x48#8, min := 1#2 ++ t.bits, c := c, d := d.code, a := a.code, b := 0#9, e := 0#9, mod := lowMod r.bits, imm := immOf [a] }
  | .divVF c t r d a b =>
    some { maj := 0x48#8, min := 2#2 ++ t.bits, c := c, d := d.code, a := a.code, b := b.code, e := 0#9, mod := lowMod r.bits, imm := immOf [a, b] }
  | .ex2 c half d a =>
    some { maj := 0x49#8, min := 0#2 ++ BitVec.ofBool half ++ 0#1, c := c, d := d.code, a := a.code, b := 0#9, e := 0#9, mod := 0#4, imm := immOf [a] }
  | .lg2 c half d a =>
    some { maj := 0x49#8, min := 1#2 ++ BitVec.ofBool half ++ 0#1, c := c, d := d.code, a := a.code, b := 0#9, e := 0#9, mod := 0#4, imm := immOf [a] }
  | .sinpi c half d a =>
    some { maj := 0x49#8, min := 2#2 ++ BitVec.ofBool half ++ 0#1, c := c, d := d.code, a := a.code, b := 0#9, e := 0#9, mod := 0#4, imm := immOf [a] }
  | .cospi c half d a =>
    some { maj := 0x49#8, min := 3#2 ++ BitVec.ofBool half ++ 0#1, c := c, d := d.code, a := a.code, b := 0#9, e := 0#9, mod := 0#4, imm := immOf [a] }
  | .dotV c bf r d a b e =>
    some { maj := 0x4A#8, min := 0#3 ++ BitVec.ofBool bf, c := c, d := d.code, a := a.code, b := b.code, e := e.code, mod := lowMod r.bits, imm := immOf [a, b, e] }
  | .absVF c t d a =>
    some { maj := 0x4B#8, min := 0#2 ++ t.bits, c := c, d := d.code, a := a.code, b := 0#9, e := 0#9, mod := 0#4, imm := immOf [a] }
  | .negVF c t d a =>
    some { maj := 0x4B#8, min := 1#2 ++ t.bits, c := c, d := d.code, a := a.code, b := 0#9, e := 0#9, mod := 0#4, imm := immOf [a] }
  | .copysignV c t d a b =>
    some { maj := 0x4B#8, min := 2#2 ++ t.bits, c := c, d := d.code, a := a.code, b := b.code, e := 0#9, mod := 0#4, imm := immOf [a, b] }
  | .classV c t p a k =>
    some { maj := 0x4C#8, min := 0#2 ++ t.bits, c := c, d := codeOf p, a := a.code, b := 0#9, e := 0#9, mod := 0#4, imm := k.setWidth 32 }
  | .addSF c t sat r d a b =>
    some { maj := 0x60#8, min := 0#1 ++ BitVec.ofBool sat ++ t.bits, c := c, d := d.code, a := a.code, b := b.code, e := 0#9, mod := lowMod r.bits, imm := immOf [a, b] }
  | .subSF c t sat r d a b =>
    some { maj := 0x61#8, min := 0#1 ++ BitVec.ofBool sat ++ t.bits, c := c, d := d.code, a := a.code, b := b.code, e := 0#9, mod := lowMod r.bits, imm := immOf [a, b] }
  | .mulSF c t sat r d a b =>
    some { maj := 0x62#8, min := 0#1 ++ BitVec.ofBool sat ++ t.bits, c := c, d := d.code, a := a.code, b := b.code, e := 0#9, mod := lowMod r.bits, imm := immOf [a, b] }
  | .fmaS c t sat r d a b e =>
    some { maj := 0x63#8, min := 0#1 ++ BitVec.ofBool sat ++ t.bits, c := c, d := d.code, a := a.code, b := b.code, e := e.code, mod := lowMod r.bits, imm := immOf [a, b, e] }
  | .minSF c t d a b =>
    some { maj := 0x64#8, min := 0#2 ++ t.bits, c := c, d := d.code, a := a.code, b := b.code, e := 0#9, mod := 0#4, imm := immOf [a, b] }
  | .maxSF c t d a b =>
    some { maj := 0x64#8, min := 1#2 ++ t.bits, c := c, d := d.code, a := a.code, b := b.code, e := 0#9, mod := 0#4, imm := immOf [a, b] }
  | .minnumS c t d a b =>
    some { maj := 0x64#8, min := 2#2 ++ t.bits, c := c, d := d.code, a := a.code, b := b.code, e := 0#9, mod := 0#4, imm := immOf [a, b] }
  | .maxnumS c t d a b =>
    some { maj := 0x64#8, min := 3#2 ++ t.bits, c := c, d := d.code, a := a.code, b := b.code, e := 0#9, mod := 0#4, imm := immOf [a, b] }
  | .cmpSF c ty cond cmb pd pc a b =>
    some { maj := 0x65#8, min := cond.bits, c := c, d := codeOf pd, a := a.code, b := b.code, e := codeOf pc, mod := cmbMod ty cmb, imm := immOf [a, b] }
  | .rcpS c t r d a =>
    some { maj := 0x66#8, min := 0#2 ++ t.bits, c := c, d := d.code, a := a.code, b := 0#9, e := 0#9, mod := lowMod r.bits, imm := immOf [a] }
  | .sqrtS c t r d a =>
    some { maj := 0x66#8, min := 1#2 ++ t.bits, c := c, d := d.code, a := a.code, b := 0#9, e := 0#9, mod := lowMod r.bits, imm := immOf [a] }
  | .divSF c t r d a b =>
    some { maj := 0x66#8, min := 2#2 ++ t.bits, c := c, d := d.code, a := a.code, b := b.code, e := 0#9, mod := lowMod r.bits, imm := immOf [a, b] }
  | .absSF c t d a =>
    some { maj := 0x67#8, min := 0#2 ++ t.bits, c := c, d := d.code, a := a.code, b := 0#9, e := 0#9, mod := 0#4, imm := immOf [a] }
  | .negSF c t d a =>
    some { maj := 0x67#8, min := 1#2 ++ t.bits, c := c, d := d.code, a := a.code, b := 0#9, e := 0#9, mod := 0#4, imm := immOf [a] }
  | .copysignS c t d a b =>
    some { maj := 0x67#8, min := 2#2 ++ t.bits, c := c, d := d.code, a := a.code, b := b.code, e := 0#9, mod := 0#4, imm := immOf [a, b] }
  | .addVQ c sat fm d a b =>
    some { maj := 0x50#8, min := 0#3 ++ BitVec.ofBool sat, c := c, d := d.code, a := a.code, b := b.code, e := 0#9, mod := lowMod fm, imm := immOf [a, b] }
  | .subVQ c sat fm d a b =>
    some { maj := 0x51#8, min := 0#3 ++ BitVec.ofBool sat, c := c, d := d.code, a := a.code, b := b.code, e := 0#9, mod := lowMod fm, imm := immOf [a, b] }
  | .mulVQ c sat fm d a b =>
    some { maj := 0x52#8, min := 0#3 ++ BitVec.ofBool sat, c := c, d := d.code, a := a.code, b := b.code, e := 0#9, mod := lowMod fm, imm := immOf [a, b] }
  | .fmaVQ c sat fm d a b e =>
    some { maj := 0x53#8, min := 0#3 ++ BitVec.ofBool sat, c := c, d := d.code, a := a.code, b := b.code, e := e.code, mod := lowMod fm, imm := immOf [a, b, e] }
  | .minVQ c fm d a b =>
    some { maj := 0x54#8, min := 0#4, c := c, d := d.code, a := a.code, b := b.code, e := 0#9, mod := lowMod fm, imm := immOf [a, b] }
  | .maxVQ c fm d a b =>
    some { maj := 0x54#8, min := 1#4, c := c, d := d.code, a := a.code, b := b.code, e := 0#9, mod := lowMod fm, imm := immOf [a, b] }
  | .dotVQ c fm d a b e =>
    some { maj := 0x55#8, min := 0#4, c := c, d := d.code, a := a.code, b := b.code, e := e.code, mod := lowMod fm, imm := immOf [a, b, e] }
  | .absVQ c fm d a =>
    some { maj := 0x56#8, min := 0#4, c := c, d := d.code, a := a.code, b := 0#9, e := 0#9, mod := lowMod fm, imm := immOf [a] }
  | .negVQ c fm d a =>
    some { maj := 0x56#8, min := 1#4, c := c, d := d.code, a := a.code, b := 0#9, e := 0#9, mod := lowMod fm, imm := immOf [a] }
  | .cvtFloatFloat c dt st r d a =>
    some { maj := 0x58#8, min := dt.bits ++ st.bits, c := c, d := d.code, a := a.code, b := 0#9, e := 0#9, mod := lowMod r.bits, imm := immOf [a] }
  | .cvtFloatInt c dt st r d a =>
    some { maj := 0x59#8, min := dt.bits ++ st.bits, c := c, d := d.code, a := a.code, b := 0#9, e := 0#9, mod := lowMod r.bits, imm := immOf [a] }
  | .cvtIntFloat c dt st r d a =>
    some { maj := 0x5A#8, min := dt.bits ++ st.bits, c := c, d := d.code, a := a.code, b := 0#9, e := 0#9, mod := lowMod r.bits, imm := immOf [a] }
  | .cvtQFloat c st fm idx d a e =>
    some { maj := 0x5B#8, min := 0#2 ++ st.bits, c := c, d := d.code, a := a.code, b := 0#9, e := e.code, mod := lowMod fm, imm := idx.setWidth 32 }
  | .cvtFloatQ c dt fm idx d a =>
    some { maj := 0x5C#8, min := dt.bits ++ 0#2, c := c, d := d.code, a := a.code, b := 0#9, e := 0#9, mod := lowMod fm, imm := idx.setWidth 32 }
  | .cvtNarrow c sat un dt d a =>
    some { maj := 0x5D#8, min := BitVec.ofBool sat ++ BitVec.ofBool un ++ dt.bits, c := c, d := d.code, a := a.code, b := 0#9, e := 0#9, mod := 0#4, imm := immOf [a] }
  | .shfl c w64 md d a b =>
    some { maj := 0x68#8, min := BitVec.ofBool w64 ++ 0#1 ++ md.bits, c := c, d := d.code, a := a.code, b := b.code, e := 0#9, mod := 0#4, imm := immOf [a, b] }
  | .voteAll c pd pa =>
    some { maj := 0x69#8, min := 0#4, c := c, d := codeOf pd, a := codeOf pa, b := 0#9, e := 0#9, mod := 0#4, imm := 0#32 }
  | .voteAny c pd pa =>
    some { maj := 0x69#8, min := 1#4, c := c, d := codeOf pd, a := codeOf pa, b := 0#9, e := 0#9, mod := 0#4, imm := 0#32 }
  | .voteEq c pd pa =>
    some { maj := 0x69#8, min := 2#4, c := c, d := codeOf pd, a := codeOf pa, b := 0#9, e := 0#9, mod := 0#4, imm := 0#32 }
  | .voteBallot c d pa =>
    some { maj := 0x69#8, min := 3#4, c := c, d := d.code, a := codeOf pa, b := 0#9, e := 0#9, mod := 0#4, imm := 0#32 }
  | .reduceInt c op d a =>
    some { maj := 0x6A#8, min := 0#1 ++ op.bits, c := c, d := d.code, a := a.code, b := 0#9, e := 0#9, mod := 0#4, imm := immOf [a] }
  | .reduceFloat c f64 op d a =>
    some { maj := 0x6B#8, min := 0#1 ++ BitVec.ofBool f64 ++ op.bits, c := c, d := d.code, a := a.code, b := 0#9, e := 0#9, mod := 0#4, imm := immOf [a] }
  | .scanInt c excl op d a =>
    some { maj := 0x6C#8, min := BitVec.ofBool excl ++ op.bits, c := c, d := d.code, a := a.code, b := 0#9, e := 0#9, mod := 0#4, imm := immOf [a] }
  | .scanFloat c excl f64 op d a =>
    some { maj := 0x6D#8, min := BitVec.ofBool excl ++ BitVec.ofBool f64 ++ op.bits, c := c, d := d.code, a := a.code, b := 0#9, e := 0#9, mod := 0#4, imm := immOf [a] }
  | .matchLanes c ty d a =>
    some { maj := 0x6E#8, min := ty.bits, c := c, d := d.code, a := a.code, b := 0#9, e := 0#9, mod := 0#4, imm := immOf [a] }
  | .ldgV c fl ac m d a =>
    some { maj := 0x70#8, min := 0#2 ++ ac.bits, c := c, d := d.code, a := a.code, b := 0#9, e := 0#9, mod := flMod fl, imm := m.bits }
  | .ldgS c fl m d a =>
    some { maj := 0x70#8, min := 6#4, c := c, d := d.code, a := a.code, b := 0#9, e := 0#9, mod := flMod fl, imm := m.bits }
  | .ldtmV c fl ac m d a =>
    some { maj := 0x72#8, min := 0#2 ++ ac.bits, c := c, d := d.code, a := a.code, b := 0#9, e := 0#9, mod := flMod fl, imm := m.bits }
  | .ldtmS c fl m d a =>
    some { maj := 0x72#8, min := 6#4, c := c, d := d.code, a := a.code, b := 0#9, e := 0#9, mod := flMod fl, imm := m.bits }
  | .ldcV c fl ac m d a =>
    some { maj := 0x74#8, min := 0#2 ++ ac.bits, c := c, d := d.code, a := a.code, b := 0#9, e := 0#9, mod := flMod fl, imm := m.bits }
  | .ldcS c fl m d a =>
    some { maj := 0x74#8, min := 6#4, c := c, d := d.code, a := a.code, b := 0#9, e := 0#9, mod := flMod fl, imm := m.bits }
  | .stgV c fl ac m a b =>
    some { maj := 0x71#8, min := 0#2 ++ ac.bits, c := c, d := 0#9, a := a.code, b := b.code, e := 0#9, mod := flMod fl, imm := m.bits }
  | .stgS c fl ac m a b =>
    some { maj := 0x71#8, min := 1#2 ++ ac.bits, c := c, d := 0#9, a := a.code, b := b.code, e := 0#9, mod := flMod fl, imm := m.bits }
  | .sttmV c fl ac m a b =>
    some { maj := 0x73#8, min := 0#2 ++ ac.bits, c := c, d := 0#9, a := a.code, b := b.code, e := 0#9, mod := flMod fl, imm := m.bits }
  | .sttmS c fl ac m a b =>
    some { maj := 0x73#8, min := 1#2 ++ ac.bits, c := c, d := 0#9, a := a.code, b := b.code, e := 0#9, mod := flMod fl, imm := m.bits }
  | .stmsk c fl ac m a b e =>
    some { maj := 0x75#8, min := 0#2 ++ ac.bits, c := c, d := 0#9, a := a.code, b := b.code, e := e.code, mod := flMod fl, imm := m.bits }
  | .atom c fl op m d a b e =>
    some { maj := 0x76#8, min := op.bits, c := c, d := d.code, a := a.code, b := b.code, e := e.code, mod := flMod fl, imm := m.bits }
  | .atomtm c fl op m d a b e =>
    some { maj := 0x78#8, min := op.bits, c := c, d := d.code, a := a.code, b := b.code, e := e.code, mod := flMod fl, imm := m.bits }
  | .red c fl op m a b =>
    some { maj := 0x77#8, min := op.bits, c := c, d := 0#9, a := a.code, b := b.code, e := 0#9, mod := flMod fl, imm := m.bits }
  | .publish c sc =>
    some { maj := 0x79#8, min := 0#4, c := c, d := 0#9, a := 0#9, b := 0#9, e := 0#9, mod := scMod sc, imm := 0#32 }
  | .adopt c sc =>
    some { maj := 0x79#8, min := 1#4, c := c, d := 0#9, a := 0#9, b := 0#9, e := 0#9, mod := scMod sc, imm := 0#32 }
  | .fence c sc =>
    some { maj := 0x79#8, min := 2#4, c := c, d := 0#9, a := 0#9, b := 0#9, e := 0#9, mod := scMod sc, imm := 0#32 }
  | .pinLines c fl d a b =>
    some { maj := 0x7A#8, min := 0#4, c := c, d := d.code, a := a.code, b := b.code, e := 0#9, mod := flMod fl, imm := immOf [a, b] }
  | .unpinLines c fl d a b =>
    some { maj := 0x7A#8, min := 1#4, c := c, d := d.code, a := a.code, b := b.code, e := 0#9, mod := flMod fl, imm := immOf [a, b] }
  | .barInit c a b =>
    some { maj := 0x7B#8, min := 0#4, c := c, d := 0#9, a := a.code, b := b.code, e := 0#9, mod := 0#4, imm := immOf [a, b] }
  | .barArrive c sc a =>
    some { maj := 0x7B#8, min := 1#4, c := c, d := 0#9, a := a.code, b := 0#9, e := 0#9, mod := scMod sc, imm := immOf [a] }
  | .barExpect c a b =>
    some { maj := 0x7B#8, min := 2#4, c := c, d := 0#9, a := a.code, b := b.code, e := 0#9, mod := 0#4, imm := immOf [a, b] }
  | .barWait c sc a =>
    some { maj := 0x7B#8, min := 3#4, c := c, d := 0#9, a := a.code, b := 0#9, e := 0#9, mod := scMod sc, imm := immOf [a] }
  | .barTest c sc p a =>
    some { maj := 0x7B#8, min := 4#4, c := c, d := codeOf p, a := a.code, b := 0#9, e := 0#9, mod := scMod sc, imm := immOf [a] }
  | .chinit c ch a b =>
    some { maj := 0x7C#8, min := 0#4, c := c, d := 0#9, a := a.code, b := b.code, e := codeOf ch, mod := 0#4, imm := immOf [a, b] }
  | .chres c ch d =>
    some { maj := 0x7C#8, min := 1#4, c := c, d := d.code, a := 0#9, b := 0#9, e := codeOf ch, mod := 0#4, imm := 0#32 }
  | .chcommit c sc ch =>
    some { maj := 0x7C#8, min := 2#4, c := c, d := 0#9, a := 0#9, b := 0#9, e := codeOf ch, mod := scMod sc, imm := 0#32 }
  | .chtake c sc ch d =>
    some { maj := 0x7C#8, min := 3#4, c := c, d := d.code, a := 0#9, b := 0#9, e := codeOf ch, mod := scMod sc, imm := 0#32 }
  | .chfree c ch =>
    some { maj := 0x7C#8, min := 4#4, c := c, d := 0#9, a := 0#9, b := 0#9, e := codeOf ch, mod := 0#4, imm := 0#32 }
  | .cpyG2t c a b e bar =>
    some { maj := 0x7D#8, min := 0#4, c := c, d := 0#9, a := a.code, b := b.code, e := e.code, mod := 0#4, imm := bar.setWidth 32 }
  | .cpyT2g c a b e bar =>
    some { maj := 0x7D#8, min := 1#4, c := c, d := 0#9, a := a.code, b := b.code, e := e.code, mod := 0#4, imm := bar.setWidth 32 }
  | .cpyG2g c a b e bar =>
    some { maj := 0x7D#8, min := 2#4, c := c, d := 0#9, a := a.code, b := b.code, e := e.code, mod := 0#4, imm := bar.setWidth 32 }
  | .cpyT2t c a b e bar =>
    some { maj := 0x7D#8, min := 3#4, c := c, d := 0#9, a := a.code, b := b.code, e := e.code, mod := 0#4, imm := bar.setWidth 32 }
  | .vgrow c a =>
    some { maj := 0x7E#8, min := 0#4, c := c, d := 0#9, a := a.code, b := 0#9, e := 0#9, mod := 0#4, imm := immOf [a] }
  | .vshrink c a =>
    some { maj := 0x7E#8, min := 1#4, c := c, d := 0#9, a := a.code, b := 0#9, e := 0#9, mod := 0#4, imm := immOf [a] }
  | .obres c o a =>
    some { maj := 0x90#8, min := 0#4, c := c, d := 0#9, a := a.code, b := 0#9, e := codeOf o, mod := 0#4, imm := immOf [a] }
  | .obrel c o =>
    some { maj := 0x90#8, min := 1#4, c := c, d := 0#9, a := 0#9, b := 0#9, e := codeOf o, mod := 0#4, imm := 0#32 }
  | .obldG c o a bar =>
    some { maj := 0x91#8, min := 0#4, c := c, d := 0#9, a := a.code, b := 0#9, e := codeOf o, mod := 0#4, imm := bar.setWidth 32 }
  | .obldTm c o a bar =>
    some { maj := 0x91#8, min := 1#4, c := c, d := 0#9, a := a.code, b := 0#9, e := codeOf o, mod := 0#4, imm := bar.setWidth 32 }
  | .ldfrag c fl un tr cnt pitch off d a =>
    some { maj := 0x92#8, min := 0#2 ++ BitVec.ofBool un ++ BitVec.ofBool tr, c := c, d := d.code, a := a.code, b := 0#9, e := 0#9, mod := flMod fl, imm := cnt.bits ++ pitch ++ off }
  | .mma c fl int k nz ga gb x oa ob =>
    some { maj := 0x93#8, min := 0#1 ++ BitVec.ofBool int ++ k, c := c, d := codeOf x, a := codeOf oa, b := codeOf ob, e := 0#9, mod := fl.bits ++ 0#1 ++ BitVec.ofBool nz, imm := 0#16 ++ gb ++ ga }
  | .drainF64 c fl pitch x b =>
    some { maj := 0x94#8, min := 0#4, c := c, d := 0#9, a := codeOf x, b := b.code, e := 0#9, mod := flMod fl, imm := pitch.setWidth 32 }
  | .drainI64 c fl pitch x b =>
    some { maj := 0x94#8, min := 2#4, c := c, d := 0#9, a := codeOf x, b := b.code, e := 0#9, mod := flMod fl, imm := pitch.setWidth 32 }
  | .drainQ c fl fm pitch ltv obn ltn x b =>
    some { maj := 0x94#8, min := 1#4, c := c, d := 0#9, a := codeOf x, b := b.code, e := 0#9, mod := fl.bits ++ fm, imm := obn ++ BitVec.ofBool ltv ++ ltn ++ 0#5 ++ pitch }
  | .xzero c x =>
    some { maj := 0x95#8, min := 0#4, c := c, d := codeOf x, a := 0#9, b := 0#9, e := 0#9, mod := 0#4, imm := 0#32 }
  | .xstatNan c d x =>
    some { maj := 0x96#8, min := 0#4, c := c, d := d.code, a := codeOf x, b := 0#9, e := 0#9, mod := 0#4, imm := 0#32 }
  | .xstatOvf c d x =>
    some { maj := 0x96#8, min := 1#4, c := c, d := d.code, a := codeOf x, b := 0#9, e := 0#9, mod := 0#4, imm := 0#32 }
  | .xget c fl d x b =>
    some { maj := 0x97#8, min := 0#4, c := c, d := d.code, a := codeOf x, b := b.code, e := 0#9, mod := flMod fl, imm := immOf [b] }
  | .xput c x a b =>
    some { maj := 0x97#8, min := 1#4, c := c, d := codeOf x, a := a.code, b := b.code, e := 0#9, mod := 0#4, imm := immOf [a, b] }
  | .ccall c ch b =>
    some { maj := 0xA0#8, min := 0#4, c := c, d := 0#9, a := codeOf ch, b := b.code, e := 0#9, mod := 0#4, imm := immOf [b] }
  | .crecv c fl d ch =>
    some { maj := 0xA1#8, min := 0#4, c := c, d := d.code, a := codeOf ch, b := 0#9, e := 0#9, mod := flMod fl, imm := 0#32 }
  | .tokWait c a =>
    some { maj := 0xA2#8, min := 0#4, c := c, d := 0#9, a := a.code, b := 0#9, e := 0#9, mod := 0#4, imm := immOf [a] }
  | .tokRead c d =>
    some { maj := 0xA2#8, min := 1#4, c := c, d := d.code, a := 0#9, b := 0#9, e := 0#9, mod := 0#4, imm := 0#32 }
  | .tokResume c d a b =>
    some { maj := 0xA2#8, min := 2#4, c := c, d := d.code, a := a.code, b := b.code, e := 0#9, mod := 0#4, imm := immOf [a, b] }
  | .cbarArrive c sc a =>
    some { maj := 0xA3#8, min := 0#4, c := c, d := 0#9, a := a.code, b := 0#9, e := 0#9, mod := scMod sc, imm := immOf [a] }
  | .cbarWait c sc a =>
    some { maj := 0xA3#8, min := 1#4, c := c, d := 0#9, a := a.code, b := 0#9, e := 0#9, mod := scMod sc, imm := immOf [a] }
  | .enq c fl d a b =>
    some { maj := 0xA8#8, min := 0#4, c := c, d := d.code, a := a.code, b := b.code, e := 0#9, mod := flMod fl, imm := immOf [a, b] }
  | .launchGrid c fl d a b =>
    some { maj := 0xA9#8, min := 0#4, c := c, d := d.code, a := a.code, b := b.code, e := 0#9, mod := flMod fl, imm := immOf [a, b] }
  | .waitv c cond p a b e =>
    some { maj := 0xAA#8, min := cond.bits, c := c, d := codeOf p, a := a.code, b := b.code, e := e.code, mod := 0#4, imm := immOf [a, b, e] }
  | .setdl c a =>
    some { maj := 0xAB#8, min := 0#4, c := c, d := 0#9, a := a.code, b := 0#9, e := 0#9, mod := 0#4, imm := immOf [a] }
  | .getsr c d n =>
    some { maj := 0xB0#8, min := 0#4, c := c, d := d.code, a := 0#9, b := 0#9, e := 0#9, mod := 0#4, imm := n.setWidth 32 }
  | .setsr c n a =>
    some { maj := 0xB0#8, min := 1#4, c := c, d := 0#9, a := a.code, b := 0#9, e := 0#9, mod := 0#4, imm := n.setWidth 32 }
  | .tlbinvAsid c a =>
    some { maj := 0xB1#8, min := 0#4, c := c, d := 0#9, a := a.code, b := 0#9, e := 0#9, mod := 0#4, imm := immOf [a] }
  | .tlbinvPage c a b =>
    some { maj := 0xB1#8, min := 1#4, c := c, d := 0#9, a := a.code, b := b.code, e := 0#9, mod := 0#4, imm := immOf [a, b] }
  | .tlbinvSlice c a =>
    some { maj := 0xB1#8, min := 2#4, c := c, d := 0#9, a := a.code, b := 0#9, e := 0#9, mod := 0#4, imm := immOf [a] }
  | .xlat c fl d a b =>
    some { maj := 0xB2#8, min := 0#4, c := c, d := d.code, a := a.code, b := b.code, e := 0#9, mod := flMod fl, imm := immOf [a, b] }
  | .dbgStop c d a =>
    some { maj := 0xB3#8, min := 0#4, c := c, d := d.code, a := a.code, b := 0#9, e := 0#9, mod := 0#4, imm := 0#32 }
  | .dbgResume c d a =>
    some { maj := 0xB3#8, min := 1#4, c := c, d := d.code, a := a.code, b := 0#9, e := 0#9, mod := 0#4, imm := 0#32 }
  | .dbgRd c file r d a =>
    some { maj := 0xB3#8, min := 2#4, c := c, d := d.code, a := a.code, b := 0#9, e := 0#9, mod := 0#4, imm := 0#8 ++ file ++ 0#12 ++ r }
  | .dbgWr c file r d a b =>
    some { maj := 0xB3#8, min := 3#4, c := c, d := d.code, a := a.code, b := b.code, e := 0#9, mod := 0#4, imm := 0#8 ++ file ++ 0#12 ++ r }
  | .dbgWrForce c file r d a b =>
    some { maj := 0xB3#8, min := 4#4, c := c, d := d.code, a := a.code, b := b.code, e := 0#9, mod := 0#4, imm := 0#8 ++ file ++ 0#12 ++ r }
  | .dbgActResume c d a b =>
    some { maj := 0xB3#8, min := 5#4, c := c, d := d.code, a := a.code, b := b.code, e := 0#9, mod := 0#4, imm := 0#32 }
  | .dbgActExit c d a b =>
    some { maj := 0xB3#8, min := 5#4, c := c, d := d.code, a := a.code, b := b.code, e := 0#9, mod := 0#4, imm := 0#32 }
  | .endgrid c d a b =>
    some { maj := 0xB3#8, min := 5#4, c := c, d := d.code, a := a.code, b := b.code, e := 0#9, mod := 0#4, imm := 0#32 }
  | .collAllreduce c fl d a =>
    some { maj := 0xB8#8, min := 0#4, c := c, d := d.code, a := a.code, b := 0#9, e := 0#9, mod := flMod fl, imm := immOf [a] }
  | .collAllgather c fl d a =>
    some { maj := 0xB8#8, min := 1#4, c := c, d := d.code, a := a.code, b := 0#9, e := 0#9, mod := flMod fl, imm := immOf [a] }
  | .collRedscat c fl d a =>
    some { maj := 0xB8#8, min := 2#4, c := c, d := d.code, a := a.code, b := 0#9, e := 0#9, mod := flMod fl, imm := immOf [a] }
  | .collBcast c fl d a =>
    some { maj := 0xB8#8, min := 3#4, c := c, d := d.code, a := a.code, b := 0#9, e := 0#9, mod := flMod fl, imm := immOf [a] }
  | .clauseStart .. | .rejoinRelease .. | .rejoinTimeout .. | .rejoinDeadlock .. | .barWaitComplete .. | .chresGrant ..
  | .chtakeGrant .. | .engineByteCount .. | .accessCheck .. | .lateFaultPark .. | .poisonFound .. | .poisonPark ..
  | .loadCompletion .. | .storeCompletion .. | .atomicCompletion .. | .reductionCompletion .. | .pinCompletion ..
  | .mmaAccumulate .. | .drainCompletion .. | .routerDispatch .. | .crecvTake .. | .tokWaitDrained .. | .cbarWaitComplete ..
  | .queueDepthExchange .. | .binnerCall .. | .rasteriserCall .. | .streamBind .. | .streamClear .. | .depthStencilCommit ..
  | .blendCommit .. | .tessellatorCall .. | .textureCall .. | .traceRays .. | .verdict .. | .encoderConfig ..
  | .encoderEncode .. | .waitvTest .. | .waitvTimeout .. | .queueTake .. | .bestEffortFill .. | .teamAdmit .. | .teamPreempt ..
  | .registerCacheAllocate .. | .displayTrigger .. | .idleSwap .. | .teamWake .. | .faultRecordDelivery ..
  | .collectiveCompletion .. | .remoteRequest .. | .remoteTimeout .. | .flitCrcFail .. | .portLaneLoss .. | .portUpChange ..
  | .cmdTail .. | .launchCmd .. | .write32 .. | .wait32 .. | .wait32Satisfied .. | .nopCmd .. | .bindQueue .. | .unbindQueue ..
  | .reshape .. | .lease .. | .leaseEnd .. | .leaseTermExpiry .. | .collgrp .. | .remap .. | .unremap .. | .sliceReset ..
  | .sliceResetDone .. | .sliceFreeze .. | .freezeComplete .. | .sliceThaw .. | .vfFlr .. | .pfFlr .. | .deviceReset ..
  | .getVersion .. | .getCapabilities .. | .negotiateAlgorithms .. | .getDigests .. | .getCertificate .. | .challenge ..
  | .getMeasurements .. | .unsupportedRequest .. | .mrExtend .. | .mrExtendDone .. | .memCrcError .. | .channelRetrain ..
  | .correctedError .. | .uncorrectableError .. | .patrolScrub .. | .powerWindow .. | .droopStretch .. | .droopRelease ..
  | .fmtWrite .. | .fpCtlWrite .. | .fpStatusClear .. | .pinQuotaWrite .. | .clReorderWrite .. | .clWaysWrite ..
  | .frHeadWrite .. | .frBaseWrite .. | .frTailRead .. | .cmdCtlWrite .. | .memStatClear .. | .pwrCapWrite .. | .domCtlWrite ..
  | .domExpcntWrite .. | .memSelWrite .. | .registerWrite .. | .enqCompletion .. | .launchCompletion .. | .xlatCompletion ..
  | .transitEntryReceived .. => none

/-- The word of an instruction (R14, R15); none where `encodeFields` gives none. -/
def encode (i : Instr) : Option (BitVec 96) := (encodeFields i).map Fields.toBits

/-- The decoding checks of order 2 of R28 that look at the word alone: MAJ and MIN assigned (R65), every operand, option and
immediate within its row (R16, R17, R18, R20, R21, R48), every unused or reserved field zero. -/
def decodeFields (f : Fields) : Except DecodeError Instr :=
  if f.maj = 0#8 ∧ f.min = 1#4 then .error .clauseHeader
  else match rawDecode f with
    | none => .error (if majReserved f.maj.toNat then .reservedMajor else .unassignedMinor)
    | some i =>
      if i.wellFormed then (if encodeFields i = some f then .ok i else .error .unusedField) else .error .illegalOperand

def decode (w : BitVec 96) : Except DecodeError Instr := decodeFields (Fields.ofBits w)

/-- Decoding from bytes: an instruction takes 12 (R14); the rest is returned. -/
def decodeBytes (bs : List Byte) : Except DecodeError (Instr × List Byte) :=
  if bs.length < 12 then .error .truncated
  else (decode (BitVec.ofNat 96 (leNat (bs.take 12)))).map fun i => (i, bs.drop 12)

/-- The instruction whose bits are `w`, numbered from the least significant bit of the first word: every word of this hardware
has 96 bits, the bits above `nbits` being zero. -/
def decodeTableWord (nbits w : Nat) : Option Instr :=
  match decodeBytes (wordBytes (BitVec.ofNat 96 (w % 2 ^ nbits))) with
  | .ok (i, _) => some i
  | .error _ => none

end Sys2Proof
end

