-- ==== Sys2Proof/Machine/SMap.lean ====
section
/-!
DEFINITION. Sparse plain data by key: a list of (key, value) pairs, keys strictly rising, no pair holding the value that an unlisted
key reads as. Memory, register files and tables are such lists, so that equal contents are equal data.
-/
namespace Sys2Proof

/-- Sparse data by key. -/
abbrev SMap (α : Type) := List (Nat × α)

namespace SMap

/-- The pair of a key. -/
def find? {α : Type} : SMap α → Nat → Option α
  | [], _ => none
  | (j, w) :: t, k => if j = k then some w else find? t k

/-- Replace or add a pair, keeping the keys rising. -/
def put {α : Type} : SMap α → Nat → α → SMap α
  | [], k, v => [(k, v)]
  | (j, w) :: t, k, v =>
    if k < j then (k, v) :: (j, w) :: t else if k = j then (k, v) :: t else (j, w) :: put t k v

/-- Remove a key. -/
def erase {α : Type} (m : SMap α) (k : Nat) : SMap α := m.filter fun p => p.1 != k

/-- What a key reads as: the type's default where it is unlisted. -/
def get {α : Type} [Inhabited α] (m : SMap α) (k : Nat) : α := (m.find? k).getD default

/-- Write a key: the default value removes the pair. -/
def set {α : Type} [Inhabited α] [DecidableEq α] (m : SMap α) (k : Nat) (v : α) : SMap α :=
  if v = default then m.erase k else m.put k v

/-- Write consecutive keys. -/
def setRun {α : Type} [Inhabited α] [DecidableEq α] (m : SMap α) (k : Nat) : List α → SMap α
  | [] => m
  | v :: vs => setRun (m.set k v) (k + 1) vs

/-- Keys strictly rising and all above the bound. -/
def rising {α : Type} : Option Nat → SMap α → Bool
  | _, [] => true
  | lo, (k, _) :: t => (match lo with | none => true | some l => decide (l < k)) && rising (some k) t

/-- The canonical form: keys strictly rising, no pair with the default value. -/
def wf {α : Type} [Inhabited α] [DecidableEq α] (m : SMap α) : Bool :=
  rising none m && m.all fun p => p.2 != default

/-- The keys from `lo` up to, not including, `hi` are cleared. -/
def clearRange {α : Type} (m : SMap α) (lo hi : Nat) : SMap α := m.filter fun p => !(decide (lo ≤ p.1) && decide (p.1 < hi))

/-- The listed keys. -/
def keys {α : Type} (m : SMap α) : List Nat := m.map Prod.fst

end SMap

end Sys2Proof
end

