-- ==== Sys2Proof/Machine/State.lean ====
section
/-!
DEFINITION. The state of the Gnoesk G4 as plain data: lanes, states, groups, teams (spec/03, 07, 08), operations in flight (09, 10, 12,
16, 17, 20), the memory model's orders (08), dies, slices, the package and its fabric links (16 to 20), and what the model adds.
-/
namespace Sys2Proof.Machine

/-! ## Lanes and states of a group -/

/-- R67, R201. A parked lane is a running or waiting lane of a sub-group's record. -/
inductive LaneSt where | running | waiting | exited
deriving DecidableEq, Repr, Inhabited

/-- A lane (R67, R68, R82, R201). -/
structure Lane where
  st : LaneSt := .exited
  /-- the clause header at offset 0, else the next instruction; for a waiting lane the rejoin instruction -/
  pc : Dword := 0#64
  /-- the state record the lane belongs to (R200) -/
  rc : Nat := 0
  /-- clause offset, 0-24 -/
  off : Nat := 0
  /-- the header's IMM once the clause has been checked; none at a clause start and where a stopped path resumes (R26) -/
  hdr : Option Word := none
  /-- rejoin mask waited on, its deadline, and the predicate of rejoin.tmo (R180, R181) -/
  wj : Nat := 0
  wdl : Option Nat := none
  wp : Nat := 15
  /-- the lane's path has yielded and has not yet taken part in an arbitration (R178) -/
  yld : Bool := false
  /-- instructions retired, from which SKID is counted (R256) -/
  ret : Nat := 0
  /-- chosen in this cycle at the clause offset named, with nothing issued since: a lane that holds no place yet (R173) -/
  fresh : Option Nat := none
deriving DecidableEq, Repr, Inhabited

/-- An affine register (R70, R73). -/
structure Aff where
  base : Dword := 0#64
  stride : Word := 0#32
deriving DecidableEq, Repr, Inhabited

/-- The mode of a state (R185, R202). -/
inductive Mode where | main | held | handling | resumed
deriving DecidableEq, Repr, Inhabited

/-- A replay record (R260, R310). -/
structure Replay where
  hdr : Dword := 0#64
  /-- bit k - 1: replay position k (KIND 1) -/
  pos : BitVec 24 := 0#24
  /-- 1 accesses, 2 a coprocessor call alone -/
  kind : Nat := 1
  faddr : Dword := 0#64
  fpos : Nat := 0
  flane : Nat := 0
  /-- KIND 2: team address of the return slot -/
  slot : Nat := 0
deriving DecidableEq, Repr, Inhabited

/-- A state record: the copies of R77 and R146 and the resume record (R186, R202). -/
structure StRec where
  mode : Mode := .main
  /-- RFLAGS bit 0 -/
  hasRec : Bool := false
  pc : Dword := 0#64
  off : Nat := 0
  cls : Nat := 0
  skid : Nat := 0
  code : BitVec 16 := 0#16
  /-- RFLAGS bit 1, and the replay area, whose FADDR a poison fault also sets (R263) -/
  hasReplay : Bool := false
  replay : Replay := {}
  rpend : Mask := 0#32
  fpCtl : Word := 0#32
  fmt : SMap Word := []
  s : SMap Word := []
  a : SMap Aff := []
  /-- DBG_IMG_LO/HI and DBG_STAT (R421) -/
  dbgImg : Dword := 0#64
  dbgStat : Word := 0#32
  /-- held by a claimed break (R423) -/
  claimed : Bool := false
deriving DecidableEq, Repr, Inhabited

/-! ## Memory model (08 R217-R229) -/

/-- Where an agent runs: what a scope instance is judged by (R10, R217). Teams and groups count from 1; an agent that is no group has 0 in both. -/
structure Place where
  slice : Nat := 0
  die : Nat := 0
  cluster : Nat := 0
  core : Nat := 0
  team : Nat := 0
  grp : Nat := 0
deriving DecidableEq, Repr, Inhabited

/-- A store or atomic that entered co(x) of one byte, with the value it replaced (R218). -/
structure CoEntry where
  /-- position in the coherence orders -/
  seq : Nat
  /-- physical byte address -/
  addr : Nat
  /-- the storing group's agent number, and the stamp of the storing instruction in its order -/
  agent : Nat
  stamp : Nat
  old : Byte
deriving DecidableEq, Repr

/-- What a publication is joined by (R224). -/
inductive PubTag where
  | plain
  | barrier (team addr phase : Nat)
  | slot (team ch slot : Nat)
  | atomicAt (addr : Nat)
deriving DecidableEq, Repr

/-- A publication in the order PO (R219): its index is its place in the list. -/
structure Publication where
  place : Place
  agent : Nat
  stamp : Nat
  sc : Scope
  tag : PubTag
  /-- the co-latest published store of each byte (R220) -/
  view : SMap Nat
deriving DecidableEq, Repr

/-! ## Operations in flight -/

/-- One lane's access: its address, the bytes it touches (bit k of `mask`), its data and compare value, its translation. -/
structure Item where
  lane : Nat
  addr : Nat
  mask : Nat
  data : Nat := 0
  cmp : Nat := 0
  /-- physical addresses of the bytes that `mask` names, once checked -/
  pa : List Nat := []
  /-- what a team-memory access read when it took its place in the order T -/
  res : Nat := 0
  /-- the lane's count of retired instructions at issue -/
  ret : Nat := 0
  /-- each byte is a single-copy atomic store of its own (R239) -/
  apart : Bool := false
deriving DecidableEq, Repr

/-- A pending destination run. -/
structure DstRun where
  uni : Bool
  n : Nat
  k : Nat
deriving DecidableEq, Repr

/-- Global (virtual), team memory, or the team's operand buffer. -/
inductive Spc where | glob | team | obuf
deriving DecidableEq, Repr
structure Range where
  spc : Spc
  base : Nat
deriving DecidableEq, Repr

/-- The three drains (R283). -/
inductive DrainKind where | f64 | i64 | q
deriving DecidableEq, Repr

/-- What an operation in flight does (R233, R250, R253, R271-R288, R308, R393, R394, R417, R467). -/
inductive OpKind where
  /-- ldg, ldc -/
  | load (const : Bool) (ty : MTy) (cnt : Cnt)
  /-- stg, stmsk -/
  | store
  | atomic (op : AtomOp) (w64 : Bool) (sc : Scope) (ord : MemOrd) (ret : Bool)
  | pin (un : Bool)
  | tload (ty : MTy) (cnt : Cnt)
  | tstore
  | tatomic (op : AtomOp) (w64 : Bool)
  /-- ldfrag: one item per row; transposed or not -/
  | frag (tr : Bool) (f : Nat)
  /-- cpy, obld: bytes already written as (offset, length), and the physical pages of either range once checked -/
  | copy (dst src : Range) (len bar : Nat) (done : List (Nat × Nat)) (dpg spg : List Nat)
  /-- the reservation records as read at issue -/
  | mma (int nz : Bool) (groups ga gb x : Nat) (ra rb : Dword)
  /-- the format word, the bound table (record and number), and the written blocks of bytes: address and length -/
  | drain (kind : DrainKind) (fmtw : Word) (lt : Option (Dword × Nat)) (x base pitch : Nat) (pgs : List (Nat × Nat))
  /-- `row`: bits 5:0 the row, bit 6 the half -/
  | xget (x row : Nat)
  | xput (x row : Nat)
  | xzero (x : Nat)
  | crecv (ch : Nat)
  /-- header and entry; image and number of teams -/
  | enq (hdr entry : Nat)
  | launch (image teams : Nat)
  | xlat (addr arg : Nat)
  | coll (kind : Nat) (addr : Nat)
  /-- a replayed coprocessor call (R310) -/
  | recall (slot : Nat)
  /-- a `publish`, `adopt` or `fence` whose group has older accesses in flight: its publication, then its adopt, take their place after them (R220, R221, R243) -/
  | order (pub adp : Option Scope)
deriving DecidableEq, Repr

structure Op where
  /-- the stamp of its instruction: the issue order of all operations -/
  id : Nat
  team : Nat
  grp : Nat
  rc : Nat
  lanes : Mask
  /-- one access for the whole state: a fault names every lane (R236, R255) -/
  uni : Bool
  /-- the completion flag it counts in -/
  flag : Option Nat
  /-- header address and position of its instruction -/
  hdr : Nat
  pos : Nat
  /-- its translation and permission check is over (R256); of a team-memory access: it has its place in the order T (R226) -/
  chk : Bool
  dst : Option DstRun
  /-- words of its destination whose data `dbg.wr.force` has discarded, by `skipKey` (R424) -/
  skip : List Nat := []
  /-- put in flight by a replay (R261); and, of one access for a whole state, each lane's count of retired instructions at issue -/
  re : Bool := false
  rets : SMap Nat := []
  /-- the state record of its instruction, as it stood at issue (R419); its reply has been queued for its lines (R424) -/
  rc0 : Nat := 0
  dlv : Bool := false
  /-- its copy count, the VER of its blocks (R465), and the destination blocks of a drain that are lost (R463) -/
  ver : Nat := 0
  lost : List Nat := []
  /-- LB at its issue, and what older accesses of its group have read since (R222) -/
  lb : SMap Nat
  items : List Item
  kind : OpKind
deriving DecidableEq, Repr

/-- A late fault found and not yet parked (R256, R258, R259); class 0: a later access withheld. -/
structure LateFault where
  id : Nat
  lane : Nat
  hdr : Nat
  pos : Nat
  cls : Nat
  addr : Nat
  /-- the bytes of the access: an address, and bit k of the mask for the byte at k from it -/
  lo : Nat
  mask : Nat
  flag : Option Nat
  skid : Nat
  detail : Nat := 0
  /-- and the ranges of a copy, drain, pin or unpin: first address, length (R258) -/
  spans : List (Nat × Nat) := []
  /-- of a `crecv`: the return slot (R309) -/
  slot : Option Nat := none
  /-- a return of status 3: no replay (R309) -/
  noReplay : Bool := false
  /-- found in a replay: its lane parks again at the header where it stands (R261) -/
  again : Bool := false
  /-- the state record at the access's issue (R419) -/
  rc0 : Nat := 0
deriving DecidableEq, Repr

/-- A lane marked by poison (R263). -/
structure PoisonMark where
  id : Nat
  lane : Nat
  flag : Option Nat
  addr : Nat
  skid : Nat
  rc0 : Nat := 0
deriving DecidableEq, Repr

/-- What a path holds at (R246, R249, R282, R319, R322, R405, R416, R423). -/
inductive HoldKind where
  | barWait (addr : Nat) (par : Bool) (sc : Scope)
  | chres (ch : Nat) (d : Dst)
  | chtake (sc : Scope) (ch : Nat) (d : Dst)
  | tokWait (stream : Nat)
  | cbarWait (sc : Scope) (addr : Nat) (par : Bool)
  | waitv (cond : WCond) (p : Nat) (addr : Nat) (val : Word) (deadline : Option Nat)
  /-- `endgrid`: the grid, and where the status goes -/
  | endgrid (g : Nat) (d : Dst)
  /-- `dbg.stop`: the team, and where the status goes -/
  | stopped (t : Nat) (d : Dst)
deriving DecidableEq, Repr

/-- A holding path: it keeps its place and its instruction has not taken effect. -/
structure Hold where
  id : Nat
  rc : Nat
  /-- the path, and its effective mask -/
  lanes : Mask
  e : Mask
  fin : Bool
  kind : HoldKind
deriving DecidableEq, Repr

/-! ## Calls (R298-R320) -/

/-- A slot of a call channel handed to the router: its channel and index, the group and state that issued the `ccall`, and its cycle. -/
structure Handed where
  ch : Nat
  slot : Nat
  grp : Nat
  rc : Nat
  stamp : Nat
deriving DecidableEq, Repr

/-- Where a dispatched record stands (R314, R315, R318): to be performed; ready to commit; in the reorder buffer; to be answered with
a status alone; the faulting record of its stream. -/
inductive CallMode where
  | plain
  | ready
  | buffered
  | err (status : Nat)
  | stalled
deriving DecidableEq, Repr

/-- A call record dispatched to a unit. -/
structure Call where
  id : Nat
  team : Nat
  grp : Nat
  rc : Nat
  slice : Nat
  die : Nat
  /-- cluster index 0-47 -/
  clu : Nat
  asid : Nat
  priv : Bool
  image : Nat
  /-- the 64 bytes, as dispatched -/
  rcd : Nat
  /-- return channel, slot and its team address -/
  ret : Option (Nat × Nat × Nat)
  /-- the operation of a replay (R310), whose slot is at the address -/
  replay : Option (Nat × Nat)
  mode : CallMode
deriving DecidableEq, Repr

/-- A token stream of a slice in an ordered unit of a cluster: its binding, its chain states, its stall (R313, R318, R341). -/
structure Stream where
  bound : Bool := false
  asid : Nat := 0
  priv : Bool := false
  samples : Nat := 0
  fmt : Nat := 0
  tiles : Nat := 0
  state : Nat := 0
  base : Nat := 0
  pitch : Nat := 0
  sbase : Nat := 0
  spitch : Nat := 0
  width : Nat := 0
  height : Nat := 0
  const : Nat := 0
  /-- LAST + 1 of each tile; 0 is none -/
  chain : SMap Nat := []
  stalled : Bool := false
  /-- publications of its records' commits -/
  pubs : List Nat := []
deriving DecidableEq, Repr, Inhabited

/-! ## Groups and teams -/

/-- A group (R67-R91, R200). -/
structure Group where
  lanes : List Lane := List.replicate 32 {}
  recs : SMap StRec := []
  /-- p0-p14 -/
  preds : SMap Mask := []
  jm : SMap Word := []
  /-- f0-f11: counts -/
  flags : SMap Nat := []
  fpStatus : Word := 0#32
  /-- exceptions raised in this cycle (R149) -/
  fpRaised : Word := 0#32
  /-- register n in lane L at key 32 n + L -/
  v : SMap Word := []
  vcur : Nat := 1
  vmax : Nat := 1
  role : Nat := 0
  slot : Nat := 0
  sched : Nat := 0
  /-- stamp of the last issue (R197) -/
  lastIssue : Option Nat := none
  holds : List Hold := []
  late : List LateFault := []
  marks : List PoisonMark := []
  /-- LB(G, x), the latest store by each agent read, adopt position and the last own publication (R221, R222) -/
  lb : SMap Nat := []
  readFrom : SMap Nat := []
  adoptPos : Nat := 0
  ownPub : Nat := 0
deriving DecidableEq, Repr, Inhabited

/-- What a team is doing: STATUS of its image (R206). -/
inductive TeamSt where
  /-- STATUS 2 -/
  | resident
  /-- STATUS 4: lines still on a core -/
  | suspended
  /-- STATUS 1: every line written back -/
  | written
deriving DecidableEq, Repr, Inhabited

/-- A team suspended as idle (R407): when, and what is watched for its waking: the next store, its work in flight, its team memory. -/
structure Asleep where
  tick : Nat
  coNext : Nat
  work : Nat
  tmem : SMap Byte
  /-- the lines its waits name, and the earliest deadline among them -/
  lines : List Nat
  due : Option Nat
deriving DecidableEq, Repr

/-- A role entry (R43). -/
structure Role where
  kind : Nat := 0
  first : Nat := 0
  count : Nat := 0
  vregs : Nat := 0
  vmax : Nat := 0
deriving DecidableEq, Repr, Inhabited

/-- A team: its descriptor (R199), its place, and its architectural state, wherever its lines lie (R207). -/
structure Team where
  st : TeamSt := .resident
  slice : Nat := 0
  asid : Nat := 0
  die : Nat := 0
  cluster : Nat := 0
  core : Nat := 0
  /-- TEAM_QUEUE (R409) -/
  priv : Bool := false
  cls : Nat := 0
  qid : Nat := 0
  /-- the grid it belongs to, its index and the count (R88) -/
  grid : Nat := 0
  idx : Nat := 0
  count : Nat := 1
  /-- the last store before its grid was launched, for `ldc` (R237) -/
  launchSeq : Nat := 0
  /-- virtual address of its image -/
  image : Nat := 0
  entry : Dword := 0#64
  /-- none: HANDLER all ones -/
  handler : Option Dword := none
  ngroups : Nat := 1
  roles : List Role := []
  aregs : Nat := 0
  sregs : Nat := 0
  tiles : Nat := 0
  tmemSize : Nat := 0
  obufSize : Nat := 0
  deadline : Dword := BitVec.allOnes 64
  groupOff : Nat := 0
  tmemOff : Nat := 0
  obufOff : Nat := 0
  accOff : Nat := 0
  size : Nat := 0
  vbase : SMap Nat := []
  swz : SMap Dword := []
  groups : SMap Group := []
  tmem : SMap Byte := []
  obuf : SMap Byte := []
  /-- element (i, j) of tile n at key 4096 n + 64 i + j -/
  tile : SMap Dword := []
  xstat : SMap Word := []
  obres : SMap Dword := []
  chst : SMap Dword := []
  /-- publications of the commits of channel slots and arrivals of barrier phases, and engine stores counted into a phase -/
  slotPubs : SMap Nat := []
  /-- addresses of barrier objects that `bar.init` has made (R245) -/
  bars : List Nat := []
  barPubs : List (Nat × Nat × Nat) := []
  barStores : List (Nat × Nat × SMap Nat) := []
  /-- call slots that the router holds, in ring order; and returns written and not yet committed: channel, slot, call (R305, R306) -/
  handed : List Handed := []
  returned : List (Nat × Nat × Nat) := []
  /-- stopped by dbg.stop; BREAK claimed (R423) -/
  stopped : Bool := false
  claimed : Bool := false
  /-- register-cache lines on a core: core and line; lines lost at their write-back; the physical pages of the image at its restore, by
virtual page (R207) -/
  lines : List (Nat × Nat) := []
  lostLines : List Nat := []
  pages : SMap Nat := []
  /-- the stamp of its restore, the die tick of its last issue, and its idle sleep (R209, R407) -/
  restored : Nat := 0
  lastTick : Nat := 0
  asleep : Option Asleep := none
  /-- its grid has been ended (R425): it is stopped and ends once its operations are done -/
  ending : Bool := false
  /-- other grids whose entries name its image (R391), and when it last rejoined a list (R397) -/
  also : List Nat := []
  aged : Nat := 0
deriving DecidableEq, Repr, Inhabited

/-! ## Dies, slices, package -/

/-- A cached stage-1 translation of a die (R414): a page of 2^bits bytes. Permissions: bit 0 RD, 1 W, 2 X, 3 U. -/
structure T1 where
  slice : Nat
  die : Nat
  asid : Nat
  va : Nat
  bits : Nat
  ipa : Nat
  perm : BitVec 4
deriving DecidableEq, Repr

/-- A cached stage-2 translation of a die (R414). -/
structure T2 where
  slice : Nat
  die : Nat
  ipa : Nat
  bits : Nat
  pa : Nat
  perm : BitVec 4
deriving DecidableEq, Repr

/-- A fault record raised and not yet delivered (R418, R419). -/
structure FaultRec where
  kind : Nat
  src : Nat
  cls : Nat := 0
  tick : Nat := 0
  addr : Nat := 0
  image : Nat := 0
  pc : Nat := 0
  lanes : Mask := 0#32
  grp : Nat := 0
  state : Nat := 0
  event : Nat := 0
  detail : Nat := 0
deriving DecidableEq, Repr, Inhabited

/-! ## Queues, grids, tasks, commands (R389-R397, R432-R434, R441) -/

/-- The device's copy of a bound queue (R434). `appended`: the die ticks at which the entries from HEAD on were appended. -/
structure Queue where
  hdr : Nat := 0
  ring : Nat := 0
  size : Nat := 1
  tail : Nat := 0
  head : Nat := 0
  cls : Nat := 0
  die : Nat := 0
  waitTh : Nat := 0
  asid : Nat := 0
  mismatch : Bool := false
  miscount : Nat := 0
  appended : List Nat := []
  /-- entries that a LAUNCH command appended: entry count, slot count -/
  launches : List (Nat × Nat) := []
deriving DecidableEq, Repr, Inhabited

/-- A grid (R390, R391, R394, R403). -/
structure Grid where
  slice : Nat
  die : Nat
  asid : Nat
  priv : Bool
  cls : Nat
  qid : Nat
  deadline : Dword
  done : Nat
  doneval : Nat
  teams : Nat
  image : Nat
  stride : Nat
  /-- when it was taken, and the last store before it -/
  take : Nat
  launchSeq : Nat
  /-- taken from a queue, not launched by a team or as a fallback -/
  taken : Bool := true
  fallback : Bool := false
  triggered : Bool := false
  failed : Bool := false
  /-- unstarted teams: ranges of (first, count); those of a best-effort grid have not entered a list yet -/
  left : List (Nat × Nat) := []
  /-- teams in lists or in transit, and teams started and not ended -/
  listed : Nat := 0
  running : Nat := 0
  /-- the LAUNCH command that waits for it: slice and slot count -/
  cmd : Option (Nat × Nat) := none
  /-- the record to be sent when it has ended as refused (R392) -/
  report : Option FaultRec := none
deriving DecidableEq, Repr

/-- An entry of a cluster's task list (R397): an unstarted team of a grid, or a suspended team. -/
inductive Task where
  | fresh (grid k : Nat)
  | team (t : Nat)
deriving DecidableEq, Repr

/-- A list entry moving between clusters (R323). -/
structure Transit where
  slice : Nat
  src : Nat
  dst : Nat
  task : Task
deriving DecidableEq, Repr

/-- A ring command started and not completed (R432): its slot count, REL's scope, and the test of a WAIT32. -/
structure Cmd where
  n : Nat
  /-- the die whose command-processor context took it (R427) -/
  die : Nat := 0
  rel : Option Scope
  wait : Option (Nat × Nat × Nat × WCond) := none
deriving DecidableEq, Repr

/-- A slice's command processor: the die whose context takes the next command (R427), and the latest stores that it has read or adopted (R220, R432). -/
structure CpSt where
  die : Nat := 0
  lb : SMap Nat := []
deriving DecidableEq, Repr, Inhabited

/-- A loan of a matrix engine between two cores, named by CORE_ID (R441). -/
structure Lease where
  lender : Nat
  borrower : Nat
  start : Nat
  term : Nat
  ending : Bool := false
deriving DecidableEq, Repr

/-- What a channel's controller keeps beside its poison table (R445, R449, R450). -/
structure ChanSt where
  /-- retraining: accesses hold -/
  training : Bool := false
  failed : Bool := false
  /-- the model's own, false in every state that a step leaves: what a transition reads here is taken for poison, to tell whether it reads at all -/
  dark : Bool := false
  ce : Nat := 0
  ue : Nat := 0
  /-- retrainings failed in a row -/
  fails : Nat := 0
deriving DecidableEq, Repr, Inhabited

/-! ## Fabric (R457-R472) -/

/-- What a request from another package asks for. -/
inductive ReqKind where
  | load
  | store
  /-- a block that a copying engine writes: that engine has made the guard check (R466) -/
  | copied
  | atomic (op : AtomOp) (w64 : Bool)
deriving DecidableEq, Repr

/-- A request from another package on a 256-byte block of this one's memory: its source, the block's local address, the enabled bytes,
their data, its guard tag, the version that the requester expects in a reply, and whether the export table admitted it when it arrived. -/
structure Request where
  id : Nat
  pkg : Nat
  slice : Nat
  kind : ReqKind
  addr : Nat
  mask : Nat
  data : Nat := 0
  cmp : Nat := 0
  tag : Nat := 0
  ver : Nat := 0
  /-- for a block that a copy carries elsewhere: the domain address of its destination (R464) -/
  dst : Option Nat := none
  adm : Bool := false
deriving DecidableEq, Repr

/-- The answer to one: 0 performed, 1 refused, 2 to be sent again to its new home; data and tag of a load or atomic. -/
structure Reply where
  id : Nat
  status : Nat
  data : Nat := 0
  tag : Nat := 0
deriving DecidableEq, Repr

/-- One rank's part in a collective call (R470): the group's members, SEQ, its rank; operation, TYPE, OP, COUNT, ROOT; its SRC bytes;
blocks that failed their guard check; the publication of its issue and its own operation, for a rank of this package. -/
structure Contrib where
  members : List Nat
  group : Nat
  seq : Nat
  rank : Nat
  form : List Nat
  data : Nat := 0
  lost : Bool := false
  bad : List Nat := []
  pub : Option Nat := none
  op : Option Nat := none
  done : Bool := false
deriving DecidableEq, Repr

/-- What a slice holds on one die: its special registers by number, and the records its sources hold, oldest first. -/
structure SliceDie where
  reg : SMap Word := []
  held : List FaultRec := []
  /-- next SEQ of each source, at KIND * 65536 + SRC -/
  seq : SMap Nat := []
  /-- publications of delivered records (R420) -/
  frPubs : List Nat := []
  /-- the copy count (R465) -/
  copies : Nat := 0
deriving DecidableEq, Repr, Inhabited

/-- A slice's resource sets (R426, R427), by index. -/
structure SliceSt where
  pairs : List Nat := []
  chans : List Nat := []
  encs : List Nat := []
deriving DecidableEq, Repr, Inhabited

/-- The path whose instruction the current step issues, set by `step` before `exec` (the model's own). -/
structure Cursor where
  team : Nat
  grp : Nat
  rc : Nat
  m : Mask
  pc : Dword
  /-- position in its clause, from 1, and the clause header's IMM -/
  pos : Nat
  hdr : Word
deriving DecidableEq, Repr

/-- Register files as they stood before a cycle (R408). -/
structure SrSnap where
  sliceDie : SMap SliceDie
  sliceClu : SMap (SMap Word)
  sliceReg : SMap (SMap Word)
  pkgReg : SMap Word
  chans : SMap ChanSt
  /-- the issuing team's deadline (R404) -/
  deadline : Dword
deriving DecidableEq, Repr

/-- What the outside world, a unit or time does next, and which group issues (the model's own tape of choices). -/
inductive Input where
  /-- a row of the opcode table that is no instruction -/
  | event (i : Instr)
  /-- an issue cycle of a group -/
  | issue (team grp : Nat)
  /-- die ticks pass on a die -/
  | tick (die n : Nat)
  /-- a die caches or drops a translation (R414) -/
  | fillT1 (slice die asid va : Nat)
  | fillT2 (slice die ipa : Nat)
  | dropT1 (k : Nat)
  | dropT2 (k : Nat)
  /-- another package's request arrives; the owner's answer to a part of an access of this package: 1 admitted, 2 refused; a block for an operation
  comes over a link with its data and guard tag; another rank's part in a collective -/
  | request (r : Request)
  | answer (id part v : Nat)
  | block (op part data tag : Nat)
  | contribute (c : Contrib)
  /-- a slice of another package stores to memory outside this one, or publishes at `.dom` (R462) -/
  | farStore (pkg slice addr mask data : Nat)
  | farPublish (pkg slice : Nat)
  /-- another member installs or removes a forwarding entry; the other members' answer to this package's REMAP (R472) -/
  | remap (base size new : Nat)
  | unremap (base : Nat)
  | remapAck (ok : Bool)
  /-- a group's next adopt leaves out the last `n` publications, as far as R221 lets it -/
  | adoptBack (team grp n : Nat)
  /-- the context of a slice's command processor that takes its next commands (R427) -/
  | cpContext (slice die : Nat)
  /-- firmware starts a team of a slice on a die's firmware core, from the image at an address of an ASID (R388) -/
  | firmware (slice die asid image : Nat)
  /-- the host reads or writes through the BAR0 of a function (a slice's VF, or 192 for the PF) -/
  | barRead (fn off : Nat)
  | barWrite (fn off : Nat) (v : Word)
  /-- firmware programs or drops the route to a package through a port (R458) -/
  | route (pkg port : Nat) (up : Bool)
  /-- a pending MSI-X message is sent: function (slice, or 192 for the PF) and vector -/
  | msixSent (fn vec : Nat)
deriving DecidableEq, Repr

/-! ## The state -/

structure State where
  /-- local physical memory (R426): an unlisted byte reads 0 (DESIGN CHOICE, log 2) -/
  mem : SMap Byte := []
  /-- poisoned bytes of each 32-byte sector (R450) -/
  poison : SMap (BitVec 32) := []
  /-- stores in their coherence orders, newest first, and the next position (R218) -/
  co : List CoEntry := []
  coNext : Nat := 1
  /-- the order PO, oldest first (R219) -/
  pubs : List Publication := []
  teams : SMap Team := []
  ops : List Op := []
  /-- records dispatched and not answered; token streams by `streamKey`; the slice served last by each unit, + 1 -/
  calls : List Call := []
  streams : SMap Stream := []
  served : SMap Nat := []
  /-- publications that a group's next adopt leaves out, by agent (R221, R228) -/
  adoptBack : SMap Nat := []
  /-- arrivals at phases of cluster barriers and stores counted into them: physical address, phase (R224, R225) -/
  cbarPubs : List (Nat × Nat × Nat) := []
  cbarStores : List (Nat × Nat × SMap Nat) := []
  tlb1 : List T1 := []
  tlb2 : List T2 := []
  /-- die counters (R387) -/
  dcnt : SMap Nat := []
  /-- registers and records of slice sl on die d, at 4 sl + d -/
  sliceDie : SMap SliceDie := []
  /-- resource sets of slices 0-191 -/
  slices : SMap SliceSt := []
  /-- bound queues at 4096 slice + QID; grids pending; the best-effort list of a slice on a cluster at 64 slice + cluster, oldest first -/
  queues : SMap Queue := []
  grids : SMap Grid := []
  lists : SMap (List Task) := []
  transit : List Transit := []
  /-- commands of each slice started and not completed -/
  cmds : SMap (List Cmd) := []
  /-- command processors, by slice -/
  cps : SMap CpSt := []
  leases : List Lease := []
  /-- slices whose ring is to be examined (R432) -/
  ringDue : List Nat := []
  chans : SMap ChanSt := []
  /-- measurement registers, and the extend in progress (R453) -/
  mr : SMap (BitVec 256) := []
  extend : Option Nat := none
  /-- the module flash and the fused minimum security version (R451, R452) -/
  flash : SMap Byte := []
  fuseSvn : Nat := 0
  /-- the arithmetic clock target, issue on alternate cycles, clusters whose clock is stretched (R455, R456) -/
  mhz : Nat := 3600
  halfRate : Bool := false
  droop : List Nat := []
  /-- MSI-X vectors pending, by function (R448), what reads of BAR0 have returned (R446), and DOE responses (R454) -/
  msix : SMap Nat := []
  barReads : List Word := []
  doe : List (List Byte) := []
  /-- encoder sessions that this machine's lanes have written, by the first 65,536 bytes of a state area (R439) -/
  sessions : List (Nat × Config.Session) := []
  requests : List Request := []
  replies : List Reply := []
  /-- collective groups by 4096 slice + GROUP: 256 package + slice of each rank -/
  collgrps : SMap (List Nat) := []
  contribs : List Contrib := []
  /-- routes of the fabric: package and port (R458) -/
  routes : List (Nat × Nat) := []
  /-- forwarding entries: base, size, new base (R472) -/
  fwd : List (Nat × Nat × Nat) := []
  /-- whether the other members have installed the entry of this package's REMAP, once all have answered (R472) -/
  remapAck : Option Bool := none
  /-- owners' answers to checks of remote accesses, by operation and part (`partKey`): 1 admitted, 2 refused, 3 lost (R461, R463) -/
  verdicts : SMap Nat := []
  /-- pinned lines, at slice * 2^56 + cluster * 2^48 + line (R215) -/
  pinned : List Nat := []
  /-- registers of slice sl on cluster cl (0-47), at 64 sl + cl; of slice sl; of the package; of a core, by
its CORE_ID -/
  sliceClu : SMap (SMap Word) := []
  sliceReg : SMap (SMap Word) := []
  pkgReg : SMap Word := []
  coreReg : SMap (SMap Word) := []
  /-- the model's own (logs 3, 5): stamps order events; `fresh` counts free values taken -/
  stamp : Nat := 1
  fresh : Nat := 0
  cur : Option Cursor := none
  stream1 : Option Cursor := none
  /-- the issuing group and the special registers as they stood before the cycle, while its second stream is still to issue (R174) -/
  snap : Option Group := none
  snapSr : Option SrSnap := none
  /-- the group whose cycle has just ended: its releases, timeouts and deadlock are decided now (R174) -/
  ended : Option (Nat × Nat) := none
  agenda : List Input := []
deriving DecidableEq, Repr, Inhabited

/-- Why the machine stops. -/
inductive Fault where
  /-- raised by `exec` on an instruction when no path is issuing it (`cur` is none or names no path): safe, since `step` sets `cur` -/
  | noIssuingPath
deriving DecidableEq, Repr

/-- Why a step has no meaning. -/
inductive Refusal where
  /-- raised by `exec`'s arms for an instruction without a meaning: safe -/
  | notModelled (mnemonic : String)
  /-- raised by a step of another agent whose condition does not hold: that step does not take place: safe -/
  | notEnabled (row : String)
deriving DecidableEq, Repr

/-- The machine after device reset: no team is resident (R388, R391), every register at its reset value. A field that firmware sets is 0,
memory lists nothing, the clock target is 3,600 MHz (DESIGN CHOICE, logs 1, 2, 20); the model's own fields: logs 3, 5. -/
def State.reset : State := { pkgReg := [(0x620, 1800#32)] }

end Sys2Proof.Machine
end

