-- ==== Sys2Proof/Machine/Ops.lean ====
section
/-!
DEFINITION. The named operations over lanes, states, groups and teams: masks, register files, LIVE, taking a fault or trap (R77, R185)
and returning from it (R186), merging and promotion (R78, R187), raising fault records (R418), and the end of a group's cycle.
-/
namespace Sys2Proof.Machine

/-! ## Numbers and masks -/

/-- `Signed(x, k)` of R11, for x below 2^k. -/
def signedN (k x : Nat) : Int := if 2 * x < 2 ^ k then (x : Int) else (x : Int) - 2 ^ k
/-- `e mod 2^k` of R11. -/
def modN (k : Nat) (e : Int) : Nat := (e % (2 ^ k : Nat)).toNat

/-- The order of lists of numbers, the first difference deciding. -/
def lexLt : List Nat → List Nat → Bool
  | [], [] => false
  | [], _ => true
  | _, [] => false
  | a :: as, b :: bs => decide (a < b) || (a == b && lexLt as bs)

/-- The mask of the lanes below `n` that satisfy `f`. -/
def maskUpTo (f : Nat → Bool) : Nat → Mask
  | 0 => 0#32
  | n + 1 => maskUpTo f n ||| (if f n then 1#32 <<< n else 0#32)
/-- The mask of the lanes that satisfy `f`. -/
def maskOf (f : Nat → Bool) : Mask := maskUpTo f 32
def laneList (m : Mask) : List Nat := (List.range 32).filter fun l => m.getLsbD l
/-- The lowest lane of a mask (32 for the empty mask). -/
def lowestLane (m : Mask) : Nat := (laneList m).headD 32
def countLanes (m : Mask) : Nat := (laneList m).length
def subMask (a b : Mask) : Bool := a &&& ~~~b == 0#32
/-- The lanes of a mask in ascending order, applied to a value. -/
def forLanes {α : Type} (m : Mask) (x : α) (f : Nat → α → α) : α := (laneList m).foldl (fun y l => f l y) x

/-! ## Lanes -/

def Group.lane (g : Group) (l : Nat) : Lane := g.lanes.getD l {}
/-- Change the lanes of a mask. -/
def Group.updLanes (g : Group) (m : Mask) (f : Nat → Lane → Lane) : Group :=
  { g with lanes := (List.range 32).map fun l => if m.getLsbD l then f l (g.lane l) else g.lane l }

/-- LIVE of the state of a record: its lanes that have not exited (R67). -/
def Group.live (g : Group) (rc : Nat) : Mask := maskOf fun l => (g.lane l).st != .exited && (g.lane l).rc == rc
/-- EXIT_MASK (R87). -/
def Group.exited (g : Group) : Mask := maskOf fun l => (g.lane l).st == .exited
/-- PARK_MASK: lanes of any sub-group, in any mode (R87, R185). -/
def Group.parked (g : Group) : Mask :=
  maskOf fun l => (g.lane l).st != .exited && (match g.recs.find? (g.lane l).rc with | some r => r.mode != .main | none => false)
/-- Running lanes: those that may issue (R67); the lanes of a held sub-group issue nothing (R185). -/
def Group.runs (g : Group) (l : Nat) : Bool :=
  (g.lane l).st == .running && (match g.recs.find? (g.lane l).rc with | some r => r.mode != .held | none => false)

/-- A lane whose path was chosen and has issued nothing stands where it stood before, and holds no place (R173). -/
def Lane.unstart (y : Lane) : Lane :=
  match y.fresh with
  | none => y
  | some 0 => { y with pc := y.pc - 12#64, off := 0, hdr := none, fresh := none }
  | some _ => { y with hdr := none, fresh := none }
/-- The paths are formed anew (R68). -/
def Group.unstart (g : Group) : Group := g.updLanes 0xFFFFFFFF#32 fun _ y => y.unstart

/-! ## Register files (R70, R79, R80): the one place where a register is read or written -/

/-- Varying register n of lane l. -/
def Group.getV (g : Group) (n l : Nat) : Word := g.v.get (32 * n + l)
def Group.setV (g : Group) (n l : Nat) (w : Word) : Group := { g with v := g.v.set (32 * n + l) w }
/-- p15 reads 1 and ignores writes (R79). -/
def Group.getP (g : Group) (n l : Nat) : Bool := if n = 15 then true else (g.preds.get n).getLsbD l
def Group.setP (g : Group) (n : Nat) (m : Mask) (f : Nat → Bool) : Group :=
  if n = 15 then g else { g with preds := g.preds.set n ((g.preds.get n &&& ~~~m) ||| maskOf fun l => m.getLsbD l && f l) }
def Group.getJ (g : Group) (n : Nat) : Word := g.jm.get n
def Group.setJ (g : Group) (n : Nat) (w : Word) : Group := { g with jm := g.jm.set n w }
/-- The count of flag n (R81). -/
def Group.flag (g : Group) (n : Nat) : Nat := g.flags.get n
def Group.flagUp (g : Group) (n : Nat) : Group := { g with flags := g.flags.set n (g.flag n + 1) }
def Group.flagDown (g : Group) : Option Nat → Group
  | none => g
  | some n => { g with flags := g.flags.set n (g.flag n - 1) }

def Group.getRec (g : Group) (rc : Nat) : StRec := (g.recs.find? rc).getD {}
def Group.setRec (g : Group) (rc : Nat) (r : StRec) : Group := { g with recs := g.recs.put rc r }
def StRec.getS (r : StRec) (n : Nat) : Word := r.s.get n
def StRec.setS (r : StRec) (n : Nat) (w : Word) : StRec := { r with s := r.s.set n w }
def StRec.getA (r : StRec) (n : Nat) : Aff := r.a.get n
def StRec.setA (r : StRec) (n : Nat) (v : Aff) : StRec := { r with a := r.a.set n v }
def StRec.getFmt (r : StRec) (n : Nat) : Word := r.fmt.get n

/-! ## Teams -/

def State.team? (s : State) (t : Nat) : Option Team := s.teams.find? t
def State.setTeam (s : State) (t : Nat) (x : Team) : State := { s with teams := s.teams.put t x }
def State.updTeam (s : State) (t : Nat) (f : Team → Team) : State :=
  match s.team? t with
  | some x => s.setTeam t (f x)
  | none => s
def Team.group? (x : Team) (g : Nat) : Option Group := x.groups.find? g
def Team.setGroup (x : Team) (g : Nat) (y : Group) : Team := { x with groups := x.groups.put g y }
def State.updGroup (s : State) (t g : Nat) (f : Group → Group) : State :=
  s.updTeam t fun x => match x.group? g with
    | some y => x.setGroup g (f y)
    | none => x
def State.group? (s : State) (t g : Nat) : Option Group := (s.team? t).bind fun x => x.group? g

/-- The team and group where they are resident (R10, R196). Cluster 12 of a die stands for its firmware core (DEDUCED, log 27). -/
def Team.place (x : Team) (t g : Nat) : Place :=
  { slice := x.slice, die := x.die, cluster := x.die * 13 + x.cluster, core := x.core, team := t + 1, grp := g + 1 }
/-- CORE_ID of the team's core (R216). -/
def Team.coreId (x : Team) : Nat := x.die * 256 + x.cluster * 16 + x.core
/-- A group that has ended, with every flag count zero, has released its resident slot (R177). -/
def Group.isOver (g : Group) : Bool := g.exited == 0xFFFFFFFF#32 && (List.range 12).all fun n => g.flag n == 0
/-- The resident slots that a team holds. -/
def Team.slotsHeld (x : Team) : Nat := (x.groups.filter fun p => !p.2.isOver).length

/-- The index of the team's cluster, 0-47; 48-51 are the firmware cores (DEDUCED, log 27). -/
def Team.cluIx (x : Team) : Nat := if x.cluster < 12 then x.die * 12 + x.cluster else 48 + x.die

/-- The die counter of a die (R387) (DESIGN CHOICE, log 6). -/
def State.dieCount (s : State) (die : Nat) : Nat := s.dcnt.get die
/-- A slice register by number (R429) (DESIGN CHOICE, log 1). -/
def State.sreg (s : State) (sl n : Nat) : Word := (s.sliceReg.get sl).get n
def State.setSreg (s : State) (sl n : Nat) (v : Word) : State := { s with sliceReg := s.sliceReg.set sl ((s.sliceReg.get sl).set n v) }
/-- CORE_ID of a core of a command: die x 96 + cluster x 8 + core. -/
def coreIdOf (n : Nat) : Nat := n / 96 * 256 + n / 8 % 12 * 16 + n % 8
/-- The active slice that holds a core. -/
def State.ownerOf (s : State) (core : Nat) : Option Nat :=
  ((s.slices.filter fun p => p.2.pairs.contains (core / 2)).map (·.1)).find? fun sl => (s.sreg sl 0x502).getLsbD 0

/-- The registers that a cycle's second stream reads as they stand before the cycle: the special registers, and the team's deadline (R404, R408). -/
def State.snapRegs (s : State) (t : Nat) : SrSnap :=
  { sliceDie := s.sliceDie, sliceClu := s.sliceClu, sliceReg := s.sliceReg, pkgReg := s.pkgReg, chans := s.chans,
    deadline := match s.team? t with | some x => x.deadline | none => 0#64 }

/-! ## Operations in flight -/

/-- Accesses without a late check: those of team memory (R256). -/
def OpKind.teamMem : OpKind → Bool
  | .tload .. | .tstore | .tatomic .. | .frag .. => true
  | _ => false
/-- An access made for some lane of the mask: one access for a state is made for each of its lanes (R236, R256). -/
def Op.ofLanes (o : Op) (m : Mask) : Bool := if o.uni then o.lanes &&& m != 0#32 else o.items.any fun it => m.getLsbD it.lane
/-- A lane's count of retired instructions when the access was issued. -/
def Op.retOf (o : Op) (it : Item) (l : Nat) : Nat := if o.uni then o.rets.get l else it.ret
/-- An access of some lane of the mask, by a group, whose check is not over (R256). -/
def Op.unchecked (o : Op) (t g : Nat) (m : Mask) : Bool :=
  !o.chk && !o.kind.teamMem && o.team == t && o.grp == g && o.ofLanes m
/-- An operation with an adopt of its own, still to be performed (R223). -/
def OpKind.acquires : OpKind → Bool
  | .atomic _ _ _ ord _ => ord == .acq || ord == .ar
  | _ => false
/-- A load or an atomic of global memory, in its group's order of reads (R221, R222). -/
def OpKind.reads : OpKind → Bool
  | .load c .. => !c
  | .atomic .. => true
  | _ => false
/-- A `publish`, `adopt` or `fence` that is still to take its place (R243). -/
def OpKind.isOrder : OpKind → Bool
  | .order .. => true
  | _ => false
/-- What an adopt of a later instruction comes after: reads, whose stores its position covers (R221), and older adopts and publications. -/
def Op.beforeAdopt (o : Op) : Bool := o.kind.reads || o.kind.isOrder
/-- What a publication of a later instruction comes after: also stores that have not entered co(x) (R220). -/
def Op.beforePub (o : Op) : Bool := o.beforeAdopt || o.kind == .store && !o.chk
/-- A group has reads in flight, or an adopt or publication before this one (DEDUCED, log 13). -/
def State.readsOut (s : State) (t g : Nat) : Bool := s.ops.any fun o => o.team == t && o.grp == g && o.beforeAdopt
/-- A group has accesses in flight that a publication publishes (R220) (DEDUCED, log 13). -/
def State.accessesOut (s : State) (t g : Nat) : Bool := s.ops.any fun o => o.team == t && o.grp == g && o.beforePub
/-- A `publish`, `adopt` or `fence` of the group is still to take its place. -/
def State.orderOut (s : State) (t g : Nat) : Bool := s.ops.any fun o => o.team == t && o.grp == g && o.kind.isOrder
/-- The tile that an operation uses (R266). -/
def OpKind.tile? : OpKind → Option Nat
  | .mma _ _ _ _ _ x _ _ | .drain _ _ _ x _ _ _ | .xget x _ | .xput x _ | .xzero x => some x
  | _ => none
/-- Operations on a tile of a team that are still to finish with it, older than a stamp. -/
def State.tileOps (s : State) (t n before : Nat) : List Op :=
  s.ops.filter fun o => o.team == t && o.kind.tile? == some n && decide (o.id < before)
def State.op? (s : State) (id : Nat) : Option Op := s.ops.find? fun o => o.id == id
def State.setOp (s : State) (o : Op) : State := { s with ops := s.ops.map fun p => if p.id = o.id then o else p }
/-- The operation has completed for every lane: it leaves, and its flag falls (R25, R208). -/
def State.endOp (s : State) (o : Op) : State :=
  ({ s with ops := s.ops.filter fun p => p.id != o.id } : State).updGroup o.team o.grp fun g => g.flagDown o.flag

/-! ## Fault records (R418, R419) -/

def State.sliceDieOf (s : State) (sl die : Nat) : SliceDie := s.sliceDie.get (4 * sl + die)
def State.setSliceDie (s : State) (sl die : Nat) (x : SliceDie) : State :=
  { s with sliceDie := s.sliceDie.set (4 * sl + die) x }
/-- A source raises a record: it is held until it is delivered, in the source's order (R418, R420) (DEDUCED, log 25). -/
def State.raise (s : State) (sl die : Nat) (r : FaultRec) : State :=
  let x := s.sliceDieOf sl die
  s.setSliceDie sl die { x with held := x.held ++ [{ r with tick := s.dieCount die }] }

/-! ## Fault classes (R91) -/

inductive FClass where
  | illegalOp | priv | clauseFmt | partialWrite | affOvf | fpTrap | memXlate | memPerm | memAlign | memPoison | selector
  | rejoinDeadlock | callFault | regBudget | channel | brk | trap
deriving DecidableEq, Repr
def FClass.code : FClass → Nat
  | .illegalOp => 1 | .priv => 2 | .clauseFmt => 3 | .partialWrite => 4 | .affOvf => 5 | .fpTrap => 6 | .memXlate => 7
  | .memPerm => 8 | .memAlign => 9 | .memPoison => 10 | .selector => 11 | .rejoinDeadlock => 12 | .callFault => 13
  | .regBudget => 14 | .channel => 15 | .brk => 16 | .trap => 17

/-! ## Taking a trap or fault -/

/-- What the resume record and PARK_INFO of a new sub-group hold (R77, R90, R186), and what its fault record adds (R419). -/
structure ParkInfo where
  cls : Nat
  pc : Dword
  off : Nat
  code : BitVec 16 := 0#16
  skid : Nat := 0
  replay : Option Replay := none
  addr : Nat := 0
  detail : Nat := 0
  /-- a claimed break: held whatever the handler (R423) -/
  claimed : Bool := false
  /-- the state record at the instruction's issue, where it is not the parking lanes' own (R419) -/
  state : Option Nat := none
deriving DecidableEq, Repr

/-- The lowest free state record (R200); else one whose state has lost its lanes in this cycle (R78); with 32 states, the parking lanes are
the whole of their own. -/
def Group.freeRec (g : Group) (own : Nat) : Nat :=
  (((List.range 32).find? fun n => (g.recs.find? n).isNone).orElse fun _ =>
    (List.range 32).find? fun n => g.live n == 0#32 && n != own).getD own

/-- The record of the new sub-group: copies of s, a, fmt and FP_CTL, and the resume record (R77, R146, R186) (DEDUCED, log 25). -/
def parkedRec (r : StRec) (lanes : Mask) (held : Bool) (i : ParkInfo) : StRec :=
  { r with mode := if held then .held else .handling, hasRec := true, pc := i.pc, off := i.off, cls := i.cls, skid := i.skid,
           code := i.code, hasReplay := i.replay.isSome, replay := i.replay.getD { faddr := BitVec.ofNat 64 i.addr },
           rpend := if i.replay.isSome then lanes else 0#32, dbgImg := 0#64, dbgStat := 0#32, claimed := i.claimed }

/-- TAKING A FAULT OR TRAP (R77, R185): the lanes leave their state for a new sub-group, which enters the team's handler, or is held
where there is none and a fault record goes to the slice firmware. -/
def Group.park (g : Group) (rc : Nat) (lanes : Mask) (handler : Option Dword) (i : ParkInfo) : Group :=
  let n := g.freeRec rc
  let held := i.claimed || handler.isNone
  let g := g.setRec n (parkedRec (g.getRec rc) lanes held i)
  g.updLanes lanes fun _ x =>
    { x with st := .running, rc := n, pc := if held then i.pc else handler.getD i.pc, off := if held then i.off else 0,
             hdr := none, wdl := none, yld := false, fresh := none }

/-- The record number that stands for a state that has ceased to exist: its pending uniform writes are lost with its copy (R78). -/
def noRec : Nat := 99
/-- The operations of a group's state that has ceased to exist. -/
def State.forgetRec (s : State) (t gi n : Nat) : State :=
  { s with ops := s.ops.map fun o => if o.team = t ∧ o.grp = gi ∧ o.rc = n then { o with rc := noRec } else o }

/-- The same in the whole state, with the fault record of a held sub-group (EVENT 0, or 5 for a claimed break; R185, R423) (DEDUCED, log 25). -/
def State.park (s : State) (t gi rc : Nat) (lanes : Mask) (i : ParkInfo) : State :=
  if lanes = 0#32 then s
  else match s.team? t with
    | none => s
    | some x =>
      match x.group? gi with
      | none => s
      | some g =>
        let n := g.freeRec rc
        let s := (s.setTeam t (x.setGroup gi (g.park rc lanes x.handler i))).forgetRec t gi n
        if i.claimed || x.handler.isNone then
          s.raise x.slice x.die
            { kind := 0, src := x.coreId, cls := i.cls, addr := i.addr, image := x.image, pc := i.pc.toNat, lanes, grp := gi, state := i.state.getD rc,
              event := if i.claimed then 5 else 0, detail := i.detail }
        else s

/-- RETURNING (R186): lanes of a state resume from its resume record; the state becomes resumed unless it is the main state. -/
def Group.resume (g : Group) (rc : Nat) (lanes : Mask) : Group :=
  let r := g.getRec rc
  let g := g.setRec rc { r with mode := if r.mode = .main then .main else .resumed, rpend := r.rpend &&& ~~~lanes, claimed := false }
  g.updLanes lanes fun _ x => { x with st := .running, pc := r.pc, off := r.off, hdr := none, fresh := none }

/-! ## Merging and promotion (R78, R187, R200) -/

/-- Exchange or move two state records, rewriting the record of every lane, hold and operation concerned (R200). -/
def swapRc (a b n : Nat) : Nat := if n = a then b else if n = b then a else n
def Group.swapRecs (g : Group) (a b : Nat) : Group :=
  let ra := g.recs.find? a
  let rb := g.recs.find? b
  let put := fun (m : SMap StRec) (k : Nat) (r : Option StRec) => match r with | some r => m.put k r | none => m.erase k
  { (g.updLanes 0xFFFFFFFF#32 fun _ x => { x with rc := swapRc a b x.rc }) with
    recs := put (put g.recs a rb) b ra, holds := g.holds.map fun h => { h with rc := swapRc a b h.rc } }

/-- Sub-groups and a main state without lanes cease to exist (R78); a group that has ended keeps its last main state's record, which its image
shows at the end (R297) (DEDUCED, log 39). -/
def Group.dropEmpty (g : Group) : Group :=
  { g with recs := g.recs.filter fun p => g.live p.1 != 0#32 || (p.2.mode == .main && g.exited == 0xFFFFFFFF#32) }

def Group.hasMain (g : Group) : Bool := g.recs.any fun p => p.2.mode == .main
/-- The resumed sub-group holding the lowest-numbered lane (R78, R187). -/
def Group.promotable (g : Group) : Option Nat :=
  ((List.range 32).find? fun l => (g.lane l).st != .exited && (g.getRec (g.lane l).rc).mode == .resumed).map fun l => (g.lane l).rc

/-- The end of a group's cycle: states without lanes vanish, and a resumed sub-group becomes the main state where there is none. -/
def Group.endCycle (g : Group) : Group :=
  let g := { g.unstart.dropEmpty with fpRaised := 0#32 }
  if g.hasMain then g
  else match g.promotable with
    | none => g
    | some n =>
      let g := if n = 0 then g else g.swapRecs n 0
      g.setRec 0 { g.getRec 0 with mode := .main }
/-- The record that the end of the cycle moves into record 0, for the operations in flight of the group. -/
def Group.endMove (g : Group) : Option Nat := if g.dropEmpty.hasMain then none else g.dropEmpty.promotable

/-- DEDUCED, log 4. -/
def State.endCycle (s : State) (t gi : Nat) : State :=
  match s.group? t gi with
  | none => s
  | some g =>
    let mv := fun n => match g.endMove with | some k => swapRc k 0 n | none => n
    { (s.updGroup t gi Group.endCycle) with
      ops := s.ops.map fun o =>
        if o.team = t ∧ o.grp = gi then { o with rc := if g.live o.rc != 0#32 && (g.recs.find? o.rc).isSome then mv o.rc else noRec } else o }

/-- Lanes released or merged together take one state: the main state if any belongs to it, else that of the lowest lane (R78). -/
def Group.mergeRc (g : Group) (m : Mask) : Nat :=
  match (laneList m).find? fun l => (g.getRec (g.lane l).rc).mode == .main with
  | some l => (g.lane l).rc
  | none => (g.lane (lowestLane m)).rc

end Sys2Proof.Machine
end

