-- ==== Sys2Proof/Machine/Mem.lean ====
section
/-!
DEFINITION. Global memory, its coherence orders and the events of phase consistency: reading and writing bytes, LB, publications and
adopts (spec/08 R217-R229), and poison (spec/19 R450).
-/
namespace Sys2Proof.Machine

/-! ## Bytes -/

/-- A byte of global memory: the co-latest store to it (DESIGN CHOICE, log 2). -/
def State.byte (s : State) (pa : Nat) : Byte := s.mem.get pa
/-- `n` bytes as a little-endian number (R6). -/
def State.readLE (s : State) (pa : Nat) : Nat → Nat
  | 0 => 0
  | n + 1 => (s.byte pa).toNat + 256 * State.readLE s (pa + 1) n
def leBytes (v : Nat) : Nat → List Byte
  | 0 => []
  | n + 1 => BitVec.ofNat 8 v :: leBytes (v / 256) n

/-! ## Memory of other packages (R458, R459) -/

/-- A register of the package by its number (R429, R445, R473) (DESIGN CHOICE, log 1). -/
def State.pkg (s : State) (n : Nat) : Word := s.pkgReg.get n
/-- Another package can be reached: DOM_CTL.EN, and a route to it through a port that is up (R458). -/
def State.reachable (s : State) (p : Nat) : Bool :=
  (s.pkg 0x701).getLsbD 31 && s.routes.any fun r => r.1 == p && decide (r.2 < 16) && (s.pkg (0x710 + r.2)).getLsbD 31
/-- A domain address of another package (R459) (DESIGN CHOICE, log 23). -/
def isRemote (pa : Nat) : Bool := decide (2 ^ 51 ≤ pa)
/-- A translated place on another package that can no longer be reached: a request for it is lost (R463). -/
def State.gone (s : State) (pa : Nat) : Bool := isRemote pa && !s.reachable (pa / 2 ^ 40 % 256)

/-! ## Poison (R450) -/

/-- A poisoned byte, or one of a failed channel (R449). -/
def State.poisoned (s : State) (pa : Nat) : Bool := (s.poison.get (pa / 32)).getLsbD (pa % 32) || (s.chans.get (pa / 2 ^ 30)).failed || (s.chans.get (pa / 2 ^ 30)).dark
/-- A channel of one of some bytes retrains, or a package cannot be reached: accesses hold, those of the latter until they are lost (R449, R463)
(DEDUCED, log 32). -/
def State.chanHeld (s : State) (pas : List Nat) : Bool := pas.any fun a => (s.chans.get (a / 2 ^ 30)).training || s.gone a
def State.clearPoison (s : State) (pa : Nat) : State :=
  { s with poison := s.poison.set (pa / 32) (s.poison.get (pa / 32) &&& ~~~(1#32 <<< (pa % 32))) }
/-- Entries of a channel's poison table: 8,192 at most. -/
def State.poisonRoom (s : State) (pa : Nat) : Bool :=
  (s.poison.find? (pa / 32)).isSome || decide ((s.poison.filter fun p => p.1 * 32 / 2 ^ 30 == pa / 2 ^ 30).length < 8192)
def State.setPoison (s : State) (pa : Nat) (m : BitVec 32) : State :=
  if s.poisonRoom pa then { s with poison := s.poison.set (pa / 32) (s.poison.get (pa / 32) ||| m) } else s

/-! ## Stores in co(x) (R218) -/

/-- The agent number of a group, and of an asynchronous operation (R217); 0 is outside the package's slices. -/
def agentOf (t g : Nat) : Nat := 16 * t + g + 1
def engineAgent (op : Nat) : Nat := 2 ^ 48 + op

/-- A store of one byte enters co(x) at the next position: it becomes the latest, and clears the byte's poison (R263, R450) (DEDUCED, log 12). -/
def State.putByte (s : State) (agent stamp pa : Nat) (v : Byte) : State :=
  ({ s with mem := s.mem.set pa v, co := { seq := s.coNext, addr := pa, agent, stamp, old := s.byte pa } :: s.co } : State).clearPoison pa
/-- The next position has been taken. -/
def State.nextPos (s : State) : State := { s with coNext := s.coNext + 1 }
/-- A store of one byte alone. -/
def State.storeByte (s : State) (agent stamp pa : Nat) (v : Byte) : State := (s.putByte agent stamp pa v).nextPos
/-- A single-copy atomic store: its bytes take one position (R217). -/
def State.storeRun (s : State) (agent stamp : Nat) (bs : List (Nat × Byte)) : State :=
  (bs.foldl (fun (s : State) p => s.putByte agent stamp p.1 p.2) s).nextPos

/-- The latest position in co(x). -/
def State.lastSeq (s : State) (pa : Nat) : Nat := ((s.co.find? fun e => e.addr == pa).map (·.seq)).getD 0

/-- The value of a byte as of a position, and the position and writer of the store it comes from: the latest store at or before it (DEDUCED, log 12). -/
def coValue (upTo pa : Nat) : List CoEntry → Byte → Byte × Nat × Nat × Nat
  | [], v => (v, 0, 0, 0)
  | e :: es, v =>
    if e.addr != pa then coValue upTo pa es v
    else if upTo < e.seq then coValue upTo pa es e.old
    else (v, e.seq, e.agent, e.stamp)

/-! ## LB, publications and adopts -/

/-- Per-byte maximum of two views. -/
def joinView (a b : SMap Nat) : SMap Nat := b.foldl (fun m p => if m.get p.1 < p.2 then m.set p.1 p.2 else m) a

/-- A group has seen the store of a position by an agent: LB rises for it and for its younger accesses in flight (R222), and the latest
store it has read by that agent is kept (R221) (DEDUCED, log 12). -/
def State.seen (s : State) (t g op pa seq agent stamp : Nat) : State :=
  let up := fun (m : SMap Nat) => joinView m [(pa, seq)]
  { (s.updGroup t g fun x => { x with lb := up x.lb, readFrom := joinView x.readFrom [(agent, stamp)] }) with
    ops := s.ops.map fun o => if o.team = t ∧ o.grp = g ∧ op < o.id then { o with lb := up o.lb } else o }

/-- A group has read `n` bytes as they stand. -/
def State.seeBytes (s : State) (t g op pa n : Nat) : State :=
  (List.range n).foldl (fun s k =>
    let (_, seq, ag, st) := coValue s.coNext (pa + k) s.co (s.byte (pa + k))
    s.seen t g op (pa + k) seq ag st) s

/-- Stamps of publications and stores in an agent's order: a publication of an instruction comes before its stores (R223). -/
def pubStamp (instr : Nat) : Nat := 2 * instr
def storeStamp (instr : Nat) : Nat := 2 * instr + 1

/-- The instance of a scope that `p` places `q` in (R10, R217); each scope holds the narrower ones, also after a team has moved. -/
def inScope (sc : Scope) (p q : Place) : Bool :=
  match sc with
  | .grp => ofTeam && p.grp == q.grp
  | .team => ofTeam
  | .clu => ofTeam || (p.slice == q.slice && p.cluster == q.cluster)
  | .die => ofTeam || (p.slice == q.slice && p.die == q.die)
  | .slc => p.slice == q.slice
  | .dom => true
where
  /-- Groups of one team, wherever it has been resident. -/
  ofTeam : Bool := p.team == q.team && p.team != 0 && p.slice == q.slice

/-- R219: relevant to an adopt at `sc` by an agent at `q`. -/
def Publication.relevant (p : Publication) (sc : Scope) (q : Place) : Bool := inScope p.sc p.place q && inScope sc q p.place

/-- A publication by an agent (R219, R220); its index in PO is the length before it. -/
def State.publishAs (s : State) (place : Place) (agent : Nat) (sc : Scope) (tag : PubTag) (view : SMap Nat) : State :=
  { s with pubs := s.pubs ++ [{ place, agent, stamp := pubStamp s.stamp, sc, tag, view }] }

/-- A publication by a group of everything its LB holds: its own stores, the stores it has read, its snapshots, and the engine stores it
has acquired (R220) (DEDUCED, log 13). -/
def State.publishAt (s : State) (t g : Nat) (sc : Scope) (tag : PubTag) (instr : Nat) : State :=
  match s.team? t, s.group? t g with
  | some x, some y =>
    (({ s with pubs := s.pubs ++ [{ place := x.place t g, agent := agentOf t g, stamp := pubStamp instr, sc, tag, view := y.lb }] } : State).updGroup t g
      fun y => { y with ownPub := s.pubs.length + 1 })
  | _, _ => s
/-- The same by the instruction that issues now. -/
def State.publish (s : State) (t g : Nat) (sc : Scope) (tag : PubTag) : State := s.publishAt t g sc tag s.stamp

/-- The least position in PO that R221 lets an adopt take: the group's own latest publication, its previous adopt, the publications by the
writers of the stores it has read, and those R224 joins to it; the publications of its own team's groups, whose stores to team memory it may have read,
are all among them (DEDUCED, log 13). -/
def adoptPosition (pubs : List Publication) (y : Group) (sc : Scope) (q : Place) (joined : List Nat) : Nat :=
  let base := (joined.map (· + 1)).foldl max (max y.ownPub y.adoptPos)
  (pubs.zipIdx.filter fun p => p.1.relevant sc q && (decide (p.1.stamp < y.readFrom.get p.1.agent) || (p.1.place.team == q.team && q.team != 0))).foldl
    (fun m p => max m (p.2 + 1)) base

/-- The snapshot of a position: the stores of the relevant publications at or before it (R221). -/
def snapshotAt (pubs : List Publication) (sc : Scope) (q : Place) (n : Nat) : SMap Nat :=
  ((pubs.take n).filter fun p => p.relevant sc q).foldl (fun m p => joinView m p.view) []

/-- An adopt by a group (R221), joined to the publications `joined` (R224), that stands in the group's order after the instruction of stamp `after`: its
snapshot joins LB of the group and of its accesses in flight that come later. Its position is the last in PO unless the tape holds it back,
which a tape does finitely often (R228) (DEDUCED, log 13). -/
def State.adoptAt (s : State) (t g : Nat) (sc : Scope) (joined : List Nat) (after : Nat) : State :=
  match s.team? t, s.group? t g with
  | some x, some y =>
    let q := x.place t g
    let n := max (adoptPosition s.pubs y sc q joined) (s.pubs.length - s.adoptBack.get (agentOf t g))
    let view := snapshotAt s.pubs sc q n
    { (s.updGroup t g fun y => { y with lb := joinView y.lb view, adoptPos := n }) with
      adoptBack := s.adoptBack.erase (agentOf t g),
      ops := s.ops.map fun o => if o.team = t ∧ o.grp = g ∧ after < o.id then { o with lb := joinView o.lb view } else o }
  | _, _ => s
/-- The same by the instruction that issues or completes now. -/
def State.adopt (s : State) (t g : Nat) (sc : Scope) (joined : List Nat) : State := s.adoptAt t g sc joined s.stamp

end Sys2Proof.Machine
end

