-- ==== Sys2Proof/Machine/Xlat.lean ====
section
/-!
DEFINITION. Two-stage translation, permissions and ownership (spec/17 R410-R414, spec/18 R426-R428, spec/20 R459), instruction fetch
(spec/01 R29) and the caching of translations.
-/
namespace Sys2Proof.Machine

/-- Why an address has no translation: its class (7, 8 or 10), stage and level (R411, R412, R417). -/
structure XErr where
  cls : FClass
  stage : Nat
  level : Nat
deriving DecidableEq, Repr

/-- DETAIL of a fault record: bits 6:5 stage, 9:8 level (R419). -/
def XErr.detail (e : XErr) : Nat := e.stage * 32 + e.level * 256

/-- Access kinds, by the leaf bits they need: bit 0 RD, 1 W, 2 X (R412). -/
def needR : BitVec 4 := 1#4
def needW : BitVec 4 := 2#4
def needRW : BitVec 4 := 3#4
def needX : BitVec 4 := 4#4

/-- The levels of a walk: number and lowest index bit (R410). -/
def walkLevels : List (Nat × Nat) := [(0, 47), (1, 36), (2, 25), (3, 14)]

/-- R411: bits 63:52 and 13:6, and U in stage 2. -/
def entryReserved (stage : Nat) (e : BitVec 64) : Bool :=
  e.extractLsb' 52 12 != 0#12 || e.extractLsb' 6 8 != 0#8 || (stage == 2 && e.getLsbD 5)
/-- ADDR: the table or page frame. -/
def entryAddr (e : BitVec 64) : Nat := (e.extractLsb' 14 38).toNat * 2 ^ 14
/-- RD, W, X, U as bits 0-3. -/
def entryPerm (e : BitVec 64) : BitVec 4 := e.extractLsb' 2 4

/-- A found translation: its page's address and size, and its permissions. -/
structure Leaf where
  base : Nat
  bits : Nat
  perm : BitVec 4
deriving DecidableEq, Repr

/-- One stage's walk over the levels left: `read` gives the physical address of an entry (R410, R411). -/
def walk (s : State) (stage : Nat) (read : Nat → Except XErr Nat) (addr : Nat) : List (Nat × Nat) → Nat → Except XErr Leaf
  | [], _ => .error { cls := .memXlate, stage, level := 3 }
  | (lv, sh) :: rest, table =>
    match read (table + 8 * (addr / 2 ^ sh % (if stage == 2 && lv == 0 then 32 else 2048))) with
    | .error e => .error (if stage == 2 then { e with stage, level := lv } else e)
    | .ok pa =>
      if (List.range 8).any fun k => s.poisoned (pa + k) then .error { cls := .memPoison, stage, level := lv }
      else
        let e := BitVec.ofNat 64 (s.readLE pa 8)
        let bad : Except XErr Leaf := .error { cls := .memXlate, stage, level := lv }
        if !e.getLsbD 0 || entryReserved stage e then bad
        else if e.getLsbD 1 then
          if lv == 0 || entryAddr e % 2 ^ sh != 0 then bad else .ok { base := entryAddr e, bits := sh, perm := entryPerm e }
        else if lv == 3 || entryPerm e != 0#4 then bad
        else walk s stage read addr rest (entryAddr e)

/-- A register of a slice on a die (R421) (DESIGN CHOICE, log 1). -/
def State.sdReg (s : State) (sl die n : Nat) : Word := (s.sliceDieOf sl die).reg.get n

/-! ## The owner's answer (R460, R461) -/

/-- A part of an access: a lane of a lane's access, a 16 KiB page of any other. -/
def partKey (id part : Nat) : Nat := id * 2 ^ 64 + part
/-- The operation and the part of a key. -/
def keyId (k : Nat) : Nat := k / 2 ^ 64
def keyPart (k : Nat) : Nat := k % 2 ^ 64
/-- The name under which a package answers for the words that a group's `waitv` and cluster barriers name (DESIGN CHOICE, log 23). -/
def wordId (agent : Nat) : Nat := 2 ^ 60 + agent
/-- And for the accesses that the device itself makes for a slice: walks, rings, headers, images (DESIGN CHOICE, log 23). -/
def devId (slice : Nat) : Nat := 2 ^ 61 + slice
/-- Why an owner's answer ends an access: refused, or lost (R460, R463). -/
def answerErr (v : Nat) : XErr := { cls := if v = 3 then .memPoison else .memPerm, stage := 0, level := 0 }
/-- The owner's answer for a part of an access: none while it is out (R461) (DESIGN CHOICE, log 23). -/
def State.verdict (s : State) (id part : Nat) : Option Nat := s.verdicts.find? (partKey id part)
/-- A translated place after the owner's answer (R460). -/
def State.ownerSays (s : State) (id part va : Nat) (pas : List Nat) : Option (Except (Nat × XErr) (List Nat)) :=
  if pas.any isRemote then (s.verdict id part).map fun v => if v = 1 then .ok pas else .error (va, answerErr v)
  else some (.ok pas)
/-- A place that the device itself reaches for a slice: the answer of the owner of a remote page is the tape's, else open, and comes within the
access's own step (R428, R460, R461) (DESIGN CHOICE, log 23). -/
def State.devSays (s : State) (sl pa : Nat) : Except XErr Nat :=
  if !isRemote pa then .ok pa
  else match s.verdict (devId sl) (pa / 2 ^ 14) with
    | some v => if v = 1 then .ok pa else .error (answerErr v)
    | none => if Config.ownerAdmits sl (pa / 2 ^ 14) s.stamp then .ok pa else .error (answerErr 2)

/-! ## Ownership (R427, R428) and domain addresses (R459) -/

/-- The channel of a local physical address is held by the slice; channels held by none belong to the PF, slice 192 (DESIGN CHOICE, log 1). -/
def State.ownsChan (s : State) (sl ch : Nat) : Bool :=
  if sl == 192 then !(s.slices.any fun p => p.2.chans.contains ch) else (s.slices.get sl).chans.contains ch

/-- A domain address after the forwarding entries (R472). -/
def State.forwarded (s : State) (pa : Nat) : Nat :=
  if pa < 2 ^ 51 then pa
  else match s.fwd.find? fun f => decide (f.1 ≤ pa) && decide (pa < f.1 + f.2.1) with
    | some f => f.2.2 + (pa - f.1)
    | none => pa
/-- The package of a domain address. -/
def pkgOf (pa : Nat) : Nat := pa / 2 ^ 40 % 256
def State.ownPkg (s : State) : Nat := (s.pkg 0x700).toNat % 256
/-- A physical address as the requester uses it: a local one, or the domain address of another package that can be reached (R459). -/
def State.domain (s : State) (a : Nat) : Except XErr Nat :=
  let pa := s.forwarded a
  let off := pa % 2 ^ 38
  if pa < 2 ^ 51 then .ok pa
  else if pa / 2 ^ 48 % 8 != 0 || pa / 2 ^ 38 % 4 != 0 || 192 * 2 ^ 30 ≤ off then .error { cls := .memXlate, stage := 2, level := 3 }
  else if pkgOf pa == s.ownPkg then .ok off
  else if s.reachable (pkgOf pa) then .ok pa else .error { cls := .memXlate, stage := 2, level := 3 }
/-- The same for an access by a slice's agent: a local address must be one it owns (R428). -/
def State.owned (s : State) (sl pa : Nat) : Except XErr Nat :=
  (s.domain pa).bind fun a =>
    if isRemote a then .ok a
    else if 192 * 2 ^ 30 ≤ a then .error { cls := .memXlate, stage := 2, level := 3 }
    else if s.ownsChan sl (a / 2 ^ 30) then .ok a else .error { cls := .memPerm, stage := 2, level := 3 }

/-! ## The two stages (R410-R413) -/

/-- The stage-2 root: XL_S2ROOT (R421). -/
def State.s2root (s : State) (sl die : Nat) : Nat := (s.sdReg sl die 0x404).toNat + 2 ^ 32 * (s.sdReg sl die 0x405).toNat

/-- Stage 2 of an intermediate address: a cached translation (R414), else a walk of tables at local or domain addresses (R459). -/
def State.stage2 (s : State) (sl die ipa : Nat) : Except XErr Leaf :=
  match s.tlb2.find? fun e => e.slice == sl && e.die == die && e.ipa == ipa / 2 ^ e.bits * 2 ^ e.bits with
  | some e => .ok { base := e.pa, bits := e.bits, perm := e.perm }
  | none => walk s 2 (fun pa => (s.domain pa).bind (s.devSays sl)) ipa walkLevels (s.s2root sl die)
def Leaf.apply (l : Leaf) (addr : Nat) : Nat := l.base + addr % 2 ^ l.bits
/-- The place of a table entry at an intermediate address: a read of it is an access of the slice's agent (R414, R428). -/
def State.ipaToPa (s : State) (sl die ipa : Nat) : Except XErr Nat := (s.stage2 sl die ipa).bind fun l => (s.owned sl (l.apply ipa)).bind (s.devSays sl)

/-- The stage-1 level-0 table of an ASID, from bytes 0 to 7 of its entry of the address-space table (R413). -/
def State.asTable (s : State) (sl die asid : Nat) : Except XErr Nat :=
  let bad : Except XErr Nat := .error { cls := .memXlate, stage := 1, level := 0 }
  if (s.sdReg sl die 0x403).toNat ≤ asid then bad
  else match s.ipaToPa sl die ((s.sdReg sl die 0x401).toNat + 2 ^ 32 * (s.sdReg sl die 0x402).toNat + 16 * asid) with
    | .error e => .error e
    | .ok pa =>
      if (List.range 8).any fun k => s.poisoned (pa + k) then .error { cls := .memPoison, stage := 1, level := 0 }
      else
        let e := BitVec.ofNat 64 (s.readLE pa 8)
        if !e.getLsbD 0 || e.getLsbD 1 || entryReserved 1 e || entryPerm e != 0#4 then bad
        else .ok (entryAddr e)

/-- Stage 1 of a virtual address: a cached translation, else a walk whose entries are read at intermediate addresses. -/
def State.stage1 (s : State) (sl die asid va : Nat) : Except XErr Leaf :=
  match s.tlb1.find? fun e => e.slice == sl && e.die == die && e.asid == asid && e.va == va / 2 ^ e.bits * 2 ^ e.bits with
  | some e => .ok { base := e.ipa, bits := e.bits, perm := e.perm }
  | none =>
    if 2 ^ 58 ≤ va then .error { cls := .memXlate, stage := 1, level := 0 }
    else match s.asTable sl die asid with
      | .error e => .error e
      | .ok table => walk s 1 (s.ipaToPa sl die) va walkLevels table

/-- Both stages of a virtual address with the permission an access needs (R412), before ownership: physical address, combined
permissions and the smaller page's size. -/
def State.bothStages (s : State) (sl die asid va : Nat) : Except XErr (Nat × BitVec 4 × Nat) :=
  match s.stage1 sl die asid va with
  | .error e => .error e
  | .ok l1 =>
    match s.stage2 sl die (l1.apply va) with
    | .error e => .error e
    | .ok l2 => .ok (l2.apply (l1.apply va), (l1.perm &&& l2.perm &&& 7#4) ||| (l1.perm &&& 8#4), min l1.bits l2.bits)

/-- The translation of an access (R410-R413, R428): an unprivileged group also needs U (DEDUCED, log 41). -/
def State.translate (s : State) (sl die asid : Nat) (priv : Bool) (need : BitVec 4) (va : Nat) : Except XErr Nat :=
  match s.bothStages sl die asid va with
  | .error e => .error e
  | .ok (pa, perm, _) =>
    if perm &&& need == need && (priv || perm.getLsbD 3) then s.owned sl pa else .error { cls := .memPerm, stage := 1, level := 3 }

/-- For a team's own accesses. -/
def State.teamXlat (s : State) (x : Team) (need : BitVec 4) (va : Nat) : Except XErr Nat :=
  s.translate x.slice x.die x.asid x.priv need va

/-- Every byte of a range, page by page: the physical addresses in order, or the first failing byte's error. -/
def State.xlatBytes (s : State) (x : Team) (need : BitVec 4) (va : Nat) : Nat → Except (Nat × XErr) (List Nat)
  | 0 => .ok []
  | n + 1 =>
    match s.teamXlat x need va with
    | .error e => .error (va, e)
    | .ok pa => (s.xlatBytes x need (va + 1) n).map (pa :: ·)

/-- A 96-bit word fetched for execution at a virtual address (R14, R29): the failing class if it cannot be. No export entry grants X, so a word of
another package's memory is MEM_PERM (R412, R460). -/
def State.fetchWord (s : State) (x : Team) (va : Nat) : Except XErr (BitVec 96) :=
  let rd := fun (a : Nat) =>
    if 2 ^ 58 ≤ a then Except.error { cls := .memXlate, stage := 1, level := 0 : XErr }
    else match s.teamXlat x needX a with
      | .error e => .error e
      | .ok pa =>
        if isRemote pa then .error (answerErr 2)
        else if (List.range 4).any fun k => s.poisoned (pa + k) then .error { cls := .memPoison, stage := 0, level := 0 }
        else .ok (s.readLE pa 4)
  match rd va, rd (va + 4), rd (va + 8) with
  | .ok a, .ok b, .ok c => .ok (BitVec.ofNat 96 (a + 2 ^ 32 * b + 2 ^ 64 * c))
  | .error e, _, _ => .error e
  | _, .error e, _ => .error e
  | _, _, .error e => .error e

/-! ## Caching of translations (R414): only what a walk finds -/

/-- DEDUCED, log 41. -/
def State.fillT1 (s : State) (sl die asid va : Nat) : State :=
  match s.stage1 sl die asid va with
  | .error _ => s
  | .ok l => { s with tlb1 := { slice := sl, die, asid, va := va / 2 ^ l.bits * 2 ^ l.bits, bits := l.bits, ipa := l.base, perm := l.perm } :: s.tlb1 }
/-- DEDUCED, log 41. -/
def State.fillT2 (s : State) (sl die ipa : Nat) : State :=
  match s.stage2 sl die ipa with
  | .error _ => s
  | .ok l => { s with tlb2 := { slice := sl, die, ipa := ipa / 2 ^ l.bits * 2 ^ l.bits, bits := l.bits, pa := l.base, perm := l.perm } :: s.tlb2 }

/-- The 16 KiB pages that a range touches. -/
def pageCount (base len : Nat) : Nat := if len = 0 then 0 else (base + len - 1) / 2 ^ 14 - base / 2 ^ 14 + 1

end Sys2Proof.Machine
end

