-- ==== Sys2Proof/Machine/Operands.lean ====
section
/-!
DEFINITION. What an instruction names: its operands by class (spec/02 R47-R63), its flag select and marks, and the reading and writing of
every operand form (spec/01 R16-R18, spec/03 R70-R75, R86).
-/
namespace Sys2Proof.Machine

/-! ## Operand uses -/

inductive Cls where | v | s | a
deriving DecidableEq, Repr

/-- One operand: its class, its first register (none for 510, 511, LANE and system values), its run length, and whether it is written. -/
structure Use where
  cls : Cls
  reg : Option Nat
  k : Nat
  dst : Bool
deriving DecidableEq, Repr

def Dst.num : Dst → Option Nat
  | .reg n => some n
  | .discard => none
def Src.num : Src → Option Nat
  | .reg n => some n
  | _ => none
def dV (k : Nat) (d : Dst) : Use := ⟨.v, Dst.num d, k, true⟩
def dU (k : Nat) (d : Dst) : Use := ⟨.s, Dst.num d, k, true⟩
def dA (d : Dst) : Use := ⟨.a, Dst.num d, 1, true⟩
def sV (k : Nat) (a : Src) : Use := ⟨.v, Src.num a, k, false⟩
def sU (k : Nat) (a : Src) : Use := ⟨.s, Src.num a, k, false⟩
def sA (a : Src) : Use := ⟨.a, Src.num a, 1, false⟩
/-- A memory base of class AC, global or team (R61). -/
def sB (ac : AC) (global : Bool) (a : Src) : Use :=
  match ac with
  | .aff => sA a
  | .var => sV (if global then 2 else 1) a
  | .uni => sU (if global then 2 else 1) a
/-- An affine field that may be uniform (R54). -/
def sAU (un : Bool) (a : Src) : Use := if un then sU 1 a else sA a

/-- The operands of each instruction (R47, R48, R51-R63). -/
def uses : Instr → List Use
  | .nop .. | .bra .. | .exit .. | .yieldPath .. | .jset .. | .jadd .. | .jsub .. | .rejoin .. | .brk .. | .trap .. | .hret .. => []
  | .brxV _ a | .ret _ a => [sV 2 a]
  | .brxS _ a => [sU 2 a]
  | .call _ d _ => [dV 2 d]
  | .callIndirect _ d a => [dV 2 d, sV 2 a]
  | .jget _ d _ => [dU 1 d]
  | .jput _ _ a => [sU 1 a]
  | .rejoinTmo _ _ _ b => [sU 1 b]
  | .addV _ t _ d a b | .subV _ t _ d a b | .mulV _ t _ d a b | .addcV _ t d a b _ | .subcV _ t d a b _ | .minV _ t d a b
  | .maxV _ t d a b | .divV _ t d a b | .remV _ t d a b => [dV t.k d, sV t.k a, sV t.k b]
  | .addS _ t _ d a b | .subS _ t _ d a b | .mulS _ t _ d a b | .minS _ t d a b | .maxS _ t d a b | .divS _ t d a b
  | .remS _ t d a b => [dU t.k d, sU t.k a, sU t.k b]
  | .madV _ t d a b e => [dV t.k d, sV t.k a, sV t.k b, sV t.k e]
  | .madS _ t d a b e => [dU t.k d, sU t.k a, sU t.k b, sU t.k e]
  | .absV _ w d a | .negV _ w d a | .notV _ w d a | .movV _ w d a => [dV (kOf w) d, sV (kOf w) a]
  | .absS _ w d a | .negS _ w d a | .notS _ w d a | .movS _ w d a => [dU (kOf w) d, sU (kOf w) a]
  | .andV _ w d a b | .orV _ w d a b | .xorV _ w d a b | .andnV _ w d a b | .ornV _ w d a b | .xnorV _ w d a b | .selV _ w d a b _ =>
    [dV (kOf w) d, sV (kOf w) a, sV (kOf w) b]
  | .andS _ w d a b | .orS _ w d a b | .xorS _ w d a b | .andnS _ w d a b | .ornS _ w d a b | .xnorS _ w d a b =>
    [dU (kOf w) d, sU (kOf w) a, sU (kOf w) b]
  | .shlV _ w d a b | .shrV _ w d a b | .sarV _ w d a b => [dV (kOf w) d, sV (kOf w) a, sV 1 b]
  | .shlS _ w d a b | .shrS _ w d a b | .sarS _ w d a b => [dU (kOf w) d, sU (kOf w) a, sU 1 b]
  | .shfV _ _ _ d a b e | .bfeV _ _ d a b e => [dV 1 d, sV 1 a, sV 1 b, sV 1 e]
  | .shfS _ _ _ d a b e | .bfeS _ _ d a b e => [dU 1 d, sU 1 a, sU 1 b, sU 1 e]
  | .bfiV _ d a b e | .bgatV _ d a b e => [dV 1 d, sV 1 a, sV 1 b, sV 1 e]
  | .bfiS _ d a b e | .bgatS _ d a b e => [dU 1 d, sU 1 a, sU 1 b, sU 1 e]
  | .brevV _ d a => [dV 1 d, sV 1 a]
  | .brevS _ d a => [dU 1 d, sU 1 a]
  | .popcV _ w d a | .clzV _ w d a | .ctzV _ w d a => [dV 1 d, sV (kOf w) a]
  | .popcS _ w d a | .clzS _ w d a | .ctzS _ w d a => [dU 1 d, sU (kOf w) a]
  | .cmpV _ w _ _ _ _ a b => [sV (kOf w) a, sV (kOf w) b]
  | .cmpS _ w _ _ _ _ a b => [sU (kOf w) a, sU (kOf w) b]
  | .addA _ _ bu d a b | .subA _ _ bu d a b => [dA d, sA a, sAU bu b]
  | .mulA _ _ d a b | .shlA _ d a b => [dA d, sA a, sU 1 b]
  | .madA _ _ d a b e => [dA d, sA a, sU 1 b, sA e]
  | .cmpA _ bu _ _ _ _ a b => [sA a, sAU bu b]
  | .movA _ d a => [dA d, sA a]
  | .rampA _ d a b => [dA d, sU 2 a, sU 1 b]
  | .spread _ w d a => [dV (kOf w) d, sU (kOf w) a]
  | .mat _ w d a => [dV (kOf w) d, sA a]
  | .agree _ w d a _ | .firstLane _ w d a => [dU (kOf w) d, sV (kOf w) a]
  | .addVF _ t _ _ d a b | .subVF _ t _ _ d a b | .mulVF _ t _ _ d a b | .divVF _ t _ d a b | .minVF _ t d a b | .maxVF _ t d a b
  | .minnumV _ t d a b | .maxnumV _ t d a b | .copysignV _ t d a b => [dV t.k d, sV t.k a, sV t.k b]
  | .addSF _ t _ _ d a b | .subSF _ t _ _ d a b | .mulSF _ t _ _ d a b | .divSF _ t _ d a b | .minSF _ t d a b | .maxSF _ t d a b
  | .minnumS _ t d a b | .maxnumS _ t d a b | .copysignS _ t d a b => [dU t.k d, sU t.k a, sU t.k b]
  | .fmaV _ t _ _ d a b e => [dV t.k d, sV t.k a, sV t.k b, sV t.k e]
  | .fmaS _ t _ _ d a b e => [dU t.k d, sU t.k a, sU t.k b, sU t.k e]
  | .cmpVF _ ty _ _ _ _ a b => [sV (kOf ty) a, sV (kOf ty) b]
  | .cmpVF16 _ _ _ _ _ _ a b => [sV 1 a, sV 1 b]
  | .cmpSF _ ty _ _ _ _ a b => [sU (kOf ty) a, sU (kOf ty) b]
  | .rndV _ t _ d a | .rcpV _ t _ d a | .sqrtV _ t _ d a | .absVF _ t d a | .negVF _ t d a => [dV t.k d, sV t.k a]
  | .rcpS _ t _ d a | .sqrtS _ t _ d a | .absSF _ t d a | .negSF _ t d a => [dU t.k d, sU t.k a]
  | .ex2 _ _ d a | .lg2 _ _ d a | .sinpi _ _ d a | .cospi _ _ d a => [dV 1 d, sV 1 a]
  | .dotV _ _ _ d a b e => [dV 1 d, sV 1 a, sV 1 b, sV 1 e]
  | .classV _ t _ a _ => [sV t.k a]
  | .addVQ _ _ _ d a b | .subVQ _ _ _ d a b | .mulVQ _ _ _ d a b => [dV 1 d, sV 1 a, sV 1 b]
  | .minVQ _ _ d a b | .maxVQ _ _ d a b => [dV 1 d, sV 1 a, sV 1 b]
  | .fmaVQ _ _ _ d a b e => [dV 1 d, sV 1 a, sV 1 b, sV 1 e]
  | .dotVQ _ _ d a b e => [dV 1 d, sV 1 a, sV 1 b, sV 1 e]
  | .absVQ _ _ d a | .negVQ _ _ d a => [dV 1 d, sV 1 a]
  | .cvtFloatFloat _ dt st _ d a => [dV dt.k d, sV st.k a]
  | .cvtFloatInt _ dt st _ d a => [dV dt.k d, sV st.k a]
  | .cvtIntFloat _ dt st _ d a => [dV dt.k d, sV st.k a]
  | .cvtQFloat _ st _ _ d a e => [dV 1 d, sV st.k a, sV 1 e]
  | .cvtFloatQ _ dt _ _ d a => [dV dt.k d, sV 1 a]
  | .cvtNarrow _ _ _ _ d a => [dV 1 d, sV 1 a]
  | .shfl _ w _ d a b => [dV (kOf w) d, sV (kOf w) a, sV 1 b]
  | .voteAll .. | .voteAny .. | .voteEq .. => []
  | .voteBallot _ d _ => [dU 1 d]
  | .reduceInt _ _ d a => [dU 1 d, sV 1 a]
  | .reduceFloat _ w _ d a => [dU (kOf w) d, sV (kOf w) a]
  | .scanInt _ _ _ d a => [dV 1 d, sV 1 a]
  | .scanFloat _ _ w _ d a => [dV (kOf w) d, sV (kOf w) a]
  | .matchLanes _ ty d a => [dV 1 d, sV (if ty == .b64 || ty == .f64 then 2 else 1) a]
  | .ldgV _ _ ac m d a | .ldcV _ _ ac m d a => [dV m.run d, sB ac true a]
  | .ldgS _ _ m d a | .ldcS _ _ m d a => [dU m.run d, sU 2 a]
  | .stgV _ _ ac m a b => [sB ac true a, sV m.run b]
  | .stgS _ _ ac m a b => [sB ac true a, sU m.run b]
  | .ldtmV _ _ ac m d a => [dV m.run d, sB ac false a]
  | .ldtmS _ _ m d a => [dU m.run d, sU 1 a]
  | .sttmV _ _ ac m a b => [sB ac false a, sV m.run b]
  | .sttmS _ _ ac m a b => [sB ac false a, sU m.run b]
  | .stmsk _ _ ac _ a b e => [sB ac true a, sV 1 b, sV 1 e]
  | .atom _ _ op m d a b e => [dV (kOf m.w64) d, sB m.ac true a, sV (kOf m.w64) b] ++ (if op == .cas then [sV (kOf m.w64) e] else [])
  | .red _ _ _ m a b => [sB m.ac true a, sV (kOf m.w64) b]
  | .atomtm _ _ op m d a b e => [dV (kOf m.w64) d, sB m.ac false a, sV (kOf m.w64) b] ++ (if op == .cas then [sV (kOf m.w64) e] else [])
  | .publish .. | .adopt .. | .fence .. => []
  | .pinLines _ _ d a b | .unpinLines _ _ d a b => [dU 1 d, sU 2 a, sU 1 b]
  | .barInit _ a b | .barExpect _ a b => [sU 1 a, sU 1 b]
  | .barArrive _ _ a | .barWait _ _ a | .barTest _ _ _ a => [sU 1 a]
  | .chinit _ _ a b => [sU 1 a, sU 1 b]
  | .chres _ _ d | .chtake _ _ _ d => [dU 1 d]
  | .chcommit .. | .chfree .. => []
  | .cpyG2t _ a b e _ => [sU 1 a, sU 2 b, sU 1 e]
  | .cpyT2g _ a b e _ => [sU 2 a, sU 1 b, sU 1 e]
  | .cpyG2g _ a b e _ => [sU 2 a, sU 2 b, sU 1 e]
  | .cpyT2t _ a b e _ => [sU 1 a, sU 1 b, sU 1 e]
  | .vgrow _ a | .vshrink _ a => [sU 1 a]
  | .obres _ _ a => [sU 1 a]
  | .obrel .. => []
  | .obldG _ _ a _ => [sU 2 a]
  | .obldTm _ _ a _ => [sU 1 a]
  | .ldfrag _ _ un _ cnt _ _ d a => [dV cnt.num d, sAU un a]
  | .mma .. => []
  | .drainF64 _ _ _ _ b | .drainI64 _ _ _ _ b | .drainQ _ _ _ _ _ _ _ _ b => [sU 2 b]
  | .xzero .. => []
  | .xstatNan _ d _ | .xstatOvf _ d _ => [dU 1 d]
  | .xget _ _ d _ b => [dV 2 d, sU 1 b]
  | .xput _ _ a b => [sV 2 a, sU 1 b]
  | .ccall _ _ b => [sU 1 b]
  | .crecv _ _ d _ => [dU 1 d]
  | .tokWait _ a => [sU 1 a]
  | .tokRead _ d => [dU 1 d]
  | .tokResume _ d a b => [dU 1 d, sU 1 a, sU 1 b]
  | .cbarArrive _ _ a | .cbarWait _ _ a => [sU 2 a]
  | .enq _ _ d a b => [dU 1 d, sU 2 a, sU 2 b]
  | .launchGrid _ _ d a b => [dU 1 d, sU 2 a, sU 1 b]
  | .waitv _ _ _ a b e => [sU 2 a, sU 1 b, sU 1 e]
  | .setdl _ a => [sU 2 a]
  | .getsr _ d _ => [dU 1 d]
  | .setsr _ _ a => [sU 1 a]
  | .tlbinvAsid _ a | .tlbinvSlice _ a => [sU 1 a]
  | .tlbinvPage _ a b => [sU 2 a, sU 1 b]
  | .xlat _ _ d a b => [dU 2 d, sU 2 a, sU 1 b]
  | .dbgStop _ d a | .dbgResume _ d a => [dU 1 d, sU 1 a]
  | .dbgRd _ _ _ d a => [dU 1 d, sU 1 a]
  | .dbgWr _ _ _ d a b | .dbgWrForce _ _ _ d a b => [dU 1 d, sU 1 a, sU 1 b]
  | .dbgActResume _ d a b | .dbgActExit _ d a b | .endgrid _ d a b => [dU 1 d, sU 1 a, sU 1 b]
  | .collAllreduce _ _ d a | .collAllgather _ _ d a | .collRedscat _ _ d a | .collBcast _ _ d a => [dU 1 d, sU 2 a]
  | _ => []

/-- R75, R146: the instruction has a uniform, affine, format or FP_CTL destination, a discarded one included. -/
def writesState (i : Instr) : Bool :=
  (uses i).any (fun u => u.dst && u.cls != .v) || match i with
    | .setsr _ n _ => (decide (0x010 ≤ n.toNat) && decide (n.toNat ≤ 0x013)) || n == 0x100#12
    | _ => false

/-- Flag select (R20, R21); instructions that are not long-latency have none. -/
def flagSel : Instr → Flg
  | .ldgV _ f .. | .ldcV _ f .. | .ldgS _ f .. | .ldcS _ f .. | .stgV _ f .. | .stgS _ f .. | .ldtmV _ f .. | .ldtmS _ f ..
  | .sttmV _ f .. | .sttmS _ f .. | .stmsk _ f .. | .atom _ f .. | .red _ f .. | .atomtm _ f .. | .pinLines _ f .. | .unpinLines _ f ..
  | .ldfrag _ f .. | .mma _ f .. | .drainF64 _ f .. | .drainQ _ f .. | .drainI64 _ f .. | .xget _ f .. | .crecv _ f .. | .enq _ f ..
  | .launchGrid _ f .. | .xlat _ f .. | .collAllreduce _ f .. | .collAllgather _ f .. | .collRedscat _ f .. | .collBcast _ f .. => f
  | _ => .none

/-- Mark Pr of R63. -/
def privileged : Instr → Bool
  | .tokResume .. | .tlbinvAsid .. | .tlbinvPage .. | .tlbinvSlice .. | .xlat .. | .dbgStop .. | .dbgResume .. | .dbgRd .. | .dbgWr ..
  | .dbgWrForce .. | .dbgActResume .. | .dbgActExit .. | .endgrid .. => true
  | _ => false

/-- Instructions whose faults can be found late (R257). -/
def lateChecked : Instr → Bool
  | .ldgV .. | .ldgS .. | .stgV .. | .stgS .. | .ldcV .. | .ldcS .. | .stmsk .. | .atom .. | .red .. | .pinLines .. | .unpinLines ..
  | .cpyG2t .. | .cpyT2g .. | .cpyG2g .. | .cpyT2t .. | .obldG .. | .mma .. | .drainF64 .. | .drainQ .. | .drainI64 .. | .crecv ..
  | .enq .. | .launchGrid .. | .collAllreduce .. | .collAllgather .. | .collRedscat .. | .collBcast .. => true
  | _ => false

/-- Publications (R219, R257). -/
def publishes : Instr → Bool
  | .publish .. | .fence .. | .barArrive .. | .chcommit .. | .ccall .. | .cbarArrive .. | .enq .. | .launchGrid ..
  | .collAllreduce .. | .collAllgather .. | .collRedscat .. | .collBcast .. => true
  | .atom _ _ _ m .. | .red _ _ _ m .. => m.ord == .rel || m.ord == .ar
  | _ => false
/-- Instructions that publish: those of R257, and the invalidations (R416). -/
def publishesHere : Instr → Bool
  | .tlbinvAsid .. | .tlbinvPage .. | .tlbinvSlice .. => true
  | i => publishes i
/-- Publications of R257, and `exit`. -/
def publishesOrExits : Instr → Bool
  | .exit .. => true
  | i => publishes i
/-- Instructions that may adopt where they issue (R221, R405, R420). -/
def adopts : Instr → Bool
  | .adopt .. | .fence .. | .barWait .. | .barTest .. | .chtake .. | .tokWait .. | .cbarWait .. | .waitv .. => true
  | .getsr _ _ n => n == 0x423#12
  | _ => false

/-- The instructions whose events take their place after the group's older accesses without holding their path (R243). -/
def defersOrder : Instr → Bool
  | .publish .. | .adopt .. | .fence .. => true
  | _ => false
/-- The other instructions that give the group's older team-memory accesses their places in T where they issue (R226). -/
def placesTeam : Instr → Bool
  | .barInit .. | .barExpect .. | .chinit .. | .chres .. | .chfree .. | .cpyG2t .. | .cpyT2g .. | .cpyG2g .. | .cpyT2t .. | .obldG .. | .obldTm .. => true
  | .atom _ _ _ m .. | .red _ _ _ m .. => m.ord == .acq
  | _ => false

/-- The issue-control fields; a row that is no instruction has none. -/
def ctlOf (i : Instr) : Option Ctl := (encodeFields i).map (·.c)

/-! ## The issuing path -/

/-- What an instruction's effect reads: the state before it, its path, its team, group, state, and effective mask (R18). -/
structure Ctx where
  s : State
  cur : Cursor
  tm : Team
  g : Group
  st : StRec
  c : Ctl
  e : Mask
deriving Repr

/-- The group as its shared registers stood before the cycle (R174). -/
def Ctx.g0 (x : Ctx) : Group := x.s.snap.getD x.g
/-- The stamp of the group's cycle: both streams of one cycle have that of its first issue (R174, R305). -/
def Ctx.cycleStamp (x : Ctx) : Nat := if x.g.lastIssue = x.g0.lastIssue then x.s.stamp else x.g.lastIssue.getD x.s.stamp

/-- The effective mask (R18). -/
def effMask (g : Group) (c : Ctl) (m : Mask) : Mask :=
  if c.gp = 15#4 then m else maskOf fun l => m.getLsbD l && (g.getP c.gp.toNat l != c.gn)

/-- The issuing path, its team, group and state; none where no such path is named. -/
def ctxOf (s : State) (c : Ctl) : Option Ctx := do
  let cur ← s.cur
  let tm ← s.team? cur.team
  let g ← tm.group? cur.grp
  let st ← g.recs.find? cur.rc
  some { s, cur, tm, g, st, c, e := effMask g c cur.m }

/-! ## Reading operands -/

/-- How an immediate stands for a 64-bit operand (R17): sign-extended, zero-extended, or as the upper half (f64). -/
inductive ImmKind where | sx | zx | f64
deriving DecidableEq, Repr
def immWide (ik : ImmKind) (v : Word) : Nat :=
  match ik with
  | .sx => (v.signExtend 64).toNat
  | .zx => v.toNat
  | .f64 => v.toNat * 2 ^ 32
def ITimm (t : IT) : ImmKind := if t.signed then .sx else .zx

/-- Registers n and, for a pair, n + 1 as a number (R48). -/
def pairV (g : Group) (k n l : Nat) : Nat :=
  if k = 2 then (g.getV n l).toNat + 2 ^ 32 * (g.getV (n + 1) l).toNat else (g.getV n l).toNat
def pairS (r : StRec) (k n : Nat) : Nat :=
  if k = 2 then (r.getS n).toNat + 2 ^ 32 * (r.getS (n + 1)).toNat else (r.getS n).toNat

/-- The system values (R86), each a 32-bit register. -/
def Ctx.sysCount (x : Ctx) (n : Nat) : Nat :=
  match n with
  | 0 => x.cur.grp
  | 1 => x.tm.ngroups
  | 2 => x.tm.idx
  | 3 => x.tm.count
  | 4 => (x.g0.live x.cur.rc).toNat
  | 5 => x.cur.m.toNat
  | 6 => x.e.toNat
  | 7 => x.g0.vcur
  | 8 => x.s.dieCount x.tm.die % 2 ^ 32
  | 9 => x.s.dieCount x.tm.die / 2 ^ 32 % 2 ^ 32
  | _ => 0
def Ctx.sysVal (x : Ctx) (n : Nat) : Nat := x.sysCount n % 2 ^ 32

/-- A varying source of `k` registers in lane `l`. -/
def Ctx.rdV (x : Ctx) (k : Nat) (ik : ImmKind) (a : Src) (l : Nat) : Nat :=
  match a with
  | .reg n => pairV x.g k n l
  | .imm v => if k = 2 then immWide ik v else v.toNat
  | _ => 0
/-- A uniform source; a pair of system values reads both halves (R86). -/
def Ctx.rdU (x : Ctx) (k : Nat) (ik : ImmKind) (a : Src) : Nat :=
  match a with
  | .reg n => pairS x.st k n
  | .imm v => if k = 2 then immWide ik v else v.toNat
  | .sys n => if k = 2 then x.sysVal n + 2 ^ 32 * x.sysVal (n + 1) else x.sysVal n
  | _ => 0
/-- An affine source as base and stride (R16, R17). -/
def Ctx.rdA (x : Ctx) (ik : ImmKind) (a : Src) : Aff :=
  match a with
  | .reg n => x.st.getA n
  | .imm v => { base := BitVec.ofNat 64 (immWide ik v), stride := 0#32 }
  | .lane => { base := 0#64, stride := 1#32 }
  | _ => {}
/-- A uniform source in an affine form: 32 bits, sign- or zero-extended (R54). -/
def Ctx.rdUx (x : Ctx) (ik : ImmKind) (a : Src) : Nat :=
  match a with
  | .imm v => immWide ik v
  | _ => immWide ik (BitVec.ofNat 32 (x.rdU 1 ik a))
/-- value(L) of R73. -/
def Aff.value (v : Aff) (l : Nat) : Nat := modN 64 ((v.base.toNat : Int) + v.stride.toInt * l)

/-! ## Writing results -/

/-- A varying destination in one lane. -/
def putV (g : Group) (k : Nat) (d : Dst) (l v : Nat) : Group :=
  match d with
  | .discard => g
  | .reg n =>
    let g := g.setV n l (BitVec.ofNat 32 v)
    if k = 2 then g.setV (n + 1) l (BitVec.ofNat 32 (v / 2 ^ 32)) else g
/-- A uniform destination. -/
def putS (r : StRec) (k : Nat) (d : Dst) (v : Nat) : StRec :=
  match d with
  | .discard => r
  | .reg n =>
    let r := r.setS n (BitVec.ofNat 32 v)
    if k = 2 then r.setS (n + 1) (BitVec.ofNat 32 (v / 2 ^ 32)) else r
/-- An affine destination. -/
def putA (r : StRec) (d : Dst) (v : Aff) : StRec :=
  match d with
  | .discard => r
  | .reg n => r.setA n v

/-- A varying result in every lane of a mask. -/
def putLanes (g : Group) (m : Mask) (k : Nat) (d : Dst) (f : Nat → Nat) : Group := forLanes m g fun l g => putV g k d l (f l)

end Sys2Proof.Machine
end

