-- ==== Sys2Proof/Machine/Flags.lean ====
section
/-!
DEFINITION. Flag computations: completion flags and the header's slots (spec/01 R21, R22, R25), the combining types of compares (spec/05
R135), and the exception bits of FP_STATUS (spec/06 R147, R149).
-/
namespace Sys2Proof.Machine

/-! ## The clause header (R22) -/

def hdrLen (h : Word) : Nat := (h.extractLsb' 22 5).toNat
def hdrWait (h : Word) : BitVec 12 := h.extractLsb' 0 12
/-- The flag number of SET0 or SET1, if that slot is valid. -/
def hdrSlot (h : Word) : Flg → Option Nat
  | .none => none
  | .set0 => if h.getLsbD 16 then some (h.extractLsb' 12 4).toNat else none
  | .set1 => if h.getLsbD 21 then some (h.extractLsb' 17 4).toNat else none
/-- The conditions of R23 on the header's IMM. -/
def hdrOk (h : Word) : Bool :=
  h.extractLsb' 27 5 == 0#5 && decide (1 ≤ hdrLen h) && decide (hdrLen h ≤ 24)
  && decide ((h.extractLsb' 12 4).toNat < 12) && decide ((h.extractLsb' 17 4).toNat < 12)
  && (h.getLsbD 16 || h.extractLsb' 12 4 == 0#4) && (h.getLsbD 21 || h.extractLsb' 17 4 == 0#4)
  && !(h.getLsbD 16 && h.getLsbD 21 && h.extractLsb' 12 4 == h.extractLsb' 17 4)

/-- The flag that an instruction's flag select names under the header in force. -/
def Ctx.flagOf (x : Ctx) (f : Flg) : Option Nat := hdrSlot x.cur.hdr f

/-- Every flag that WAIT names is clear (R25). -/
def waitClear (g : Group) (h : Word) : Bool := (List.range 12).all fun n => !(hdrWait h).getLsbD n || g.flag n == 0

/-! ## Combining types (R135) -/

/-- The new values of the two predicates, from the old ones and the result. -/
def combine (cmb : Cmb) (dv cv r : Bool) : Bool × Bool :=
  match cmb with
  | .set => (r, !r)
  | .and => (dv && r, cv && !r)
  | .or => (dv || r, cv || !r)
  | .xor => (dv != r, cv != !r)
  | .andx => (dv && r, !(dv && r))
  | .orx => (dv || r, !(dv || r))
  | .nest => (cv && r, cv && !r)
  | .anyall => (dv || r, cv && r)

/-- A compare's writes in the lanes of a mask: both predicates are read before either is written. -/
def putCmp (g : Group) (m : Mask) (cmb : Cmb) (pd pc : Nat) (r : Nat → Bool) : Group :=
  let f := fun l => combine cmb (g.getP pd l) (g.getP pc l) (r l)
  (g.setP pd m fun l => (f l).1).setP pc m fun l => (f l).2

/-! ## FP_STATUS (R147, R149) -/

/-- Exception bits NV, DZ, OF, UF, NX in bits 0-4. -/
abbrev FpExc := BitVec 5
def excNV : FpExc := 1#5
def excDZ : FpExc := 2#5
def excOF : FpExc := 4#5
def excUF : FpExc := 8#5
def excNX : FpExc := 16#5

def Group.raiseFp (g : Group) (x : FpExc) : Group :=
  { g with fpStatus := g.fpStatus ||| x.setWidth 32, fpRaised := g.fpRaised ||| x.setWidth 32 }

end Sys2Proof.Machine
end

