-- ==== Sys2Proof/Machine/Issue.lean ====
section
/-!
DEFINITION. Issuing an instruction: what holds a path, the faults of orders 1 to 5 and their precedence (spec/01 R18, R28, spec/03 R71,
R75, spec/09 R255-R257), and what happens to the lanes of the path afterwards.
-/
namespace Sys2Proof.Machine

/-- Special registers whose every field has U-view - (R64, R216, R421, R429, R445, R473). -/
def srPrivOnly (n : Nat) : Bool :=
  n ∈ [0x120, 0x401, 0x402, 0x403, 0x404, 0x405, 0x410, 0x411, 0x412, 0x420, 0x421, 0x422, 0x423, 0x424, 0x501, 0x510, 0x511, 0x600,
    0x610, 0x618, 0x619, 0x61A, 0x620, 0x621, 0x622, 0x701, 0x702, 0x703, 0x704, 0x705]
  || (decide (0x608 ≤ n) && decide (n ≤ 0x60F)) || (decide (0x710 ≤ n) && decide (n ≤ 0x71F))

/-! ## What holds a path -/

def overlaps (a ka b kb : Nat) : Bool := decide (a < b + kb) && decide (b < a + ka)

/-- R19, R262: an operand waits for an operation in flight that is still to write it. -/
def interlocked (x : Ctx) (us : List Use) : Bool :=
  x.s.ops.any fun o => o.team == x.cur.team && o.grp == x.cur.grp && match o.dst with
    | none => false
    | some d => us.any fun u => match u.reg with
      | none => false
      | some n => overlaps n u.k d.n d.k
        && ((u.cls == .v && !d.uni && o.lanes &&& x.cur.m != 0#32) || (u.cls == .s && d.uni && o.rc == x.cur.rc))

/-- R25: a flag count may not pass 63. -/
def saturated (x : Ctx) (f : Flg) : Bool :=
  x.e != 0#32 && match x.flagOf f with
    | some n => decide (63 ≤ x.g.flag n)
    | none => false

/-- R256: a path does not retire a 64th instruction younger than an unchecked access of its lanes. -/
def retireLimit (x : Ctx) : Bool :=
  x.s.ops.any fun o => o.unchecked x.cur.team x.cur.grp x.cur.m
    && o.items.any fun it => (laneList x.cur.m).any fun l =>
      (if o.uni then o.lanes.getLsbD l else it.lane == l) && decide (64 ≤ (x.g.lane l).ret - o.retOf it l)

/-- A path that holds at its instruction keeps its place and issues nothing (R173, R246). -/
def holding (x : Ctx) : Bool := x.g.holds.any fun h => h.lanes &&& x.cur.m != 0#32

/-- R291: while a core's engine is lent, instructions of MAJ 0x91 and 0x93-0x97 do not issue on it. -/
def usesEngine : Instr → Bool
  | .obldG .. | .obldTm .. | .mma .. | .drainF64 .. | .drainQ .. | .drainI64 .. | .xzero .. | .xstatNan .. | .xstatOvf .. | .xget .. | .xput .. => true
  | _ => false
def lentAway (x : Ctx) (i : Instr) : Bool := usesEngine i && ((x.s.coreReg.get x.tm.coreId).get 0x128).getLsbD 1
/-- R270: `xstat` holds its path while an operation on its tile is in flight. -/
def tileHeld (x : Ctx) (i : Instr) : Bool :=
  x.e != 0#32 && match i with
  | .xstatNan _ _ n | .xstatOvf _ _ n => !(x.s.tileOps x.cur.team n x.s.stamp).isEmpty
  | _ => false
/-- A path that has come to an instruction listed in R401 that it may not perform yet: it keeps its place (R173). -/
def waitsHere (x : Ctx) (i : Instr) : Bool := lentAway x i || tileHeld x i

/-- R220, R221: a publication or adopt that an instruction makes beside another effect waits until the older accesses that it covers have been
performed; those of `publish`, `adopt` and `fence` follow in flight (R243) (DEDUCED, log 13). -/
def orderHeld (x : Ctx) (i : Instr) : Bool :=
  x.e != 0#32 && !defersOrder i && ((publishesHere i && x.s.accessesOut x.cur.team x.cur.grp) || (adopts i && x.s.readsOut x.cur.team x.cur.grp)
    || (placesTeam i && x.s.orderOut x.cur.team x.cur.grp))

/-- The address of the word that an instruction tests or updates at its issue. -/
def Ctx.wordAt (x : Ctx) : Instr → Option Nat
  | .waitv _ _ _ a _ _ => some (x.rdU 2 .zx a)
  | .cbarArrive _ _ a | .cbarWait _ _ a => some (x.rdU 2 .zx a % 2 ^ 63)
  | _ => none
/-- The answer of the package that holds such a word; none while it is out (R461). -/
def State.wordSays (s : State) (t g va pa : Nat) : Option (Except (Nat × XErr) (List Nat)) := s.ownerSays (wordId (agentOf t g)) (va / 2 ^ 14) va [pa]
/-- A word on another package waits for its owner's answer (R461) (DESIGN CHOICE, log 23). -/
def ownerHeld (x : Ctx) (i : Instr) : Bool :=
  x.e != 0#32 && match x.wordAt i with
  | none => false
  | some va => decide (va < 2 ^ 58) && va % (match i with | .waitv .. => 4 | _ => 16) == 0 && match x.s.teamXlat x.tm (match i with | .waitv .. => needR | _ => needRW) va with
    | .ok pa => (x.s.wordSays x.cur.team x.cur.grp va pa).isNone
    | .error _ => false

def mustHold (x : Ctx) (i : Instr) : Bool :=
  waitsHere x i || holding x || interlocked x (uses i) || saturated x (flagSel i) || retireLimit x || orderHeld x i || ownerHeld x i

/-! ## Faults on the whole path, whatever the guard (R28, orders 2 to 4) -/

/-- R257: a publication or exit after a late-checked instruction of its clause. -/
def afterLate (x : Ctx) (i : Instr) : Bool :=
  publishesOrExits i && (List.range (x.cur.pos - 1)).any fun k =>
    match x.s.fetchWord x.tm (x.cur.pc.toNat - 12 * (k + 1)) with
    | .ok w => match decode w with
      | .ok j => lateChecked j
      | .error _ => false
    | .error _ => false

def preciseFault (x : Ctx) (i : Instr) : Option FClass :=
  if !i.wellFormed || afterLate x i then some .illegalOp
  else if flagSel i != .none && (x.flagOf (flagSel i)).isNone then some .clauseFmt
  else if !x.tm.priv && (privileged i || match i with
      | .getsr _ _ n => srPrivOnly n.toNat
      | .setsr _ n _ => srPrivOnly n.toNat
      | _ => false) then some .priv
  else none

/-! ## Faults of the instruction's own effect (R71, R75) -/

/-- Instructions that name a tile (R264). -/
def namesTile : Instr → Bool
  | .mma .. | .drainF64 .. | .drainQ .. | .drainI64 .. | .xzero .. | .xstatNan .. | .xstatOvf .. | .xget .. | .xput .. => true
  | _ => false
/-- R71, judged against VCUR from before the cycle (R254). -/
def overBudget (x : Ctx) (us : List Use) : Bool :=
  us.any fun u => match u.reg with
    | none => false
    | some n => match u.cls with
      | .v => decide (x.g0.vcur < n + u.k)
      | .s => decide (x.tm.sregs < n + u.k)
      | .a => decide (x.tm.aregs < n + u.k)

/-- R71, R264. -/
def regBudget (x : Ctx) (i : Instr) : Bool := (namesTile i && x.tm.tiles == 0) || overBudget x (uses i)

/-- R75: LIVE of the issuing state is not covered by the effective mask. -/
def partialWrite (x : Ctx) (i : Instr) : Bool := writesState i && !subMask (x.g0.live x.cur.rc) x.e

/-! ## After the instruction -/

/-- Where a lane of the path goes next. -/
inductive Nxt where
  /-- PC + 12 (R14) -/
  | seq
  /-- a transfer to a clause header (R175) -/
  | goto (t : Dword)
  | exit
  /-- waits on a rejoin mask, with a deadline and the predicate to report in (R180, R181) -/
  | wait (j : Nat) (dl : Option Nat) (p : Nat)
  /-- already stands at its next place (R186) -/
  | placed
deriving DecidableEq, Repr

/-- A fault of some lanes: its class, CODE, whether the lanes resume after the instruction (R184), and a claimed break (R423). -/
structure Flt where
  cls : FClass
  lanes : Mask
  code : BitVec 16 := 0#16
  after : Bool := false
  claimed : Bool := false
  /-- the address concerned, and the stage and level of a failed translation (R419) -/
  addr : Nat := 0
  detail : Nat := 0
deriving DecidableEq, Repr

/-- The outcome of an instruction's effect: the state with its writes, its faults in order, and its lanes' way on. -/
structure Res where
  s : State
  flts : List Flt := []
  nxt : Nat → Nxt := fun _ => .seq
  /-- the whole path holds at the instruction (R173, R246) -/
  stay : Bool := false

/-- PC + 12, at the next clause's header when END is set. -/
def Lane.advance (y : Lane) (c : Ctl) : Lane :=
  if c.fin then { y with pc := y.pc + 12#64, off := 0, hdr := none, wdl := none, ret := y.ret + 1, fresh := none }
  else { y with pc := y.pc + 12#64, off := y.off + 1, wdl := none, ret := y.ret + 1, fresh := none }

/-- One lane's step (R14, R175, R177, R180). -/
def Lane.go (y : Lane) (c : Ctl) : Nxt → Lane
  | .seq => y.advance c
  | .goto t => { y with pc := t, off := 0, hdr := none, ret := y.ret + 1, fresh := none }
  | .exit => { y with st := .exited, pc := y.pc + 12#64, off := 0, hdr := none, ret := y.ret + 1, fresh := none }
  | .wait j dl p => { y with st := .waiting, wj := j, wdl := dl, wp := p, hdr := none, ret := y.ret + 1, fresh := none }
  | .placed => y

/-- Lanes of a mask, but for those a fault names. -/
def unfaulted (m : Mask) (fs : List Flt) : Mask := fs.foldl (fun m f => m &&& ~~~f.lanes) m

/-- The resume record of a fault at the path's instruction (R77, R82, R184). -/
def Cursor.info (cur : Cursor) (c : Ctl) (f : Flt) : ParkInfo :=
  if f.after then
    { cls := f.cls.code, pc := cur.pc + 12#64, off := if c.fin then 0 else cur.pos + 1, code := f.code, claimed := f.claimed, addr := f.addr, detail := f.detail }
  else { cls := f.cls.code, pc := cur.pc, off := cur.pos, code := f.code, claimed := f.claimed, addr := f.addr, detail := f.detail }

/-- The stream is done; the group's cycle ends unless its second stream is still to issue (R174). -/
def closeCycle (s : State) (cur : Cursor) : State :=
  if s.stream1.isNone then { s.endCycle cur.team cur.grp with cur := none, snap := none, snapSr := none, ended := some (cur.team, cur.grp) } else { s with cur := none }

/-- The path's lanes go on, the faulting ones park, and the group's cycle ends once neither stream has more to issue (R174, R185). -/
def finish (x : Ctx) (r : Res) : State :=
  let cur := x.cur
  let s := (r.s.updTeam cur.team fun t => { t with lastTick := r.s.dieCount t.die }).updGroup cur.team cur.grp fun g =>
    { (g.updLanes (unfaulted cur.m r.flts) fun l y =>
        if r.stay then { y with fresh := none } else y.go x.c (if x.e.getLsbD l then r.nxt l else .seq)) with
      lastIssue := some x.s.stamp }
  let s := r.flts.foldl (fun s f => s.park cur.team cur.grp cur.rc f.lanes (cur.info x.c f)) s
  closeCycle { s with stamp := s.stamp + 1 } cur

/-- A fault of the whole path before anything is done (R28, R29). -/
def parkPath (x : Ctx) (f : FClass) : State := finish x { s := x.s, flts := [{ cls := f, lanes := x.cur.m }] }

/-- ISSUING: a held path stays; else the faults in their order of precedence; an empty effective mask completes without effect (R18);
else the instruction's effect `f` (DESIGN CHOICE, log 8). -/
def issue (i : Instr) (s : State) (f : Ctx → Res) : Host.Outcome State Fault Refusal :=
  match (ctlOf i).bind (ctxOf s) with
  | none => .fault .noIssuingPath
  | some x =>
    if mustHold x i then .next (closeCycle s x.cur)
    else match preciseFault x i with
      | some c => .next (parkPath x c)
      | none =>
        if x.e = 0#32 then .next (finish x { s })
        else if regBudget x i then .next (finish x { s, flts := [{ cls := .regBudget, lanes := x.e }] })
        else if partialWrite x i then .next (finish x { s, flts := [{ cls := .partialWrite, lanes := x.e }] })
        else .next (finish x (f x))

/-! ## Shapes of effect -/

/-- The state with the issuing group replaced. -/
def Ctx.withGroup (x : Ctx) (g : Group) : State := x.s.setTeam x.cur.team (x.tm.setGroup x.cur.grp g)
/-- The state with the issuing state's record replaced. -/
def Ctx.withRec (x : Ctx) (r : StRec) : State := x.withGroup (x.g.setRec x.cur.rc r)
def Ctx.withTeam (x : Ctx) (t : Team) : State := x.s.setTeam x.cur.team t

/-- A varying result per lane. -/
def resV (x : Ctx) (k : Nat) (d : Dst) (f : Nat → Nat) : Res := { s := x.withGroup (putLanes x.g x.e k d f) }
/-- A uniform result. -/
def resU (x : Ctx) (k : Nat) (d : Dst) (v : Nat) : Res := { s := x.withRec (putS x.st k d v) }
/-- A compare. -/
def resCmp (x : Ctx) (cmb : Cmb) (pd pc : Nat) (r : Nat → Bool) : Res := { s := x.withGroup (putCmp x.g x.e cmb pd pc r) }
/-- A fault of the whole effective mask, nothing written. -/
def resFault (x : Ctx) (c : FClass) : Res := { s := x.s, flts := [{ cls := c, lanes := x.e }] }
/-- The same, found on an address (R419). -/
def resFaultAt (x : Ctx) (c : FClass) (addr detail : Nat) : Res := { s := x.s, flts := [{ cls := c, lanes := x.e, addr, detail }] }

end Sys2Proof.Machine
end

