-- ==== Sys2Proof/Machine/Control.lean ====
section
/-!
DEFINITION. Control flow: clauses, transfers, rejoin masks and waits, traps (spec/01 R22-R27, spec/07 R173-R187). `hret` stands in
Machine/Replay.lean, since it may replay accesses.
-/
namespace Sys2Proof.Machine

/-- A row of another agent whose condition does not hold does not take place (DESIGN CHOICE, log 8). -/
def notNow (row : String) : Host.Outcome State Fault Refusal := .refused (.notEnabled row)
/-- A row takes place when it yields a state (DESIGN CHOICE, log 8). -/
def eventOf (row : String) (r : Option State) : Host.Outcome State Fault Refusal :=
  match r with
  | some s => .next s
  | none => notNow row

/-! ## Clauses (R22-R26) -/

/-- The words of a clause from its header, or the fetch error and its place (R23, R29). -/
def clauseWords (s : State) (x : Team) (pc n : Nat) : List (Except XErr (BitVec 96)) :=
  (List.range n).map fun k => s.fetchWord x (pc + 12 * (k + 1))

/-- R24: transfers, and instructions that leave lanes waiting, end their clause: the rows that R51 marks T. -/
def isTransferWord (f : Fields) : Bool :=
  match f.maj.toNat with
  | 0x01 | 0x04 | 0x05 | 0x06 | 0x0B => f.min == 0#4
  | 0x02 | 0x03 | 0x08 => f.min == 0#4 || f.min == 1#4
  | _ => false

def isHeaderWord (f : Fields) : Bool := f.maj == 0#8 && f.min == 1#4

/-- The form check of R23 and R24: the header's IMM, a broken form, or a word that cannot be fetched. -/
inductive Form where
  | ok (imm : Word)
  | broken
  | noFetch (e : XErr) (addr : Nat)
deriving DecidableEq, Repr

/-- The check of a clause: a word that cannot be fetched is found before a breach of form at another word (DESIGN CHOICE, log 48). -/
def formCheck (s : State) (x : Team) (pc : Nat) : Form :=
  match s.fetchWord x pc with
  | .error e => .noFetch e pc
  | .ok w =>
    let f := Fields.ofBits w
    if !(isHeaderWord f && f.c.gp == 15#4 && !f.c.gn && f.d == 0#9 && f.a == 0#9 && f.b == 0#9 && f.e == 0#9 && f.mod == 0#4
        && !f.c.fin && !f.c.yld && !f.c.rua && !f.c.rub && f.c.stall == 0#3 && hdrOk f.imm) then .broken
    else
      let ws := clauseWords s x pc (hdrLen f.imm)
      match ws.find? fun r => match r with | .error _ => true | .ok _ => false with
      | some (.error e) => .noFetch e pc
      | _ =>
        let fs := ws.filterMap fun r => match r with | .ok w => some (Fields.ofBits w) | .error _ => none
        let good := fs.zipIdx.all fun p =>
          (p.1.c.fin == (p.2 + 1 == hdrLen f.imm)) && !isHeaderWord p.1 && (p.2 + 1 == hdrLen f.imm || !isTransferWord p.1)
        if good then .ok f.imm else .broken

/-- MAJ values of R256: a clause holding one waits for the checks of the accesses its lanes issued. -/
def heldMajor (m : Nat) : Bool :=
  m == 0x05 || m == 0x0B || (decide (0x70 ≤ m) && decide (m ≤ 0x7E)) || (decide (0x91 ≤ m) && decide (m ≤ 0x94))
  || (decide (0xA0 ≤ m) && decide (m ≤ 0xA3)) || (decide (0xA8 ≤ m) && decide (m ≤ 0xAB)) || m == 0xB2 || m == 0xB8
/-- The clause at a header holds an instruction of such a MAJ. -/
def clauseHas (s : State) (x : Team) (pc : Nat) (imm : Word) (p : Nat → Bool) : Bool :=
  (clauseWords s x pc (hdrLen imm)).any fun r => match r with
    | .ok w => p (Fields.ofBits w).maj.toNat
    | .error _ => false
def clauseHolds256 (s : State) (x : Team) (pc : Nat) (imm : Word) : Bool := clauseHas s x pc imm heldMajor
def clauseHoldsExit (s : State) (x : Team) (pc : Nat) (imm : Word) : Bool := clauseHas s x pc imm (· == 5)
def unchecked (s : State) (t g : Nat) (m : Mask) : Bool := s.ops.any fun o => o.unchecked t g m

/-- The path at a clause start, or resuming in mid-clause: its state record, PC, offset and header address; its lanes agree on them. -/
def pathAt (g : Group) (m : Mask) : Option (Nat × Dword × Nat) :=
  let y := g.lane (lowestLane m)
  if m != 0#32 && (laneList m).all fun l => g.runs l && (g.lane l).rc == y.rc && (g.lane l).pc == y.pc && (g.lane l).off == y.off
      && (g.lane l).hdr.isNone then some (y.rc, y.pc, y.off) else none

/-- WAIT names the flag. -/
def waitsOnFlag (imm : Word) : Option Nat → Bool
  | some n => (hdrWait imm).getLsbD n
  | none => false
/-- A lane with a late fault parks at this clause: it waits on the flag of a faulted access or holds an instruction of R256, or the fault was
found in a replay (R259, R261). -/
def lateParks (g : Group) (m : Mask) (imm : Word) (h256 : Bool) : Bool :=
  g.late.any fun f => m.getLsbD f.lane && (h256 || f.again || waitsOnFlag imm f.flag)
/-- A lane marked by poison parks at this clause: it waits on the access's flag or holds `exit` (R263). -/
def poisonParks (g : Group) (m : Mask) (imm : Word) (exits : Bool) : Bool :=
  g.marks.any fun k => m.getLsbD k.lane && (exits || waitsOnFlag imm k.flag)
/-- What keeps a path from starting the clause: WAIT (R25), checks still out (R256), those of a replay included (R261), and lanes about to park
here (R259, R263). -/
def startHeld (s : State) (x : Team) (t gi : Nat) (g : Group) (m : Mask) (h : Nat) (imm : Word) : Bool :=
  let h256 := clauseHolds256 s x h imm
  !waitClear g imm || (h256 && unchecked s t gi m) || (s.ops.any fun o => o.re && o.unchecked t gi m)
    || lateParks g m imm h256 || poisonParks g m imm (clauseHoldsExit s x h imm)

/-- A path fills a place (R25, R23, R26, R256): at a clause header, once the form check passes and nothing holds the clause; at an offset k, once the
check of its clause passes, without WAIT, its header standing 12 k below its PC mod 2^64. A breach parks the path with its PC and offset (R28, R29);
an offset beyond the clause's LEN is one (DESIGN CHOICE, log 45). The check comes before WAIT is tested, and a breach waits for no flag
(DESIGN CHOICE, log 48). None: it may not start. -/
def State.clauseStart (s : State) (t g : Nat) (m : Mask) : Option State := do
  let x ← s.team? t
  let y ← x.group? g
  let (rc, pc, k) ← pathAt y m
  let h := (pc - BitVec.ofNat 64 (12 * k)).toNat
  match formCheck s x h with
  | .noFetch e a => some (s.park t g rc m { cls := e.cls.code, pc, off := k, addr := a, detail := e.detail })
  | .broken => some (s.park t g rc m { cls := FClass.clauseFmt.code, pc, off := k })
  | .ok imm =>
    if k = 0 then
      if startHeld s x t g y m h imm then none
      else some (s.updGroup t g fun gr => gr.updLanes m fun _ l => { l with pc := pc + 12#64, off := 1, hdr := some imm, fresh := some 0 })
    else if hdrLen imm < k then some (s.park t g rc m { cls := FClass.clauseFmt.code, pc, off := k })
    else some (s.updGroup t g fun gr => gr.updLanes m fun _ l => { l with hdr := some imm, fresh := some k })
/-- CLAUSE_START (R25): a path fills a place in its group's cycle; it holds the place once an instruction of the clause has issued (R173). -/
def execClauseStart (t g : Nat) (m : Mask) (s : State) : Host.Outcome State Fault Refusal := eventOf "CLAUSE_START" (s.clauseStart t g m)

/-- NOP (R27). -/
def execNop (c : Ctl) (s : State) : Host.Outcome State Fault Refusal := issue (.nop c) s fun x => { s := x.s }

/-! ## Transfers (R175-R178) -/

/-- Register targets: a lane whose target is no multiple of 4 faults and does not transfer. -/
def resTargets (x : Ctx) (s : State) (t : Nat → Nat) : Res :=
  { s, flts := [{ cls := .memAlign, lanes := maskOf fun l => x.e.getLsbD l && t l % 4 != 0 }], nxt := fun l => .goto (BitVec.ofNat 64 (t l)) }
/-- A direct target: (PC + Signed(IMM, 32)) mod 2^64. -/
def directTarget (x : Ctx) (imm : Word) : Dword := x.cur.pc + imm.signExtend 64

/-- BRA (R176). -/
def execBra (c : Ctl) (imm : Word) (s : State) : Host.Outcome State Fault Refusal :=
  issue (.bra c imm) s fun x => { s := x.s, nxt := fun _ => .goto (directTarget x imm) }
/-- BRX_V (R176). -/
def execBrxV (c : Ctl) (a : Src) (s : State) : Host.Outcome State Fault Refusal :=
  issue (.brxV c a) s fun x => resTargets x x.s (x.rdV 2 .zx a)
/-- BRX_S (R176). -/
def execBrxS (c : Ctl) (a : Src) (s : State) : Host.Outcome State Fault Refusal :=
  issue (.brxS c a) s fun x => resTargets x x.s fun _ => x.rdU 2 .zx a
/-- CALL (R176): the return address is PC + 12. -/
def execCall (c : Ctl) (d : Dst) (imm : Word) (s : State) : Host.Outcome State Fault Refusal :=
  issue (.call c d imm) s fun x =>
    { s := x.withGroup (putLanes x.g x.e 2 d fun _ => (x.cur.pc + 12#64).toNat), nxt := fun _ => .goto (directTarget x imm) }
/-- CALL_INDIRECT (R176): A is read before D is written; a lane that does not transfer receives no write (R175). -/
def execCallIndirect (c : Ctl) (d : Dst) (a : Src) (s : State) : Host.Outcome State Fault Refusal :=
  issue (.callIndirect c d a) s fun x =>
    let t := x.rdV 2 .zx a
    let ok := maskOf fun l => x.e.getLsbD l && t l % 4 == 0
    resTargets x (x.withGroup (putLanes x.g ok 2 d fun _ => (x.cur.pc + 12#64).toNat)) t
/-- RET (R176). -/
def execRet (c : Ctl) (a : Src) (s : State) : Host.Outcome State Fault Refusal :=
  issue (.ret c a) s fun x => resTargets x x.s (x.rdV 2 .zx a)
/-- EXIT (R177). -/
def execExit (c : Ctl) (s : State) : Host.Outcome State Fault Refusal := issue (.exit c) s fun x => { s := x.s, nxt := fun _ => .exit }
/-- YIELD (R178): the whole path is ranked last in its next arbitration. -/
def execYieldPath (c : Ctl) (s : State) : Host.Outcome State Fault Refusal :=
  issue (.yieldPath c) s fun x => { s := x.withGroup (x.g.updLanes x.cur.m fun _ l => { l with yld := true }) }

/-! ## Rejoin masks (R179): both streams of a cycle compose their writes, reads see the cycle's start (R174) -/

def execJset (c : Ctl) (j : Nat) (s : State) : Host.Outcome State Fault Refusal :=
  issue (.jset c j) s fun x => { s := x.withGroup (x.g.setJ j x.e) }
def execJadd (c : Ctl) (j : Nat) (s : State) : Host.Outcome State Fault Refusal :=
  issue (.jadd c j) s fun x => { s := x.withGroup (x.g.setJ j (x.g.getJ j ||| x.e)) }
def execJsub (c : Ctl) (j : Nat) (s : State) : Host.Outcome State Fault Refusal :=
  issue (.jsub c j) s fun x => { s := x.withGroup (x.g.setJ j (x.g.getJ j &&& ~~~x.e)) }
def execJget (c : Ctl) (d : Dst) (j : Nat) (s : State) : Host.Outcome State Fault Refusal :=
  issue (.jget c d j) s fun x => resU x 1 d (x.g0.getJ j).toNat
def execJput (c : Ctl) (j : Nat) (a : Src) (s : State) : Host.Outcome State Fault Refusal :=
  issue (.jput c j a) s fun x => { s := x.withGroup (x.g.setJ j (BitVec.ofNat 32 (x.rdU 1 .zx a))) }

/-! ## Waits (R180-R182) -/

/-- REJOIN (R180): the lanes whose bit is set wait; the others continue at the release point. -/
def execRejoin (c : Ctl) (j : Nat) (s : State) : Host.Outcome State Fault Refusal :=
  issue (.rejoin c j) s fun x => { s := x.s, nxt := fun l => if (x.g0.getJ j).getLsbD l then .wait j none 15 else .seq }
/-- REJOIN_TMO (R181): a bounded wait; a lane that does not wait receives 0 at once. -/
def execRejoinTmo (c : Ctl) (p j : Nat) (b : Src) (s : State) : Host.Outcome State Fault Refusal :=
  issue (.rejoinTmo c p j b) s fun x =>
    let w := x.g0.getJ j
    let dl := x.s.dieCount x.tm.die + x.rdU 1 .zx b
    { s := x.withGroup (x.g.setP p (x.e &&& ~~~w) fun _ => false), nxt := fun l => if w.getLsbD l then .wait j (some dl) p else .seq }

def Group.waitsOn (g : Group) (j : Nat) : Mask := maskOf fun l => (g.lane l).st == .waiting && (g.lane l).wj == j
/-- The release condition of a mask, with a lane to release (R180). -/
def Group.releasable (g : Group) (j : Nat) : Bool :=
  subMask (g.getJ j) (g.exited ||| g.waitsOn j) && g.waitsOn j != 0#32
/-- Lanes leave their wait for the release point, PC + 12; those of rejoin.tmo report in their predicate. -/
def Group.unwait (g : Group) (m : Mask) (timeout : Bool) : Group :=
  let g := forLanes m g fun l g => if (g.lane l).wdl.isSome then g.setP (g.lane l).wp (1#32 <<< l) fun _ => timeout else g
  g.updLanes m fun _ y => { y with st := .running, pc := y.pc + 12#64, off := 0, hdr := none, wdl := none, fresh := none }

/-- REJOIN_RELEASE (R180, R78): every lane waiting on the mask is released into one state. -/
def execRejoinRelease (t g j : Nat) (s : State) : Host.Outcome State Fault Refusal :=
  eventOf "REJOIN_RELEASE" do
    let y ← s.group? t g
    if y.releasable j then
      let m := y.waitsOn j
      let rc := y.mergeRc m
      some ((s.updGroup t g fun y => (y.unwait m false).updLanes m fun _ l => { l with rc }).endCycle t g)
    else none

/-- Lanes whose deadline has passed and whose mask is not released (R181). -/
def Group.timedOut (g : Group) (now : Nat) : Mask :=
  maskOf fun l => (g.lane l).st == .waiting && !g.releasable (g.lane l).wj && match (g.lane l).wdl with
    | some d => decide (d ≤ now)
    | none => false
/-- REJOIN_TIMEOUT (R181). -/
def execRejoinTimeout (t g : Nat) (s : State) : Host.Outcome State Fault Refusal :=
  eventOf "REJOIN_TIMEOUT" do
    let x ← s.team? t
    let y ← x.group? g
    let m := y.timedOut (s.dieCount x.die)
    if m = 0#32 then none else some (s.updGroup t g fun y => y.unwait m true)

/-- R182. -/
def Group.deadlocked (g : Group) : Bool :=
  let w := maskOf fun l => (g.lane l).st == .waiting
  w != 0#32 && ((List.range 32).all fun l => !g.runs l) && ((laneList w).all fun l => (g.lane l).wdl.isNone && !g.releasable (g.lane l).wj)
/-- The waiting lanes by state and instruction. -/
def Group.waitSites (g : Group) : List (Nat × Dword × Nat) :=
  (((List.range 32).filter fun l => (g.lane l).st == .waiting).map fun l => ((g.lane l).rc, (g.lane l).pc, (g.lane l).off)).eraseDups
/-- REJOIN_DEADLOCK (R182): the waiting lanes of one state at one rejoin form one sub-group. -/
def execRejoinDeadlock (t g : Nat) (s : State) : Host.Outcome State Fault Refusal :=
  eventOf "REJOIN_DEADLOCK" do
    let y ← s.group? t g
    if y.deadlocked then
      some ((y.waitSites.foldl (fun s p =>
        let m := maskOf fun l => (y.lane l).st == .waiting && (y.lane l).rc == p.1 && (y.lane l).pc == p.2.1
        s.park t g p.1 m { cls := FClass.rejoinDeadlock.code, pc := p.2.1, off := p.2.2 }) s).endCycle t g)
    else none

/-- Of a group whose cycle ends without an issue of its own, its releases, timeouts and deadlock are decided as at any other (R174, R181). -/
def State.passCycle (s : State) (t g : Nat) : State :=
  let run := fun (s : State) (o : Host.Outcome State Fault Refusal) => match o with | .next u => u | _ => s
  let s := (List.range 8).foldl (fun s j => run s (execRejoinRelease t g j s)) s
  let s := run s (execRejoinTimeout t g s)
  run s (execRejoinDeadlock t g s)
/-- The groups of a die's resident teams with a lane that waits. -/
def State.waiters (s : State) (die : Nat) : List (Nat × Nat) :=
  (s.teams.filter fun p => p.2.st == .resident && p.2.die == die).flatMap fun p =>
    (p.2.groups.filter fun q => q.2.lanes.any fun y => y.st == .waiting).map fun q => (p.1, q.1)
def State.passCycles (s : State) (die : Nat) : State := (s.waiters die).foldl (fun s q => s.passCycle q.1 q.2) s
/-- `n` ticks pass on a die. Cycles end at the reading before them and at every one between, and each decides the timeouts that its reading has come to
(R181); at the last reading, a group's own next cycle does (DEDUCED, log 4). -/
def State.tickDie (s : State) (die n : Nat) : State :=
  let set := fun (s : State) (v : Nat) => { s with dcnt := s.dcnt.set die v }
  let c := s.dieCount die
  if n = 0 then s else if n = 1 then set (s.passCycles die) (c + 1) else set ((set (s.passCycles die) (c + n - 1)).passCycles die) (c + n)

/-! ## Traps (R184) -/

/-- BRK: a claimed break holds the sub-group and stops the team (R423) (DEDUCED, log 24). -/
def execBrk (c : Ctl) (code : BitVec 16) (s : State) : Host.Outcome State Fault Refusal :=
  issue (.brk c code) s fun x =>
    { s := if x.tm.claimed then x.withTeam { x.tm with stopped := true } else x.s,
      flts := [{ cls := .brk, lanes := x.e, code, after := true, claimed := x.tm.claimed }] }
/-- TRAP. -/
def execTrap (c : Ctl) (code : BitVec 16) (s : State) : Host.Outcome State Fault Refusal :=
  issue (.trap c code) s fun x => { s := x.s, flts := [{ cls := .trap, lanes := x.e, code, after := true }] }

end Sys2Proof.Machine
end

