-- ==== Sys2Proof/Machine/IntOps.lean ====
section
/-!
DEFINITION. The integer functions of spec/05 on patterns below 2^w, as exact arithmetic narrowed at the end (R12, R118).
-/
namespace Sys2Proof.Machine

def IT.w (t : IT) : Nat := if t.wide then 64 else 32
/-- The value an integer type reads from a pattern: sa or ua (R118). -/
def IT.val (t : IT) (a : Nat) : Int := if t.signed then signedN (IT.w t) a else (a : Int)
def IT.lo (t : IT) : Int := if t.signed then -2 ^ (IT.w t - 1) else 0
def IT.hi (t : IT) : Int := if t.signed then 2 ^ (IT.w t - 1) - 1 else 2 ^ IT.w t - 1
def clampI (lo hi x : Int) : Int := min (max x lo) hi
/-- A result: saturated where asked, then mod 2^w. -/
def IT.fit (t : IT) (sat : Bool) (x : Int) : Nat := modN (IT.w t) (if sat then clampI (IT.lo t) (IT.hi t) x else x)

/-- R122. -/
def iAdd (t : IT) (sat : Bool) (a b : Nat) : Nat := IT.fit t sat (IT.val t a + IT.val t b)
def iSub (t : IT) (sat : Bool) (a b : Nat) : Nat := IT.fit t sat (IT.val t a - IT.val t b)
/-- R123: the low or the high half of the product. -/
def iMul (t : IT) (hi : Bool) (a b : Nat) : Nat :=
  let x := IT.val t a * IT.val t b
  modN (IT.w t) (if hi then x / 2 ^ IT.w t else x)
/-- R124. -/
def iMad (t : IT) (a b c : Nat) : Nat := modN (IT.w t) ((a : Int) * b + c)
/-- R125: the sum or difference and the carry, borrow or signed overflow. -/
def iAddc (t : IT) (a b : Nat) (ci : Bool) : Nat × Bool :=
  let x := IT.val t a + IT.val t b + (if ci then 1 else 0)
  (modN (IT.w t) x, decide (x < IT.lo t) || decide (IT.hi t < x))
def iSubc (t : IT) (a b : Nat) (ci : Bool) : Nat × Bool :=
  let x := IT.val t a - IT.val t b - (if ci then 1 else 0)
  (modN (IT.w t) x, decide (x < IT.lo t) || decide (IT.hi t < x))
/-- R126: truncating division; a zero divisor gives all ones, and the dividend as remainder. -/
def iDiv (t : IT) (a b : Nat) : Nat :=
  if IT.val t b = 0 then 2 ^ IT.w t - 1 else modN (IT.w t) ((IT.val t a).tdiv (IT.val t b))
def iRem (t : IT) (a b : Nat) : Nat :=
  if IT.val t b = 0 then a else modN (IT.w t) (IT.val t a - (IT.val t a).tdiv (IT.val t b) * IT.val t b)
/-- R127. -/
def iMin (t : IT) (a b : Nat) : Nat := if IT.val t a ≤ IT.val t b then a else b
def iMax (t : IT) (a b : Nat) : Nat := if IT.val t a ≤ IT.val t b then b else a
def iAbs (w a : Nat) : Nat := modN w (signedN w a).natAbs
def iNeg (w a : Nat) : Nat := modN w (-signedN w a)

/-- R128. -/
def bNot (w a : Nat) : Nat := 2 ^ w - 1 - a
def bAnd (_ a b : Nat) : Nat := a &&& b
def bOr (_ a b : Nat) : Nat := a ||| b
def bXor (_ a b : Nat) : Nat := a ^^^ b
def bAndn (w a b : Nat) : Nat := a &&& bNot w b
def bOrn (w a b : Nat) : Nat := a ||| bNot w b
def bXnor (w a b : Nat) : Nat := bNot w (a ^^^ b)

/-- R129: the count is taken in full; beyond the width only zeros or copies of the sign are left. -/
def shlN (w a n : Nat) : Nat := if w ≤ n then 0 else a * 2 ^ n % 2 ^ w
def shrN (w a n : Nat) : Nat := if w ≤ n then 0 else a / 2 ^ n
def sarN (w a n : Nat) : Nat := modN w (signedN w a / 2 ^ min n w)

/-- R130. -/
def shfN (right clamp : Bool) (a b c : Nat) : Nat :=
  let x := b * 2 ^ 32 + a
  let n := if clamp then min c 32 else c % 32
  (if right then x / 2 ^ n else x * 2 ^ n / 2 ^ 32) % 2 ^ 32

/-- R131. -/
def bfeN (sg : Bool) (a b c : Nat) : Nat :=
  let len := min c 32
  if len = 0 then 0
  else
    let x : Int := if sg then signedN 32 a else (a : Int)
    let f := modN len (x / 2 ^ min b 64)
    if sg then modN 32 (signedN len f) else f
def bfiN (a b c : Nat) : Nat :=
  let pos := c % 256
  let len := c / 256 % 256
  let n := if 32 ≤ pos then 0 else min len (32 - pos)
  let mask := if 32 ≤ pos then 0 else (2 ^ n - 1) * 2 ^ pos
  (b &&& bNot 32 mask) ||| ((a * 2 ^ min pos 32) &&& mask)
/-- The bits of `a` in reverse order within `w` bits. -/
def revBits : Nat → Nat → Nat
  | 0, _ => 0
  | w + 1, a => a % 2 * 2 ^ w + revBits w (a / 2)

/-- R132. -/
def popcN : Nat → Nat → Nat
  | 0, _ => 0
  | w + 1, a => a % 2 + popcN w (a / 2)
def ctzN : Nat → Nat → Nat
  | 0, _ => 0
  | w + 1, a => if a % 2 = 1 then 0 else 1 + ctzN w (a / 2)
def clzN (w a : Nat) : Nat := ctzN w (revBits w a)

/-- R133. -/
def bgatByte (x sel : Nat) : Nat :=
  if sel / 16 % 2 = 1 then (if sel / 8 % 2 = 1 then 0xFF else 0)
  else
    let y := x / 2 ^ (8 * (sel % 8)) % 256
    if sel / 8 % 2 = 1 then revBits 8 y else y
def bgatN (a b c : Nat) : Nat :=
  let x := a + b * 2 ^ 32
  bgatByte x (c % 256) + 256 * bgatByte x (c / 256 % 256) + 65536 * bgatByte x (c / 65536 % 256) + 16777216 * bgatByte x (c / 16777216 % 256)

/-- R134: a condition between two patterns of `w` bits. -/
def icond (w : Nat) (cond : ICond) (a b : Nat) : Bool :=
  match cond with
  | .eq => a == b
  | .ne => a != b
  | .ilt => decide (signedN w a < signedN w b)
  | .ile => decide (signedN w a ≤ signedN w b)
  | .igt => decide (signedN w b < signedN w a)
  | .ige => decide (signedN w b ≤ signedN w a)
  | .nlt => decide (a < b)
  | .nle => decide (a ≤ b)
  | .ngt => decide (b < a)
  | .nge => decide (b ≤ a)

/-- R60: the operations of integer reductions, with their identities (R193). -/
def redOp (op : RedOp) (a b : Nat) : Nat :=
  match op with
  | .add => (a + b) % 2 ^ 32
  | .minI => iMin .i32 a b
  | .maxI => iMax .i32 a b
  | .and => a &&& b
  | .or => a ||| b
  | .xor => a ^^^ b
  | .minN => min a b
  | .maxN => max a b
def redId (op : RedOp) : Nat :=
  match op with
  | .add | .or | .xor | .maxN => 0
  | .minI => 0x7FFFFFFF
  | .maxI => 0x80000000
  | .and | .minN => 0xFFFFFFFF

end Sys2Proof.Machine
end

