-- ==== Sys2Proof/Machine/Access.lean ====
section
/-!
DEFINITION. Forming accesses and putting them in flight: addresses, sizes and data (spec/09 R230-R232), the faults found at issue (R231,
R255), global bytes and team-memory bytes in their orders (spec/08 R218, R226), and the end of an operation for a lane.
-/
namespace Sys2Proof.Machine

/-! ## Sizes and addresses (R230, R231) -/

def mtySize : MTy → Nat
  | .n8 | .i8 => 1
  | .n16 | .i16 => 2
  | .b32 => 4
  | .b64 => 8
def memSize (ty : MTy) (cnt : Cnt) : Nat := mtySize ty * cnt.num
/-- The mask of the lowest `n` bytes. -/
def lowMask (n : Nat) : Nat := 2 ^ n - 1
def bytesOf (mask : Nat) : List Nat := (List.range 32).filter fun k => mask.testBit k

/-- Base(L). -/
def Ctx.base (x : Ctx) (ac : AC) (k : Nat) (a : Src) (l : Nat) : Nat :=
  match ac with
  | .aff => (x.rdA .zx a).value l
  | .var => x.rdV k .zx a l
  | .uni => x.rdU k .zx a
def Ctx.gaddr (x : Ctx) (ac : AC) (a : Src) (off : BitVec 24) (l : Nat) : Nat := modN 64 ((x.base ac 2 a l : Int) + off.toInt)
def Ctx.taddr (x : Ctx) (ac : AC) (a : Src) (off : BitVec 24) (l : Nat) : Int := (x.base ac 1 a l : Int) + off.toInt

/-- The faults of R231 for lanes with an address and a size: alignment, then range. -/
def alignFaults (ls : List (Nat × Int)) (size : Nat) (hi : Int) : List Flt :=
  let al := maskOf fun l => ls.any fun p => p.1 == l && p.2 % size != 0
  let rg := maskOf fun l => ls.any fun p => p.1 == l && p.2 % size == 0 && (decide (p.2 < 0) || decide (hi < p.2 + size))
  [{ cls := .memAlign, lanes := al }, { cls := .memXlate, lanes := rg }]
def okLanes (ls : List (Nat × Int)) (size : Nat) (hi : Int) : List (Nat × Int) :=
  ls.filter fun p => p.2 % size == 0 && decide (0 ≤ p.2) && decide (p.2 + size ≤ hi)

/-! ## Data (R232) -/

/-- Element j of a data run in lane l (uniform runs: from the state). -/
def Ctx.elemV (x : Ctx) (k : Nat) (b : Src) (j l : Nat) : Nat :=
  match b with
  | .reg n => pairV x.g k (n + k * j) l
  | b => x.rdV k .zx b l
def Ctx.elemU (x : Ctx) (k : Nat) (b : Src) (j : Nat) : Nat :=
  match b with
  | .reg n => pairS x.st k (n + k * j)
  | b => x.rdU k .zx b
def elemRegs (ty : MTy) : Nat := if ty == .b64 then 2 else 1
/-- The run as a little-endian number of bytes. -/
def runBytes (ty : MTy) (f : Nat → Nat) : Nat → Nat
  | 0 => 0
  | n + 1 => runBytes ty f n + f n % 2 ^ (8 * mtySize ty) * 2 ^ (8 * mtySize ty * n)
/-- A loaded element as its register value. -/
def extendElem (ty : MTy) (v : Nat) : Nat :=
  match ty with
  | .i8 => modN 32 (signedN 8 v)
  | .i16 => modN 32 (signedN 16 v)
  | _ => v
/-- Element j of loaded bytes. -/
def elemAt (ty : MTy) (v j : Nat) : Nat := extendElem ty (v / 2 ^ (8 * mtySize ty * j) % 2 ^ (8 * mtySize ty))

/-! ## Into flight -/

def dstRun (d : Dst) (uni : Bool) (k : Nat) : Option DstRun :=
  match d with
  | .reg n => some { uni, n, k }
  | .discard => none

/-- An operation of the issuing path: its flag rises (R25). -/
def Ctx.mkOp (x : Ctx) (f : Flg) (uni chk : Bool) (dst : Option DstRun) (items : List Item) (kind : OpKind) : Op :=
  { id := x.s.stamp, team := x.cur.team, grp := x.cur.grp, rc := x.cur.rc, rc0 := x.cur.rc, lanes := x.e, uni, flag := x.flagOf f,
    hdr := x.cur.pc.toNat - 12 * x.cur.pos, pos := x.cur.pos, chk, dst,
    rets := if uni then forLanes x.e [] fun l m => m.set l (x.g.lane l).ret else [], lb := x.g.lb, items, kind }
def Ctx.fly (_x : Ctx) (s : State) (o : Op) : State :=
  let s : State := { s with ops := s.ops ++ [o] }
  match o.flag with
  | some n => s.updGroup o.team o.grp fun g => g.flagUp n
  | none => s
def Ctx.item (x : Ctx) (l addr mask : Nat) (data cmp : Nat := 0) : Item :=
  { lane := l, addr, mask, data, cmp, ret := (x.g.lane l).ret }
/-- One entry per lane for an operation that is no lane's own access. -/
def Ctx.marks (x : Ctx) : List Item := (laneList x.e).map fun l => x.item l 0 0

/-- A lane-by-lane access: the lanes that break no rule of R231 make it, the others fault. -/
def Ctx.access (x : Ctx) (f : Flg) (hi : Int) (size : Nat) (dst : Option DstRun) (addr : Nat → Int) (data cmp : Nat → Nat)
    (kind : OpKind) : Res :=
  let ls := (laneList x.e).map fun l => (l, addr l)
  let ok := okLanes ls size hi
  let flts := alignFaults ls size hi
  if ok.isEmpty then { s := x.s, flts }
  else
    let o := x.mkOp f false false dst (ok.map fun p => x.item p.1 p.2.toNat (lowMask size) (data p.1) (cmp p.1)) kind
    { s := x.fly x.s { o with lanes := maskOf fun l => ok.any fun p => p.1 == l }, flts }
/-- One access for the state (R236): a fault names all of E. -/
def Ctx.accessU (x : Ctx) (f : Flg) (hi : Int) (size : Nat) (dst : Option DstRun) (addr : Int) (data : Nat) (kind : OpKind) : Res :=
  if addr % size != 0 then resFault x .memAlign
  else if addr < 0 || hi < addr + size then resFault x .memXlate
  else { s := x.fly x.s (x.mkOp f true false dst [x.item (lowestLane x.e) addr.toNat (lowMask size) data] kind) }

/-- The limit of a global address (R231). -/
def gtop : Int := 2 ^ 58
def Ctx.ttop (x : Ctx) : Int := x.tm.tmemSize

/-! ## Destinations of completed operations -/

/-- A word of a pending destination: register n of a lane, or of the state (R424). -/
def skipKey (uni : Bool) (n l : Nat) : Nat := if uni then 16384 + n else 512 * l + n
/-- A completed operation writes a run in a lane: discarded in a lane that has exited (R177), in a state that is gone (R78), and for a
word that a debugger has forced (R424). -/
def State.writeDst (s : State) (o : Op) (l : Nat) (vals : List Nat) : State :=
  match o.dst with
  | none => s
  | some d =>
    s.updGroup o.team o.grp fun g =>
      if d.uni then
        match g.recs.find? o.rc with
        | none => g
        | some r => g.setRec o.rc (vals.zipIdx.foldl (fun r p =>
            if o.skip.contains (skipKey true (d.n + p.2) l) then r else r.setS (d.n + p.2) (BitVec.ofNat 32 p.1)) r)
      else if (g.lane l).st == .exited then g
      else vals.zipIdx.foldl (fun g p =>
        if o.skip.contains (skipKey false (d.n + p.2) l) then g else g.setV (d.n + p.2) l (BitVec.ofNat 32 p.1)) g
/-- A run of elements as register values. -/
def runWords (ty : MTy) (cnt v : Nat) : List Nat :=
  (List.range cnt).flatMap fun j => let e := elemAt ty v j; if ty == .b64 then [e % 2 ^ 32, e / 2 ^ 32] else [e]

/-! ## Tiles (R264-R266) -/

def tileKey (n i j : Nat) : Nat := 4096 * n + 64 * i + j
/-- R287. -/
def Team.zeroTile (x : Team) (n : Nat) : Team :=
  { x with tile := x.tile.clearRange (4096 * n) (4096 * n + 4096), xstat := x.xstat.set n 0#32 }
def Team.putRow (x : Team) (n row : Nat) (its : List Item) : Team :=
  its.foldl (fun x it => { x with tile := x.tile.set (tileKey n (row % 64) (32 * (row / 64) + it.lane)) (BitVec.ofNat 64 it.data) }) x

/-- Operations that need no engine time: a pending `xzero` or `xput` whose turn has come takes effect, oldest first (R266). -/
def State.tileStep (s : State) : Nat → State
  | 0 => s
  | n + 1 =>
    match s.ops.find? fun o => (match o.kind with | .xzero _ | .xput .. => true | _ => false)
        && (match o.kind.tile? with | some k => (s.tileOps o.team k o.id).isEmpty | none => false) with
    | none => s
    | some o =>
      let s := s.updTeam o.team fun x => match o.kind with
        | .xzero k => x.zeroTile k
        | .xput k row => x.putRow k row o.items
        | _ => x
      State.tileStep (s.endOp o) n
/-- After an operation on a tile has finished. -/
def State.tileSettle (s : State) : State := s.tileStep s.ops.length

/-! ## Team memory in the order T (R226) -/

def Team.tread (x : Team) (t : Nat) : Nat → Nat
  | 0 => 0
  | n + 1 => (x.tmem.get t).toNat + 256 * Team.tread x (t + 1) n
def Team.twrite (x : Team) (t n v : Nat) : Team := { x with tmem := x.tmem.setRun t (leBytes v n) }

structure Bar where
  phase : Nat
  init : Nat
  left : Nat
  bytes : Int
  stat : Nat
deriving DecidableEq, Repr

/-- A barrier object (R244). -/
def Team.bar (x : Team) (t : Nat) : Bar :=
  { phase := x.tread t 4, init := x.tread (t + 4) 2, left := x.tread (t + 6) 2, bytes := signedN 32 (x.tread (t + 8) 4), stat := x.tread (t + 12) 4 }
def Team.setBar (x : Team) (t : Nat) (b : Bar) : Team :=
  ((((x.twrite t 4 b.phase).twrite (t + 4) 2 b.init).twrite (t + 6) 2 b.left).twrite (t + 8) 4 (modN 32 b.bytes)).twrite (t + 12) 4 b.stat
def Bar.valid (b : Bar) : Bool := b.stat % 2 == 1
/-- R245: the phase completes when no arrival and no byte is missing. -/
def Bar.settle (b : Bar) : Bar :=
  if b.left = 0 ∧ b.bytes = 0 then { b with phase := (b.phase + 1) % 2 ^ 32, left := b.init } else b
/-- A write has made the counts of a valid barrier object those of a completed phase (R245): of those that instructions have used (DEDUCED, log 15). -/
def Team.settleBars (x : Team) : Team :=
  x.bars.foldl (fun x t => if (x.bar t).valid && (x.bar t).left == 0 && (x.bar t).bytes == 0 then x.setBar t (x.bar t).settle else x) x

/-- The first instruction to use 16 bytes as a barrier object finds its phase completed where its counts say so (R245) (DEDUCED, log 15). -/
def Team.nameBar (x : Team) (t : Nat) : Team := if x.bars.contains t then x else Team.settleBars { x with bars := t :: x.bars }

/-- R240: new value from the old one, the operand and the compare value; none where nothing is stored. -/
def atomNew (op : AtomOp) (w64 : Bool) (addF : Nat → Nat → Nat) (old b c : Nat) : Option Nat :=
  let w := if w64 then 64 else 32
  match op with
  | .add => some ((old + b) % 2 ^ w)
  | .minI => some (if signedN w old ≤ signedN w b then old else b)
  | .maxI => some (if signedN w old ≤ signedN w b then b else old)
  | .minN => some (min old b)
  | .maxN => some (max old b)
  | .and => some (old &&& b)
  | .or => some (old ||| b)
  | .xor => some (old ^^^ b)
  | .exch => some b
  | .cas => if old = c then some b else none
  | .addF => some (addF old b)

end Sys2Proof.Machine
end

