-- ==== Sys2Proof/Machine/Float.lean ====
section
/-!
DEFINITION. Floating-point values, exact arithmetic on them, rounding and the exceptions (spec/04 R92-R99, spec/06 R144-R158). A finite
value is a sign, a magnitude and a power of two; a result that is no dyadic number carries the bits above it and a sticky bit.
-/
namespace Sys2Proof.Machine

/-! ## Formats (R92-R96) -/

inductive Spec where | ieee | fn | none | blk
deriving DecidableEq, Repr

/-- A format; `wide` marks the four of R94, which keep NaN payloads (R97). -/
structure Fmt where
  e : Nat
  m : Nat
  bias : Int
  spec : Spec
  wide : Bool := false
deriving DecidableEq, Repr

def Fmt.ew (f : Fmt) : Nat := 1 + f.e + f.m
/-- R94. -/
def fmtT : FT → Fmt
  | .f32 => { e := 8, m := 23, bias := 127, spec := .ieee, wide := true }
  | .f64 => { e := 11, m := 52, bias := 1023, spec := .ieee, wide := true }
  | .f16 => { e := 5, m := 10, bias := 15, spec := .ieee, wide := true }
  | .bf16 => { e := 8, m := 7, bias := 127, spec := .ieee, wide := true }

/-- The format that a format register describes, where it is valid (R83, R84): VALID reads 1, as every write recomputes it, and the fields keep
its conditions, which an image need not. -/
def fmtOfWord (w : Word) : Option Fmt :=
  let e := (w.extractLsb' 0 4).toNat
  let m := (w.extractLsb' 4 4).toNat
  let sp := match (w.extractLsb' 8 2).toNat with | 0 => Spec.ieee | 1 => .fn | 2 => .none | _ => .blk
  let ok := w.getLsbD 31 && decide (e ≤ 8) && decide (m ≤ 10) && (1 + e + m == 4 || 1 + e + m == 6 || 1 + e + m == 8 || 1 + e + m == 16)
    && match sp with
      | .none => e == 0
      | .blk => e == 2 && m == 1
      | _ => decide (1 ≤ e)
  if ok then some { e, m, bias := (w.extractLsb' 16 8).toInt, spec := sp } else none

/-- What a format register holds at a launch whose kernel entry does not mark it in FMT_VALID (R85). -/
def launchFmt : Nat → Word
  | 0 => 0x88070134#32
  | 1 => 0x880F0025#32
  | 2 => 0x84010312#32
  | _ => 0x88000270#32
def launchFmts : SMap Word := SMap.setRun [] 0 ((List.range 4).map launchFmt)

/-- Has NaN codes (R93) (DEDUCED, log 17). -/
def Fmt.hasNaN (f : Fmt) : Bool :=
  match f.spec with
  | .ieee => decide (1 ≤ f.m)
  | .fn => f.ew == 8 || f.ew == 16
  | _ => false
/-- The largest finite code magnitude of a float format. -/
def Fmt.maxCm (f : Fmt) : Nat :=
  match f.spec with
  | .ieee => (2 ^ f.e - 1) * 2 ^ f.m - 1
  | .fn => if f.ew == 8 || f.ew == 16 then 2 ^ (f.e + f.m) - 2 else 2 ^ (f.e + f.m) - 1
  | _ => 2 ^ (f.e + f.m) - 1

/-! ## Values -/

inductive FVal where
  /-- sign, quiet, payload and its width (R97) -/
  | nan (neg quiet : Bool) (pl w : Nat)
  | inf (neg : Bool)
  /-- (-1)^neg * m * 2^e; with `st`, strictly between that and the same with m + 1 -/
  | num (neg : Bool) (m : Nat) (e : Int) (st : Bool)
deriving DecidableEq, Repr

/-- The default NaN (R97). -/
def FVal.dnan : FVal := .nan false true 0 0
def FVal.isNaN : FVal → Bool
  | .nan .. => true
  | _ => false
def FVal.isSNaN : FVal → Bool
  | .nan _ q _ _ => !q
  | _ => false
def FVal.isInf : FVal → Bool
  | .inf _ => true
  | _ => false
def FVal.isZero : FVal → Bool
  | .num _ m _ st => m == 0 && !st
  | _ => false
def FVal.neg : FVal → Bool
  | .nan n .. | .inf n | .num n .. => n

/-- The value of a code (R92, R93). -/
def Fmt.read (f : Fmt) (c : Nat) : FVal :=
  let c := c % 2 ^ f.ew
  match f.spec with
  | .none =>
    let v := signedN f.ew c
    .num (decide (v < 0)) v.natAbs (-f.bias) false
  | sp =>
    let s := c / 2 ^ (f.e + f.m) == 1
    let cm := c % 2 ^ (f.e + f.m)
    let e := cm / 2 ^ f.m
    let m := cm % 2 ^ f.m
    let w := f.m - 1
    if sp == .ieee && e == 2 ^ f.e - 1 then
      if m == 0 then .inf s else .nan s (m / 2 ^ w == 1) (m % 2 ^ w) w
    else if sp == .fn && (f.ew == 8 || f.ew == 16) && cm == 2 ^ (f.e + f.m) - 1 then .nan s true (m % 2 ^ w) w
    else if sp == .blk && s && cm == 0 then .num false 0 0 false
    else if e == 0 then .num s m (1 - f.bias - f.m) false
    else .num s (2 ^ f.m + m) (e - f.bias - f.m) false

/-! ## Rounding (R99) -/

/-- Round a count of units with a remainder of `r` out of `d` (and a sticky bit below) to an integer: toward zero, up one, or at a tie by
`even`. `neg` is the sign of the value. -/
def roundsUp (mode : Rnd) (neg even : Bool) (r d : Nat) (st : Bool) : Bool :=
  match mode with
  | .rne => decide (d < 2 * r) || (2 * r == d && (st || !even))
  | .rtz => false
  | .rdn => neg && (r != 0 || st)
  | .rup => !neg && (r != 0 || st)

/-- The code magnitude of step 1 of R99, and whether it is inexact, for a magnitude m * 2^e with a sticky bit. -/
def Fmt.roundCm (f : Fmt) (mode : Rnd) (neg : Bool) (m : Nat) (e : Int) (st : Bool) : Nat × Bool :=
  let kmin := 1 - f.bias
  let k := if m = 0 then kmin else max (Nat.log2 m + e) kmin
  -- the grid's spacing is 2^(k - M): n units, with a remainder of r / d units
  let sh := k - f.m - e
  let d := 2 ^ sh.toNat
  let n := if 0 ≤ sh then m / d else m * 2 ^ (-sh).toNat
  let r := if 0 ≤ sh then m % d else 0
  let cm := (k - kmin).toNat * 2 ^ f.m + n
  let up := roundsUp mode neg (cm % 2 == 0) r d st
  (if up then cm + 1 else cm, r != 0 || st)

/-- A written result: a code and its exceptions. -/
structure FRes where
  v : Nat
  x : FpExc := 0#5
deriving DecidableEq, Repr

/-- The code of a sign and a code magnitude; a zero without a -0 code is code 0 (R99). -/
def Fmt.code (f : Fmt) (neg : Bool) (cm : Nat) : Nat :=
  if neg && !(cm == 0 && f.spec == .blk) then 2 ^ (f.e + f.m) + cm else cm

/-- An infinity (R98). -/
def Fmt.writeInf (f : Fmt) (neg : Bool) : FRes :=
  match f.spec with
  | .ieee => { v := f.code neg ((2 ^ f.e - 1) * 2 ^ f.m) }
  | .none => { v := if neg then 2 ^ (f.ew - 1) else 2 ^ (f.ew - 1) - 1, x := excOF ||| excNX }
  | _ => { v := f.code neg f.maxCm, x := excOF ||| excNX }

/-- A NaN (R97): its payload in a wide format, the quiet NaN of a narrow one, code 0 with NX where there is none (DEDUCED, log 17). -/
def Fmt.writeNaN (f : Fmt) (neg : Bool) (pl w : Nat) : FRes :=
  if !f.hasNaN then { v := 0, x := excNX }
  else if f.wide then
    let p := if w ≤ f.m - 1 then pl * 2 ^ (f.m - 1 - w) else pl / 2 ^ (w - (f.m - 1))
    { v := f.code neg ((2 ^ f.e - 1) * 2 ^ f.m + 2 ^ (f.m - 1) + p) }
  else if f.spec == .ieee then { v := f.code neg ((2 ^ f.e - 1) * 2 ^ f.m + 2 ^ (f.m - 1)) }
  else { v := f.code neg (2 ^ (f.e + f.m) - 1) }

/-- A finite result in a float format (R99, R145). The smallest normal magnitude of a format with E = 1, which has no normal value, is taken as 2^(1 - BIAS)
(DESIGN CHOICE, log 51). -/
def Fmt.writeNum (f : Fmt) (mode : Rnd) (neg : Bool) (m : Nat) (e : Int) (st : Bool) : FRes :=
  let (cm, nx) := f.roundCm mode neg m e st
  let uf := if nx && (m == 0 || decide (Nat.log2 m + e < 1 - f.bias)) then excUF else 0#5
  if cm ≤ f.maxCm then { v := f.code neg cm, x := (if nx then excNX else 0#5) ||| uf }
  else
    let big := f.spec != .ieee || mode == .rtz || (mode == .rdn && !neg) || (mode == .rup && neg)
    { v := if big then f.code neg f.maxCm else f.code neg ((2 ^ f.e - 1) * 2 ^ f.m), x := excOF ||| excNX }

/-- The nearest integer of a magnitude m * 2^e under a mode, and whether it differs. -/
def roundInt (mode : Rnd) (neg : Bool) (m : Nat) (e : Int) (st : Bool) : Nat × Bool :=
  if 0 ≤ e then (m * 2 ^ e.toNat, false)
  else
    let d := 2 ^ (-e).toNat
    let n := m / d
    (if roundsUp mode neg (n % 2 == 0) (m % d) d st then n + 1 else n, m % d != 0 || st)

/-- A finite result in an integer element format (R164): nearest, wrapping or saturating. -/
def Fmt.writeFix (f : Fmt) (sat : Bool) (neg : Bool) (m : Nat) (e : Int) (st : Bool) : FRes :=
  let (n, nx) := roundInt .rne neg m (e + f.bias) st
  let k : Int := if neg then -n else n
  let hi : Int := 2 ^ (f.ew - 1) - 1
  let lo : Int := -2 ^ (f.ew - 1)
  let ovf := decide (k < lo) || decide (hi < k)
  let uf := nx && (m == 0 || decide (Nat.log2 m + e < -f.bias))
  { v := modN f.ew (if sat then max lo (min hi k) else k),
    x := (if ovf then excOF ||| excNX else 0#5) ||| (if nx then excNX else 0#5) ||| (if uf then excUF else 0#5) }

/-- A result written to a format (R97-R99, R164); `sat` matters in an integer format alone. -/
def Fmt.write (f : Fmt) (mode : Rnd) (sat : Bool) : FVal → FRes
  | .nan n _ pl w => f.writeNaN n pl w
  | .inf n => f.writeInf n
  | .num n m e st => if f.spec == .none then f.writeFix sat n m e st else f.writeNum mode n m e st

/-! ## Exact arithmetic (R150, R158, R161) -/

/-- The exact result of an operation and the exceptions of the operation itself (NV, DZ). -/
structure XRes where
  v : FVal
  x : FpExc := 0#5
deriving DecidableEq, Repr

/-- The first NaN source decides a NaN result; a signalling one raises NV, also beside a quiet one (R97, R144, R145)
(DEDUCED, log 50). -/
def withNaN (srcs : List FVal) (r : XRes) : XRes :=
  match srcs.find? FVal.isNaN with
  | some (.nan n _ pl w) => { v := .nan n true pl w, x := if srcs.any FVal.isSNaN then excNV else 0#5 }
  | _ => r
def invalid : XRes := { v := .dnan, x := excNV }

/-- A finite value as an integer multiple of 2^e. -/
def scaled (e : Int) : FVal → Int
  | .num n m e' _ => let k : Nat := m * 2 ^ (e' - e).toNat; if n then -k else k
  | _ => 0
def expOf : FVal → Int
  | .num _ _ e _ => e
  | _ => 0
/-- The exact sum of finite values; a zero sum of zeros of one sign keeps it, another is +0, or -0 under `.rdn` (R150). -/
def sumNum (mode : Rnd) (xs : List FVal) : FVal :=
  let e := (xs.map expOf).foldl min ((xs.map expOf).headD 0)
  let n := (xs.map (scaled e)).foldl (· + ·) 0
  if n = 0 then
    .num (if xs.all fun x => x.isZero && x.neg then true
          else if xs.all fun x => x.isZero && !x.neg then false else mode == .rdn) 0 0 false
  else .num (decide (n < 0)) n.natAbs e false
/-- A sum of values that are no NaN: infinities of both signs are invalid (DEDUCED, log 16). -/
def sumVal (mode : Rnd) (xs : List FVal) : XRes :=
  let p := xs.contains (.inf false)
  let n := xs.contains (.inf true)
  if p && n then invalid else if p then { v := .inf false } else if n then { v := .inf true } else { v := sumNum mode xs }
/-- A product of values that are no NaN; zero times infinity is invalid. -/
def mulVal (a b : FVal) : XRes :=
  let s := a.neg != b.neg
  match a, b with
  | .num _ m e _, .num _ m' e' _ => { v := .num s (m * m') (e + e') false }
  | a, b => if a.isZero || b.isZero then invalid else { v := .inf s }
def FVal.negate : FVal → FVal
  | .nan n q p w => .nan (!n) q p w
  | .inf n => .inf (!n)
  | .num n m e st => .num (!n) m e st

/-- R150. -/
def fAdd (mode : Rnd) (a b : FVal) : XRes := withNaN [a, b] (sumVal mode [a, b])
def fSub (mode : Rnd) (a b : FVal) : XRes := withNaN [a, b] (sumVal mode [a, b.negate])
def fMul (a b : FVal) : XRes := withNaN [a, b] (mulVal a b)
/-- A sum of products with addends, exact (R150, R161, R166): NaN sources in the order given (DEDUCED, log 16). -/
def fDot (mode : Rnd) (srcs : List FVal) (prods : List (FVal × FVal)) (c : FVal) : XRes :=
  let ps := prods.map fun p => mulVal p.1 p.2
  withNaN srcs (if ps.any fun p => p.x != 0#5 then invalid else sumVal mode (ps.map (·.v) ++ [c]))
def fFma (mode : Rnd) (a b c : FVal) : XRes := fDot mode [a, b, c] [(a, b)] c

/-- R158, R160. -/
def fDiv (a b : FVal) : XRes :=
  let s := a.neg != b.neg
  withNaN [a, b] <| match a, b with
  | .inf _, .inf _ => invalid
  | .inf _, _ => { v := .inf s }
  | _, .inf _ => { v := .num s 0 0 false }
  | .num _ m e _, .num _ m' e' _ =>
    if m' = 0 then (if m = 0 then invalid else { v := .inf s, x := excDZ })
    else
      let k := 64 + Nat.log2 m'
      { v := .num s (m * 2 ^ k / m') (e - e' - k) (m * 2 ^ k % m' != 0) }
  | _, _ => { v := .dnan }
def fRcp (a : FVal) : XRes := fDiv (.num false 1 0 false) a

/-- The integer square root, bit by bit. -/
def isqrt (n : Nat) : Nat → Nat → Nat
  | 0, r => r
  | i + 1, r => isqrt n i (if (r + 2 ^ i) * (r + 2 ^ i) ≤ n then r + 2 ^ i else r)
def fSqrt (a : FVal) : XRes :=
  withNaN [a] <| match a with
  | .inf false => { v := .inf false }
  | .inf true => invalid
  | .num n m e _ =>
    if m = 0 then { v := a }
    else if n then invalid
    else
      let p := (e % 2).toNat
      let x := m * 2 ^ (128 + p)
      let r := isqrt x (Nat.log2 x / 2 + 1) 0
      { v := .num false r ((e - p) / 2 - 64) (r * r != x) }
  | a => { v := a }

/-- R157: an integral value; a zero keeps the sign. -/
def fRnd (mode : Rnd) (a : FVal) : XRes :=
  withNaN [a] <| match a with
  | .num n m e st => if 0 ≤ e then { v := a } else { v := .num n (roundInt mode n m e st).1 0 false }
  | a => { v := a }

/-! ## Order (R152, R154, R155) -/

/-- Three-way comparison of values that are no NaN, +0 and -0 equal. -/
def fCmp (a b : FVal) : Ordering :=
  match a, b with
  | .inf n, .inf n' => if n == n' then .eq else if n then .lt else .gt
  | .inf n, _ => if n then .lt else .gt
  | _, .inf n => if n then .gt else .lt
  | a, b => let e := min (expOf a) (expOf b); compare (scaled e a) (scaled e b)
/-- a is not above b, with -0 below +0. -/
def fLe (a b : FVal) : Bool :=
  match fCmp a b with
  | .lt => true
  | .gt => false
  | .eq => a.neg || !b.neg
def fcond (c : FCond) (a b : FVal) : Bool :=
  let u := a.isNaN || b.isNaN
  let o := fCmp a b
  match c with
  | .eq => !u && o == .eq
  | .ne => !u && o != .eq
  | .lt => !u && o == .lt
  | .le => !u && o != .gt
  | .gt => !u && o == .gt
  | .ge => !u && o != .lt
  | .num => !u
  | .nan => u
  | .equ => u || o == .eq
  | .neu => u || o != .eq
  | .ltu => u || o == .lt
  | .leu => u || o != .gt
  | .gtu => u || o == .gt
  | .geu => u || o != .lt

/-- `min`, `max`, `minnum`, `maxnum` on codes: the chosen source's pattern, or a NaN of R97. -/
def Fmt.pick (f : Fmt) (mx num : Bool) (a b : Nat) : FRes :=
  let x := f.read a
  let y := f.read b
  let nv := if x.isSNaN || y.isSNaN then excNV else 0#5
  if num && x.isNaN && !y.isNaN then { v := b % 2 ^ f.ew, x := nv }
  else if num && y.isNaN && !x.isNaN then { v := a % 2 ^ f.ew, x := nv }
  else if x.isNaN || y.isNaN then
    let r := f.write .rne false (withNaN [x, y] { v := x }).v
    { v := r.v, x := nv }
  else { v := (if fLe x y != mx then a else b) % 2 ^ f.ew }

/-! ## Whole operations on codes -/

/-- The exceptions of the operation and of the writing together. -/
def Fmt.done (f : Fmt) (mode : Rnd) (r : XRes) : FRes :=
  let w := f.write mode true r.v
  { v := w.v, x := r.x ||| w.x }
/-- R151: clamp into [+0, 1]. -/
def Fmt.sat01 (f : Fmt) (r : FRes) : FRes :=
  let one := (f.write .rne false (.num false 1 0 false)).v
  match f.read r.v with
  | .nan .. => { r with v := 0 }
  | y => if y.neg || y.isZero then { r with v := 0 }
    else if fCmp y (.num false 1 0 false) == .gt then { r with v := one } else r
def Fmt.arith (f : Fmt) (mode : Rnd) (sat : Bool) (r : XRes) : FRes := let y := f.done mode r; if sat then f.sat01 y else y

/-- R156. -/
def Fmt.classOf (f : Fmt) (c : Nat) : Nat :=
  match f.read c with
  | .nan _ q _ _ => if q then 1 else 0
  | .inf n => if n then 2 else 9
  | .num n m _ _ =>
    if m = 0 then (if n then 5 else 6)
    else if c / 2 ^ f.m % 2 ^ f.e = 0 then (if n then 4 else 7) else (if n then 3 else 8)
/-- R153: the sign bit cleared, inverted, or taken from another code. -/
def Fmt.signBit (f : Fmt) : Nat := 2 ^ (f.e + f.m)
def Fmt.absCode (f : Fmt) (a : Nat) : Nat := a % f.signBit
def Fmt.negCode (f : Fmt) (a : Nat) : Nat := (a + f.signBit) % 2 ^ f.ew
def Fmt.copySign (f : Fmt) (a b : Nat) : Nat := a % f.signBit + b / f.signBit % 2 * f.signBit

/-- R168: a float to an integer type of `w` bits. -/
def toIntType (t : IT) (mode : Rnd) (a : FVal) : FRes :=
  let w := if t.wide then 64 else 32
  let lo : Int := if t.signed then -2 ^ (w - 1) else 0
  let hi : Int := if t.signed then 2 ^ (w - 1) - 1 else 2 ^ w - 1
  match a with
  | .nan .. => { v := 0, x := excNV }
  | .inf n => { v := modN w (if n then lo else hi), x := excNV }
  | .num n m e st =>
    let (k, nx) := roundInt mode n m e st
    let v : Int := if n then -k else k
    if v < lo then { v := modN w lo, x := excNV }
    else if hi < v then { v := modN w hi, x := excNV }
    else { v := modN w v, x := if nx then excNX else 0#5 }
/-- R169: an integer as a value; zero is +0. -/
def ofInt (v : Int) : FVal := .num (decide (v < 0)) v.natAbs 0 false

end Sys2Proof.Machine
end

