-- ==== Sys2Proof/Machine/MemOps.lean ====
section
/-!
DEFINITION. Performing accesses in flight: stores into the coherence orders, loads from them, team memory in the order T, late checks,
late faults and poison (spec/08 R217-R226, spec/09 R233-R242, R256-R263).
-/
namespace Sys2Proof.Machine

/-- The float sum of an atomic `.add` (R240). -/
def atomFAdd (w64 : Bool) (a b : Nat) : Nat :=
  let t := fmtT (if w64 then .f64 else .f32)
  (t.done .rne (fAdd .rne (t.read a) (t.read b))).v

/-! ## Team memory (R226) -/

/-- A pending team-memory access takes its place in the order T: lanes in ascending order. -/
def performItems (kind : OpKind) : Team → List Item → Team × List Item
  | x, [] => (x, [])
  | x, it :: rest =>
    let n := popcN 32 it.mask
    let (x', r) := match kind with
      | .tstore => ((x.twrite it.addr n it.data).settleBars, 0)
      | .tatomic op w64 =>
        let old := x.tread it.addr n
        match atomNew op w64 (atomFAdd w64) old it.data it.cmp with
        | some v => ((x.twrite it.addr n v).settleBars, old)
        | none => (x, old)
      | _ => (x, x.tread it.addr n)
    let (y, its) := performItems kind x' rest
    (y, { it with res := r } :: its)

/-- DEDUCED, log 14. -/
def State.performTeam (s : State) (o : Op) : State :=
  if o.chk || !o.kind.teamMem then s
  else match s.team? o.team with
    | none => s
    | some x =>
      let (x', its) := performItems o.kind x o.items
      (s.setTeam o.team x').setOp { o with chk := true, items := its }

/-- At a publication, adopt, barrier or channel instruction, and before an engine reads for the group, every older team-memory access of
the group has its place in T (DEDUCED, log 14). -/
def State.flushTeam (s : State) (t g : Nat) : State :=
  (s.ops.filter fun o => o.team == t && o.grp == g).foldl State.performTeam s

/-- Byte ranges of two items share a byte. -/
def Item.touches (a b : Item) : Bool := decide (a.addr < b.addr + 32) && decide (b.addr < a.addr + 32)
  && (bytesOf a.mask).any fun k => (bytesOf b.mask).any fun j => a.addr + k == b.addr + j
/-- An older access of the group to a byte of this one has not taken its place in T (DEDUCED, log 14), or an older publication or adopt its own (DEDUCED, log 13). -/
def State.teamWaits (s : State) (o : Op) : Bool :=
  s.ops.any fun p => p.team == o.team && p.grp == o.grp && decide (p.id < o.id)
    && (p.kind.isOrder || p.kind.teamMem && !p.chk && p.items.any fun a => o.items.any fun b => a.touches b)

/-! ## Global stores and loads -/

/-- A store of the group of an operation to one byte: it enters co(x) and LB (R218, R222) (DEDUCED, log 13). -/
def State.opStore (s : State) (o : Op) (pa : Nat) (v : Byte) : State :=
  let ag := agentOf o.team o.grp
  (s.putByte ag (storeStamp o.id) pa v).seen o.team o.grp o.id pa s.coNext ag (storeStamp o.id)
/-- The bytes that an item's mask names, with their places in the item. -/
def Item.bytes (it : Item) : List (Nat × Nat) := (bytesOf it.mask).zip it.pa
/-- The bytes of an item in its n-th aligned 8 bytes: they are single-copy atomic (R217, R235), but for a store each of whose bytes is (R239)
(DEDUCED, log 12). -/
def Item.part (it : Item) (n : Nat) : List (Nat × Nat) := it.bytes.filter fun p => if it.apart then p.1 == n else (it.addr + p.1) / 8 == it.addr / 8 + n
/-- One lane's store: each of its parts takes one position in the coherence orders. -/
def State.storeItem (s : State) (o : Op) (it : Item) : State :=
  (List.range (if it.apart then 32 else 5)).foldl (fun s n =>
    ((it.part n).foldl (fun s p => s.opStore o p.2 (BitVec.ofNat 8 (it.data / 2 ^ (8 * p.1)))) s).nextPos) s
/-- A value of n bytes stored at an item's address. -/
def State.storeVal (s : State) (o : Op) (it : Item) (v : Nat) : State := s.storeItem o { it with data := v }

/-- What a load reads as of a choice of positions, one for each aligned 8 bytes of a lane: a store not before LB, or for `ldc` the value at
the launch or later (R222, R235, R237). The bytes read with their stores (DEDUCED, log 12). -/
def State.loadItem (s : State) (o : Op) (const : Bool) (launch asOf : Nat) (it : Item) : Option (Nat × List (Nat × Nat × Nat × Nat)) :=
  it.bytes.foldlM (fun (r : Nat × List (Nat × Nat × Nat × Nat)) p =>
    let upTo := s.coNext - 1 - asOf / 2 ^ (64 * (4 * it.lane + p.1 / 8)) % 2 ^ 64
    let (v, seq, ag, st) := coValue upTo p.2 s.co (s.byte p.2)
    if (if const then decide (launch ≤ upTo) else decide (o.lb.get p.2 ≤ seq)) then some (r.1 + v.toNat * 2 ^ (8 * p.1), (p.2, seq, ag, st) :: r.2)
    else none) (0, [])
/-- The current value at an item's bytes. -/
def State.readItem (s : State) (it : Item) : Nat := it.bytes.foldl (fun v p => v + (s.byte p.2).toNat * 2 ^ (8 * p.1)) 0

def State.itemPoisoned (s : State) (it : Item) : Bool := it.pa.any fun a => s.poisoned a

/-- Older operations of the group in flight. -/
def State.older (s : State) (o : Op) : List Op := s.ops.filter fun p => p.team == o.team && p.grp == o.grp && decide (p.id < o.id)
/-- A read of some bytes for the group waits for an older load or atomic of the group to one of them, for an older adopt or publication that is
to take its place (R222, R223, R243), and while a channel holds it (R449). -/
def State.readWaits (s : State) (o : Op) (pas : List Nat) : Bool :=
  s.chanHeld pas || (s.older o).any fun p => p.kind.acquires || p.kind.isOrder || (p.kind.reads && p.items.any fun a => a.pa.any fun q => pas.contains q)
def State.loadWaits (s : State) (o : Op) : Bool := s.readWaits o (o.items.flatMap (·.pa))
/-- A store waits for an older atomic of the group to one of its bytes: co(x) agrees with the group's order (R218); for an older publication, which
does not publish it (R220); and while a channel holds it. -/
def State.storeWaits (s : State) (o : Op) (its : List Item) : Bool :=
  s.chanHeld (its.flatMap (·.pa)) || (s.older o).any fun p => p.kind.isOrder || (match p.kind with | .atomic .. => true | _ => false)
    && p.items.any fun a => its.any fun b => a.pa.any fun q => b.pa.contains q
/-- An acquiring atomic waits for the group's older reads, which its adopt's position covers (R221). -/
def State.acquireWaits (s : State) (o : Op) : Bool := o.kind.acquires && (s.older o).any fun p => p.kind.reads

/-! ## Publications and adopts in flight (R243) -/

/-- A `publish`, `adopt` or `fence` still comes after an older operation of its group (R220, R221) (DEDUCED, log 13). -/
def State.orderWaits (s : State) (o : Op) : Bool :=
  match o.kind with
  | .order none _ => (s.older o).any Op.beforeAdopt
  | _ => (s.older o).any Op.beforePub
/-- Its publication, then its adopt, take their places in PO (R219, R221). -/
def State.orderEvents (s : State) (t g : Nat) (pub adp : Option Scope) (instr : Nat) : State :=
  let s := match pub with | some sc => s.publishAt t g sc .plain instr | none => s
  match adp with | some sc => s.adoptAt t g sc [] instr | none => s
/-- One in flight takes its place once nothing older stands before it. -/
def State.orderDone (s : State) (id : Nat) : Option State := do
  let o ← s.op? id
  match o.kind with
  | .order pub adp => if s.orderWaits o then none else some ((s.orderEvents o.team o.grp pub adp o.id).endOp o)
  | _ => none

/-! ## The late check (R256, R258) -/

def Op.needs (o : Op) : BitVec 4 :=
  match o.kind with
  | .store => needW
  | .atomic .. => needRW
  | _ => needR

/-- The physical addresses of an item's bytes, or the first failing byte. -/
def State.xlatItem (s : State) (x : Team) (need : BitVec 4) (it : Item) : Except (Nat × XErr) (List Nat) :=
  (bytesOf it.mask).mapM fun k => match s.teamXlat x need ((it.addr + k) % 2 ^ 64) with
    | .ok pa => .ok pa
    | .error e => .error ((it.addr + k) % 2 ^ 64, e)


/-- SKID of a fault found now of an access issued at a count of retired instructions (R256). -/
def skidOf (g : Group) (l ret : Nat) : Nat := (g.lane l).ret - ret - 1

def Op.late (o : Op) (g : Group) (l ret : Nat) (cls addr lo mask detail : Nat) : LateFault :=
  { id := o.id, lane := l, hdr := o.hdr, pos := o.pos, cls, addr, lo, mask, flag := o.flag, skid := skidOf g l ret, detail, again := o.re, rc0 := o.rc0 }

/-- The ranges of bytes that an access touches: first address, length. -/
def maskRanges (lo mask : Nat) : List (Nat × Nat) := (bytesOf mask).map fun k => (lo + k, 1)
def LateFault.ranges (f : LateFault) : List (Nat × Nat) := maskRanges f.lo f.mask ++ f.spans
/-- An earlier access of the lane in the clause faulted, and touches a byte of the ranges of this one (R258) (DEDUCED, log 10). -/
def withheld (g : Group) (o : Op) (l : Nat) (rs : List (Nat × Nat)) : Bool :=
  g.late.any fun f => f.lane == l && f.hdr == o.hdr && decide (f.id < o.id)
    && f.ranges.any fun a => rs.any fun b => a.2 != 0 && b.2 != 0 && overlaps a.1 a.2 b.1 b.2

/-- The outcome of one item's check: checked, faulted in some lanes, or not answered yet (DEDUCED, log 10). -/
def State.checkItem (s : State) (x : Team) (g : Group) (o : Op) (it : Item) : Option (Except (List LateFault) Item) :=
  let ls := if o.uni then laneList o.lanes else [it.lane]
  let lf := fun (cls addr detail : Nat) => ls.map fun l => o.late g l (o.retOf it l) cls addr it.addr it.mask detail
  if ls.any fun l => withheld g o l (maskRanges it.addr it.mask) then some (.error (lf 0 it.addr 0))
  else match s.xlatItem x o.needs it with
    | .error (a, e) => some (.error (lf e.cls.code a e.detail))
    | .ok pas => (s.ownerSays o.id it.lane it.addr pas).map fun r => match r with
      | .ok pas => .ok { it with pa := pas }
      | .error (a, e) => .error (lf e.cls.code a e.detail)

/-- The check of every item of a lane-by-lane access (DEDUCED, log 10). -/
def State.checkItems (s : State) (x : Team) (g : Group) (o : Op) : Option (List Item × List LateFault) :=
  o.items.foldlM (fun (r : List Item × List LateFault) it => (s.checkItem x g o it).map fun c => match c with
    | .ok it => (r.1 ++ [it], r.2)
    | .error f => (r.1, r.2 ++ f)) ([], [])

/-- The 16 KiB pages that a range touches: the physical address of each, from its first byte's page, or the first failing page. -/
def State.xlatPages (s : State) (x : Team) (need : BitVec 4) (base : Nat) : Nat → Except (Nat × XErr) (List Nat)
  | 0 => .ok []
  | n + 1 =>
    match s.xlatPages x need base n with
    | .error e => .error e
    | .ok ps =>
      let va := if n = 0 then base else (base / 2 ^ 14 + n) * 2 ^ 14
      match s.teamXlat x need va with
      | .error e => .error (va, e)
      | .ok pa => .ok (ps ++ [pa / 2 ^ 14 * 2 ^ 14])
/-- The physical address of byte k of a range with those pages. -/
def pageByte (base : Nat) (pages : List Nat) (k : Nat) : Nat := pages.getD ((base % 2 ^ 14 + k) / 2 ^ 14) 0 + (base + k) % 2 ^ 14

/-- The blocks that a drain writes: first address and length of each (R284, R285). -/
def drainBlocks (kind : DrainKind) (db base pitch : Nat) : List (Nat × Nat) :=
  match kind with
  | .q => (List.range 128).map (fun n => (base + n / 2 * pitch + n % 2 * db, db)) ++ (List.range 128).map fun n => (base + 64 * pitch + 2 * n, 2)
  | _ => (List.range 4096).map fun n => (base + n / 64 * pitch + 8 * (n % 64), 8)
/-- The block data size of R108 for a width. -/
def blockBytes (w : Nat) : Nat := match w with | 8 => 32 | 6 => 28 | _ => 16
def drainDB (kind : DrainKind) (fmtw : Word) : Nat :=
  match kind with
  | .q => match fmtOfWord fmtw with | some f => blockBytes f.ew | none => 0
  | _ => 8

/-- The global bytes that an operation touches for all of its lanes (R258). -/
def Op.spans (o : Op) : List (Nat × Nat) :=
  match o.kind with
  | .copy dst src len .. => ([dst, src].filter fun r => r.spc == .glob).map fun r => (r.base, len)
  | .drain kind fw _ _ base pitch _ => drainBlocks kind (drainDB kind fw) base pitch
  | .pin _ => o.items.map fun it => (it.addr, 128 * it.data)
  | .enq _ e => [(e, 64)]
  | .launch image _ => [(image, 512)]
  | .coll _ a => [(a, 64)]
  | _ => []
/-- A late fault of such an operation in a lane; class 0: it is withheld. -/
def Op.lateOn (o : Op) (g : Group) (l ret cls addr detail : Nat) : LateFault := { o.late g l ret cls addr 0 0 detail with spans := o.spans }
/-- In every lane of its mask. -/
def Op.lateAll (o : Op) (g : Group) (cls addr detail : Nat) : List LateFault := o.items.map fun it => o.lateOn g it.lane it.ret cls addr detail
/-- The lanes from which a copy or drain is withheld (R258), and the operation of the others. -/
def Op.withheldItems (o : Op) (g : Group) : List Item := o.items.filter fun it => withheld g o it.lane o.spans
def Op.others (o : Op) (g : Group) : Op :=
  { o with items := o.items.filter (fun it => !withheld g o it.lane o.spans),
           lanes := o.lanes &&& ~~~(maskOf fun l => (o.withheldItems g).any fun it => it.lane == l) }

/-- The check of the pages of a range, each by its own owner (R251, R286, R461). -/
def State.checkRange (s : State) (x : Team) (o : Op) (need : BitVec 4) (base len : Nat) : Option (Except (Nat × XErr) (List Nat)) :=
  match s.xlatPages x need base (pageCount base len) with
  | .error e => some (.error e)
  | .ok ps => ps.zipIdx.foldlM (fun (r : Except (Nat × XErr) (List Nat)) p => match r with
    | .error e => some (.error e)
    | .ok l =>
      let va := if p.2 = 0 then base else (base / 2 ^ 14 + p.2) * 2 ^ 14
      (s.ownerSays o.id (va / 2 ^ 14) va [p.1]).map fun a => match a with | .ok _ => .ok (l ++ [p.1]) | .error e => .error e) (.ok [])

/-- Late faults are recorded with the group (R259). -/
def State.addLate (s : State) (t g : Nat) (fs : List LateFault) : State := s.updGroup t g fun y => { y with late := y.late ++ fs }
def State.dropOp (s : State) (o : Op) (fs : List LateFault) : State := (s.addLate o.team o.grp fs).endOp o

/-- It is withheld from those lanes, whose operation ends there. -/
def State.withhold (s : State) (g : Group) (o : Op) : State :=
  s.addLate o.team o.grp ((o.withheldItems g).map fun it => o.lateOn g it.lane it.ret 0 0 0)

/-- The pages of a list of blocks, each once, with their physical addresses; or the first byte that fails (R260, R286). -/
def State.xlatBlocks (s : State) (x : Team) (o : Op) (bs : List (Nat × Nat)) : Option (Except (Nat × XErr) (List (Nat × Nat))) :=
  let vas := bs.flatMap fun b => [b.1, max b.1 ((b.1 + b.2 - 1) / 2 ^ 14 * 2 ^ 14)]
  vas.foldlM (fun (r : Except (Nat × XErr) (List (Nat × Nat))) va => match r with
    | .error e => some (.error e)
    | .ok ps =>
      if ps.any fun p => p.1 == va / 2 ^ 14 then some (.ok ps)
      else match s.teamXlat x needW va with
        | .error e => some (.error (va, e))
        | .ok pa => (s.ownerSays o.id (va / 2 ^ 14) va [pa]).map fun a => match a with
          | .ok _ => .ok (ps ++ [(va / 2 ^ 14, pa / 2 ^ 14 * 2 ^ 14)])
          | .error e => .error e) (.ok [])
def blockByte (pgs : List (Nat × Nat)) (va : Nat) : Nat := ((pgs.find? fun p => p.1 == va / 2 ^ 14).map (·.2)).getD 0 + va % 2 ^ 14

/-- Every older operation of the group that has a late check has been checked (DEDUCED, log 11). -/
def State.checkTurn (s : State) (o : Op) : Bool :=
  s.ops.all fun p => !(p.team == o.team && p.grp == o.grp && decide (p.id < o.id) && !p.chk && !p.kind.teamMem) || match p.kind with
    | .mma .. | .xget .. | .crecv .. | .recall .. => true
    | _ => false

/-- ACCESS_CHECK (R256, R258, R251, R286): the translation and permission check of an access ends; the stores of lanes that pass are
performed, the lanes that fail are recorded, and an operation without lanes left completes (R81) (DEDUCED, log 11). -/
def execAccessCheck (id : Nat) (s : State) : Host.Outcome State Fault Refusal :=
  eventOf "ACCESS_CHECK" do
    let o ← s.op? id
    let x ← s.team? o.team
    let g ← x.group? o.grp
    if o.chk || !s.checkTurn o then none
    else match o.kind with
      | .load .. | .store | .atomic .. =>
        let (ok, bad) ← s.checkItems x g o
        if o.kind == .store && s.storeWaits o ok then none
        let s := s.addLate o.team o.grp bad
        let o := { o with items := ok, chk := true, lanes := o.lanes &&& ~~~(maskOf fun l => bad.any fun f => f.lane == l) }
        if ok.isEmpty then some (s.endOp o)
        else
          let s := s.setOp o
          some (match o.kind with | .store => ok.foldl (fun s it => s.storeItem o it) s | _ => s)
      | .pin _ =>
        let it ← o.items.head?
        if (laneList o.lanes).any fun l => withheld g o l o.spans then
          some (s.dropOp o ((laneList o.lanes).map fun l => o.lateOn g l (o.retOf it l) 0 it.addr 0))
        else
        let lines := (List.range it.data).mapM fun i => match s.teamXlat x needR (it.addr + 128 * i) with
          | .ok pa => Except.ok pa
          | .error e => .error (it.addr + 128 * i, e)
        match lines with
        | .error (a, e) => some (s.dropOp o ((laneList o.lanes).map fun l => o.lateOn g l (o.retOf it l) e.cls.code a e.detail))
        | .ok pas => some (s.setOp { o with chk := true, items := [{ it with pa := pas }] })
      | .copy dst src len bar done _ _ =>
        let s := s.withhold g o
        let o := o.others g
        if o.items.isEmpty then some (s.endOp o) else
        let sp ← if src.spc = .glob then s.checkRange x o needR src.base len else some (.ok [])
        match sp with
        | .error (a, e) => some (s.dropOp o (o.lateAll g e.cls.code a e.detail))
        | .ok sp =>
          let dp ← if dst.spc = .glob then s.checkRange x o needW dst.base len else some (.ok [])
          match dp with
          | .error (a, e) => some (s.dropOp o (o.lateAll g e.cls.code a e.detail))
          | .ok dp => some (s.setOp { o with chk := true, kind := .copy dst src len bar done dp sp })
      | .drain kind fw lt xn base pitch _ =>
        let s := s.withhold g o
        let o := o.others g
        if o.items.isEmpty then some (s.endOp o).tileSettle else
        let r ← s.xlatBlocks x o (drainBlocks kind (drainDB kind fw) base pitch)
        match r with
        | .error (a, e) => some (s.dropOp o (o.lateAll g e.cls.code a e.detail)).tileSettle
        | .ok pgs => some (s.setOp { o with chk := true, kind := .drain kind fw lt xn base pitch pgs })
      | _ => none

/-! ## Completions (R233) -/

/-- STORE_COMPLETION (R233): the store has entered co(x), or its place in T. -/
def execStoreCompletion (id : Nat) (s : State) : Host.Outcome State Fault Refusal :=
  eventOf "STORE_COMPLETION" do
    let o ← s.op? id
    match o.kind with
    | .store => if o.chk then some (s.endOp o) else none
    | .tstore => if s.teamWaits o then none else some ((s.performTeam o).endOp o)
    | _ => none

/-- One lane's atomic (R242): it reads the store immediately before it, and stores unless a compare fails. -/
def State.atomicItem (s : State) (o : Op) (op : AtomOp) (w64 ret : Bool) (it : Item) : State :=
  let old := s.readItem it
  let s := it.pa.foldl (fun s a =>
    let (_, seq, ag, st) := coValue s.coNext a s.co (s.byte a)
    s.seen o.team o.grp o.id a seq ag st) s
  let s := match atomNew op w64 (atomFAdd w64) old it.data it.cmp with
    | some v => s.storeVal o it v
    | none => s
  if ret then s.writeDst o it.lane (if w64 then [old % 2 ^ 32, old / 2 ^ 32] else [old]) else s
/-- All lanes in ascending order, then the adopt of an acquiring one (R223, R242), in one step: no atomic of another agent falls between them
(DESIGN CHOICE, log 58). -/
def State.performAtomic (s : State) (o : Op) (op : AtomOp) (w64 : Bool) (sc : Scope) (ord : MemOrd) (ret : Bool) : State :=
  let s := o.items.foldl (fun s it => s.atomicItem o op w64 ret it) s
  if ord == .acq || ord == .ar then s.adoptAt o.team o.grp sc [] o.id else s

/-- ATOMIC_COMPLETION (R233, R242). -/
def execAtomicCompletion (id : Nat) (s : State) : Host.Outcome State Fault Refusal :=
  eventOf "ATOMIC_COMPLETION" do
    let o ← s.op? id
    match o.kind with
    | .atomic op w64 sc ord true =>
      if !o.chk || s.loadWaits o || s.acquireWaits o || o.items.any s.itemPoisoned then none else some ((s.performAtomic o op w64 sc ord true).endOp o)
    | .tatomic _ w64 =>
      if s.teamWaits o then none
      else
        let s := s.performTeam o
        let o ← s.op? id
        some ((o.items.foldl (fun s it => s.writeDst o it.lane (if w64 then [it.res % 2 ^ 32, it.res / 2 ^ 32] else [it.res])) s).endOp o)
    | _ => none
/-- REDUCTION_COMPLETION (R233, R242). -/
def execReductionCompletion (id : Nat) (s : State) : Host.Outcome State Fault Refusal :=
  eventOf "REDUCTION_COMPLETION" do
    let o ← s.op? id
    match o.kind with
    | .atomic op w64 sc ord false =>
      if !o.chk || s.loadWaits o || s.acquireWaits o || o.items.any s.itemPoisoned then none else some ((s.performAtomic o op w64 sc ord false).endOp o)
    | _ => none

/-! ## Poison (R263) -/

/-- The lane has exited, or started the clause that holds its `exit`. -/
def exitBegun (s : State) (x : Team) (y : Lane) : Bool :=
  y.st == .exited || match y.hdr with
    | none => false
    | some h => clauseHoldsExit s x (y.pc.toNat - 12 * y.off) h

/-- A fault record of a core's logger that reports poison to the firmware alone (R263, R418). -/
def State.poisonRecord (s : State) (x : Team) (o : Op) (addr : Nat) (lanes : Mask) : State :=
  s.raise x.slice x.die { kind := 0, src := x.coreId, cls := FClass.memPoison.code, addr, image := x.image, lanes, grp := o.grp, state := o.rc0, event := 1 }

/-- A byte that has been written as 0 is poisoned, or reported where the table is full (R450). -/
def State.poisonAt (s : State) (x : Team) (o : Op) (pa va : Nat) : State :=
  if s.poisonRoom pa then s.setPoison pa (1#32 <<< (pa % 32)) else s.poisonRecord x o va o.lanes

/-- A lane stands at a clause header. -/
def Group.atHeader (g : Group) (l : Nat) : Bool := g.runs l && (g.lane l).off == 0 && (g.lane l).hdr.isNone

/-- A lane with late faults stands at its consumer clause, and every access of it from the faulting clause has been checked (DEDUCED, log 22). -/
def State.lateDue (s : State) (x : Team) (t gi : Nat) (g : Group) : List Nat :=
  (List.range 32).filter fun l =>
    g.atHeader l && (g.late.any fun f => f.lane == l)
    && !(s.ops.any fun o => o.unchecked t gi (1#32 <<< l) && g.late.any fun f => f.lane == l && f.hdr == o.hdr)
    && match formCheck s x (g.lane l).pc.toNat with
      | .ok imm => lateParks g (1#32 <<< l) imm (clauseHolds256 s x (g.lane l).pc.toNat imm)
      | _ => true

/-- A lane meets poison: it is marked, or only reported where it has gone, is parked, or is about to park. -/
def State.markPoison (s : State) (x : Team) (o : Op) (l ret addr : Nat) : State :=
  match s.group? o.team o.grp with
  | none => s
  | some g =>
    let m := (g.getRec (g.lane l).rc).mode
    if exitBegun s x (g.lane l) || m == .held || m == .handling || (s.lateDue x o.team o.grp g).contains l then s.poisonRecord x o addr (1#32 <<< l)
    else s.updGroup o.team o.grp fun g =>
      { g with marks := g.marks ++ [{ id := o.id, lane := l, flag := o.flag, addr, skid := skidOf g l ret, rc0 := o.rc0 }] }

/-- The destination write of a poisoned access of some lanes: discarded where each of them is gone (R263). -/
def State.writeLive (s : State) (x : Team) (o : Op) (l : Nat) (ls : List Nat) (vals : List Nat) : State :=
  match s.group? o.team o.grp with
  | some g => if ls.all fun k => exitBegun s x (g.lane k) then s else s.writeDst o l vals
  | none => s
/-- A poisoned or lost item: 0 in its destination, and its lanes marked; a reduction is only reported. -/
def State.poisonItem (s : State) (x : Team) (o : Op) (it : Item) : State :=
  let bad := ((bytesOf it.mask).zip it.pa).find? fun p => s.poisoned p.2
  let addr := it.addr + (bad.map (·.1)).getD 0
  let ls := if o.uni then laneList o.lanes else [it.lane]
  match o.kind with
  | .atomic _ _ _ _ false => s.poisonRecord x o addr (maskOf fun l => ls.contains l)
  | _ =>
    let n := match o.dst with | some d => d.k | none => 0
    ls.foldl (fun s l => s.markPoison x o l (o.retOf it l) addr) (s.writeLive x o it.lane ls (List.replicate n 0))

/-- POISON_FOUND (R263): the poisoned lanes of a checked load, atomic or reduction. -/
def execPoisonFound (id : Nat) (s : State) : Host.Outcome State Fault Refusal :=
  eventOf "POISON_FOUND" do
    let o ← s.op? id
    let x ← s.team? o.team
    let bad := o.items.filter s.itemPoisoned
    if !o.chk || bad.isEmpty || s.loadWaits o then none
    else match o.kind with
      | .load .. | .atomic .. =>
        let s := bad.foldl (fun s it => s.poisonItem x o it) s
        let o := { o with items := o.items.filter fun it => !s.itemPoisoned it,
                          lanes := if o.uni then o.lanes else o.lanes &&& ~~~(maskOf fun l => bad.any fun it => it.lane == l) }
        some (if o.items.isEmpty then s.endOp o else s.setOp o)
      | _ => none

/-- The clause at a lane's header waits on the flag, or holds `exit` (R263). -/
def poisonClause (s : State) (x : Team) (y : Lane) (flag : Option Nat) : Bool :=
  match formCheck s x y.pc.toNat with
  | .ok imm => waitsOnFlag imm flag || clauseHoldsExit s x y.pc.toNat imm
  | _ => false

/-- The marked lanes that park now, with the state and header of each (DEDUCED, log 22). -/
def State.poisonDue (s : State) (x : Team) (g : Group) : List Nat :=
  (List.range 32).filter fun l => g.atHeader l && g.marks.any fun m => m.lane == l && poisonClause s x (g.lane l) m.flag
/-- POISON_PARK (R263): the marked lanes of one state at one header form one sub-group, without a replay (DEDUCED, log 22). -/
def execPoisonPark (t gi : Nat) (s : State) : Host.Outcome State Fault Refusal :=
  eventOf "POISON_PARK" do
    let x ← s.team? t
    let g ← x.group? gi
    let due := s.poisonDue x g
    let l0 ← due.head?
    let y := g.lane l0
    let ls := due.filter fun l => (g.lane l).rc == y.rc && (g.lane l).pc == y.pc
    let m ← g.marks.find? fun m => m.lane == l0
    let mask := maskOf fun l => ls.contains l
    let s := s.updGroup t gi fun g => { g with marks := g.marks.filter fun m => !ls.contains m.lane }
    some ((s.park t gi y.rc mask { cls := FClass.memPoison.code, pc := y.pc, off := 0, skid := m.skid, addr := m.addr, state := some m.rc0 }).endCycle t gi)

/-! ## Late faults park (R259, R260, R309) -/

/-- The replay positions of a lane's late faults: faulted and withheld accesses, without returns of status 3. -/
def replayPos (g : Group) (l : Nat) : BitVec 24 :=
  (g.late.filter fun f => f.lane == l && !f.noReplay).foldl (fun m f => m ||| (1#24 <<< (f.pos - 1))) 0#24
/-- The lane's only late fault is a return of a call that replays alone: its slot. -/
def soleCall (g : Group) (l : Nat) : Option Nat :=
  match g.late.filter fun f => f.lane == l with
  | [f] => if f.noReplay then none else f.slot
  | _ => none
/-- The first faulting position among some lanes, and within it the lowest lane. -/
def firstFault (g : Group) (ls : List Nat) : Option LateFault :=
  let fs := g.late.filter fun f => ls.contains f.lane && f.cls != 0
  let p := fs.foldl (fun p f => min p f.pos) 25
  ls.findSome? fun l => fs.find? fun f => f.pos == p && f.lane == l

/-- LATE_FAULT_PARK (R259): the lanes of one state at one header with the same replayed positions form one sub-group. -/
def execLateFaultPark (t gi : Nat) (s : State) : Host.Outcome State Fault Refusal :=
  eventOf "LATE_FAULT_PARK" do
    let x ← s.team? t
    let g ← x.group? gi
    let due := s.lateDue x t gi g
    let l0 ← due.head?
    let y := g.lane l0
    let ls := due.filter fun l => (g.lane l).rc == y.rc && (g.lane l).pc == y.pc && replayPos g l == replayPos g l0 && soleCall g l == soleCall g l0
    let f ← firstFault g ls
    let pos := replayPos g l0
    let replay : Option Replay := match soleCall g l0 with
      | some sl => some { hdr := BitVec.ofNat 64 f.hdr, kind := 2, slot := sl, faddr := BitVec.ofNat 64 f.addr, fpos := f.pos, flane := l0 }
      | none => if pos = 0#24 then none
        else some { hdr := BitVec.ofNat 64 f.hdr, pos, kind := 1, faddr := BitVec.ofNat 64 f.addr, fpos := f.pos, flane := f.lane }
    let mask := maskOf fun l => ls.contains l
    let s := s.updGroup t gi fun g =>
      { g with late := g.late.filter fun f => !ls.contains f.lane }
    some ((s.park t gi y.rc mask { cls := f.cls, pc := y.pc, off := 0, skid := f.skid, replay, addr := f.addr, detail := f.detail,
                                   state := some f.rc0 }).endCycle t gi)

end Sys2Proof.Machine
end

