-- ==== Sys2Proof/Machine/MemInstr.lean ====
section
/-!
DEFINITION. The memory instructions (spec/09 R230-R243, R253, R254). Each has an effect on a path and an issue; a replay performs the
effect alone (R261).
-/
namespace Sys2Proof.Machine

/-! ## Effects -/

/-- `ldg.v`, `ldc.v` (R235, R237). -/
def loadV (const : Bool) (fl : Flg) (ac : AC) (m : MemOp) (d : Dst) (a : Src) (x : Ctx) : Res :=
  x.access fl gtop (memSize m.ty m.cnt) (dstRun d false m.run) (fun l => x.gaddr ac a m.off l) (fun _ => 0) (fun _ => 0) (.load const m.ty m.cnt)
/-- `ldg.s`, `ldc.s` (R236). -/
def loadS (const : Bool) (fl : Flg) (m : MemOp) (d : Dst) (a : Src) (x : Ctx) : Res :=
  x.accessU fl gtop (memSize m.ty m.cnt) (dstRun d true m.run) (x.gaddr .uni a m.off 0) 0 (.load const m.ty m.cnt)
/-- `stg.v` (R235). -/
def storeV (fl : Flg) (ac : AC) (m : MemOp) (a b : Src) (x : Ctx) : Res :=
  x.access fl gtop (memSize m.ty m.cnt) none (fun l => x.gaddr ac a m.off l)
    (fun l => runBytes m.ty (fun j => x.elemV (elemRegs m.ty) b j l) m.cnt.num) (fun _ => 0) .store
/-- `stg.s` (R236): with a uniform base one store. -/
def storeS (fl : Flg) (ac : AC) (m : MemOp) (a b : Src) (x : Ctx) : Res :=
  let v := runBytes m.ty (fun j => x.elemU (elemRegs m.ty) b j) m.cnt.num
  if ac = .uni then x.accessU fl gtop (memSize m.ty m.cnt) none (x.gaddr .uni a m.off 0) v .store
  else x.access fl gtop (memSize m.ty m.cnt) none (fun l => x.gaddr ac a m.off l) (fun _ => v) (fun _ => 0) .store
/-- `ldtm.v`, `ldtm.s`, `sttm.v`, `sttm.s` (R235, R236). -/
def loadTV (fl : Flg) (ac : AC) (m : MemOp) (d : Dst) (a : Src) (x : Ctx) : Res :=
  x.access fl x.ttop (memSize m.ty m.cnt) (dstRun d false m.run) (fun l => x.taddr ac a m.off l) (fun _ => 0) (fun _ => 0) (.tload m.ty m.cnt)
def loadTS (fl : Flg) (m : MemOp) (d : Dst) (a : Src) (x : Ctx) : Res :=
  x.accessU fl x.ttop (memSize m.ty m.cnt) (dstRun d true m.run) (x.taddr .uni a m.off 0) 0 (.tload m.ty m.cnt)
def storeTV (fl : Flg) (ac : AC) (m : MemOp) (a b : Src) (x : Ctx) : Res :=
  x.access fl x.ttop (memSize m.ty m.cnt) none (fun l => x.taddr ac a m.off l)
    (fun l => runBytes m.ty (fun j => x.elemV (elemRegs m.ty) b j l) m.cnt.num) (fun _ => 0) .tstore
def storeTS (fl : Flg) (ac : AC) (m : MemOp) (a b : Src) (x : Ctx) : Res :=
  let v := runBytes m.ty (fun j => x.elemU (elemRegs m.ty) b j) m.cnt.num
  if ac = .uni then x.accessU fl x.ttop (memSize m.ty m.cnt) none (x.taddr .uni a m.off 0) v .tstore
  else x.access fl x.ttop (memSize m.ty m.cnt) none (fun l => x.taddr ac a m.off l) (fun _ => v) (fun _ => 0) .tstore

/-- `stmsk` (R239): a lane without a selected byte makes no access; one with a byte at or above 2^58 faults. -/
def storeMask (fl : Flg) (ac : AC) (m : MemOp) (a b e : Src) (x : Ctx) : Res :=
  let mask := fun l => x.rdV 1 .zx e l % 16
  let bad := maskOf fun l => x.e.getLsbD l && (bytesOf (mask l)).any fun k => decide (2 ^ 58 ≤ (x.gaddr ac a m.off l + k) % 2 ^ 64)
  let ls := (laneList (x.e &&& ~~~bad)).filter fun l => mask l != 0
  let flts : List Flt := [{ cls := .memXlate, lanes := bad }]
  if ls.isEmpty then { s := x.s, flts }
  else
    let o := x.mkOp fl false false none (ls.map fun l => { x.item l (x.gaddr ac a m.off l) (mask l) (x.rdV 1 .zx b l) with apart := true }) .store
    { s := x.fly x.s { o with lanes := maskOf fun l => ls.contains l }, flts }

/-- `atom`, `red` (R242): the publication of a releasing one stands before its first lane's atomic (R223); the team accesses before either event keep
their place in T (R226). -/
def atomV (fl : Flg) (op : AtomOp) (m : AtomFld) (ret : Bool) (dst : Option DstRun) (a b : Src) (cmp : Nat → Nat) (x : Ctx) : Res :=
  let r := x.access fl gtop (if m.w64 then 8 else 4) dst (fun l => x.gaddr m.ac a m.off l) (fun l => x.rdV (kOf m.w64) .zx b l) cmp
    (.atomic op m.w64 m.sc m.ord ret)
  if m.ord == .rlx || subMask x.e (r.flts.foldl (fun u f => u ||| f.lanes) 0#32) then r
  else
    let s := r.s.flushTeam x.cur.team x.cur.grp
    { r with s := if m.ord == .acq then s else s.publish x.cur.team x.cur.grp m.sc .plain }
/-- `atomtm` (R242). -/
def atomT (fl : Flg) (op : AtomOp) (m : AtomFld) (dst : Option DstRun) (a b : Src) (cmp : Nat → Nat) (x : Ctx) : Res :=
  x.access fl x.ttop (if m.w64 then 8 else 4) dst (fun l => x.taddr m.ac a m.off l) (fun l => x.rdV (kOf m.w64) .zx b l) cmp (.tatomic op m.w64)
def casArg (op : AtomOp) (w64 : Bool) (e : Src) (x : Ctx) (l : Nat) : Nat := if op == .cas then x.rdV (kOf w64) .zx e l else 0

/-- `pin`, `unpin` (R253): one operation for the state on `count` lines. -/
def pinRun (un : Bool) (fl : Flg) (d : Dst) (a b : Src) (x : Ctx) : Res :=
  let addr := x.rdU 2 .zx a
  let n := x.rdU 1 .zx b
  if addr % 128 != 0 || 4096 < n then resFault x .memAlign
  else { s := x.fly x.s (x.mkOp fl true false (dstRun d true 1) [x.item (lowestLane x.e) addr 0 n] (.pin un)) }

/-! ## Loads and stores -/

/-- LDG_V (R235). -/
def execLdgV (c : Ctl) (fl : Flg) (ac : AC) (m : MemOp) (d : Dst) (a : Src) (s : State) : Host.Outcome State Fault Refusal :=
  issue (.ldgV c fl ac m d a) s (loadV false fl ac m d a)
/-- LDG_S (R236). -/
def execLdgS (c : Ctl) (fl : Flg) (m : MemOp) (d : Dst) (a : Src) (s : State) : Host.Outcome State Fault Refusal :=
  issue (.ldgS c fl m d a) s (loadS false fl m d a)
/-- STG_V (R235). -/
def execStgV (c : Ctl) (fl : Flg) (ac : AC) (m : MemOp) (a b : Src) (s : State) : Host.Outcome State Fault Refusal :=
  issue (.stgV c fl ac m a b) s (storeV fl ac m a b)
/-- STG_S (R236). -/
def execStgS (c : Ctl) (fl : Flg) (ac : AC) (m : MemOp) (a b : Src) (s : State) : Host.Outcome State Fault Refusal :=
  issue (.stgS c fl ac m a b) s (storeS fl ac m a b)
/-- LDTM_V (R235). -/
def execLdtmV (c : Ctl) (fl : Flg) (ac : AC) (m : MemOp) (d : Dst) (a : Src) (s : State) : Host.Outcome State Fault Refusal :=
  issue (.ldtmV c fl ac m d a) s (loadTV fl ac m d a)
/-- LDTM_S (R236). -/
def execLdtmS (c : Ctl) (fl : Flg) (m : MemOp) (d : Dst) (a : Src) (s : State) : Host.Outcome State Fault Refusal :=
  issue (.ldtmS c fl m d a) s (loadTS fl m d a)
/-- STTM_V (R235). -/
def execSttmV (c : Ctl) (fl : Flg) (ac : AC) (m : MemOp) (a b : Src) (s : State) : Host.Outcome State Fault Refusal :=
  issue (.sttmV c fl ac m a b) s (storeTV fl ac m a b)
/-- STTM_S (R236). -/
def execSttmS (c : Ctl) (fl : Flg) (ac : AC) (m : MemOp) (a b : Src) (s : State) : Host.Outcome State Fault Refusal :=
  issue (.sttmS c fl ac m a b) s (storeTS fl ac m a b)
/-- LDC_V (R237). -/
def execLdcV (c : Ctl) (fl : Flg) (ac : AC) (m : MemOp) (d : Dst) (a : Src) (s : State) : Host.Outcome State Fault Refusal :=
  issue (.ldcV c fl ac m d a) s (loadV true fl ac m d a)
/-- LDC_S (R237). -/
def execLdcS (c : Ctl) (fl : Flg) (m : MemOp) (d : Dst) (a : Src) (s : State) : Host.Outcome State Fault Refusal :=
  issue (.ldcS c fl m d a) s (loadS true fl m d a)
/-- STMSK (R239). -/
def execStmsk (c : Ctl) (fl : Flg) (ac : AC) (m : MemOp) (a b e : Src) (s : State) : Host.Outcome State Fault Refusal :=
  issue (.stmsk c fl ac m a b e) s (storeMask fl ac m a b e)

/-! ## Atomics -/

/-- ATOM (R242). -/
def execAtom (c : Ctl) (fl : Flg) (op : AtomOp) (m : AtomFld) (d : Dst) (a b e : Src) (s : State) : Host.Outcome State Fault Refusal :=
  issue (.atom c fl op m d a b e) s fun x => atomV fl op m true (dstRun d false (kOf m.w64)) a b (casArg op m.w64 e x) x
/-- RED (R242). -/
def execRed (c : Ctl) (fl : Flg) (op : AtomOp) (m : AtomFld) (a b : Src) (s : State) : Host.Outcome State Fault Refusal :=
  issue (.red c fl op m a b) s fun x => atomV fl op m false none a b (fun _ => 0) x
/-- ATOMTM (R242). -/
def execAtomtm (c : Ctl) (fl : Flg) (op : AtomOp) (m : AtomFld) (d : Dst) (a b e : Src) (s : State) : Host.Outcome State Fault Refusal :=
  issue (.atomtm c fl op m d a b e) s fun x => atomT fl op m (dstRun d false (kOf m.w64)) a b (casArg op m.w64 e x) x

/-! ## Publish, adopt, fence (R243) -/

/-- The instruction completes in its issue cycle; its events take their place at once, or, while older accesses of the group stand before them, in
flight (DEDUCED, log 13). -/
def orderRun (pub adp : Option Scope) (x : Ctx) : Res :=
  let s := x.s.flushTeam x.cur.team x.cur.grp
  let o := { x.mkOp .none true true none [] (.order pub adp) with flag := none }
  { s := if s.orderWaits o then x.fly s o else s.orderEvents x.cur.team x.cur.grp pub adp s.stamp }
/-- PUBLISH. -/
def execPublish (c : Ctl) (sc : Scope) (s : State) : Host.Outcome State Fault Refusal :=
  issue (.publish c sc) s (orderRun (some sc) none)
/-- ADOPT. -/
def execAdopt (c : Ctl) (sc : Scope) (s : State) : Host.Outcome State Fault Refusal :=
  issue (.adopt c sc) s (orderRun none (some sc))
/-- FENCE: a publication, then an adopt. -/
def execFence (c : Ctl) (sc : Scope) (s : State) : Host.Outcome State Fault Refusal :=
  issue (.fence c sc) s (orderRun (some sc) (some sc))

/-! ## Pinning (R215, R253) -/

/-- PIN. -/
def execPinLines (c : Ctl) (fl : Flg) (d : Dst) (a b : Src) (s : State) : Host.Outcome State Fault Refusal :=
  issue (.pinLines c fl d a b) s (pinRun false fl d a b)
/-- UNPIN. -/
def execUnpinLines (c : Ctl) (fl : Flg) (d : Dst) (a b : Src) (s : State) : Host.Outcome State Fault Refusal :=
  issue (.unpinLines c fl d a b) s (pinRun true fl d a b)

/-- A register of a slice on a cluster (R324) (DESIGN CHOICE, log 1). -/
def State.cluReg (s : State) (sl cl n : Nat) : Word := (s.sliceClu.get (64 * sl + cl)).get n
def pinKey (sl cl line : Nat) : Nat := sl * 2 ^ 56 + cl * 2 ^ 48 + line
/-- The lines that a slice has pinned on a cluster: PIN_USED counts them (R216). -/
def State.pinsOf (s : State) (sl cl : Nat) : List Nat := (s.pinned.filter fun k => k / 2 ^ 48 == sl * 2 ^ 8 + cl).map (· % 2 ^ 48)
/-- Pin one line after another until a refusal: the pinned lines, the number and the code (R253) (DESIGN CHOICE, log 18). -/
def pinStep (s : State) (sl cl : Nat) : List Nat → List Nat → Nat → List Nat × Nat
  | [], used, k => (used, k)
  | pa :: rest, used, k =>
    let line := pa / 128
    let ways := popcN 16 (s.cluReg sl cl 0x203).toNat
    if 2 ^ 51 ≤ pa then (used, 2 * 2 ^ 28 + k)
    else if used.contains line then pinStep s sl cl rest used (k + 1)
    else if (s.cluReg sl cl 0x121).toNat ≤ used.length then (used, 2 ^ 28 + k)
    else if ways ≤ (used.filter fun l => Config.cacheSet l % 4096 == Config.cacheSet line % 4096).length + 1 then (used, 2 * 2 ^ 28 + k)
    else pinStep s sl cl rest (line :: used) (k + 1)
/-- PIN_COMPLETION (R233, R253). -/
def execPinCompletion (id : Nat) (s : State) : Host.Outcome State Fault Refusal :=
  eventOf "PIN_COMPLETION" do
    let o ← s.op? id
    let x ← s.team? o.team
    match o.kind, o.items with
    | .pin un, [it] =>
      if !o.chk then none
      else
        let cl := x.cluIx
        let used := s.pinsOf x.slice cl
        let (now, st) := if un then
            let gone := (it.pa.map (· / 128)).eraseDups.filter used.contains
            (used.filter fun l => !gone.contains l, gone.length)
          else pinStep s x.slice cl it.pa used 0
        let s := { s with pinned := (now.map (pinKey x.slice cl)) ++ s.pinned.filter fun k => k / 2 ^ 48 != x.slice * 2 ^ 8 + cl }
        some ((s.writeDst o it.lane [st]).endOp o)
    | _, _ => none

/-! ## Register budget (R254) -/

/-- VGROW. -/
def execVgrow (c : Ctl) (a : Src) (s : State) : Host.Outcome State Fault Refusal :=
  issue (.vgrow c a) s fun x =>
    let n := x.rdU 1 .zx a
    if x.g.vmax < n then resFault x .regBudget
    else if x.g.vcur < n then { s := x.withGroup { x.g with vcur := n, v := x.g.v.clearRange (32 * x.g.vcur) (32 * n) } }
    else { s := x.s }
/-- VSHRINK. -/
def execVshrink (c : Ctl) (a : Src) (s : State) : Host.Outcome State Fault Refusal :=
  issue (.vshrink c a) s fun x =>
    let n := x.rdU 1 .zx a
    if n = 0 then resFault x .regBudget
    else if n < x.g.vcur then { s := x.withGroup { x.g with vcur := n } }
    else { s := x.s }

end Sys2Proof.Machine
end

