-- ==== Sys2Proof/Machine/TeamSync.lean ====
section
/-!
DEFINITION. Barrier objects, channels and the copy engine (spec/09 R244-R252), and the paths that hold at an instruction (R173, R246).
-/
namespace Sys2Proof.Machine

/-! ## Holding -/

/-- The path holds at its instruction: it keeps its place, and the instruction has no effect yet. -/
def resHold (x : Ctx) (s : State) (k : HoldKind) : Res :=
  { s := s.updGroup x.cur.team x.cur.grp fun g =>
      { g with holds := g.holds ++ [{ id := x.s.stamp, rc := x.cur.rc, lanes := x.cur.m, e := x.e, fin := x.c.fin, kind := k }] },
    stay := true }
def Group.hold? (g : Group) (id : Nat) : Option Hold := g.holds.find? fun h => h.id == id
/-- A holding path completes its instruction and goes on. -/
def State.endHold (s : State) (t gi : Nat) (h : Hold) : State :=
  s.updGroup t gi fun g =>
    { (g.updLanes h.lanes fun _ y =>
        { y with pc := y.pc + 12#64, off := if h.fin then 0 else y.off + 1, hdr := if h.fin then none else y.hdr, wdl := none, ret := y.ret + 1 }) with
      holds := g.holds.filter fun k => k.id != h.id }
/-- A uniform register written in the state of a hold. -/
def State.holdWrite (s : State) (t gi : Nat) (h : Hold) (d : Dst) (v : Nat) : State :=
  s.updGroup t gi fun g => match g.recs.find? h.rc with
    | some r => g.setRec h.rc (putS r 1 d v)
    | none => g

/-! ## Barrier objects (R244, R245) -/

/-- The object's address and the checks of R246: alignment, range. -/
def barAddr (x : Ctx) (a : Src) : Nat := x.rdU 1 .zx a % 2 ^ 31
def barParity (x : Ctx) (a : Src) : Bool := decide (2 ^ 31 ≤ x.rdU 1 .zx a)
/-- An instruction on a barrier object: its address checks, its older team accesses in T, then its effect. -/
def withBar (x : Ctx) (a : Src) (f : Ctx → Nat → Bar → Res) : Res :=
  let t := barAddr x a
  if t % 16 != 0 then resFault x .memAlign
  else if x.tm.tmemSize < t + 16 then resFault x .memXlate
  else
    let s := x.s.flushTeam x.cur.team x.cur.grp
    match s.team? x.cur.team with
    | none => { s }
    | some tm => f { x with s, tm } t (tm.bar t)
/-- The same for every instruction but `init`: an invalid object raises CHANNEL. -/
def withValidBar (x : Ctx) (a : Src) (f : Ctx → Nat → Bar → Res) : Res :=
  withBar x a fun x t b =>
    if b.valid then
      let tm := x.tm.nameBar t
      f { x with s := x.withTeam tm, tm } t (tm.bar t)
    else resFault x .channel

/-- BAR_INIT (R246). -/
def execBarInit (c : Ctl) (a b : Src) (s : State) : Host.Outcome State Fault Refusal :=
  issue (.barInit c a b) s fun x => withBar x a fun x t _ =>
    let n := x.rdU 1 .zx b
    if n = 0 ∨ 65535 < n then resFault x .channel
    else { s := x.withTeam { (x.tm.setBar t { phase := 0, init := n, left := n, bytes := 0, stat := 1 }) with
                             bars := (t :: x.tm.bars).eraseDups, barPubs := x.tm.barPubs.filter (fun p => p.1 != t), barStores := x.tm.barStores.filter fun p => p.1 != t } }

/-- One lane's arrival: the phase it belongs to is joined to the publication (R224). -/
def Team.arrive (x : Team) (t pub : Nat) : Team :=
  let b := x.bar t
  { (x.setBar t ({ b with left := b.left - 1 }).settle) with barPubs := (t, b.phase, pub) :: x.barPubs }
/-- The arrivals of a mask in ascending order: a lane that finds none missing is refused. -/
def arriveLanes (t pub : Nat) : Team → List Nat → Team × Mask
  | x, [] => (x, 0#32)
  | x, l :: ls =>
    if (x.bar t).left = 0 then let (y, m) := arriveLanes t pub x ls; (y, m ||| (1#32 <<< l))
    else arriveLanes t pub (x.arrive t pub) ls
/-- BAR_ARRIVE (R246). -/
def execBarArrive (c : Ctl) (sc : Scope) (a : Src) (s : State) : Host.Outcome State Fault Refusal :=
  issue (.barArrive c sc a) s fun x => withValidBar x a fun x t b =>
    let s := x.s.publish x.cur.team x.cur.grp sc (.barrier x.cur.team t b.phase)
    match s.team? x.cur.team with
    | none => { s }
    | some tm =>
      let (tm, bad) := arriveLanes t (s.pubs.length - 1) tm (laneList x.e)
      { s := s.setTeam x.cur.team tm, flts := [{ cls := .channel, lanes := bad }] }
/-- BAR_EXPECT (R246). -/
def execBarExpect (c : Ctl) (a b : Src) (s : State) : Host.Outcome State Fault Refusal :=
  issue (.barExpect c a b) s fun x => withValidBar x a fun x t o =>
    let n := o.bytes + x.rdU 1 .zx b
    if n < -2 ^ 31 ∨ 2 ^ 31 ≤ n then resFault x .channel
    else { s := x.withTeam (x.tm.setBar t ({ o with bytes := n }).settle) }

/-- Observing the completion of phase PHASE - 1: an adopt joined to its arrivals, and the stores counted into it (R224, R225, R246). -/
def State.observe (s : State) (t gi : Nat) (sc : Scope) (addr : Nat) : State :=
  match s.team? t with
  | none => s
  | some x =>
    let ph := ((x.bar addr).phase + 2 ^ 32 - 1) % 2 ^ 32
    let s := (s.flushTeam t gi).adopt t gi sc ((x.barPubs.filter fun p => p.1 == addr && p.2.1 == ph).map (·.2.2))
    let view := (x.barStores.filter fun p => p.1 == addr && p.2.1 == ph).foldl (fun m p => joinView m p.2.2) []
    s.updGroup t gi fun g => { g with lb := joinView g.lb view }
/-- PHASE[0] differs from the awaited parity. -/
def Bar.passed (b : Bar) (p : Bool) : Bool := (b.phase % 2 == 1) != p
/-- BAR_WAIT (R246). -/
def execBarWait (c : Ctl) (sc : Scope) (a : Src) (s : State) : Host.Outcome State Fault Refusal :=
  issue (.barWait c sc a) s fun x => withValidBar x a fun x t b =>
    if b.passed (barParity x a) then { s := x.s.observe x.cur.team x.cur.grp sc t }
    else resHold x x.s (.barWait t (barParity x a) sc)
/-- BAR_WAIT_COMPLETE (R246). -/
def execBarWaitComplete (t gi id : Nat) (s : State) : Host.Outcome State Fault Refusal :=
  eventOf "BAR_WAIT_COMPLETE" do
    let x ← s.team? t
    let g ← x.group? gi
    let h ← g.hold? id
    match h.kind with
    | .barWait addr par sc => if (x.bar addr).passed par && !s.readsOut t gi then some ((s.observe t gi sc addr).endHold t gi h) else none
    | _ => none
/-- BAR_TEST (R246). -/
def execBarTest (c : Ctl) (sc : Scope) (p : Nat) (a : Src) (s : State) : Host.Outcome State Fault Refusal :=
  issue (.barTest c sc p a) s fun x => withValidBar x a fun x t b =>
    let r := b.passed (barParity x a)
    let s := if r then x.s.observe x.cur.team x.cur.grp sc t else x.s
    { s := s.updGroup x.cur.team x.cur.grp fun g => g.setP p x.e fun _ => r }

/-! ## Channels (R248, R249) -/

structure Chan where
  valid : Bool
  ridx : Nat
  nr : Nat
  nf : Nat
  nt : Nat
  count : Nat
  /-- slot size in bytes, ring base -/
  slot : Nat
  base : Nat
deriving DecidableEq, Repr

def chanOf (v : Dword) : Chan :=
  let f := fun (lo n : Nat) => v.toNat / 2 ^ lo % 2 ^ n
  { valid := v.getLsbD 63, ridx := f 57 6, nr := f 50 7, nf := f 43 7, nt := f 36 7, count := f 30 6 + 1, slot := 16 * (f 19 11 + 1), base := 256 * f 9 10 }
def Chan.word (c : Chan) : Dword :=
  BitVec.ofNat 64 ((if c.valid then 2 ^ 63 else 0) + c.ridx % 64 * 2 ^ 57 + c.nr % 128 * 2 ^ 50 + c.nf % 128 * 2 ^ 43 + c.nt % 128 * 2 ^ 36
    + (c.count - 1) % 64 * 2 ^ 30 + (c.slot / 16 - 1) % 2048 * 2 ^ 19 + c.base / 256 % 1024 * 2 ^ 9)
def Chan.free (c : Chan) : Nat := c.count - c.nr - c.nf - c.nt
def Chan.addr (c : Chan) (i : Nat) : Nat := c.base + c.slot * i
/-- A slot counted back from RIDX. -/
def Chan.back (c : Chan) (n : Nat) : Nat := (c.ridx + 64 * c.count - n) % c.count
def Team.chan (x : Team) (n : Nat) : Chan := chanOf (x.chst.get n)
def Team.setChan (x : Team) (n : Nat) (c : Chan) : Team := { x with chst := x.chst.set n c.word }

/-- Reserve, take: the state after, and the slot. -/
def Chan.reserve (c : Chan) : Chan × Nat := ({ c with ridx := (c.ridx + 1) % c.count, nr := c.nr + 1 }, c.ridx)
def Chan.take (c : Chan) : Chan × Nat := ({ c with nf := c.nf - 1, nt := c.nt + 1 }, c.back (c.nr + c.nf))
/-- Commit the oldest reserved slot. -/
def Chan.commit (c : Chan) : Chan × Nat := ({ c with nr := c.nr - 1, nf := c.nf + 1 }, c.back c.nr)

def slotKey (ch i : Nat) : Nat := 64 * ch + i
/-- The commit of a slot is the publication a take is joined to (R224). -/
def Team.committed (x : Team) (ch i pub : Nat) : Team := { x with slotPubs := x.slotPubs.set (slotKey ch i) (pub + 1) }
def Team.slotPub (x : Team) (ch i : Nat) : List Nat := match x.slotPubs.get (slotKey ch i) with | 0 => [] | n + 1 => [n]

/-- A channel instruction but for `chinit`: its older team accesses in T; an invalid channel raises CHANNEL. -/
def withChan (x : Ctx) (ch : Nat) (f : Ctx → Chan → Res) : Res :=
  let s := x.s.flushTeam x.cur.team x.cur.grp
  match s.team? x.cur.team with
  | none => { s }
  | some tm => if (tm.chan ch).valid then f { x with s, tm, g := (tm.group? x.cur.grp).getD x.g } (tm.chan ch) else resFault { x with s, tm } .channel

/-- Paths that hold to reserve on a channel, and operations that wait to take from it, of all groups, by the time they began (R249). -/
def Team.reservers (x : Team) (ch : Nat) : List Nat :=
  x.groups.flatMap fun p => (p.2.holds.filter fun h => match h.kind with | .chres c _ => c == ch | _ => false).map (·.id)
def State.takers (s : State) (t ch : Nat) (x : Team) : List Nat :=
  (x.groups.flatMap fun p => (p.2.holds.filter fun h => match h.kind with | .chtake _ c _ => c == ch | _ => false).map (·.id))
  ++ (s.ops.filter fun o => o.team == t && (match o.kind with | .crecv c => c == ch | _ => false)).map (·.id)
def firstOf (ids : List Nat) (id : Nat) : Bool := ids.all fun n => decide (id ≤ n)

/-- CHINIT (R249). -/
def execChinit (c : Ctl) (ch : Nat) (a b : Src) (s : State) : Host.Outcome State Fault Refusal :=
  issue (.chinit c ch a b) s fun x =>
    let s := x.s.flushTeam x.cur.team x.cur.grp
    let base := x.rdU 1 .zx a
    let v := x.rdU 1 .zx b
    let size := v % 65536
    let n := v / 65536 % 128
    if base % 256 != 0 || size % 16 != 0 || size < 16 || 32768 < size || n < 1 || 64 < n || v / 2 ^ 23 != 0 || x.tm.tmemSize < base + n * size then
      { s, flts := [{ cls := .channel, lanes := x.e }] }
    else { s := s.updTeam x.cur.team fun tm =>
             { (tm.setChan ch { valid := true, ridx := 0, nr := 0, nf := 0, nt := 0, count := n, slot := size, base }) with
               slotPubs := tm.slotPubs.clearRange (64 * ch) (64 * ch + 64), handed := tm.handed.filter fun h => h.ch != ch,
               returned := tm.returned.filter fun r => r.1 != ch } }
/-- CHRES (R249). -/
def execChres (c : Ctl) (ch : Nat) (d : Dst) (s : State) : Host.Outcome State Fault Refusal :=
  issue (.chres c ch d) s fun x => withChan x ch fun x cn =>
    if cn.free = 0 ∨ !(x.tm.reservers ch).isEmpty then resHold x x.s (.chres ch d)
    else
      let (cn, i) := cn.reserve
      { s := (x.withTeam (x.tm.setChan ch cn)).updGroup x.cur.team x.cur.grp fun g => g.setRec x.cur.rc (putS x.st 1 d (cn.addr i)) }
/-- CHRES_GRANT (R249): the first reserver of the channel takes a free slot. -/
def execChresGrant (t gi id : Nat) (s : State) : Host.Outcome State Fault Refusal :=
  eventOf "CHRES_GRANT" do
    let x ← s.team? t
    let g ← x.group? gi
    let h ← g.hold? id
    match h.kind with
    | .chres ch d =>
      let cn := x.chan ch
      if !cn.valid || cn.free = 0 || !firstOf (x.reservers ch) id then none
      else
        let (cn, i) := cn.reserve
        some (((s.setTeam t (x.setChan ch cn)).holdWrite t gi h d (cn.addr i)).endHold t gi h)
    | _ => none
/-- CHCOMMIT (R249). -/
def execChcommit (c : Ctl) (sc : Scope) (ch : Nat) (s : State) : Host.Outcome State Fault Refusal :=
  issue (.chcommit c sc ch) s fun x => withChan x ch fun x cn =>
    let (cn', i) := cn.commit
    let s := x.s.publish x.cur.team x.cur.grp sc (.slot x.cur.team ch i)
    if cn.nr = 0 then { s, flts := [{ cls := .channel, lanes := x.e }] }
    else { s := s.updTeam x.cur.team fun tm => (tm.setChan ch cn').committed ch i (s.pubs.length - 1) }
/-- A take of the oldest committed slot by a group: an adopt joined to its commit. -/
def State.chTake (s : State) (t gi ch : Nat) (sc : Scope) : State × Nat :=
  match s.team? t with
  | none => (s, 0)
  | some x =>
    let (cn, i) := (x.chan ch).take
    (((s.setTeam t (x.setChan ch cn)).flushTeam t gi).adopt t gi sc (x.slotPub ch i), cn.addr i)
/-- CHTAKE (R249). -/
def execChtake (c : Ctl) (sc : Scope) (ch : Nat) (d : Dst) (s : State) : Host.Outcome State Fault Refusal :=
  issue (.chtake c sc ch d) s fun x => withChan x ch fun x cn =>
    if cn.nf = 0 ∨ !(x.s.takers x.cur.team ch x.tm).isEmpty then resHold x x.s (.chtake sc ch d)
    else
      let (s, a) := x.s.chTake x.cur.team x.cur.grp ch sc
      { s := s.updGroup x.cur.team x.cur.grp fun g => g.setRec x.cur.rc (putS x.st 1 d a) }
/-- CHTAKE_GRANT (R249): the first taker of the channel takes a filled slot. -/
def execChtakeGrant (t gi id : Nat) (s : State) : Host.Outcome State Fault Refusal :=
  eventOf "CHTAKE_GRANT" do
    let x ← s.team? t
    let g ← x.group? gi
    let h ← g.hold? id
    match h.kind with
    | .chtake sc ch d =>
      if !(x.chan ch).valid || (x.chan ch).nf = 0 || !firstOf (s.takers t ch x) id || s.readsOut t gi then none
      else
        let (s, a) := s.chTake t gi ch sc
        some ((s.holdWrite t gi h d a).endHold t gi h)
    | _ => none
/-- CHFREE (R249). -/
def execChfree (c : Ctl) (ch : Nat) (s : State) : Host.Outcome State Fault Refusal :=
  issue (.chfree c ch) s fun x => withChan x ch fun x cn =>
    if cn.nt = 0 then resFault x .channel else { s := x.withTeam (x.tm.setChan ch { cn with nt := cn.nt - 1 }) }

/-! ## Copies (R250-R252) -/

/-- A virtual address names a domain address of another package, as it is translated now, whatever its permissions and the routes. -/
def State.namesPkg (s : State) (x : Team) (va : Nat) : Bool :=
  match s.bothStages x.slice x.die x.asid va with
  | .ok (pa, _, _) => let a := s.forwarded pa; isRemote a && pkgOf a != s.ownPkg
  | .error _ => false
/-- A page of a range does: such a copy raises the copy count (R465) (DEDUCED, log 21). -/
def State.namesRemote (s : State) (x : Team) (r : Range) (len : Nat) : Bool :=
  r.spc == .glob && (List.range (pageCount r.base len)).any fun n => s.namesPkg x ((r.base / 2 ^ 14 + n) * 2 ^ 14)
/-- DEDUCED, log 21. -/
def State.countCopy (s : State) (x : Team) : State :=
  let sd := s.sliceDieOf x.slice x.die
  s.setSliceDie x.slice x.die { sd with copies := (sd.copies + 1) % 2 ^ 32 }
/-- The raised copy count, as the operation's own (R465). -/
def State.copyVer (s : State) (x : Team) (far : Bool) : Nat := if far then (s.sliceDieOf x.slice x.die).copies else 0
/-- The issue checks of R250 on a range: alignment and extent. -/
def rangeAlign (r : Range) : Bool := r.base % 16 == 0
def rangeFits (x : Ctx) (r : Range) (len : Nat) : Bool :=
  match r.spc with
  | .glob => decide (r.base + len ≤ 2 ^ 58)
  | .team => decide (r.base + len ≤ x.tm.tmemSize)
  | .obuf => true
/-- A copy is handed to the engine. -/
def copyRun (dst src : Range) (len bar : Nat) (x : Ctx) : Res :=
  if len % 16 != 0 || 2 ^ 24 < len || !rangeAlign dst || !rangeAlign src || bar % 16 != 0 then resFault x .memAlign
  else if !rangeFits x dst len || !rangeFits x src len || x.tm.tmemSize < bar + 16 then resFault x .memXlate
  else
    let s := x.s.flushTeam x.cur.team x.cur.grp
    match s.team? x.cur.team with
    | none => { s }
    | some tm =>
      if !(tm.bar bar).valid then resFault x .channel
      else
        let tm := tm.nameBar bar
        let s := s.setTeam x.cur.team tm
        if len = 0 then { s }
        else
          let local? := dst.spc != .glob && src.spc != .glob
          let far := s.namesRemote tm dst len || s.namesRemote tm src len
          let s := if far then s.countCopy tm else s
          { s := x.fly s { x.mkOp .none false local? none x.marks (.copy dst src len bar [] [] []) with flag := none, ver := s.copyVer tm far } }
def srcG (x : Ctx) (a : Src) : Range := { spc := .glob, base := x.rdU 2 .zx a }
def srcT (x : Ctx) (a : Src) : Range := { spc := .team, base := x.rdU 1 .zx a }
/-- CPY_G2T (R250). -/
def execCpyG2t (c : Ctl) (a b e : Src) (bar : BitVec 18) (s : State) : Host.Outcome State Fault Refusal :=
  issue (.cpyG2t c a b e bar) s fun x => copyRun (srcT x a) (srcG x b) (x.rdU 1 .zx e) bar.toNat x
/-- CPY_T2G (R250). -/
def execCpyT2g (c : Ctl) (a b e : Src) (bar : BitVec 18) (s : State) : Host.Outcome State Fault Refusal :=
  issue (.cpyT2g c a b e bar) s fun x => copyRun (srcG x a) (srcT x b) (x.rdU 1 .zx e) bar.toNat x
/-- CPY_G2G (R250). -/
def execCpyG2g (c : Ctl) (a b e : Src) (bar : BitVec 18) (s : State) : Host.Outcome State Fault Refusal :=
  issue (.cpyG2g c a b e bar) s fun x => copyRun (srcG x a) (srcG x b) (x.rdU 1 .zx e) bar.toNat x
/-- CPY_T2T (R250). -/
def execCpyT2t (c : Ctl) (a b e : Src) (bar : BitVec 18) (s : State) : Host.Outcome State Fault Refusal :=
  issue (.cpyT2t c a b e bar) s fun x => copyRun (srcT x a) (srcT x b) (x.rdU 1 .zx e) bar.toNat x

/-- A source byte of a copy: its value, and whether it is poisoned. -/
def State.copyByte (s : State) (x : Team) (src : Range) (spg : List Nat) (k : Nat) : Byte × Bool :=
  match src.spc with
  | .glob => let pa := pageByte src.base spg k; (s.byte pa, s.poisoned pa)
  | .team => (x.tmem.get (src.base + k), false)
  | .obuf => (x.obuf.get (src.base + k), false)
/-- A byte written as poisoned, or as 0 with a record where the table is full (R450). -/
def State.poisonByte (s : State) (x : Team) (o : Op) (pa va : Nat) : State :=
  (s.storeByte (engineAgent o.id) (storeStamp o.id) pa 0#8).poisonAt x o pa va
/-- Byte k of a copy is written to its destination; the answer is the position of a global store. -/
def State.putCopy (s : State) (x : Team) (o : Op) (dst : Range) (dpg : List Nat) (k : Nat) (v : Byte) (bad : Bool) : State :=
  match dst.spc with
  | .glob =>
    let pa := pageByte dst.base dpg k
    if bad then s.poisonByte x o pa (dst.base + k) else s.storeByte (engineAgent o.id) (storeStamp o.id) pa v
  | .team => s.updTeam o.team fun x => Team.settleBars { x with tmem := x.tmem.set (dst.base + k) (if bad then 0#8 else v) }
  | .obuf => s.updTeam o.team fun x => { x with obuf := x.obuf.set (dst.base + k) (if bad then 0#8 else v) }
/-- An engine counts n bytes into a barrier, with the global stores it counts (R225, R247). -/
def Team.countBytes (x : Team) (bar n : Nat) (view : SMap Nat) : Team :=
  let x := x.nameBar bar
  let b := x.bar bar
  { (x.setBar bar ({ b with bytes := signedN 32 (modN 32 (b.bytes - n)) }).settle) with
    barStores := if view.isEmpty then x.barStores else (bar, b.phase, view) :: x.barStores }

/-- ENGINE_BYTE_COUNT (R247, R251): the engine writes `n` bytes from offset `off`, each once, and counts them (DESIGN CHOICE, log 42). -/
def execEngineByteCount (id off n : Nat) (s : State) : Host.Outcome State Fault Refusal :=
  eventOf "ENGINE_BYTE_COUNT" do
    let o ← s.op? id
    let x ← s.team? o.team
    match o.kind with
    | .copy dst src len bar done dpg spg =>
      if !o.chk || n = 0 || len < off + n || (done.any fun d => decide (off < d.1 + d.2) && decide (d.1 < off + n)) then none
      else
        let ks := (List.range n).map (· + off)
        if src.spc = .glob && s.readWaits o (ks.map (pageByte src.base spg)) || dst.spc = .glob && s.chanHeld (ks.map (pageByte dst.base dpg)) then none
        let vs := ks.map fun k => (k, s.copyByte x src spg k)
        let s' := vs.foldl (fun s p => s.putCopy x o dst dpg p.1 p.2.1 p.2.2) s
        let s' := match vs.find? fun p => p.2.2 with
          | some p => s'.poisonRecord x o (src.base + p.1) o.lanes
          | none => s'
        let view := if dst.spc = .glob then ks.foldl (fun (m : SMap Nat) k => let pa := pageByte dst.base dpg k; m.set pa (s'.lastSeq pa)) [] else []
        let s' := s'.updTeam o.team fun x => x.countBytes bar n view
        let done := (off, n) :: done
        some (if (done.map (·.2)).sum = len then s'.endOp o else s'.setOp { o with kind := .copy dst src len bar done dpg spg })
    | _ => none

end Sys2Proof.Machine
end

