-- ==== Sys2Proof/Machine/Calls.lean ====
section
/-!
DEFINITION. Coprocessor calls, ordering tokens and cluster barriers (spec/12 R298-R322): handing records over, dispatch, memory as a unit
sees it, returns, replays of calls, the judgement of ordered records.
-/
namespace Sys2Proof.Machine

/-! ## Records (R300, R301) -/

/-- Bytes `off` to `off + n - 1` of a record, little-endian. -/
def recFld (rcd off n : Nat) : Nat := rcd / 2 ^ (8 * off) % 2 ^ (8 * n)
def hdrType (h : Nat) : Nat := h % 64
def hdrOrd (h : Nat) : Bool := h.testBit 6
def hdrSkip (h : Nat) : Bool := h.testBit 7
def hdrNoret (h : Nat) : Bool := h.testBit 8
def hdrRch (h : Nat) : Nat := h / 2 ^ 12 % 16
def hdrToken (h : Nat) : Nat := h / 2 ^ 16 % 65536
def hdrLanes (h : Nat) : Nat := h / 2 ^ 32 % 2 ^ 32

/-- The record checks of R304 that look at the header alone. -/
def hdrForm (h : Nat) : Bool :=
  decide (1 ≤ hdrType h) && decide (hdrType h ≤ 8) && h / 2 ^ 9 % 8 == 0 && hdrLanes h != 0
  && !(hdrOrd h && hdrType h != 3 && hdrType h != 4) && !(hdrSkip h && !hdrOrd h)
  && (hdrToken h == 0 || hdrOrd h) && (hdrRch h == 0 || !hdrNoret h)
/-- The checks of R304: the header, and the return channel it names (DEDUCED, log 33). -/
def Team.callHdrOk (x : Team) (h : Nat) : Bool :=
  hdrForm h && (hdrNoret h || ((x.chan (hdrRch h)).valid && decide (128 ≤ (x.chan (hdrRch h)).slot)))

def Call.fld (c : Call) (off n : Nat) : Nat := recFld c.rcd off n
def Call.hdr (c : Call) : Nat := c.fld 0 8
def Call.type (c : Call) : Nat := hdrType c.hdr
def Call.lanes (c : Call) : Mask := BitVec.ofNat 32 (hdrLanes c.hdr)
/-- The ordered prefix. -/
def recPrev (r : Nat) : Nat := recFld r 8 2
def recTile (r : Nat) : Nat := recFld r 10 2
def recStream (r : Nat) : Nat := recFld r 12 1 % 16
def recFirst (r : Nat) : Bool := (recFld r 12 1).testBit 4

/-! ## `ccall` (R304) -/

/-- Slot h of the n oldest reserved slots. -/
def Chan.reserved (c : Chan) (h : Nat) : Nat := (c.back c.nr + h) % c.count

/-- CCALL: with n = 0 nothing at all (DEDUCED, log 33); else the headers of the slots are checked, the `.clu` publication is made, and the slots pass to the router. -/
def execCcall (c : Ctl) (ch : Nat) (b : Src) (s : State) : Host.Outcome State Fault Refusal :=
  issue (.ccall c ch b) s fun x => if x.rdU 1 .zx b = 0 then { s := x.s } else withChan x ch fun x cn =>
    let n := x.rdU 1 .zx b
    if cn.nf != 0 || cn.nr < n then resFault x .channel
    else if !(List.range n).all fun h => x.tm.callHdrOk (x.tm.tread (cn.addr (cn.reserved h)) 8) then resFault x .callFault
    else
      let s := x.s.publish x.cur.team x.cur.grp .clu .plain
      let hs := (List.range n).map fun h => ({ ch, slot := cn.reserved h, grp := x.cur.grp, rc := x.cur.rc, stamp := x.cycleStamp } : Handed)
      { s := s.updTeam x.cur.team fun tm =>
          { (tm.setChan ch { cn with nr := cn.nr - n, nt := cn.nt + n }) with handed := tm.handed ++ hs } }

/-! ## Memory as a unit sees it (R307) -/

/-- The calling team as translation sees it. -/
def Call.space (c : Call) : Team := { slice := c.slice, asid := c.asid, die := c.die, priv := c.priv }
/-- No error: the answer of a remote page's owner is still out, and the call's work has to wait (R461). -/
def stillOut : XErr := { cls := .memXlate, stage := 7, level := 0 }
/-- A translated byte of a call; a remote one that its owner has refused is MEM_PERM (R461), a lost one poison (R463). -/
def State.cxlat (s : State) (c : Call) (need : BitVec 4) (va : Nat) : Except (Nat × XErr) Nat :=
  if 2 ^ 58 ≤ va then .error (va, { cls := .memXlate, stage := 1, level := 0 })
  else match s.teamXlat c.space need va with
    | .error e => .error (va, e)
    | .ok pa =>
      match s.ownerSays c.id (va / 2 ^ 14) va [pa] with
      | none => .error (va, stillOut)
      | some (.error e) => .error e
      | some (.ok _) => .ok pa
/-- `n` bytes at a virtual address: the first byte that cannot be read, or is poisoned (DEDUCED, log 22). -/
def State.cread (s : State) (c : Call) (va : Nat) : Nat → Except (Nat × XErr) Nat
  | 0 => .ok 0
  | n + 1 =>
    match s.cxlat c needR va with
    | .error e => .error e
    | .ok pa =>
      if s.poisoned pa then .error (va, { cls := .memPoison, stage := 0, level := 0 })
      else (s.cread c (va + 1) n).map fun v => (s.byte pa).toNat + 256 * v
/-- Every page of a range, checked. -/
def State.cpages (s : State) (c : Call) (need : BitVec 4) (base len : Nat) : Option (Nat × XErr) :=
  (List.range (pageCount base len)).findSome? fun n =>
    let va := if n = 0 then base else (base / 2 ^ 14 + n) * 2 ^ 14
    match s.cxlat c need va with
    | .error e => some e
    | .ok _ => none
/-- A store of the call, byte by byte. -/
def State.cwrite (s : State) (c : Call) (va v n : Nat) : State :=
  (leBytes v n).zipIdx.foldl (fun s p => match s.cxlat c needW (va + p.2) with
    | .ok pa => s.storeByte (engineAgent c.id) (storeStamp s.stamp) pa p.1
    | .error _ => s) s
/-- The same as one indivisible store (R350, R373). -/
def State.cwrite1 (s : State) (c : Call) (va v n : Nat) : State :=
  s.storeRun (engineAgent c.id) (storeStamp s.stamp) ((leBytes v n).zipIdx.filterMap fun p => match s.cxlat c needW (va + p.2) with
    | .ok pa => some (pa, p.1)
    | .error _ => none)
/-- Team memory of the calling team. -/
def State.ctread (s : State) (c : Call) (t n : Nat) : Nat := match s.team? c.team with | some x => x.tread t n | none => 0
def State.ctwrite (s : State) (c : Call) (t n v : Nat) : State := s.updTeam c.team fun x => (x.twrite t n v).settleBars
/-- A team range lies within TMEM, at an address of 18 bits (R325). -/
def State.ctRange (s : State) (c : Call) (t len : Nat) : Bool :=
  decide (t < 2 ^ 18) && match s.team? c.team with | some x => decide (t + len ≤ x.tmemSize) | none => false
/-- STATUS of an address that a unit could not read or write (R303). -/
def statusOf (e : XErr) : Nat := match e.cls with | .memXlate => 1 | .memPerm => 2 | _ => 3
/-- DEDUCED, log 33. -/
def statusClass (n : Nat) : Nat := match n with | 1 => 7 | 2 => 8 | 3 => 10 | _ => 0

/-! ## Publication and return (R302, R306, R307) -/

/-- The stores of an agent, each byte's latest. -/
def State.storesOf (s : State) (agent : Nat) : SMap Nat :=
  (s.co.filter fun e => e.agent == agent).foldl (fun m e => if m.get e.addr < e.seq then m.set e.addr e.seq else m) []
def Call.place (c : Call) : Place :=
  { slice := c.slice, die := c.die, cluster := c.clu / 12 * 13 + c.clu % 12, core := 15 }
/-- The unit publishes every store of the call at `.clu` (DEDUCED, log 13). -/
def State.cpublish (s : State) (c : Call) (tag : PubTag) : State :=
  { s with stamp := s.stamp + 1 }.publishAs c.place (engineAgent c.id) .clu tag (s.storesOf (engineAgent c.id))

/-- Slots of a return channel are committed in ring order, as far as their returns are written. -/
def State.commitReturns (s : State) (t ch : Nat) : Nat → State
  | 0 => s
  | n + 1 =>
    match s.team? t with
    | none => s
    | some x =>
      let cn := x.chan ch
      match x.returned.find? fun r => r.1 == ch && r.2.1 == cn.back cn.nr with
      | none => s
      | some r =>
        if cn.nr = 0 then s
        else
          let (cn', i) := cn.commit
          let c : Call := { id := r.2.2, team := t, grp := 0, rc := 0, slice := x.slice, die := x.die, clu := x.cluIx, asid := 0, priv := false,
                            image := 0, rcd := 0, ret := none, replay := none, mode := .plain }
          let s := s.cpublish c (.slot t ch i)
          State.commitReturns (s.updTeam t fun x =>
            { (x.setChan ch cn').committed ch i (s.pubs.length - 1) with returned := x.returned.filter fun p => p != r }) t ch n

/-- The return record (R302): `fields` holds bytes 24 to 63. -/
def Call.returnRec (c : Call) (replay : Bool) (status flanes faddr fields : Nat) : Nat :=
  let echo := decide (1 ≤ status) && decide (status ≤ 3)
  let h := c.hdr / 2 ^ 12 * 2 ^ 12 + c.hdr % 256 + (if replay then 2 ^ 9 else 0) + (if echo then 2 ^ 10 else 0)
  h + 2 ^ 64 * status + 2 ^ 96 * flanes + 2 ^ 128 * (faddr % 2 ^ 64) + 2 ^ 192 * (fields % 2 ^ 320)

/-- The fault record of a unit: KIND 2 (R300, R318, R418). -/
def State.unitRecord (s : State) (c : Call) (event status lanes addr : Nat) : State :=
  s.raise c.slice c.die
    { kind := 2, src := c.clu / 12 * 256 + c.clu % 12 * 16 + c.type, cls := statusClass status, addr, image := c.image,
      lanes := BitVec.ofNat 32 lanes, grp := c.grp, state := c.rc, event, detail := status }
def State.dropCall (s : State) (c : Call) : State := { s with calls := s.calls.filter fun k => k.id != c.id }
def State.setCall (s : State) (c : Call) : State := { s with calls := s.calls.map fun k => if k.id = c.id then c else k }
def State.call? (s : State) (id : Nat) : Option Call := s.calls.find? fun c => c.id == id

/-- Lanes that a return's fault names and that can park: in the mask, neither exited nor parked (R309). -/
def faultLanes (g : Group) (m : Mask) : List Nat :=
  (laneList m).filter fun l => (g.lane l).st != .exited && (let d := (g.getRec (g.lane l).rc).mode; d != .held && d != .handling)

/-- R309: what a return means for the lanes that receive it. -/
def State.returnFaults (s : State) (o : Op) (slot : Nat) : State :=
  match s.team? o.team, s.group? o.team o.grp with
  | some x, some g =>
    let status := x.tread (slot + 8) 2
    let fl := BitVec.ofNat 32 (x.tread (slot + 12) 4)
    let addr := x.tread (slot + 16) 8
    if status = 0 ∨ 3 < status then s
    else match faultLanes g (fl &&& o.lanes) with
      | [] => s.raise x.slice x.die
          { kind := 0, src := x.coreId, cls := statusClass status, addr, image := x.image, lanes := fl, grp := o.grp, state := o.rc0, event := 8,
            detail := status }
      | ls => s.addLate o.team o.grp (ls.map fun l =>
          { o.late g l (((o.items.find? fun it => it.lane == l).map (·.ret)).getD 0) (statusClass status) addr 0 0 0 with
            slot := some slot, noReplay := status == 3 })
  | _, _ => s

/-- A unit answers a call: the return record, with the echo for statuses 1 to 3, then the commit; in place for a replay (R310); a
fault record alone where there is no return slot (R300). -/
def State.unitReturn (s : State) (c : Call) (status flanes faddr fields : Nat) : State :=
  let s := s.dropCall c
  let echo := decide (1 ≤ status) && decide (status ≤ 3)
  let put := fun (s : State) (replay : Bool) (a : Nat) =>
    s.updTeam c.team fun x =>
      let x := x.twrite a 64 (c.returnRec replay status flanes faddr fields)
      (if echo then x.twrite (a + 64) 64 c.rcd else x).settleBars
  match c.replay, c.ret with
  | some (id, a), _ =>
    let s := (put s true a).cpublish c .plain
    match s.op? id with
    | none => s
    | some o =>
      let s := s.adoptAt o.team o.grp .clu [s.pubs.length - 1] 0
      (s.returnFaults o a).endOp o
  | none, some (ch, i, a) =>
    ((put s false a).updTeam c.team fun x => { x with returned := x.returned ++ [(ch, i, c.id)] }).commitReturns c.team ch 64
  | none, none => if status = 0 then s else s.unitRecord c 2 status (if echo then flanes else hdrLanes c.hdr) faddr
/-- A memory fault of the whole call: FLANES = LANES (R299). The call stands while an owner's answer is out. -/
def State.unitFault (s : State) (c : Call) (e : Nat × XErr) : State := if e.2 = stillOut then s else s.unitReturn c (statusOf e.2) (hdrLanes c.hdr) e.1 0
def State.unitErr (s : State) (c : Call) (status : Nat) : State := s.unitReturn c status 0 0 0

/-! ## Token streams (R313-R316, R319, R342) -/

/-- Keys: unit TYPE 3 or 4, cluster, slice, stream. -/
def streamKey (type clu slice st : Nat) : Nat := ((clu * 2 + (type - 3)) * 256 + slice) * 16 + st
def State.stream (s : State) (type clu slice st : Nat) : Stream := s.streams.get (streamKey type clu slice st)
def Call.key (c : Call) : Nat := streamKey c.type c.clu c.slice (recStream c.rcd)
def Call.stream (c : Call) (s : State) : Stream := s.streams.get c.key

/-- The ordered records of a slice in a unit's reorder buffer. -/
def State.buffered (s : State) (type clu slice : Nat) : Nat :=
  (s.calls.filter fun c => c.type == type && c.clu == clu && c.slice == slice && c.mode == .buffered).length
/-- Room within the slice's quota, and among the 1,024 entries of the unit (R298). -/
def State.bufferRoom (s : State) (type clu slice : Nat) : Bool :=
  decide (s.buffered type clu slice < (s.cluReg slice clu 0x202).toNat % 2 ^ 11)
  && decide ((s.calls.filter fun c => c.type == type && c.clu == clu && c.mode == .buffered).length < 1024)

/-- The judgements of R314. -/
inductive Judgement where | answer (status : Nat) | commit | buffer | hold
deriving DecidableEq, Repr

/-- FIRST with LAST none, or PREV = LAST. -/
def chainMeets (st : Stream) (r : Nat) : Bool :=
  let last := st.chain.get (recTile r)
  if recFirst r then last == 0 else last != 0 && last == recPrev r + 1
def judge (s : State) (type clu slice : Nat) (r : Nat) : Judgement :=
  let st := s.stream type clu slice (recStream r)
  let tok := hdrToken (recFld r 0 8)
  let last := st.chain.get (recTile r)
  let gap := (tok + 65536 - recPrev r) % 65536
  let delta := (tok + 65537 - last) % 65536
  let room : Judgement := if s.bufferRoom type clu slice then .buffer else .hold
  if !st.bound || st.tiles ≤ recTile r then .answer 4
  -- a record of the tile is committing; in a stalled stream it stands, and the records after it go on to the buffer (R318)
  else if (!st.stalled || chainMeets st r) && s.calls.any fun c => c.mode == .ready && c.type == type && c.clu == clu && c.slice == slice
      && recStream c.rcd == recStream r && recTile c.rcd == recTile r then .hold
  else if !recFirst r && (gap == 0 || decide (32768 ≤ gap)) then .answer 4
  else if chainMeets st r then (if st.stalled then room else .commit)
  else if last != 0 && (recFirst r || delta == 0 || decide (32768 ≤ delta)) then .answer 5
  else if last != 0 && decide (delta ≤ 1024) then room
  else .hold

/-- The slots that the router holds of a team, oldest first: each channel's head is its first. -/
def Team.heads (x : Team) : List Handed := (List.range 16).filterMap fun ch => x.handed.find? fun h => h.ch == ch
/-- DEDUCED, log 33. -/
def Team.handedRec (x : Team) (h : Handed) : Nat := x.tread ((x.chan h.ch).addr h.slot) 64

/-- A stream is drained on a cluster (R319). -/
def State.drained (s : State) (slice clu st : Nat) : Bool :=
  !(s.teams.any fun p => p.2.slice == slice && p.2.cluIx == clu && p.2.handed.any fun h =>
      let r := p.2.handedRec h
      hdrOrd r && recStream r == st)
  && !(s.calls.any fun c => c.slice == slice && c.clu == clu && hdrOrd c.hdr && recStream c.rcd == st)
  && !(s.stream 3 clu slice st).stalled && !(s.stream 4 clu slice st).stalled
def State.drainedAll (s : State) (slice clu m : Nat) : Bool := (List.range 16).all fun st => !m.testBit st || s.drained slice clu st

/-! ## Dispatch (R305, R306, R315) -/

/-- The unit that serves a record: types 1 and 2 share the binner-rasteriser; an encoder lane is a unit of its own (R298, R439). -/
def unitOf (type lane : Nat) : Nat := if type = 1 ∨ type = 2 then 1 else if type = 8 then 8 + lane % 4 else type
def recUnit (r : Nat) : Nat := unitOf (hdrType r) (recFld r 9 1)
/-- Whether a unit can take a record, and as what. -/
def accepts (s : State) (type clu slice r : Nat) : Option CallMode :=
  if hdrOrd r then
    match judge s type clu slice r with
    | .answer n => some (.err n)
    | .commit => some .ready
    | .buffer => some .buffered
    | .hold => none
  else if (s.calls.filter fun c => recUnit c.rcd == recUnit r && c.clu == clu && !hdrOrd c.hdr).length < (if type = 6 then 128 else 64) then some .plain
  else none

/-- A head can be dispatched: its header stands, its unit takes it, and a return slot is free. -/
def headReady (s : State) (x : Team) (h : Handed) : Option CallMode :=
  let r := x.handedRec h
  if !x.callHdrOk r || 48 ≤ x.cluIx then none
  else if !hdrNoret r && ((x.chan (hdrRch r)).free == 0 || !(x.reservers (hdrRch r)).isEmpty) then none
  else accepts s (hdrType r) x.cluIx x.slice r

def servedKey (clu unit : Nat) : Nat := 64 * clu + unit
/-- The rank of a head for its unit: slices in turn after the one served last, then the earliest `ccall`, the lower core, resident slot and channel. -/
def headRank (s : State) (x : Team) (h : Handed) : List Nat :=
  [(x.slice + 256 - s.served.get (servedKey x.cluIx (recUnit (x.handedRec h)))) % 256, h.stamp, x.coreId,
   match x.group? h.grp with | some g => g.slot | none => 0, h.ch]
/-- The unit's choice among dispatchable heads. -/
def isChosen (s : State) (x : Team) (h : Handed) : Bool :=
  s.teams.all fun p => p.2.cluIx != x.cluIx || p.2.heads.all fun k =>
    recUnit (p.2.handedRec k) != recUnit (x.handedRec h) || (headReady s p.2 k).isNone || !lexLt (headRank s p.2 k) (headRank s x h)

/-- The router frees a slot: `chfree`, without its fault (DEDUCED, log 27, DEDUCED, log 33). -/
def Team.routerFree (x : Team) (h : Handed) : Team :=
  let cn := x.chan h.ch
  { (x.setChan h.ch { cn with nt := cn.nt - 1 }) with handed := x.handed.filter fun k => k != h }

/-- ROUTER_DISPATCH (R305): the head of a team's call channel goes to its unit, with a return slot; a head that fails its checks is
freed and reported (DEDUCED, log 33). -/
def execRouterDispatch (t ch : Nat) (s : State) : Host.Outcome State Fault Refusal :=
  eventOf "ROUTER_DISPATCH" do
    let x ← s.team? t
    let h ← x.handed.find? fun h => h.ch == ch
    let r := x.handedRec h
    if !x.callHdrOk r then
      some ((s.setTeam t (x.routerFree h)).raise x.slice x.die
        { kind := 2, src := x.cluIx / 12 * 256 + x.cluIx % 12 * 16, cls := FClass.callFault.code, image := x.image, lanes := BitVec.ofNat 32 (hdrLanes r),
          grp := h.grp, state := h.rc, event := 7, detail := (x.chan h.ch).addr h.slot })
    else
      let mode ← headReady s x h
      if !isChosen s x h then none
      else
        let y := x.routerFree h
        let rch := hdrRch r
        let (y, ret) := if hdrNoret r then (y, none)
          else let (cn, i) := (y.chan rch).reserve; (y.setChan rch cn, some (rch, i, cn.addr i))
        let c : Call := { id := s.stamp, team := t, grp := h.grp, rc := h.rc, slice := x.slice, die := x.die, clu := x.cluIx, asid := x.asid, priv := x.priv,
                          image := x.image, rcd := r, ret, replay := none, mode }
        some { (s.setTeam t y) with calls := s.calls ++ [c], stamp := s.stamp + 1,
                                    served := s.served.set (servedKey x.cluIx (recUnit r)) (x.slice + 1) }

/-! ## Ordered commits (R314, R315, R318) -/

/-- A record may commit now. -/
def canCommit (s : State) (c : Call) : Bool :=
  let st := c.stream s
  match c.mode with
  | .ready => !st.stalled
  | .buffered => !st.stalled && chainMeets st c.rcd
  | _ => false
/-- LAST := t: in the unit's copy and in the chain-state area (R342); where the area's page no longer translates, in the copy alone (DESIGN CHOICE,
log 61). -/
def State.closeToken (s : State) (c : Call) : State :=
  let st := c.stream s
  let tok := hdrToken c.hdr
  let own : Call := { c with asid := st.asid, priv := st.priv }
  let s := s.cwrite own (st.state + 4 * recTile c.rcd) (2 ^ 31 + tok) 4
  let s := s.cpublish c .plain
  { s with streams := s.streams.set c.key { st with chain := st.chain.set (recTile c.rcd) (tok + 1), pubs := (s.pubs.length - 1) :: st.pubs } }
/-- A target fault (R318). -/
def State.targetFault (s : State) (c : Call) (e : Nat × XErr) : State :=
  if e.2 = stillOut then s else
  let s := s.setCall { c with mode := .stalled }
  let s := { s with streams := s.streams.set c.key { c.stream s with stalled := true } }
  s.unitRecord c 3 (statusOf e.2) (hdrLanes c.hdr) e.1

/-- The unit's work on a record: its target fault, or its writes with the status and the return's fields. -/
abbrev UnitWork := State → Call → Except (Nat × XErr) (State × Nat × Nat)
/-- One record commits: its work, or nothing for SKIP; its token closes; it is answered. -/
def State.commitOne (s : State) (c : Call) (work : UnitWork) : State :=
  if hdrSkip c.hdr then (s.closeToken c).unitErr c 0
  else match work s c with
    | .error e => s.targetFault c e
    | .ok (s, status, fields) => (s.closeToken c).unitReturn c status 0 0 fields
/-- Then every buffered record of the tile that the new LAST meets. -/
def State.commitChain (s : State) (work : UnitWork) : Call → Nat → State
  | _, 0 => s
  | c, n + 1 =>
    let s := s.commitOne c work
    match s.calls.find? fun k => k.key == c.key && k.type == c.type && recTile k.rcd == recTile c.rcd && canCommit s k with
    | some k => State.commitChain s work k n
    | none => s
/-- A unit of a slice holds while a channel of the slice retrains (R449) (DEDUCED, log 32). -/
def State.unitHeld (s : State) (c : Call) : Bool := (s.slices.get c.slice).chans.any fun ch => (s.chans.get ch).training
/-- A call's work took place, unless the call stands where it stood: an owner has still to answer for a page of it (R461). -/
def State.served? (s : State) (c : Call) : Option State := if s.call? c.id = some c then none else some s
/-- A row of an ordered unit: a record that is only answered, or one that commits. -/
def State.orderedRow (s : State) (type id : Nat) (work : UnitWork) : Option State := do
  let c ← s.call? id
  if c.type != type || !hdrOrd c.hdr || s.unitHeld c then none
  else match c.mode with
    | .err n => some (s.unitErr c n)
    | _ => if canCommit s c then (s.commitChain work c 1025).served? c else none
/-- A row of a unit that is not ordered: the call, if it is one of those types and not ordered. -/
def State.plainRow (s : State) (type id : Nat) (f : Call → State) : Option State := do
  let c ← s.call? id
  if c.type != type || hdrOrd c.hdr || c.mode != .plain || s.unitHeld c then none else (f c).served? c

/-! ## `crecv` (R308, R309) -/

/-- CRECV: the operation waits without holding the path. -/
def crecvRun (fl : Flg) (d : Dst) (ch : Nat) (x : Ctx) : Res :=
  withChan x ch fun x _ => { s := x.fly x.s { x.mkOp fl false false (dstRun d true 1) x.marks (.crecv ch) with uni := false } }
def execCrecv (c : Ctl) (fl : Flg) (d : Dst) (ch : Nat) (s : State) : Host.Outcome State Fault Refusal :=
  issue (.crecv c fl d ch) s (crecvRun fl d ch)
/-- CRECV_TAKE (R308, R309): the first taker of the channel takes the next return. -/
def execCrecvTake (id : Nat) (s : State) : Host.Outcome State Fault Refusal :=
  eventOf "CRECV_TAKE" do
    let o ← s.op? id
    let x ← s.team? o.team
    match o.kind with
    | .crecv ch =>
      if !(x.chan ch).valid || (x.chan ch).nf = 0 || !firstOf (s.takers o.team ch x) id || s.readsOut o.team o.grp then none
      else
        let (s, a) := s.chTake o.team o.grp ch .clu
        let s := s.writeDst o (lowestLane o.lanes) [a]
        some ((s.returnFaults o a).endOp o)
    | _ => none

/-! ## Replaying a call (R310) -/

/-- The call of a return slot is dispatched again for some lanes, as operation `o`; a broken echo parks them with CALL_FAULT. -/
def State.replayCall (s : State) (o : Op) (slot : Nat) : State :=
  match s.team? o.team, s.group? o.team o.grp with
  | some x, some g =>
    let r := x.tread (slot + 64) 64
    let up := fun (s : State) => ({ s with ops := s.ops ++ [o], stamp := s.stamp + 1 } : State).updGroup o.team o.grp fun g =>
      match o.flag with | some n => g.flagUp n | none => g
    if !x.callHdrOk r || x.tmemSize < slot + 128 then
      ((up s).addLate o.team o.grp ((laneList o.lanes).map fun l =>
        { o.late g l (g.lane l).ret FClass.callFault.code 0 0 0 0 with noReplay := true, skid := 0 })).endOp o
    else
      let h := r % 2 ^ 32 + 2 ^ 32 * (hdrLanes r &&& o.lanes.toNat)
      let r' := h + r / 2 ^ 64 * 2 ^ 64
      let mode : CallMode := if hdrOrd r then (match judge s (hdrType r) x.cluIx x.slice r with | .answer n => .err n | .commit => .ready | _ => .buffered) else .plain
      let c : Call := { id := o.id, team := o.team, grp := o.grp, rc := o.rc, slice := x.slice, die := x.die, clu := x.cluIx, asid := x.asid, priv := x.priv,
                        image := x.image, rcd := r', ret := none, replay := some (o.id, slot), mode }
      { up s with calls := s.calls ++ [c] }
  | _, _ => s

/-! ## Token instructions (R319, R320) -/

/-- Observing drained streams: an adopt at `.clu` joined to the commits of their records. -/
def State.tokAdopt (s : State) (t gi m : Nat) : State :=
  match s.team? t with
  | none => s
  | some x =>
    let ps := (List.range 16).flatMap fun st =>
      if m.testBit st then (s.stream 3 x.cluIx x.slice st).pubs ++ (s.stream 4 x.cluIx x.slice st).pubs else []
    (s.flushTeam t gi).adopt t gi .clu ps
/-- TOK_WAIT (R319). -/
def execTokWait (c : Ctl) (a : Src) (s : State) : Host.Outcome State Fault Refusal :=
  issue (.tokWait c a) s fun x =>
    let m := x.rdU 1 .zx a
    if 65536 ≤ m then resFault x .illegalOp
    else if x.s.drainedAll x.tm.slice x.tm.cluIx m then { s := x.s.tokAdopt x.cur.team x.cur.grp m }
    else resHold x x.s (.tokWait m)
/-- TOK_WAIT_DRAINED. -/
def execTokWaitDrained (t gi id : Nat) (s : State) : Host.Outcome State Fault Refusal :=
  eventOf "TOK_WAIT_DRAINED" do
    let x ← s.team? t
    let g ← x.group? gi
    let h ← g.hold? id
    match h.kind with
    | .tokWait m => if s.drainedAll x.slice x.cluIx m && !s.readsOut t gi then some ((s.tokAdopt t gi m).endHold t gi h) else none
    | _ => none
/-- TOK_READ (R319). -/
def execTokRead (c : Ctl) (d : Dst) (s : State) : Host.Outcome State Fault Refusal :=
  issue (.tokRead c d) s fun x =>
    let sl := x.tm.slice
    let cl := x.tm.cluIx
    let bits := fun (f : Nat → Bool) => ((List.range 16).filter f).foldl (fun v st => v + 2 ^ st) 0
    resU x 1 d (bits (fun st => x.s.drained sl cl st)
      + 65536 * bits fun st => (x.s.stream 3 cl sl st).stalled || (x.s.stream 4 cl sl st).stalled)
/-- TOK_RESUME (R320): the faulting records of the named streams are to be performed again. -/
def execTokResume (c : Ctl) (d : Dst) (a b : Src) (s : State) : Host.Outcome State Fault Refusal :=
  issue (.tokResume c d a b) s fun x =>
    let va := x.rdU 1 .zx a
    let vb := x.rdU 1 .zx b
    let sl := va / 65536 % 256
    let type := vb % 16
    let clu := vb / 16 % 16
    let die := vb / 256 % 4
    if va / 2 ^ 24 != 0 || 192 ≤ sl || 1024 ≤ vb || 12 ≤ clu || (type != 3 && type != 4) then resFault x .illegalOp
    else
      let cl := 12 * die + clu
      let ss := (List.range 16).filter fun st => va.testBit st && (x.s.stream type cl sl st).stalled
      let s := ss.foldl (fun (s : State) st =>
        let k := streamKey type cl sl st
        { s with streams := s.streams.set k { s.streams.get k with stalled := false },
                 calls := s.calls.map fun c => if c.key = k ∧ c.type = type ∧ hdrOrd c.hdr ∧ c.mode = .stalled then { c with mode := .ready } else c }) x.s
      let r := resU { x with s } 1 d (ss.foldl (fun v st => v + 2 ^ st) 0)
      r

/-! ## Cluster barriers (R321, R322) -/

/-- The object at a physical address. -/
def State.cbar (s : State) (pa : Nat) : Bar :=
  { phase := s.readLE pa 4, init := s.readLE (pa + 4) 2, left := s.readLE (pa + 6) 2, bytes := signedN 32 (s.readLE (pa + 8) 4), stat := s.readLE (pa + 12) 4 }
/-- An atomic update of it by an agent: PHASE, LEFT and BYTES. -/
def State.setCbar (s : State) (agent stamp pa : Nat) (b : Bar) : State :=
  (((leBytes (b.phase + 2 ^ 32 * b.init + 2 ^ 48 * b.left + 2 ^ 64 * modN 32 b.bytes) 12).zipIdx).foldl
    (fun s p => s.putByte agent stamp (pa + p.2) p.1) s).nextPos
/-- The address faults of R322, then the translated object. -/
def withCbar (x : Ctx) (a : Src) (f : Nat → Nat → Bool → Bar → Res) : Res :=
  let v := x.rdU 2 .zx a
  let va := v % 2 ^ 63
  if va % 16 != 0 then resFault x .memAlign
  else if 2 ^ 58 ≤ va then resFaultAt x .memXlate va 32
  else match x.s.teamXlat x.tm needRW va with
    | .error e => resFaultAt x e.cls va e.detail
    | .ok pa => match x.s.wordSays x.cur.team x.cur.grp va pa with
      | some (.error e) => resFaultAt x e.2.cls va e.2.detail
      | _ => f va pa (decide (2 ^ 63 ≤ v)) (x.s.cbar pa)
/-- CBAR_ARRIVE (R321, R322): a publication, then one arrival, an atomic of the group that reads the object and stores to it (R220, R223). -/
def execCbarArrive (c : Ctl) (sc : Scope) (a : Src) (s : State) : Host.Outcome State Fault Refusal :=
  issue (.cbarArrive c sc a) s fun x => withCbar x a fun _ pa _ b =>
    let s := (x.s.flushTeam x.cur.team x.cur.grp).publish x.cur.team x.cur.grp sc (.atomicAt pa)
    if !b.valid || b.left = 0 then resFault x .channel
    else
      let t := x.cur.team
      let g := x.cur.grp
      let s := ({ s with cbarPubs := (pa, b.phase, s.pubs.length - 1) :: s.cbarPubs } : State).seeBytes t g x.s.stamp pa 16
      { s := (s.setCbar (agentOf t g) (storeStamp x.s.stamp) pa ({ b with left := b.left - 1 }).settle).seeBytes t g x.s.stamp pa 16 }
/-- Observing the phase before the current one: the group has read PHASE. -/
def State.cobserve (s : State) (t gi : Nat) (sc : Scope) (pa : Nat) : State :=
  let ph := ((s.cbar pa).phase + 2 ^ 32 - 1) % 2 ^ 32
  let s' := ((s.flushTeam t gi).seeBytes t gi s.stamp pa 4).adopt t gi sc ((s.cbarPubs.filter fun p => p.1 == pa && p.2.1 == ph).map (·.2.2))
  let view := (s.cbarStores.filter fun p => p.1 == pa && p.2.1 == ph).foldl (fun m p => joinView m p.2.2) []
  s'.updGroup t gi fun g => { g with lb := joinView g.lb view }
/-- CBAR_WAIT (R322). -/
def execCbarWait (c : Ctl) (sc : Scope) (a : Src) (s : State) : Host.Outcome State Fault Refusal :=
  issue (.cbarWait c sc a) s fun x => withCbar x a fun va pa par b =>
    if b.passed par then { s := x.s.cobserve x.cur.team x.cur.grp sc pa } else resHold x x.s (.cbarWait sc va par)
/-- CBAR_WAIT_COMPLETE (R322); a wait whose object's page no longer translates holds on (DESIGN CHOICE, log 59). -/
def execCbarWaitComplete (t gi id : Nat) (s : State) : Host.Outcome State Fault Refusal :=
  eventOf "CBAR_WAIT_COMPLETE" do
    let x ← s.team? t
    let g ← x.group? gi
    let h ← g.hold? id
    match h.kind with
    | .cbarWait sc va par =>
      match s.teamXlat x needRW va with
      | .ok pa => if (s.cbar pa).passed par && !s.readsOut t gi then some ((s.cobserve t gi sc pa).endHold t gi h) else none
      | .error _ => none
    | _ => none
/-- An engine or unit counts bytes into a cluster barrier (R247, R321). -/
def State.ccount (s : State) (agent pa n : Nat) (view : SMap Nat) : State :=
  let b := s.cbar pa
  let s := { s with cbarStores := if view.isEmpty then s.cbarStores else (pa, b.phase, view) :: s.cbarStores }
  s.setCbar agent (storeStamp s.stamp) pa ({ b with bytes := signedN 32 (modN 32 (b.bytes - n)) }).settle

end Sys2Proof.Machine
end

