-- ==== Sys2Proof/Machine/Int.lean ====
section
/-!
DEFINITION. The integer, logical, compare, affine and promotion instructions (spec/05 R118-R141).
-/
namespace Sys2Proof.Machine

/-! ## Shapes: varying and uniform results of one, two and three operands of `k` registers -/

def v1 (x : Ctx) (kd ka : Nat) (ik : ImmKind) (d : Dst) (a : Src) (f : Nat → Nat) : Res := resV x kd d fun l => f (x.rdV ka ik a l)
def u1 (x : Ctx) (kd ka : Nat) (ik : ImmKind) (d : Dst) (a : Src) (f : Nat → Nat) : Res := resU x kd d (f (x.rdU ka ik a))
def v2 (x : Ctx) (k kb : Nat) (ik : ImmKind) (d : Dst) (a b : Src) (f : Nat → Nat → Nat) : Res :=
  resV x k d fun l => f (x.rdV k ik a l) (x.rdV kb ik b l)
def u2 (x : Ctx) (k kb : Nat) (ik : ImmKind) (d : Dst) (a b : Src) (f : Nat → Nat → Nat) : Res :=
  resU x k d (f (x.rdU k ik a) (x.rdU kb ik b))
def v3 (x : Ctx) (k : Nat) (ik : ImmKind) (d : Dst) (a b e : Src) (f : Nat → Nat → Nat → Nat) : Res :=
  resV x k d fun l => f (x.rdV k ik a l) (x.rdV k ik b l) (x.rdV k ik e l)
def u3 (x : Ctx) (k : Nat) (ik : ImmKind) (d : Dst) (a b e : Src) (f : Nat → Nat → Nat → Nat) : Res :=
  resU x k d (f (x.rdU k ik a) (x.rdU k ik b) (x.rdU k ik e))
/-- Operand width of a 64-bit bit. -/
def wOf (w64 : Bool) : Nat := if w64 then 64 else 32

/-! ## Add, subtract, multiply, divide (R122-R127) -/

/-- ADD_V (R122). -/
def execAddV (c : Ctl) (t : IT) (sat : Bool) (d : Dst) (a b : Src) (s : State) : Host.Outcome State Fault Refusal :=
  issue (.addV c t sat d a b) s fun x => v2 x t.k t.k (ITimm t) d a b (iAdd t sat)
/-- ADD_S (R122). -/
def execAddS (c : Ctl) (t : IT) (sat : Bool) (d : Dst) (a b : Src) (s : State) : Host.Outcome State Fault Refusal :=
  issue (.addS c t sat d a b) s fun x => u2 x t.k t.k (ITimm t) d a b (iAdd t sat)
/-- SUB_V (R122). -/
def execSubV (c : Ctl) (t : IT) (sat : Bool) (d : Dst) (a b : Src) (s : State) : Host.Outcome State Fault Refusal :=
  issue (.subV c t sat d a b) s fun x => v2 x t.k t.k (ITimm t) d a b (iSub t sat)
/-- SUB_S (R122). -/
def execSubS (c : Ctl) (t : IT) (sat : Bool) (d : Dst) (a b : Src) (s : State) : Host.Outcome State Fault Refusal :=
  issue (.subS c t sat d a b) s fun x => u2 x t.k t.k (ITimm t) d a b (iSub t sat)
/-- MUL_V (R123). -/
def execMulV (c : Ctl) (t : IT) (hi : Bool) (d : Dst) (a b : Src) (s : State) : Host.Outcome State Fault Refusal :=
  issue (.mulV c t hi d a b) s fun x => v2 x t.k t.k (ITimm t) d a b (iMul t hi)
/-- MUL_S (R123). -/
def execMulS (c : Ctl) (t : IT) (hi : Bool) (d : Dst) (a b : Src) (s : State) : Host.Outcome State Fault Refusal :=
  issue (.mulS c t hi d a b) s fun x => u2 x t.k t.k (ITimm t) d a b (iMul t hi)
/-- MAD_V (R124). -/
def execMadV (c : Ctl) (t : IT) (d : Dst) (a b e : Src) (s : State) : Host.Outcome State Fault Refusal :=
  issue (.madV c t d a b e) s fun x => v3 x t.k (ITimm t) d a b e (iMad t)
/-- MAD_S (R124). -/
def execMadS (c : Ctl) (t : IT) (d : Dst) (a b e : Src) (s : State) : Host.Outcome State Fault Refusal :=
  issue (.madS c t d a b e) s fun x => u3 x t.k (ITimm t) d a b e (iMad t)

/-- A carry operation: the sum in D, the carry-out in the predicate (R125). -/
def resCarry (x : Ctx) (t : IT) (d : Dst) (a b : Src) (p : Nat) (f : Nat → Nat → Bool → Nat × Bool) : Res :=
  let r := fun l => f (x.rdV t.k (ITimm t) a l) (x.rdV t.k (ITimm t) b l) (x.g.getP p l)
  { s := x.withGroup ((putLanes x.g x.e t.k d fun l => (r l).1).setP p x.e fun l => (r l).2) }
/-- ADDC_V (R125). -/
def execAddcV (c : Ctl) (t : IT) (d : Dst) (a b : Src) (p : Nat) (s : State) : Host.Outcome State Fault Refusal :=
  issue (.addcV c t d a b p) s fun x => resCarry x t d a b p (iAddc t)
/-- SUBC_V (R125). -/
def execSubcV (c : Ctl) (t : IT) (d : Dst) (a b : Src) (p : Nat) (s : State) : Host.Outcome State Fault Refusal :=
  issue (.subcV c t d a b p) s fun x => resCarry x t d a b p (iSubc t)
/-- MIN_V (R127). -/
def execMinV (c : Ctl) (t : IT) (d : Dst) (a b : Src) (s : State) : Host.Outcome State Fault Refusal :=
  issue (.minV c t d a b) s fun x => v2 x t.k t.k (ITimm t) d a b (iMin t)
/-- MIN_S (R127). -/
def execMinS (c : Ctl) (t : IT) (d : Dst) (a b : Src) (s : State) : Host.Outcome State Fault Refusal :=
  issue (.minS c t d a b) s fun x => u2 x t.k t.k (ITimm t) d a b (iMin t)
/-- MAX_V (R127). -/
def execMaxV (c : Ctl) (t : IT) (d : Dst) (a b : Src) (s : State) : Host.Outcome State Fault Refusal :=
  issue (.maxV c t d a b) s fun x => v2 x t.k t.k (ITimm t) d a b (iMax t)
/-- MAX_S (R127). -/
def execMaxS (c : Ctl) (t : IT) (d : Dst) (a b : Src) (s : State) : Host.Outcome State Fault Refusal :=
  issue (.maxS c t d a b) s fun x => u2 x t.k t.k (ITimm t) d a b (iMax t)
/-- DIV_V (R126). -/
def execDivV (c : Ctl) (t : IT) (d : Dst) (a b : Src) (s : State) : Host.Outcome State Fault Refusal :=
  issue (.divV c t d a b) s fun x => v2 x t.k t.k (ITimm t) d a b (iDiv t)
/-- DIV_S (R126). -/
def execDivS (c : Ctl) (t : IT) (d : Dst) (a b : Src) (s : State) : Host.Outcome State Fault Refusal :=
  issue (.divS c t d a b) s fun x => u2 x t.k t.k (ITimm t) d a b (iDiv t)
/-- REM_V (R126). -/
def execRemV (c : Ctl) (t : IT) (d : Dst) (a b : Src) (s : State) : Host.Outcome State Fault Refusal :=
  issue (.remV c t d a b) s fun x => v2 x t.k t.k (ITimm t) d a b (iRem t)
/-- REM_S (R126). -/
def execRemS (c : Ctl) (t : IT) (d : Dst) (a b : Src) (s : State) : Host.Outcome State Fault Refusal :=
  issue (.remS c t d a b) s fun x => u2 x t.k t.k (ITimm t) d a b (iRem t)
/-- ABS_V (R127). -/
def execAbsV (c : Ctl) (w64 : Bool) (d : Dst) (a : Src) (s : State) : Host.Outcome State Fault Refusal :=
  issue (.absV c w64 d a) s fun x => v1 x (kOf w64) (kOf w64) .sx d a (iAbs (wOf w64))
/-- ABS_S (R127). -/
def execAbsS (c : Ctl) (w64 : Bool) (d : Dst) (a : Src) (s : State) : Host.Outcome State Fault Refusal :=
  issue (.absS c w64 d a) s fun x => u1 x (kOf w64) (kOf w64) .sx d a (iAbs (wOf w64))
/-- NEG_V (R127). -/
def execNegV (c : Ctl) (w64 : Bool) (d : Dst) (a : Src) (s : State) : Host.Outcome State Fault Refusal :=
  issue (.negV c w64 d a) s fun x => v1 x (kOf w64) (kOf w64) .sx d a (iNeg (wOf w64))
/-- NEG_S (R127). -/
def execNegS (c : Ctl) (w64 : Bool) (d : Dst) (a : Src) (s : State) : Host.Outcome State Fault Refusal :=
  issue (.negS c w64 d a) s fun x => u1 x (kOf w64) (kOf w64) .sx d a (iNeg (wOf w64))

/-! ## Bits and bytes (R128-R133) -/

/-- AND_V (R128). -/
def execAndV (c : Ctl) (w64 : Bool) (d : Dst) (a b : Src) (s : State) : Host.Outcome State Fault Refusal :=
  issue (.andV c w64 d a b) s fun x => v2 x (kOf w64) (kOf w64) .zx d a b (bAnd (wOf w64))
/-- AND_S (R128). -/
def execAndS (c : Ctl) (w64 : Bool) (d : Dst) (a b : Src) (s : State) : Host.Outcome State Fault Refusal :=
  issue (.andS c w64 d a b) s fun x => u2 x (kOf w64) (kOf w64) .zx d a b (bAnd (wOf w64))
/-- OR_V (R128). -/
def execOrV (c : Ctl) (w64 : Bool) (d : Dst) (a b : Src) (s : State) : Host.Outcome State Fault Refusal :=
  issue (.orV c w64 d a b) s fun x => v2 x (kOf w64) (kOf w64) .zx d a b (bOr (wOf w64))
/-- OR_S (R128). -/
def execOrS (c : Ctl) (w64 : Bool) (d : Dst) (a b : Src) (s : State) : Host.Outcome State Fault Refusal :=
  issue (.orS c w64 d a b) s fun x => u2 x (kOf w64) (kOf w64) .zx d a b (bOr (wOf w64))
/-- XOR_V (R128). -/
def execXorV (c : Ctl) (w64 : Bool) (d : Dst) (a b : Src) (s : State) : Host.Outcome State Fault Refusal :=
  issue (.xorV c w64 d a b) s fun x => v2 x (kOf w64) (kOf w64) .zx d a b (bXor (wOf w64))
/-- XOR_S (R128). -/
def execXorS (c : Ctl) (w64 : Bool) (d : Dst) (a b : Src) (s : State) : Host.Outcome State Fault Refusal :=
  issue (.xorS c w64 d a b) s fun x => u2 x (kOf w64) (kOf w64) .zx d a b (bXor (wOf w64))
/-- ANDN_V (R128). -/
def execAndnV (c : Ctl) (w64 : Bool) (d : Dst) (a b : Src) (s : State) : Host.Outcome State Fault Refusal :=
  issue (.andnV c w64 d a b) s fun x => v2 x (kOf w64) (kOf w64) .zx d a b (bAndn (wOf w64))
/-- ANDN_S (R128). -/
def execAndnS (c : Ctl) (w64 : Bool) (d : Dst) (a b : Src) (s : State) : Host.Outcome State Fault Refusal :=
  issue (.andnS c w64 d a b) s fun x => u2 x (kOf w64) (kOf w64) .zx d a b (bAndn (wOf w64))
/-- ORN_V (R128). -/
def execOrnV (c : Ctl) (w64 : Bool) (d : Dst) (a b : Src) (s : State) : Host.Outcome State Fault Refusal :=
  issue (.ornV c w64 d a b) s fun x => v2 x (kOf w64) (kOf w64) .zx d a b (bOrn (wOf w64))
/-- ORN_S (R128). -/
def execOrnS (c : Ctl) (w64 : Bool) (d : Dst) (a b : Src) (s : State) : Host.Outcome State Fault Refusal :=
  issue (.ornS c w64 d a b) s fun x => u2 x (kOf w64) (kOf w64) .zx d a b (bOrn (wOf w64))
/-- XNOR_V (R128). -/
def execXnorV (c : Ctl) (w64 : Bool) (d : Dst) (a b : Src) (s : State) : Host.Outcome State Fault Refusal :=
  issue (.xnorV c w64 d a b) s fun x => v2 x (kOf w64) (kOf w64) .zx d a b (bXnor (wOf w64))
/-- XNOR_S (R128). -/
def execXnorS (c : Ctl) (w64 : Bool) (d : Dst) (a b : Src) (s : State) : Host.Outcome State Fault Refusal :=
  issue (.xnorS c w64 d a b) s fun x => u2 x (kOf w64) (kOf w64) .zx d a b (bXnor (wOf w64))
/-- NOT_V (R128). -/
def execNotV (c : Ctl) (w64 : Bool) (d : Dst) (a : Src) (s : State) : Host.Outcome State Fault Refusal :=
  issue (.notV c w64 d a) s fun x => v1 x (kOf w64) (kOf w64) .zx d a (bNot (wOf w64))
/-- NOT_S (R128). -/
def execNotS (c : Ctl) (w64 : Bool) (d : Dst) (a : Src) (s : State) : Host.Outcome State Fault Refusal :=
  issue (.notS c w64 d a) s fun x => u1 x (kOf w64) (kOf w64) .zx d a (bNot (wOf w64))
/-- SHL_V (R129). -/
def execShlV (c : Ctl) (w64 : Bool) (d : Dst) (a b : Src) (s : State) : Host.Outcome State Fault Refusal :=
  issue (.shlV c w64 d a b) s fun x => v2 x (kOf w64) 1 .zx d a b (shlN (wOf w64))
/-- SHL_S (R129). -/
def execShlS (c : Ctl) (w64 : Bool) (d : Dst) (a b : Src) (s : State) : Host.Outcome State Fault Refusal :=
  issue (.shlS c w64 d a b) s fun x => u2 x (kOf w64) 1 .zx d a b (shlN (wOf w64))
/-- SHR_V (R129). -/
def execShrV (c : Ctl) (w64 : Bool) (d : Dst) (a b : Src) (s : State) : Host.Outcome State Fault Refusal :=
  issue (.shrV c w64 d a b) s fun x => v2 x (kOf w64) 1 .zx d a b (shrN (wOf w64))
/-- SHR_S (R129). -/
def execShrS (c : Ctl) (w64 : Bool) (d : Dst) (a b : Src) (s : State) : Host.Outcome State Fault Refusal :=
  issue (.shrS c w64 d a b) s fun x => u2 x (kOf w64) 1 .zx d a b (shrN (wOf w64))
/-- SAR_V (R129). -/
def execSarV (c : Ctl) (w64 : Bool) (d : Dst) (a b : Src) (s : State) : Host.Outcome State Fault Refusal :=
  issue (.sarV c w64 d a b) s fun x => v2 x (kOf w64) 1 .zx d a b (sarN (wOf w64))
/-- SAR_S (R129). -/
def execSarS (c : Ctl) (w64 : Bool) (d : Dst) (a b : Src) (s : State) : Host.Outcome State Fault Refusal :=
  issue (.sarS c w64 d a b) s fun x => u2 x (kOf w64) 1 .zx d a b (sarN (wOf w64))
/-- SHF_V (R130). -/
def execShfV (c : Ctl) (right clamp : Bool) (d : Dst) (a b e : Src) (s : State) : Host.Outcome State Fault Refusal :=
  issue (.shfV c right clamp d a b e) s fun x => v3 x 1 .zx d a b e (shfN right clamp)
/-- BFE_V (R131). -/
def execBfeV (c : Ctl) (sg : Bool) (d : Dst) (a b e : Src) (s : State) : Host.Outcome State Fault Refusal :=
  issue (.bfeV c sg d a b e) s fun x => v3 x 1 .zx d a b e (bfeN sg)
/-- BFI_V (R131). -/
def execBfiV (c : Ctl) (d : Dst) (a b e : Src) (s : State) : Host.Outcome State Fault Refusal :=
  issue (.bfiV c d a b e) s fun x => v3 x 1 .zx d a b e bfiN
/-- BREV_V (R131). -/
def execBrevV (c : Ctl) (d : Dst) (a : Src) (s : State) : Host.Outcome State Fault Refusal :=
  issue (.brevV c d a) s fun x => v1 x 1 1 .zx d a (revBits 32)
/-- BGAT_V (R133). -/
def execBgatV (c : Ctl) (d : Dst) (a b e : Src) (s : State) : Host.Outcome State Fault Refusal :=
  issue (.bgatV c d a b e) s fun x => v3 x 1 .zx d a b e bgatN
/-- POPC_V (R132). -/
def execPopcV (c : Ctl) (w64 : Bool) (d : Dst) (a : Src) (s : State) : Host.Outcome State Fault Refusal :=
  issue (.popcV c w64 d a) s fun x => v1 x 1 (kOf w64) .zx d a (popcN (wOf w64))
/-- CLZ_V (R132). -/
def execClzV (c : Ctl) (w64 : Bool) (d : Dst) (a : Src) (s : State) : Host.Outcome State Fault Refusal :=
  issue (.clzV c w64 d a) s fun x => v1 x 1 (kOf w64) .zx d a (clzN (wOf w64))
/-- CTZ_V (R132). -/
def execCtzV (c : Ctl) (w64 : Bool) (d : Dst) (a : Src) (s : State) : Host.Outcome State Fault Refusal :=
  issue (.ctzV c w64 d a) s fun x => v1 x 1 (kOf w64) .zx d a (ctzN (wOf w64))
/-- SHF_S (R130). -/
def execShfS (c : Ctl) (right clamp : Bool) (d : Dst) (a b e : Src) (s : State) : Host.Outcome State Fault Refusal :=
  issue (.shfS c right clamp d a b e) s fun x => u3 x 1 .zx d a b e (shfN right clamp)
/-- BFE_S (R131). -/
def execBfeS (c : Ctl) (sg : Bool) (d : Dst) (a b e : Src) (s : State) : Host.Outcome State Fault Refusal :=
  issue (.bfeS c sg d a b e) s fun x => u3 x 1 .zx d a b e (bfeN sg)
/-- BFI_S (R131). -/
def execBfiS (c : Ctl) (d : Dst) (a b e : Src) (s : State) : Host.Outcome State Fault Refusal :=
  issue (.bfiS c d a b e) s fun x => u3 x 1 .zx d a b e bfiN
/-- BREV_S (R131). -/
def execBrevS (c : Ctl) (d : Dst) (a : Src) (s : State) : Host.Outcome State Fault Refusal :=
  issue (.brevS c d a) s fun x => u1 x 1 1 .zx d a (revBits 32)
/-- BGAT_S (R133). -/
def execBgatS (c : Ctl) (d : Dst) (a b e : Src) (s : State) : Host.Outcome State Fault Refusal :=
  issue (.bgatS c d a b e) s fun x => u3 x 1 .zx d a b e bgatN
/-- POPC_S (R132). -/
def execPopcS (c : Ctl) (w64 : Bool) (d : Dst) (a : Src) (s : State) : Host.Outcome State Fault Refusal :=
  issue (.popcS c w64 d a) s fun x => u1 x 1 (kOf w64) .zx d a (popcN (wOf w64))
/-- CLZ_S (R132). -/
def execClzS (c : Ctl) (w64 : Bool) (d : Dst) (a : Src) (s : State) : Host.Outcome State Fault Refusal :=
  issue (.clzS c w64 d a) s fun x => u1 x 1 (kOf w64) .zx d a (clzN (wOf w64))
/-- CTZ_S (R132). -/
def execCtzS (c : Ctl) (w64 : Bool) (d : Dst) (a : Src) (s : State) : Host.Outcome State Fault Refusal :=
  issue (.ctzS c w64 d a) s fun x => u1 x 1 (kOf w64) .zx d a (ctzN (wOf w64))

/-! ## Compare, select, move (R134-R136) -/

/-- A 64-bit immediate of a compare: signed conditions take an i type, unsigned ones n (R53, R134); `.eq` and `.ne`, whose word does not keep the
suffix, take it as b (DEDUCED, log 55). -/
def condImm : ICond → ImmKind
  | .ilt | .ile | .igt | .ige => .sx
  | _ => .zx
/-- CMP_V (R134). -/
def execCmpV (c : Ctl) (w64 : Bool) (cond : ICond) (cmb : Cmb) (pd pc : Nat) (a b : Src) (s : State) : Host.Outcome State Fault Refusal :=
  issue (.cmpV c w64 cond cmb pd pc a b) s fun x =>
    resCmp x cmb pd pc fun l => icond (wOf w64) cond (x.rdV (kOf w64) (condImm cond) a l) (x.rdV (kOf w64) (condImm cond) b l)
/-- CMP_S (R134): one result, combined in each lane. -/
def execCmpS (c : Ctl) (w64 : Bool) (cond : ICond) (cmb : Cmb) (pd pc : Nat) (a b : Src) (s : State) : Host.Outcome State Fault Refusal :=
  issue (.cmpS c w64 cond cmb pd pc a b) s fun x =>
    resCmp x cmb pd pc fun _ => icond (wOf w64) cond (x.rdU (kOf w64) (condImm cond) a) (x.rdU (kOf w64) (condImm cond) b)
/-- MOV_V (R136). -/
def execMovV (c : Ctl) (w64 : Bool) (d : Dst) (a : Src) (s : State) : Host.Outcome State Fault Refusal :=
  issue (.movV c w64 d a) s fun x => v1 x (kOf w64) (kOf w64) .zx d a id
/-- MOV_S (R136). -/
def execMovS (c : Ctl) (w64 : Bool) (d : Dst) (a : Src) (s : State) : Host.Outcome State Fault Refusal :=
  issue (.movS c w64 d a) s fun x => u1 x (kOf w64) (kOf w64) .zx d a id
/-- SEL_V (R136). -/
def execSelV (c : Ctl) (w64 : Bool) (d : Dst) (a b : Src) (p : Nat) (s : State) : Host.Outcome State Fault Refusal :=
  issue (.selV c w64 d a b p) s fun x =>
    resV x (kOf w64) d fun l => x.rdV (kOf w64) .zx (if x.g.getP p l then a else b) l

/-! ## Affine (R74, R137, R138) -/

/-- R74: the base wraps; a stride outside 32 bits raises AFF_OVF and nothing is written. -/
def resA (x : Ctx) (d : Dst) (base stride : Int) : Res :=
  if stride < -2 ^ 31 ∨ 2 ^ 31 - 1 < stride then resFault x .affOvf
  else { s := x.withRec (putA x.st d { base := BitVec.ofInt 64 base, stride := BitVec.ofInt 32 stride }) }
/-- i64 or n64 immediates and uniform operands (R54, R137). -/
def affImm (sg : Bool) : ImmKind := if sg then .sx else .zx
/-- ext(s) of R137. -/
def Ctx.ext (x : Ctx) (sg : Bool) (b : Src) : Int := let v := x.rdUx (affImm sg) b; if sg then signedN 64 v else (v : Int)
def Aff.b (v : Aff) : Int := v.base.toNat
def Aff.st (v : Aff) : Int := v.stride.toInt
/-- A B operand as base and stride: affine, or uniform with stride 0 (R137). -/
def Ctx.rdB (x : Ctx) (sg bu : Bool) (b : Src) : Int × Int :=
  if bu then (x.ext sg b, 0) else ((x.rdA (affImm sg) b).b, (x.rdA (affImm sg) b).st)

/-- ADD_A (R137). -/
def execAddA (c : Ctl) (sg bu : Bool) (d : Dst) (a b : Src) (s : State) : Host.Outcome State Fault Refusal :=
  issue (.addA c sg bu d a b) s fun x =>
    resA x d ((x.rdA (affImm sg) a).b + (x.rdB sg bu b).1) ((x.rdA (affImm sg) a).st + (x.rdB sg bu b).2)
/-- SUB_A (R137). -/
def execSubA (c : Ctl) (sg bu : Bool) (d : Dst) (a b : Src) (s : State) : Host.Outcome State Fault Refusal :=
  issue (.subA c sg bu d a b) s fun x =>
    resA x d ((x.rdA (affImm sg) a).b - (x.rdB sg bu b).1) ((x.rdA (affImm sg) a).st - (x.rdB sg bu b).2)
/-- MUL_A (R137). -/
def execMulA (c : Ctl) (sg : Bool) (d : Dst) (a b : Src) (s : State) : Host.Outcome State Fault Refusal :=
  issue (.mulA c sg d a b) s fun x => resA x d ((x.rdA (affImm sg) a).b * x.ext sg b) ((x.rdA (affImm sg) a).st * x.ext sg b)
/-- MAD_A (R137). -/
def execMadA (c : Ctl) (sg : Bool) (d : Dst) (a b e : Src) (s : State) : Host.Outcome State Fault Refusal :=
  issue (.madA c sg d a b e) s fun x =>
    resA x d ((x.rdA (affImm sg) a).b * x.ext sg b + (x.rdA (affImm sg) e).b) ((x.rdA (affImm sg) a).st * x.ext sg b + (x.rdA (affImm sg) e).st)
/-- SHL_A (R137): with a count of 64 or more the base becomes 0, and only a stride of 0 stays in range. -/
def execShlA (c : Ctl) (d : Dst) (a b : Src) (s : State) : Host.Outcome State Fault Refusal :=
  issue (.shlA c d a b) s fun x =>
    let k := min (x.rdUx .zx b) 64
    resA x d ((x.rdA .zx a).b * 2 ^ k) ((x.rdA .zx a).st * 2 ^ k)
/-- MOV_A (R137). -/
def execMovA (c : Ctl) (d : Dst) (a : Src) (s : State) : Host.Outcome State Fault Refusal :=
  issue (.movA c d a) s fun x => resA x d (x.rdA .zx a).b (x.rdA .zx a).st
/-- CMP_A (R138). -/
def execCmpA (c : Ctl) (bu : Bool) (cond : ICond) (cmb : Cmb) (pd pc : Nat) (a b : Src) (s : State) : Host.Outcome State Fault Refusal :=
  issue (.cmpA c bu cond cmb pd pc a b) s fun x =>
    resCmp x cmb pd pc fun l =>
      icond 64 cond ((x.rdA (condImm cond) a).value l) (if bu then x.rdUx (condImm cond) b else (x.rdA (condImm cond) b).value l)

/-! ## Promotion (R139-R141) -/

/-- RAMP_A (R140). -/
def execRampA (c : Ctl) (d : Dst) (a b : Src) (s : State) : Host.Outcome State Fault Refusal :=
  issue (.rampA c d a b) s fun x =>
    { s := x.withRec (putA x.st d { base := BitVec.ofNat 64 (x.rdU 2 .sx a), stride := BitVec.ofNat 32 (x.rdU 1 .sx b) }) }
/-- SPREAD (R139). -/
def execSpread (c : Ctl) (w64 : Bool) (d : Dst) (a : Src) (s : State) : Host.Outcome State Fault Refusal :=
  issue (.spread c w64 d a) s fun x => resV x (kOf w64) d fun _ => x.rdU (kOf w64) .zx a
/-- MAT (R139). -/
def execMat (c : Ctl) (w64 : Bool) (d : Dst) (a : Src) (s : State) : Host.Outcome State Fault Refusal :=
  issue (.mat c w64 d a) s fun x => resV x (kOf w64) d ((x.rdA .zx a).value)
/-- AGREE (R141): a discarded destination still leaves the predicate to be written. -/
def execAgree (c : Ctl) (w64 : Bool) (d : Dst) (a : Src) (p : Nat) (s : State) : Host.Outcome State Fault Refusal :=
  issue (.agree c w64 d a p) s fun x =>
    let v := x.rdV (kOf w64) .zx a
    let low := v (lowestLane x.e)
    { s := x.withGroup ((x.g.setRec x.cur.rc (putS x.st (kOf w64) d low)).setP p x.e fun _ => (laneList x.e).all fun l => v l == low) }
/-- FIRST (R141). -/
def execFirstLane (c : Ctl) (w64 : Bool) (d : Dst) (a : Src) (s : State) : Host.Outcome State Fault Refusal :=
  issue (.firstLane c w64 d a) s fun x => resU x (kOf w64) d (x.rdV (kOf w64) .zx a (lowestLane x.e))

end Sys2Proof.Machine
end

