-- ==== Sys2Proof/Machine/Narrow.lean ====
section
/-!
DEFINITION. Packed narrow words (spec/04 R101, R102) and element-wise operations on them (spec/06 R163-R166, R170, R171).
-/
namespace Sys2Proof.Machine

/-- Elements in a 32-bit word (R101). -/
def Fmt.count (f : Fmt) : Nat := match f.ew with | 4 => 8 | 6 => 5 | 8 => 4 | _ => 2
/-- Element i of a packed word. -/
def Fmt.elem (f : Fmt) (w i : Nat) : Nat := w / 2 ^ (f.ew * i) % 2 ^ f.ew
/-- A packed word of elements, element 0 first; the bits above are 0. -/
def packList (ew : Nat) : List Nat → Nat
  | [] => 0
  | v :: vs => v % 2 ^ ew + 2 ^ ew * packList ew vs
/-- The word of every element's result, with the exceptions of all (R163). -/
def Fmt.packed (f : Fmt) (r : Nat → FRes) : FRes :=
  let rs := (List.range f.count).map r
  { v := packList f.ew (rs.map (·.v)), x := rs.foldl (fun x y => x ||| y.x) 0#5 }

/-- An element's arithmetic result (R164): nearest even; `.sat` turns an infinity into the largest finite magnitude. -/
def Fmt.arithQ (f : Fmt) (sat : Bool) (r : XRes) : FRes :=
  let w := f.write .rne sat r.v
  let y : FRes := { v := w.v, x := r.x ||| w.x }
  if sat && f.spec == .ieee && (f.read y.v).isInf then { y with v := f.code (f.read y.v).neg f.maxCm } else y
def qAdd (f : Fmt) (sat : Bool) (a b : Nat) : FRes :=
  f.packed fun i => f.arithQ sat (fAdd .rne (f.read (f.elem a i)) (f.read (f.elem b i)))
def qSub (f : Fmt) (sat : Bool) (a b : Nat) : FRes :=
  f.packed fun i => f.arithQ sat (fSub .rne (f.read (f.elem a i)) (f.read (f.elem b i)))
def qMul (f : Fmt) (sat : Bool) (a b : Nat) : FRes :=
  f.packed fun i => f.arithQ sat (fMul (f.read (f.elem a i)) (f.read (f.elem b i)))
def qFma (f : Fmt) (sat : Bool) (a b c : Nat) : FRes :=
  f.packed fun i => f.arithQ sat (fFma .rne (f.read (f.elem a i)) (f.read (f.elem b i)) (f.read (f.elem c i)))

/-- R163: under `blk` a zero result is code 0. -/
def Fmt.blkZero (f : Fmt) (c : Nat) : Nat := if f.spec == .blk && c == f.signBit then 0 else c
/-- R165. -/
def qPick (f : Fmt) (mx : Bool) (a b : Nat) : FRes :=
  f.packed fun i =>
    let p := f.elem a i
    let q := f.elem b i
    if f.spec == .none then { v := if decide (signedN f.ew p ≤ signedN f.ew q) != mx then p else q }
    else let r := f.pick mx false p q; { r with v := f.blkZero r.v }
def qAbs (f : Fmt) (a : Nat) : FRes :=
  f.packed fun i =>
    let p := f.elem a i
    { v := if f.spec == .none then modN f.ew (signedN f.ew p).natAbs else f.blkZero (f.absCode p) }
def qNeg (f : Fmt) (a : Nat) : FRes :=
  f.packed fun i =>
    let p := f.elem a i
    { v := if f.spec == .none then modN f.ew (-signedN f.ew p) else f.blkZero (f.negCode p) }
/-- R166: NaN sources in the order of A's elements, then B's, then C. -/
def qDot (f : Fmt) (a b c : Nat) : FRes :=
  let as := (List.range f.count).map fun i => f.read (f.elem a i)
  let bs := (List.range f.count).map fun i => f.read (f.elem b i)
  let z := (fmtT .f32).read c
  (fmtT .f32).done .rne (fDot .rne (as ++ bs ++ [z]) (as.zip bs) z)

/-- R170: a float into one element; the value saturates; a NaN to an integer format raises NV. -/
def qInsert (f : Fmt) (v : FVal) (c i : Nat) : FRes :=
  let w := f.write .rne true v
  let nv := if v.isSNaN || (v.isNaN && f.spec == .none) then excNV else 0#5
  { v := packList f.ew ((List.range f.count).map fun j => if j = i then w.v else f.elem c j), x := w.x ||| nv }
/-- R171: one element as a float. -/
def qExtract (f : Fmt) (d : Fmt) (a i : Nat) : FRes :=
  let v := f.read (f.elem a i)
  d.done .rne (withNaN [v] { v })

end Sys2Proof.Machine
end

