-- ==== Sys2Proof/Machine/Transcend.lean ====
section
/-!
DEFINITION. The function instructions `ex2`, `lg2`, `sinpi`, `cospi` (spec/06 R159, R160). Where the exact value is no dyadic number it is
irrational; it is computed in fixed point with 384 fractional bits, far below the gap between any such value and a rounding boundary of
f32 or f16, and carries a sticky bit.
-/
namespace Sys2Proof.Machine

/-- Fractional bits of the fixed point. -/
def fxBits : Nat := 384
def fxOne : Nat := 2 ^ fxBits
/-- A guard of 32 bits below. -/
def gBits : Nat := fxBits + 32
def gOne : Nat := 2 ^ gBits

/-- The sum of t, t*x/(k), t*x*x/(k(k+1)) ...: `n` terms of an exponential series, from term `t` with next divisor `k`. -/
def expTerms (x : Nat) : Nat → Nat → Nat → Nat
  | 0, _, _ => 0
  | n + 1, k, t => t + expTerms x n (k + 1) (t * x / gOne / k)
/-- e^x for x in guarded fixed point. -/
def expFx (x : Nat) : Nat := expTerms x 100 1 gOne

/-- z + z^3/3 + z^5/5 + ...: `n` terms, from power `p` with divisor `k`. -/
def atanhTerms (z2 : Nat) : Nat → Nat → Nat → Nat
  | 0, _, _ => 0
  | n + 1, k, p => p / k + atanhTerms z2 n (k + 2) (p * z2 / gOne)
/-- ln(y) of y in [1, 2], guarded fixed point: twice the inverse hyperbolic tangent of (y - 1) / (y + 1). -/
def lnFx (y : Nat) : Nat :=
  let z := (y - gOne) * gOne / (y + gOne)
  2 * atanhTerms (z * z / gOne) 140 1 z
def ln2Fx : Nat := lnFx (2 * gOne)

/-- Alternating: 1/q - 1/(3 q^3) + ...: the inverse tangent of 1/q. -/
def atanTerms (q : Nat) : Nat → Nat → Int → Int
  | 0, _, _ => 0
  | n + 1, k, p => p / k + atanTerms q n (k + 2) (-p / (q * q : Nat))
/-- pi, by Machin's formula. -/
def piFx : Nat := (16 * atanTerms 5 100 1 (gOne / 5 : Nat) - 4 * atanTerms 239 40 1 (gOne / 239 : Nat)).toNat

/-- Alternating series of sine (k = 2, t = x) and cosine (k = 1, t = 1). -/
def trigTerms (x2 : Nat) : Nat → Nat → Int → Int
  | 0, _, _ => 0
  | n + 1, k, t => t + trigTerms x2 n (k + 2) (-(t * x2) / gOne / (k * (k + 1) : Nat))
def sinFx (x : Nat) : Nat := (trigTerms (x * x / gOne) 60 2 x).toNat
def cosFx (x : Nat) : Nat := (trigTerms (x * x / gOne) 60 1 gOne).toNat

/-- m * 2^e in guarded fixed point, for values of at least 2^-384. -/
def toFx (m : Nat) (e : Int) : Nat := if 0 ≤ e + gBits then m * 2 ^ (e + gBits).toNat else m / 2 ^ (-(e + gBits)).toNat
/-- A guarded fixed-point magnitude as an irrational value. -/
def irr (neg : Bool) (g : Nat) : FVal := .num neg (g / 2 ^ 32) (-(fxBits : Int)) true

/-- R159, R160: 2^a. -/
def fEx2 (a : FVal) : XRes :=
  withNaN [a] <| match a with
  | .inf n => if n then { v := .num false 0 0 false } else { v := .inf false }
  | .num n m e _ =>
    let v : Int := if n then -m else m
    let fl : Int := if 0 ≤ e then v * 2 ^ e.toNat else v / 2 ^ (-e).toNat
    let fr := if 0 ≤ e then 0 else (v % 2 ^ (-e).toNat).toNat
    if fr = 0 then { v := .num false 1 (max (-4000) (min 4000 fl)) false }
    else
      match irr false (expFx (toFx fr e * ln2Fx / gOne)) with
      | .num s m' e' st => { v := .num s m' (e' + max (-4000) (min 4000 fl)) st }
      | y => { v := y }
  | a => { v := a }

/-- R159, R160: log2 a; that of 1 is +0 (DESIGN CHOICE, log 51). -/
def fLg2 (a : FVal) : XRes :=
  withNaN [a] <| match a with
  | .inf n => if n then invalid else { v := .inf false }
  | .num n m e _ =>
    if m = 0 then { v := .inf true, x := excDZ }
    else if n then invalid
    else
      let k := Nat.log2 m
      let w : Int := k + e
      if m = 2 ^ k then { v := ofInt w }
      else
        -- w + log2(m / 2^k), in (w, w + 1)
        let g : Int := w * fxOne + (lnFx (toFx m (-(k : Int))) * gOne / ln2Fx / 2 ^ 32 : Nat)
        if 0 ≤ g then { v := .num false g.toNat (-(fxBits : Int)) true }
        else { v := .num true (-g - 1).toNat (-(fxBits : Int)) true }
  | a => { v := a }

/-- |a| reduced into [0, 2): the number of half units below it, and the rest of the half unit as m * 2^e. -/
def halves (m : Nat) (e : Int) : Nat × Nat :=
  if 0 ≤ e + 1 then (m * 2 ^ (e + 1).toNat % 4, 0)
  else let d := 2 ^ (-(e + 1)).toNat; (m / d % 4, m % d)
/-- The sine and the cosine of pi times a fraction below one half. -/
def sinPart (neg : Bool) (r : Nat) (e : Int) : FVal := irr neg (sinFx (toFx r e * piFx / gOne))
def cosPart (neg : Bool) (r : Nat) (e : Int) : FVal := irr neg (cosFx (toFx r e * piFx / gOne))

/-- R159, R160: sin(pi a). -/
def fSinpi (a : FVal) : XRes :=
  withNaN [a] <| match a with
  | .inf _ => invalid
  | .num n m e _ =>
    let (q, r) := halves m e
    let s := n != decide (2 ≤ q)
    if r = 0 then { v := if q % 2 = 0 then .num n 0 0 false else .num s 1 0 false }
    else { v := if q % 2 = 0 then sinPart s r e else cosPart s r e }
  | a => { v := a }

/-- R159, R160: cos(pi a). -/
def fCospi (a : FVal) : XRes :=
  withNaN [a] <| match a with
  | .inf _ => invalid
  | .num _ m e _ =>
    let (q, r) := halves m e
    let s := q == 1 || q == 2
    if r = 0 then { v := if q % 2 = 0 then .num s 1 0 false else .num false 0 0 false }
    else { v := if q % 2 = 0 then cosPart s r e else sinPart s r e }
  | a => { v := a }

end Sys2Proof.Machine
end

