-- ==== Sys2Proof/Machine/FloatInstr.lean ====
section
/-!
DEFINITION. The float, packed narrow and conversion instructions (spec/06 R142-R172).
-/
namespace Sys2Proof.Machine

/-! ## Results with exceptions (R148) -/

/-- An exception that the issuing state's FP_CTL enables. -/
def trapped (x : Ctx) (e : FpExc) : Bool := e.setWidth 32 &&& x.st.fpCtl != 0#32
def excAll (rs : List (Nat × FRes)) : FpExc := rs.foldl (fun e p => e ||| p.2.x) 0#5
/-- The lanes' results and the trap of those whose exceptions are enabled; `put` writes a lane that does not trap. -/
def resLanes (x : Ctx) (f : Nat → FRes) (put : Group → Nat → Nat → Group) : Res :=
  let rs := (laneList x.e).map fun l => (l, f l)
  let bad := maskOf fun l => rs.any fun p => p.1 == l && trapped x p.2.x
  { s := x.withGroup ((rs.foldl (fun g p => if trapped x p.2.x then g else put g p.1 p.2.v) x.g).raiseFp (excAll rs)),
    flts := [{ cls := .fpTrap, lanes := bad }] }
/-- A varying float result. -/
def resF (x : Ctx) (k : Nat) (d : Dst) (f : Nat → FRes) : Res := resLanes x f fun g l v => putV g k d l v
/-- A uniform float result: a trap names the whole effective mask. -/
def resFU (x : Ctx) (k : Nat) (d : Dst) (r : FRes) : Res :=
  let g := x.g.raiseFp r.x
  if trapped x r.x then { s := x.withGroup g, flts := [{ cls := .fpTrap, lanes := x.e }] }
  else { s := x.withGroup (g.setRec x.cur.rc (putS x.st k d r.v)) }

/-- A varying and a uniform float operand as a code and as a value. -/
def Ctx.fV (x : Ctx) (t : FT) (a : Src) (l : Nat) : Nat := x.rdV t.k .f64 a l
def Ctx.fU (x : Ctx) (t : FT) (a : Src) : Nat := x.rdU t.k .f64 a
def rdF (t : FT) (c : Nat) : FVal := (fmtT t).read c

def fv1 (x : Ctx) (t : FT) (d : Dst) (a : Src) (f : Nat → FRes) : Res := resF x t.k d fun l => f (x.fV t a l)
def fv2 (x : Ctx) (t : FT) (d : Dst) (a b : Src) (f : Nat → Nat → FRes) : Res := resF x t.k d fun l => f (x.fV t a l) (x.fV t b l)
def fv3 (x : Ctx) (t : FT) (d : Dst) (a b e : Src) (f : Nat → Nat → Nat → FRes) : Res :=
  resF x t.k d fun l => f (x.fV t a l) (x.fV t b l) (x.fV t e l)
def fu1 (x : Ctx) (t : FT) (d : Dst) (a : Src) (f : Nat → FRes) : Res := resFU x t.k d (f (x.fU t a))
def fu2 (x : Ctx) (t : FT) (d : Dst) (a b : Src) (f : Nat → Nat → FRes) : Res := resFU x t.k d (f (x.fU t a) (x.fU t b))
def fu3 (x : Ctx) (t : FT) (d : Dst) (a b e : Src) (f : Nat → Nat → Nat → FRes) : Res :=
  resFU x t.k d (f (x.fU t a) (x.fU t b) (x.fU t e))

/-! ## The functions on codes -/

def cAdd (t : FT) (sat : Bool) (r : Rnd) (a b : Nat) : FRes := (fmtT t).arith r sat (fAdd r (rdF t a) (rdF t b))
def cSub (t : FT) (sat : Bool) (r : Rnd) (a b : Nat) : FRes := (fmtT t).arith r sat (fSub r (rdF t a) (rdF t b))
def cMul (t : FT) (sat : Bool) (r : Rnd) (a b : Nat) : FRes := (fmtT t).arith r sat (fMul (rdF t a) (rdF t b))
def cFma (t : FT) (sat : Bool) (r : Rnd) (a b c : Nat) : FRes := (fmtT t).arith r sat (fFma r (rdF t a) (rdF t b) (rdF t c))
def cDiv (t : FT) (r : Rnd) (a b : Nat) : FRes := (fmtT t).done r (fDiv (rdF t a) (rdF t b))
def cRcp (t : FT) (r : Rnd) (a : Nat) : FRes := (fmtT t).done r (fRcp (rdF t a))
def cSqrt (t : FT) (r : Rnd) (a : Nat) : FRes := (fmtT t).done r (fSqrt (rdF t a))
def cRnd (t : FT) (r : Rnd) (a : Nat) : FRes := (fmtT t).done r (fRnd r (rdF t a))
def cPick (mx num : Bool) (t : FT) (a b : Nat) : FRes := (fmtT t).pick mx num a b
def cAbs (t : FT) (a : Nat) : FRes := { v := (fmtT t).absCode a }
def cNeg (t : FT) (a : Nat) : FRes := { v := (fmtT t).negCode a }
def cCopysign (t : FT) (a b : Nat) : FRes := { v := (fmtT t).copySign a b }
/-- R154: a compare's condition, with NV for a signalling NaN. -/
def cCmp (t : FT) (cond : FCond) (a b : Nat) : Bool × FpExc :=
  (fcond cond (rdF t a) (rdF t b), if (rdF t a).isSNaN || (rdF t b).isSNaN then excNV else 0#5)
/-- R161: two 16-bit halves of A and B, and an f32. -/
def cDot (bf : Bool) (r : Rnd) (a b c : Nat) : FRes :=
  let t : FT := if bf then .bf16 else .f16
  let a0 := rdF t (a % 65536)
  let a1 := rdF t (a / 65536)
  let b0 := rdF t (b % 65536)
  let b1 := rdF t (b / 65536)
  let z := rdF .f32 c
  (fmtT .f32).done r (fDot r [a0, a1, b0, b1, z] [(a0, b0), (a1, b1)] z)
def halfT (half : Bool) : FT := if half then .f16 else .f32
def cFun (f : FVal → XRes) (half : Bool) (a : Nat) : FRes := (fmtT (halfT half)).done .rne (f (rdF (halfT half) a))

/-! ## Arithmetic (R150, R151, R158, R162) -/

/-- ADD_V_F (R150). -/
def execAddVF (c : Ctl) (t : FT) (sat : Bool) (r : Rnd) (d : Dst) (a b : Src) (s : State) : Host.Outcome State Fault Refusal :=
  issue (.addVF c t sat r d a b) s fun x => fv2 x t d a b (cAdd t sat r)
/-- ADD_S_F (R162). -/
def execAddSF (c : Ctl) (t : FT) (sat : Bool) (r : Rnd) (d : Dst) (a b : Src) (s : State) : Host.Outcome State Fault Refusal :=
  issue (.addSF c t sat r d a b) s fun x => fu2 x t d a b (cAdd t sat r)
/-- SUB_V_F (R150). -/
def execSubVF (c : Ctl) (t : FT) (sat : Bool) (r : Rnd) (d : Dst) (a b : Src) (s : State) : Host.Outcome State Fault Refusal :=
  issue (.subVF c t sat r d a b) s fun x => fv2 x t d a b (cSub t sat r)
/-- SUB_S_F (R162). -/
def execSubSF (c : Ctl) (t : FT) (sat : Bool) (r : Rnd) (d : Dst) (a b : Src) (s : State) : Host.Outcome State Fault Refusal :=
  issue (.subSF c t sat r d a b) s fun x => fu2 x t d a b (cSub t sat r)
/-- MUL_V_F (R150). -/
def execMulVF (c : Ctl) (t : FT) (sat : Bool) (r : Rnd) (d : Dst) (a b : Src) (s : State) : Host.Outcome State Fault Refusal :=
  issue (.mulVF c t sat r d a b) s fun x => fv2 x t d a b (cMul t sat r)
/-- MUL_S_F (R162). -/
def execMulSF (c : Ctl) (t : FT) (sat : Bool) (r : Rnd) (d : Dst) (a b : Src) (s : State) : Host.Outcome State Fault Refusal :=
  issue (.mulSF c t sat r d a b) s fun x => fu2 x t d a b (cMul t sat r)
/-- FMA_V (R150). -/
def execFmaV (c : Ctl) (t : FT) (sat : Bool) (r : Rnd) (d : Dst) (a b e : Src) (s : State) : Host.Outcome State Fault Refusal :=
  issue (.fmaV c t sat r d a b e) s fun x => fv3 x t d a b e (cFma t sat r)
/-- FMA_S (R162). -/
def execFmaS (c : Ctl) (t : FT) (sat : Bool) (r : Rnd) (d : Dst) (a b e : Src) (s : State) : Host.Outcome State Fault Refusal :=
  issue (.fmaS c t sat r d a b e) s fun x => fu3 x t d a b e (cFma t sat r)
/-- DIV_V_F (R158). -/
def execDivVF (c : Ctl) (t : FT) (r : Rnd) (d : Dst) (a b : Src) (s : State) : Host.Outcome State Fault Refusal :=
  issue (.divVF c t r d a b) s fun x => fv2 x t d a b (cDiv t r)
/-- DIV_S_F (R162). -/
def execDivSF (c : Ctl) (t : FT) (r : Rnd) (d : Dst) (a b : Src) (s : State) : Host.Outcome State Fault Refusal :=
  issue (.divSF c t r d a b) s fun x => fu2 x t d a b (cDiv t r)
/-- RCP_V (R158). -/
def execRcpV (c : Ctl) (t : FT) (r : Rnd) (d : Dst) (a : Src) (s : State) : Host.Outcome State Fault Refusal :=
  issue (.rcpV c t r d a) s fun x => fv1 x t d a (cRcp t r)
/-- RCP_S (R162). -/
def execRcpS (c : Ctl) (t : FT) (r : Rnd) (d : Dst) (a : Src) (s : State) : Host.Outcome State Fault Refusal :=
  issue (.rcpS c t r d a) s fun x => fu1 x t d a (cRcp t r)
/-- SQRT_V (R158). -/
def execSqrtV (c : Ctl) (t : FT) (r : Rnd) (d : Dst) (a : Src) (s : State) : Host.Outcome State Fault Refusal :=
  issue (.sqrtV c t r d a) s fun x => fv1 x t d a (cSqrt t r)
/-- SQRT_S (R162). -/
def execSqrtS (c : Ctl) (t : FT) (r : Rnd) (d : Dst) (a : Src) (s : State) : Host.Outcome State Fault Refusal :=
  issue (.sqrtS c t r d a) s fun x => fu1 x t d a (cSqrt t r)
/-- RND_V (R157). -/
def execRndV (c : Ctl) (t : FT) (r : Rnd) (d : Dst) (a : Src) (s : State) : Host.Outcome State Fault Refusal :=
  issue (.rndV c t r d a) s fun x => fv1 x t d a (cRnd t r)
/-- EX2 (R159, R160). -/
def execEx2 (c : Ctl) (half : Bool) (d : Dst) (a : Src) (s : State) : Host.Outcome State Fault Refusal :=
  issue (.ex2 c half d a) s fun x => fv1 x (halfT half) d a (cFun fEx2 half)
/-- LG2 (R159, R160). -/
def execLg2 (c : Ctl) (half : Bool) (d : Dst) (a : Src) (s : State) : Host.Outcome State Fault Refusal :=
  issue (.lg2 c half d a) s fun x => fv1 x (halfT half) d a (cFun fLg2 half)
/-- SINPI (R159, R160). -/
def execSinpi (c : Ctl) (half : Bool) (d : Dst) (a : Src) (s : State) : Host.Outcome State Fault Refusal :=
  issue (.sinpi c half d a) s fun x => fv1 x (halfT half) d a (cFun fSinpi half)
/-- COSPI (R159, R160). -/
def execCospi (c : Ctl) (half : Bool) (d : Dst) (a : Src) (s : State) : Host.Outcome State Fault Refusal :=
  issue (.cospi c half d a) s fun x => fv1 x (halfT half) d a (cFun fCospi half)
/-- DOT_V (R161). -/
def execDotV (c : Ctl) (bf : Bool) (r : Rnd) (d : Dst) (a b e : Src) (s : State) : Host.Outcome State Fault Refusal :=
  issue (.dotV c bf r d a b e) s fun x => fv3 x .f32 d a b e (cDot bf r)

/-! ## Minimum, maximum, sign, compare, class (R152-R156) -/

/-- MIN_V_F (R152). -/
def execMinVF (c : Ctl) (t : FT) (d : Dst) (a b : Src) (s : State) : Host.Outcome State Fault Refusal :=
  issue (.minVF c t d a b) s fun x => fv2 x t d a b (cPick false false t)
/-- MIN_S_F (R162). -/
def execMinSF (c : Ctl) (t : FT) (d : Dst) (a b : Src) (s : State) : Host.Outcome State Fault Refusal :=
  issue (.minSF c t d a b) s fun x => fu2 x t d a b (cPick false false t)
/-- MAX_V_F (R152). -/
def execMaxVF (c : Ctl) (t : FT) (d : Dst) (a b : Src) (s : State) : Host.Outcome State Fault Refusal :=
  issue (.maxVF c t d a b) s fun x => fv2 x t d a b (cPick true false t)
/-- MAX_S_F (R162). -/
def execMaxSF (c : Ctl) (t : FT) (d : Dst) (a b : Src) (s : State) : Host.Outcome State Fault Refusal :=
  issue (.maxSF c t d a b) s fun x => fu2 x t d a b (cPick true false t)
/-- MINNUM_V (R152). -/
def execMinnumV (c : Ctl) (t : FT) (d : Dst) (a b : Src) (s : State) : Host.Outcome State Fault Refusal :=
  issue (.minnumV c t d a b) s fun x => fv2 x t d a b (cPick false true t)
/-- MINNUM_S (R162). -/
def execMinnumS (c : Ctl) (t : FT) (d : Dst) (a b : Src) (s : State) : Host.Outcome State Fault Refusal :=
  issue (.minnumS c t d a b) s fun x => fu2 x t d a b (cPick false true t)
/-- MAXNUM_V (R152). -/
def execMaxnumV (c : Ctl) (t : FT) (d : Dst) (a b : Src) (s : State) : Host.Outcome State Fault Refusal :=
  issue (.maxnumV c t d a b) s fun x => fv2 x t d a b (cPick true true t)
/-- MAXNUM_S (R162). -/
def execMaxnumS (c : Ctl) (t : FT) (d : Dst) (a b : Src) (s : State) : Host.Outcome State Fault Refusal :=
  issue (.maxnumS c t d a b) s fun x => fu2 x t d a b (cPick true true t)
/-- ABS_V_F (R153). -/
def execAbsVF (c : Ctl) (t : FT) (d : Dst) (a : Src) (s : State) : Host.Outcome State Fault Refusal :=
  issue (.absVF c t d a) s fun x => fv1 x t d a (cAbs t)
/-- ABS_S_F (R162). -/
def execAbsSF (c : Ctl) (t : FT) (d : Dst) (a : Src) (s : State) : Host.Outcome State Fault Refusal :=
  issue (.absSF c t d a) s fun x => fu1 x t d a (cAbs t)
/-- NEG_V_F (R153). -/
def execNegVF (c : Ctl) (t : FT) (d : Dst) (a : Src) (s : State) : Host.Outcome State Fault Refusal :=
  issue (.negVF c t d a) s fun x => fv1 x t d a (cNeg t)
/-- NEG_S_F (R162). -/
def execNegSF (c : Ctl) (t : FT) (d : Dst) (a : Src) (s : State) : Host.Outcome State Fault Refusal :=
  issue (.negSF c t d a) s fun x => fu1 x t d a (cNeg t)
/-- COPYSIGN_V (R153). -/
def execCopysignV (c : Ctl) (t : FT) (d : Dst) (a b : Src) (s : State) : Host.Outcome State Fault Refusal :=
  issue (.copysignV c t d a b) s fun x => fv2 x t d a b (cCopysign t)
/-- COPYSIGN_S (R162). -/
def execCopysignS (c : Ctl) (t : FT) (d : Dst) (a b : Src) (s : State) : Host.Outcome State Fault Refusal :=
  issue (.copysignS c t d a b) s fun x => fu2 x t d a b (cCopysign t)

/-- A varying float compare: a trapping lane writes neither predicate (R148). -/
def resCmpF (x : Ctx) (cmb : Cmb) (pd pc : Nat) (f : Nat → Bool × FpExc) : Res :=
  let rs := (laneList x.e).map fun l => (l, f l)
  let bad := maskOf fun l => rs.any fun p => p.1 == l && trapped x p.2.2
  { s := x.withGroup ((putCmp x.g (x.e &&& ~~~bad) cmb pd pc fun l => rs.any fun p => p.1 == l && p.2.1).raiseFp
      (rs.foldl (fun e p => e ||| p.2.2) 0#5)), flts := [{ cls := .fpTrap, lanes := bad }] }

/-- CMP_V_F (R154). -/
def execCmpVF (c : Ctl) (ty : Bool) (cond : FCond) (cmb : Cmb) (pd pc : Nat) (a b : Src) (s : State) : Host.Outcome State Fault Refusal :=
  issue (.cmpVF c ty cond cmb pd pc a b) s fun x =>
    let t : FT := if ty then .f64 else .f32
    resCmpF x cmb pd pc fun l => cCmp t cond (x.fV t a l) (x.fV t b l)
/-- CMP_V_F16 (R154). -/
def execCmpVF16 (c : Ctl) (ty : Bool) (cond : FCond) (cmb : Cmb) (pd pc : Nat) (a b : Src) (s : State) : Host.Outcome State Fault Refusal :=
  issue (.cmpVF16 c ty cond cmb pd pc a b) s fun x =>
    let t : FT := if ty then .bf16 else .f16
    resCmpF x cmb pd pc fun l => cCmp t cond (x.fV t a l) (x.fV t b l)
/-- CMP_S_F (R162): one result for the state, written in every lane of the mask. -/
def execCmpSF (c : Ctl) (ty : Bool) (cond : FCond) (cmb : Cmb) (pd pc : Nat) (a b : Src) (s : State) : Host.Outcome State Fault Refusal :=
  issue (.cmpSF c ty cond cmb pd pc a b) s fun x =>
    let t : FT := if ty then .f64 else .f32
    let r := cCmp t cond (x.fU t a) (x.fU t b)
    resCmpF x cmb pd pc fun _ => r
/-- CLASS (R156). -/
def execClassV (c : Ctl) (t : FT) (p : Nat) (a : Src) (k : BitVec 10) (s : State) : Host.Outcome State Fault Refusal :=
  issue (.classV c t p a k) s fun x =>
    { s := x.withGroup (x.g.setP p x.e fun l => k.getLsbD ((fmtT t).classOf (x.fV t a l))) }

/-! ## Packed narrow (R163-R166) -/

/-- An instruction that names a format register: ILLEGAL_OP on the whole mask where it is not valid (R84, R143). -/
def withFmt (x : Ctx) (fm : BitVec 2) (f : Fmt → Res) : Res :=
  match fmtOfWord (x.st.getFmt fm.toNat) with
  | some y => f y
  | none => resFault x .illegalOp

/-- ADD_V_Q (R164). -/
def execAddVQ (c : Ctl) (sat : Bool) (fm : BitVec 2) (d : Dst) (a b : Src) (s : State) : Host.Outcome State Fault Refusal :=
  issue (.addVQ c sat fm d a b) s fun x => withFmt x fm fun f => resF x 1 d fun l => qAdd f sat (x.rdV 1 .zx a l) (x.rdV 1 .zx b l)
/-- SUB_V_Q (R164). -/
def execSubVQ (c : Ctl) (sat : Bool) (fm : BitVec 2) (d : Dst) (a b : Src) (s : State) : Host.Outcome State Fault Refusal :=
  issue (.subVQ c sat fm d a b) s fun x => withFmt x fm fun f => resF x 1 d fun l => qSub f sat (x.rdV 1 .zx a l) (x.rdV 1 .zx b l)
/-- MUL_V_Q (R164). -/
def execMulVQ (c : Ctl) (sat : Bool) (fm : BitVec 2) (d : Dst) (a b : Src) (s : State) : Host.Outcome State Fault Refusal :=
  issue (.mulVQ c sat fm d a b) s fun x => withFmt x fm fun f => resF x 1 d fun l => qMul f sat (x.rdV 1 .zx a l) (x.rdV 1 .zx b l)
/-- FMA_V_Q (R164). -/
def execFmaVQ (c : Ctl) (sat : Bool) (fm : BitVec 2) (d : Dst) (a b e : Src) (s : State) : Host.Outcome State Fault Refusal :=
  issue (.fmaVQ c sat fm d a b e) s fun x =>
    withFmt x fm fun f => resF x 1 d fun l => qFma f sat (x.rdV 1 .zx a l) (x.rdV 1 .zx b l) (x.rdV 1 .zx e l)
/-- MIN_V_Q (R165). -/
def execMinVQ (c : Ctl) (fm : BitVec 2) (d : Dst) (a b : Src) (s : State) : Host.Outcome State Fault Refusal :=
  issue (.minVQ c fm d a b) s fun x => withFmt x fm fun f => resF x 1 d fun l => qPick f false (x.rdV 1 .zx a l) (x.rdV 1 .zx b l)
/-- MAX_V_Q (R165). -/
def execMaxVQ (c : Ctl) (fm : BitVec 2) (d : Dst) (a b : Src) (s : State) : Host.Outcome State Fault Refusal :=
  issue (.maxVQ c fm d a b) s fun x => withFmt x fm fun f => resF x 1 d fun l => qPick f true (x.rdV 1 .zx a l) (x.rdV 1 .zx b l)
/-- DOT_V_Q (R166). -/
def execDotVQ (c : Ctl) (fm : BitVec 2) (d : Dst) (a b e : Src) (s : State) : Host.Outcome State Fault Refusal :=
  issue (.dotVQ c fm d a b e) s fun x =>
    withFmt x fm fun f => resF x 1 d fun l => qDot f (x.rdV 1 .zx a l) (x.rdV 1 .zx b l) (x.rdV 1 .zx e l)
/-- ABS_V_Q (R165). -/
def execAbsVQ (c : Ctl) (fm : BitVec 2) (d : Dst) (a : Src) (s : State) : Host.Outcome State Fault Refusal :=
  issue (.absVQ c fm d a) s fun x => withFmt x fm fun f => resF x 1 d fun l => qAbs f (x.rdV 1 .zx a l)
/-- NEG_V_Q (R165). -/
def execNegVQ (c : Ctl) (fm : BitVec 2) (d : Dst) (a : Src) (s : State) : Host.Outcome State Fault Refusal :=
  issue (.negVQ c fm d a) s fun x => withFmt x fm fun f => resF x 1 d fun l => qNeg f (x.rdV 1 .zx a l)

/-! ## Conversions (R167-R172) -/

/-- CVT_FLOAT_FLOAT (R167). -/
def execCvtFloatFloat (c : Ctl) (dt st : FT) (r : Rnd) (d : Dst) (a : Src) (s : State) : Host.Outcome State Fault Refusal :=
  issue (.cvtFloatFloat c dt st r d a) s fun x =>
    resF x dt.k d fun l => let v := rdF st (x.fV st a l); (fmtT dt).done r (withNaN [v] { v })
/-- CVT_FLOAT_INT (R168). -/
def execCvtFloatInt (c : Ctl) (dt : IT) (st : FT) (r : Rnd) (d : Dst) (a : Src) (s : State) : Host.Outcome State Fault Refusal :=
  issue (.cvtFloatInt c dt st r d a) s fun x => resF x dt.k d fun l => toIntType dt r (rdF st (x.fV st a l))
/-- CVT_INT_FLOAT (R169). -/
def execCvtIntFloat (c : Ctl) (dt : FT) (st : IT) (r : Rnd) (d : Dst) (a : Src) (s : State) : Host.Outcome State Fault Refusal :=
  issue (.cvtIntFloat c dt st r d a) s fun x =>
    resF x dt.k d fun l => (fmtT dt).write r false (ofInt (IT.val st (x.rdV st.k (ITimm st) a l)))
/-- CVT_Q_FLOAT (R170). -/
def execCvtQFloat (c : Ctl) (st : FT) (fm : BitVec 2) (idx : BitVec 3) (d : Dst) (a e : Src) (s : State) : Host.Outcome State Fault Refusal :=
  issue (.cvtQFloat c st fm idx d a e) s fun x =>
    withFmt x fm fun f =>
      if f.count ≤ idx.toNat then resFault x .illegalOp
      else resF x 1 d fun l => qInsert f (rdF st (x.fV st a l)) (x.rdV 1 .zx e l) idx.toNat
/-- CVT_FLOAT_Q (R171). -/
def execCvtFloatQ (c : Ctl) (dt : FT) (fm : BitVec 2) (idx : BitVec 3) (d : Dst) (a : Src) (s : State) : Host.Outcome State Fault Refusal :=
  issue (.cvtFloatQ c dt fm idx d a) s fun x =>
    withFmt x fm fun f =>
      if f.count ≤ idx.toNat then resFault x .illegalOp
      else resF x dt.k d fun l => qExtract f (fmtT dt) (x.rdV 1 .zx a l) idx.toNat

/-- R172: width and signedness of a narrowing's destination. -/
def ntWidth : NT → Nat
  | .i16 | .n16 => 16
  | .i8 | .n8 => 8
def ntSg : NT → Bool
  | .i16 | .i8 => true
  | .n16 | .n8 => false
def narrowInt (sat un : Bool) (t : NT) (a : Nat) : Nat :=
  let v : Int := if un then (a : Int) else signedN 32 a
  let k := ntWidth t
  let lo : Int := if ntSg t then -2 ^ (k - 1) else 0
  let hi : Int := if ntSg t then 2 ^ (k - 1) - 1 else 2 ^ k - 1
  let r := modN k (if sat then clampI lo hi v else v)
  if ntSg t then modN 32 (signedN k r) else r

/-- CVT_NARROW (R172). -/
def execCvtNarrow (c : Ctl) (sat un : Bool) (dt : NT) (d : Dst) (a : Src) (s : State) : Host.Outcome State Fault Refusal :=
  issue (.cvtNarrow c sat un dt d a) s fun x => v1 x 1 1 .zx d a (narrowInt sat un dt)

end Sys2Proof.Machine
end

