-- ==== Sys2Proof/Machine/CrossLane.lean ====
section
/-!
DEFINITION. The cross-lane instructions (spec/07 R188-R194): only lanes of the effective mask are read and written.
-/
namespace Sys2Proof.Machine

/-- R189: the lane read by lane l with selector n. -/
def shflLane (md : ShflMode) (l n : Nat) : Option Nat :=
  match md with
  | .idx => some (n % 32)
  | .up => if n ≤ l then some (l - n) else none
  | .down => if l + n ≤ 31 then some (l + n) else none
  | .bfly => some (l ^^^ (n % 32))

/-- SHFL (R189). -/
def execShfl (c : Ctl) (w64 : Bool) (md : ShflMode) (d : Dst) (a b : Src) (s : State) : Host.Outcome State Fault Refusal :=
  issue (.shfl c w64 md d a b) s fun x =>
    resV x (kOf w64) d fun l =>
      match shflLane md l (x.rdV 1 .zx b l) with
      | some k => x.rdV (kOf w64) .zx a (if x.e.getLsbD k then k else l)
      | none => x.rdV (kOf w64) .zx a l

/-- The lanes of the mask whose predicate is 1. -/
def ballot (x : Ctx) (pa : Nat) : Mask := maskOf fun l => x.e.getLsbD l && x.g.getP pa l
def resVote (x : Ctx) (pd : Nat) (r : Bool) : Res := { s := x.withGroup (x.g.setP pd x.e fun _ => r) }

/-- VOTE_ALL (R190). -/
def execVoteAll (c : Ctl) (pd pa : Nat) (s : State) : Host.Outcome State Fault Refusal :=
  issue (.voteAll c pd pa) s fun x => resVote x pd (ballot x pa == x.e)
/-- VOTE_ANY (R190). -/
def execVoteAny (c : Ctl) (pd pa : Nat) (s : State) : Host.Outcome State Fault Refusal :=
  issue (.voteAny c pd pa) s fun x => resVote x pd (ballot x pa != 0#32)
/-- VOTE_EQ (R190). -/
def execVoteEq (c : Ctl) (pd pa : Nat) (s : State) : Host.Outcome State Fault Refusal :=
  issue (.voteEq c pd pa) s fun x => resVote x pd (ballot x pa == x.e || ballot x pa == 0#32)
/-- VOTE_BALLOT (R190). -/
def execVoteBallot (c : Ctl) (d : Dst) (pa : Nat) (s : State) : Host.Outcome State Fault Refusal :=
  issue (.voteBallot c d pa) s fun x => resU x 1 d (ballot x pa).toNat

/-- R191: an integer combination over lanes. -/
def combineInt (op : RedOp) (vs : List Nat) : Nat := vs.foldl (redOp op) (redId op)
/-- R192: a float combination over lanes, rounded once. -/
def combineFloat (t : FT) (op : FRedOp) (cs : List Nat) : FRes :=
  let vs := cs.map (fmtT t).read
  let pickC := fun (mx : Bool) => cs.foldl (fun (m : Option Nat) c => match m with
    | none => some c
    | some b => some (if fLe ((fmtT t).read b) ((fmtT t).read c) != mx then b else c)) none
  match op with
  | .add => (fmtT t).done .rne (withNaN vs (sumVal .rne vs))
  | .min => if vs.any FVal.isNaN then (fmtT t).done .rne (withNaN vs { v := .dnan }) else { v := (pickC false).getD 0 }
  | .max => if vs.any FVal.isNaN then (fmtT t).done .rne (withNaN vs { v := .dnan }) else { v := (pickC true).getD 0 }
/-- R193: the identity of a float combination: +0, +infinity, -infinity. -/
def floatId (t : FT) (op : FRedOp) : Nat :=
  match op with
  | .add => 0
  | .min => ((fmtT t).writeInf false).v
  | .max => ((fmtT t).writeInf true).v
def redT (f64 : Bool) : FT := if f64 then .f64 else .f32
/-- The lanes of the mask up to a lane, or below it. -/
def prefixLanes (m : Mask) (excl : Bool) (l : Nat) : List Nat := (laneList m).filter fun k => if excl then decide (k < l) else decide (k ≤ l)

/-- REDUCE_INT (R191). -/
def execReduceInt (c : Ctl) (op : RedOp) (d : Dst) (a : Src) (s : State) : Host.Outcome State Fault Refusal :=
  issue (.reduceInt c op d a) s fun x => resU x 1 d (combineInt op ((laneList x.e).map fun l => x.rdV 1 .zx a l))
/-- REDUCE_FLOAT (R192). -/
def execReduceFloat (c : Ctl) (f64 : Bool) (op : FRedOp) (d : Dst) (a : Src) (s : State) : Host.Outcome State Fault Refusal :=
  issue (.reduceFloat c f64 op d a) s fun x =>
    resFU x (redT f64).k d (combineFloat (redT f64) op ((laneList x.e).map fun l => x.fV (redT f64) a l))
/-- SCAN_INT (R193). -/
def execScanInt (c : Ctl) (excl : Bool) (op : RedOp) (d : Dst) (a : Src) (s : State) : Host.Outcome State Fault Refusal :=
  issue (.scanInt c excl op d a) s fun x =>
    resV x 1 d fun l => combineInt op ((prefixLanes x.e excl l).map fun k => x.rdV 1 .zx a k)
/-- SCAN_FLOAT (R193). -/
def execScanFloat (c : Ctl) (excl f64 : Bool) (op : FRedOp) (d : Dst) (a : Src) (s : State) : Host.Outcome State Fault Refusal :=
  issue (.scanFloat c excl f64 op d a) s fun x =>
    let t := redT f64
    resF x t.k d fun l =>
      match prefixLanes x.e excl l with
      | [] => { v := floatId t op }
      | ls => combineFloat t op (ls.map fun k => x.fV t a k)

/-- R194: keys match as bit patterns, or as floats under `.eq`; a lane matches itself. -/
def keyMatch (ty : MatchTy) (a b : Nat) : Bool :=
  match ty with
  | .b32 | .b64 => a == b
  | .f32 => fcond .eq (rdF .f32 a) (rdF .f32 b)
  | .f64 => fcond .eq (rdF .f64 a) (rdF .f64 b)
def matchK (ty : MatchTy) : Nat := if ty == .b64 || ty == .f64 then 2 else 1
def matchImm (ty : MatchTy) : ImmKind := if ty == .f64 then .f64 else .zx

/-- MATCH (R194). -/
def execMatchLanes (c : Ctl) (ty : MatchTy) (d : Dst) (a : Src) (s : State) : Host.Outcome State Fault Refusal :=
  issue (.matchLanes c ty d a) s fun x =>
    let key := fun l => x.rdV (matchK ty) (matchImm ty) a l
    resV x 1 d fun l => (maskOf fun k => x.e.getLsbD k && (k == l || keyMatch ty (key l) (key k))).toNat

end Sys2Proof.Machine
end

