-- ==== Sys2Proof/Machine/Image.lean ====
section
/-!
DEFINITION. The context image (spec/08 R198-R207): its layout, writing a team's state back to it, and restoring it.
-/
namespace Sys2Proof.Machine

/-! ## Sizes (R198) -/

def roundUp (n k : Nat) : Nat := (n + k - 1) / k * k
/-- SA: 4 x SREGS rounded up to 16. -/
def imgSA (sregs : Nat) : Nat := roundUp (4 * sregs) 16
def imgSREC (sregs aregs : Nat) : Nat := roundUp (0x80 + imgSA sregs + 16 * aregs) 128
def imgGREC (sregs aregs : Nat) : Nat := 1024 + 32 * imgSREC sregs aregs

/-! ## Writing back -/

/-- A field: offset, size in bytes, value. -/
abbrev Fld := Nat × Nat × Nat

def roleFields (off : Nat) (r : Role) : List Fld :=
  [(off, 1, r.kind), (off + 1, 1, r.first), (off + 2, 1, r.count), (off + 3, 1, 0), (off + 4, 2, r.vregs), (off + 6, 2, r.vmax), (off + 8, 8, 0)]

/-- The header but for STATUS (R199). -/
def Team.headerFields (x : Team) : List Fld :=
  [(0, 4, 0x34494347), (4, 2, 1), (8, 1, x.ngroups), (9, 1, x.roles.length), (10, 1, x.aregs), (11, 1, x.sregs), (12, 1, x.tiles),
   (13, 3, 0), (0x10, 4, x.tmemSize), (0x14, 4, x.obufSize), (0x18, 8, x.entry.toNat),
   (0x20, 8, (x.handler.getD (BitVec.allOnes 64)).toNat), (0x28, 4, x.idx), (0x2C, 4, x.count), (0x30, 8, x.deadline.toNat),
   (0x38, 4, imgSREC x.sregs x.aregs), (0x3C, 4, imgGREC x.sregs x.aregs)]
  ++ (List.range 4).flatMap (fun k => roleFields (0x40 + 16 * k) (x.roles.getD k {}))
  ++ [(0x80, 8, x.groupOff), (0x88, 8, x.tmemOff), (0x90, 8, x.obufOff), (0x98, 8, x.accOff), (0xA0, 8, x.size), (0xA8, 24, 0)]
  ++ (List.range 4).map (fun k => (0xC0 + 8 * k, 8, (x.swz.get k).toNat))
  ++ (List.range 8).map (fun k => (0xE0 + 4 * k, 4, (x.xstat.get k).toNat))
  ++ (List.range 16).map (fun k => (0x100 + 8 * k, 8, (x.obres.get k).toNat))
  ++ (List.range 16).map (fun k => (0x180 + 8 * k, 8, (x.chst.get k).toNat))

/-- A lane entry (R201); `now` is the die counter, for the remaining ticks (R183). -/
def laneFields (off now : Nat) (y : Lane) : List Fld :=
  let y := y.unstart
  let st := match y.st with | .running => 0 | .waiting => 1 | .exited => 2
  [(off, 8, y.pc.toNat % 2 ^ 58), (off + 8, 1, st), (off + 9, 1, y.rc), (off + 10, 1, y.off),
   (off + 11, 1, (if y.wdl.isSome then 128 else 0) + (if y.yld then 64 else 0) + (if y.st == .waiting then y.wj % 8 else 0)),
   (off + 12, 4, match y.wdl with | some d => d - now | none => 0)]

/-- A state record (R202, R260, R310). -/
def recFields (off sregs aregs : Nat) (r : StRec) : List Fld :=
  let mode := match r.mode with | .main => 0 | .held => 1 | .handling => 2 | .resumed => 3
  let p := r.replay
  [(off, 8, r.pc.toNat % 2 ^ 58), (off + 8, 1, r.off), (off + 9, 1, r.cls), (off + 10, 1, r.skid), (off + 11, 1, mode),
   (off + 12, 2, r.code.toNat), (off + 14, 2, (if r.hasRec then 1 else 0) + (if r.hasReplay then 2 else 0)), (off + 16, 4, r.fpCtl.toNat)]
  ++ (List.range 4).map (fun k => (off + 0x14 + 4 * k, 4, (r.fmt.get k).toNat))
  ++ [(off + 0x24, 4, r.rpend.toNat), (off + 0x28, 24, 0), (off + 0x40, 8, p.hdr.toNat),
      (off + 0x48, 4, if p.kind = 2 then p.slot else p.pos.toNat), (off + 0x4C, 1, if r.hasReplay then p.kind else 0), (off + 0x4D, 3, 0),
      (off + 0x50, 8, p.faddr.toNat), (off + 0x58, 1, p.fpos), (off + 0x59, 1, p.flane), (off + 0x5A, 38, 0)]
  ++ (List.range sregs).map (fun n => (off + 0x80 + 4 * n, 4, (r.getS n).toNat))
  ++ (List.range aregs).flatMap fun n =>
    let a := r.getA n
    [(off + 0x80 + imgSA sregs + 16 * n, 8, a.base.toNat), (off + 0x80 + imgSA sregs + 16 * n + 8, 4, a.stride.toNat),
     (off + 0x80 + imgSA sregs + 16 * n + 12, 4, 0)]

/-- A group record, and the group's varying registers up to VCUR (R200, R203). A group without lanes keeps record 0 in use (DEDUCED, log 39). -/
def Team.groupFields (x : Team) (now k : Nat) (g : Group) : List Fld :=
  let o := x.groupOff + k * imgGREC x.sregs x.aregs
  let recs := if g.recs.isEmpty then [(0, ({} : StRec))] else g.recs
  let low := (recs.map Prod.fst).headD 0
  (List.range 32).flatMap (fun l =>
    let y := g.lane l
    laneFields (o + 16 * l) now (if y.st == .exited then { y with rc := low } else y))
  ++ (List.range 15).map (fun n => (o + 0x200 + 4 * n, 4, (g.preds.get n).toNat)) ++ [(o + 0x23C, 4, 0)]
  ++ (List.range 8).map (fun n => (o + 0x240 + 4 * n, 4, (g.getJ n).toNat))
  ++ (List.range 12).map (fun n => (o + 0x260 + n, 1, g.flag n))
  ++ [(o + 0x26C, 4, g.fpStatus.toNat), (o + 0x270, 2, g.vcur), (o + 0x272, 2, g.vmax), (o + 0x274, 1, k), (o + 0x275, 1, g.role),
      (o + 0x276, 2, 0), (o + 0x278, 8, x.vbase.get k), (o + 0x280, 4, recs.foldl (fun m p => m ||| 2 ^ p.1) 0), (o + 0x284, 380, 0)]
  ++ recs.flatMap (fun p => recFields (o + 1024 + p.1 * imgSREC x.sregs x.aregs) x.sregs x.aregs p.2)
  ++ (List.range g.vcur).flatMap fun n => (List.range 32).map fun l => (x.vbase.get k + 128 * n + 4 * l, 4, (g.getV n l).toNat)

/-- Everything of the image but STATUS (R199-R203). -/
def Team.fields (x : Team) (now : Nat) : List Fld :=
  x.headerFields ++ x.groups.flatMap (fun p => x.groupFields now p.1 p.2)
  ++ (List.range x.tmemSize).map (fun t => (x.tmemOff + t, 1, (x.tmem.get t).toNat))
  ++ (List.range x.obufSize).map (fun t => (x.obufOff + t, 1, (x.obuf.get t).toNat))
  ++ (List.range (x.tiles * 4096)).map fun k => (x.accOff + 8 * k, 8, (x.tile.get k).toNat)

/-- The place of a byte of an image, as the device reaches it (R205, R207). -/
def State.imgPlace (s : State) (x : Team) (need : BitVec 4) (a : Nat) : Except XErr Nat :=
  (s.teamXlat { x with priv := true } need a).bind (s.devSays x.slice)
/-- One field is written through the team's translation as it stands; the first failing address stops it (R207). -/
def State.imgStore (s : State) (x : Team) (v : Nat) : Nat → Nat → Except (Nat × XErr) State
  | 0, _ => .ok s
  | n + 1, a =>
    match s.imgPlace x needW a with
    | .error e => .error (a, e)
    | .ok pa => State.imgStore (s.storeByte (engineAgent 0) (storeStamp s.stamp) pa (BitVec.ofNat 8 v)) x (v / 256) n (a + 1)

/-- The fields within [lo, hi) of the image (a line, or all of it) are written back. -/
def State.imgStoreAll (s : State) (x : Team) (lo hi : Nat) : List Fld → Except (Nat × XErr) State
  | [] => .ok s
  | (o, n, v) :: rest =>
    if lo ≤ o && decide (o < hi) then
      match s.imgStore x v n (x.image + o) with
      | .error e => .error e
      | .ok s => s.imgStoreAll x lo hi rest
    else s.imgStoreAll x lo hi rest

/-- STATUS in memory (R206); a page no longer mapped loses the write. -/
def State.writeStatus (s : State) (x : Team) (v : Nat) : State :=
  match s.imgStore x v 2 (x.image + 6) with
  | .ok s => s
  | .error _ => s

/-! ## Reading an image -/

/-- Why a restore is refused (R205, R392): the virtual address at which a page of the image failed, and how; none for any other check. -/
abbrev ImgErr := Option (Nat × XErr)
/-- A byte of the image in the team's address space, needing read and write permission, and no poison (R205). -/
def State.imgByte (s : State) (x : Team) (off : Nat) : Except ImgErr Nat :=
  match (s.teamXlat x needRW (x.image + off)).bind (s.devSays x.slice) with
  | .error e => .error (some (x.image + off, e))
  | .ok pa => if s.poisoned pa then .error (some (x.image + off, { cls := .memPoison, stage := 0, level := 0 })) else .ok (s.byte pa).toNat
def State.imgLE (s : State) (x : Team) (off : Nat) : Nat → Except ImgErr Nat
  | 0 => .ok 0
  | n + 1 => do
    let b ← s.imgByte x off
    let r ← State.imgLE s x (off + 1) n
    pure (b + 256 * r)
def imgCheck (b : Bool) : Except ImgErr Unit := if b then .ok () else .error none
/-- The field is zero. -/
def State.imgZero (s : State) (x : Team) (off n : Nat) : Except ImgErr Unit := do
  let v ← s.imgLE x off n
  imgCheck (v == 0)

def check (b : Bool) : Option Unit := if b then some () else none

/-- The role entries satisfy R38: kinds each at most once, groups in order, register counts in range; unused entries zero. -/
def rolesOk (ngroups : Nat) (rs : List Role) : Bool :=
  (rs.map (·.kind)).all (fun k => decide (k ≤ 3)) && (rs.map (·.kind)).eraseDups.length == rs.length
  && (rs.zipIdx.all fun p => p.1.first == ((rs.take p.2).map (·.count)).sum && decide (1 ≤ p.1.count) && decide (1 ≤ p.1.vregs)
    && decide (p.1.vregs ≤ p.1.vmax) && decide (p.1.vmax ≤ 256))
  && (rs.map (·.count)).sum == ngroups

/-- R211, R212: reserved bits, order, extent and overlap of the windows that are on. -/
def swzOk (tmem : Nat) (ws : List Dword) : Bool :=
  let on := ws.filter fun w => w.extractLsb' 40 2 != 0#2
  let first := fun (w : Dword) => (w.extractLsb' 0 10).toNat
  let last := fun (w : Dword) => (w.extractLsb' 16 10).toNat
  ws.all (fun w => w.extractLsb' 42 22 == 0#22 && w.extractLsb' 26 14 == 0#14 && w.extractLsb' 10 6 == 0#6)
  && on.all (fun w => decide (first w ≤ last w) && decide (256 * (last w + 1) ≤ tmem))
  && on.zipIdx.all fun p => (on.drop (p.2 + 1)).all fun w => decide (last p.1 < first w) || decide (last w < first p.1)

/-- R212: the bank map of a team address. -/
def swizzle (ws : List Dword) (t : Nat) : Nat :=
  match ws.find? fun w => w.extractLsb' 40 2 != 0#2 && decide (256 * (w.extractLsb' 0 10).toNat ≤ t)
      && decide (t < 256 * ((w.extractLsb' 16 10).toNat + 1)) with
  | none => t
  | some w => t ^^^ ((t - 256 * (w.extractLsb' 0 10).toNat) / (64 * 2 ^ (w.extractLsb' 40 2).toNat) % 32 * 8)

/-- A lane entry (R201, R205); ST above 2 is refused (DESIGN CHOICE, log 45). The predicate of a wait at `rejoin.tmo`, which R183 does not list, is read
again from the word at the lane's PC (DEDUCED, log 56). -/
def State.parseLane (s : State) (x : Team) (smap now off : Nat) : Except ImgErr Lane := do
  let pc ← s.imgLE x off 8
  let st ← s.imgLE x (off + 8) 1
  let rc ← s.imgLE x (off + 9) 1
  let k ← s.imgLE x (off + 10) 1
  let w ← s.imgLE x (off + 11) 1
  let ticks ← s.imgLE x (off + 12) 4
  imgCheck (pc % 4 == 0 && decide (pc < 2 ^ 58) && decide (st ≤ 2) && decide (rc < 32) && smap.testBit rc && decide (k ≤ 24) && w / 8 % 8 == 0)
  let wp := match s.fetchWord x pc with
    | .ok word => match decode word with
      | .ok (.rejoinTmo _ p _ _) => p
      | _ => 15
    | .error _ => 15
  pure { st := if st = 0 then .running else if st = 1 then .waiting else .exited, pc := BitVec.ofNat 64 pc, rc, off := k, wj := w % 8,
         wdl := if w.testBit 7 then some (now + ticks) else none, wp, yld := w.testBit 6 }

/-- A state record (R202, R205); MODE above 3 is refused (DESIGN CHOICE, log 45). -/
def State.parseRec (s : State) (x : Team) (n off : Nat) : Except ImgErr StRec := do
  let pc ← s.imgLE x off 8
  let o ← s.imgLE x (off + 8) 1
  let cls ← s.imgLE x (off + 9) 1
  let skid ← s.imgLE x (off + 10) 1
  let mode ← s.imgLE x (off + 11) 1
  let code ← s.imgLE x (off + 12) 2
  let rfl ← s.imgLE x (off + 14) 2
  let fp ← s.imgLE x (off + 16) 4
  let f0 ← s.imgLE x (off + 0x14) 4
  let f1 ← s.imgLE x (off + 0x18) 4
  let f2 ← s.imgLE x (off + 0x1C) 4
  let f3 ← s.imgLE x (off + 0x20) 4
  let rp ← s.imgLE x (off + 0x24) 4
  s.imgZero x (off + 0x28) 24
  let hdr ← s.imgLE x (off + 0x40) 8
  let pos ← s.imgLE x (off + 0x48) 4
  let kind ← s.imgLE x (off + 0x4C) 1
  s.imgZero x (off + 0x4D) 3
  let fa ← s.imgLE x (off + 0x50) 8
  let fpos ← s.imgLE x (off + 0x58) 1
  let fl ← s.imgLE x (off + 0x59) 1
  s.imgZero x (off + 0x5A) 38
  imgCheck (pc % 4 == 0 && decide (pc < 2 ^ 58) && decide (o ≤ 24) && decide (mode ≤ 3) && (mode != 0 || n == 0) && decide (rfl < 4) && decide (fp < 32))
  imgCheck ([f0, f1, f2, f3].all (fun f => f / 2 ^ 29 % 4 == 0 && f / 2 ^ 10 % 64 == 0) && (kind == 2 || decide (pos < 2 ^ 24)))
  let sv ← (List.range x.sregs).mapM fun k => s.imgLE x (off + 0x80 + 4 * k) 4
  let av ← (List.range x.aregs).mapM fun k => do
    let b ← s.imgLE x (off + 0x80 + imgSA x.sregs + 16 * k) 8
    let t ← s.imgLE x (off + 0x80 + imgSA x.sregs + 16 * k + 8) 4
    s.imgZero x (off + 0x80 + imgSA x.sregs + 16 * k + 12) 4
    pure ({ base := BitVec.ofNat 64 b, stride := BitVec.ofNat 32 t } : Aff)
  pure { mode := if mode = 0 then .main else if mode = 1 then .held else if mode = 2 then .handling else .resumed, hasRec := rfl % 2 == 1,
         pc := BitVec.ofNat 64 pc, off := o, cls, skid, code := BitVec.ofNat 16 code, hasReplay := rfl / 2 == 1,
         replay := { hdr := BitVec.ofNat 64 hdr, pos := if kind = 2 then 0#24 else BitVec.ofNat 24 pos, kind := if kind = 0 then 1 else kind,
                     faddr := BitVec.ofNat 64 fa, fpos, flane := fl, slot := if kind = 2 then pos else 0 },
         rpend := BitVec.ofNat 32 rp, fpCtl := BitVec.ofNat 32 fp,
         fmt := SMap.setRun [] 0 ([f0, f1, f2, f3].map (BitVec.ofNat 32)), s := SMap.setRun [] 0 (sv.map (BitVec.ofNat 32)), a := SMap.setRun [] 0 av }

/-- A group record with its varying registers (R200, R203, R205). -/
def State.parseGroup (s : State) (x : Team) (now k : Nat) : Except ImgErr (Group × Nat) := do
  let o := x.groupOff + k * imgGREC x.sregs x.aregs
  let smap ← s.imgLE x (o + 0x280) 4
  let lanes ← (List.range 32).mapM fun l => s.parseLane x smap now (o + 16 * l)
  let preds ← (List.range 15).mapM fun n => s.imgLE x (o + 0x200 + 4 * n) 4
  s.imgZero x (o + 0x23C) 4
  let js ← (List.range 8).mapM fun n => s.imgLE x (o + 0x240 + 4 * n) 4
  let fs ← (List.range 12).mapM fun n => s.imgLE x (o + 0x260 + n) 1
  let fp ← s.imgLE x (o + 0x26C) 4
  let vcur ← s.imgLE x (o + 0x270) 2
  let vmax ← s.imgLE x (o + 0x272) 2
  let role ← s.imgLE x (o + 0x275) 1
  s.imgZero x (o + 0x276) 2
  let vb ← s.imgLE x (o + 0x278) 8
  s.imgZero x (o + 0x284) 380
  let r ← match x.roles.find? fun r => decide (r.first ≤ k) && decide (k < r.first + r.count) with
    | some r => Except.ok r
    | none => .error none
  imgCheck (decide (1 ≤ vcur) && decide (vcur ≤ vmax) && vmax == r.vmax && fs.all (fun c => decide (c ≤ 63)) && decide (fp < 32))
  imgCheck (smap != 0 || lanes.all fun y => y.st == .exited)
  let recs ← ((List.range 32).filter fun n => smap.testBit n).mapM fun n => do
    let rr ← s.parseRec x n (o + 1024 + n * imgSREC x.sregs x.aregs)
    pure (n, rr)
  let vs ← (List.range (32 * vcur)).mapM fun n => s.imgLE x (vb + 4 * n) 4
  let g : Group := { lanes, recs, preds := SMap.setRun [] 0 (preds.map (BitVec.ofNat 32)), jm := SMap.setRun [] 0 (js.map (BitVec.ofNat 32)),
                     flags := SMap.setRun [] 0 fs, fpStatus := BitVec.ofNat 32 fp, v := SMap.setRun [] 0 (vs.map (BitVec.ofNat 32)), vcur, vmax, role }
  pure (g.dropEmpty, vb)

/-- Areas in order without overlap, each at a multiple of 256 (R205). -/
def areasOk (size : Nat) : Nat → List (Nat × Nat) → Bool
  | lo, [] => decide (lo ≤ size)
  | lo, (o, n) :: rest => decide (lo ≤ o) && o % 256 == 0 && areasOk size (o + n) rest

/-- RESTORING (R205): the team an image holds, or what refuses it. HANDLER and ENTRY are taken as they stand: R205 names no check of them (DESIGN
CHOICE, log 45). `x` gives the image's address, slice, ASID, privilege and
place; the answer also gives the STATUS found. -/
def State.parseImage (s : State) (x : Team) (now : Nat) : Except ImgErr (Team × Nat) := do
  let rd := fun o n => s.imgLE x o n
  let magic ← rd 0 4
  let ver ← rd 4 2
  let status ← rd 6 2
  let ng ← rd 8 1
  let nr ← rd 9 1
  let ar ← rd 10 1
  let sr ← rd 11 1
  let tiles ← rd 12 1
  s.imgZero x 13 3
  let tm ← rd 0x10 4
  let ob ← rd 0x14 4
  let entry ← rd 0x18 8
  let hand ← rd 0x20 8
  let idx ← rd 0x28 4
  let cnt ← rd 0x2C 4
  let dl ← rd 0x30 8
  let srec ← rd 0x38 4
  let grec ← rd 0x3C 4
  let gOff ← rd 0x80 8
  let tOff ← rd 0x88 8
  let oOff ← rd 0x90 8
  let aOff ← rd 0x98 8
  let size ← rd 0xA0 8
  s.imgZero x 0xA8 24
  imgCheck (magic == 0x34494347 && ver == 1 && (status == 0 || status == 1 || status == 4))
  imgCheck (decide (1 ≤ ng) && decide (ng ≤ 16) && decide (1 ≤ nr) && decide (nr ≤ 4) && decide (ar ≤ 64) && decide (sr ≤ 128)
    && (tiles == 0 || tiles == 8) && tm % 256 == 0 && decide (tm ≤ 262144) && ob % 1024 == 0 && decide (ob ≤ 196608))
  let roles ← (List.range nr).mapM fun k => do
    let o := 0x40 + 16 * k
    let kind ← rd o 1
    let first ← rd (o + 1) 1
    let count ← rd (o + 2) 1
    s.imgZero x (o + 3) 1
    let vregs ← rd (o + 4) 2
    let vmax ← rd (o + 6) 2
    s.imgZero x (o + 8) 8
    pure ({ kind, first, count, vregs, vmax } : Role)
  s.imgZero x (0x40 + 16 * nr) (16 * (4 - nr))
  imgCheck (rolesOk ng roles && srec == imgSREC sr ar && grec == imgGREC sr ar)
  let swz ← (List.range 4).mapM fun k => rd (0xC0 + 8 * k) 8
  imgCheck (swzOk tm (swz.map (BitVec.ofNat 64)))
  let xs ← (List.range 8).mapM fun k => rd (0xE0 + 4 * k) 4
  let obr ← (List.range 16).mapM fun k => rd (0x100 + 8 * k) 8
  let chs ← (List.range 16).mapM fun k => rd (0x180 + 8 * k) 8
  imgCheck (obr.all (fun v => v / 2 ^ 32 % 2 ^ 31 == 0) && chs.all fun v => v % 512 == 0)
  let y : Team := {
    x with
    entry := BitVec.ofNat 64 entry, handler := (if hand = 2 ^ 64 - 1 then none else some (BitVec.ofNat 64 hand)), idx := idx, count := cnt,
    ngroups := ng, roles := roles, aregs := ar, sregs := sr, tiles := tiles, tmemSize := tm, obufSize := ob,
    deadline := BitVec.ofNat 64 dl, groupOff := gOff, tmemOff := tOff, obufOff := oOff, accOff := aOff, size := size }
  let gs ← (List.range ng).mapM fun k => s.parseGroup y now k
  let vareas := (gs.map Prod.snd).zipIdx.map fun p => (p.1, 128 * ((gs.getD p.2 ({}, 0)).1.vmax))
  imgCheck (areasOk size 0 ([(0, 512), (gOff, ng * grec)] ++ vareas ++ [(tOff, tm), (oOff, ob), (aOff, 32768 * tiles)]))
  (List.range (pageCount x.image size)).forM fun k => do
    let va := if k = 0 then x.image else (x.image / 2 ^ 14 + k) * 2 ^ 14
    match s.teamXlat x needRW va with
    | .ok _ => Except.ok ()
    | .error e => .error (some (va, e))
  let tmem ← (List.range tm).mapM fun t => rd (tOff + t) 1
  let obuf ← (List.range ob).mapM fun t => rd (oOff + t) 1
  let tile ← (List.range (4096 * tiles)).mapM fun k => rd (aOff + 8 * k) 8
  pure ({
    y with
    vbase := SMap.setRun [] 0 (gs.map Prod.snd), swz := SMap.setRun [] 0 (swz.map (BitVec.ofNat 64)),
    groups := gs.zipIdx.foldl (fun m p => SMap.put m p.2 p.1.1) [],
    tmem := SMap.setRun [] 0 (tmem.map (BitVec.ofNat 8)), obuf := SMap.setRun [] 0 (obuf.map (BitVec.ofNat 8)),
    tile := SMap.setRun [] 0 (tile.map (BitVec.ofNat 64)), xstat := SMap.setRun [] 0 (xs.map (BitVec.ofNat 32)),
    obres := SMap.setRun [] 0 (obr.map (BitVec.ofNat 64)), chst := SMap.setRun [] 0 (chs.map (BitVec.ofNat 64)) }, status)

end Sys2Proof.Machine
end

