-- ==== Sys2Proof/Machine/Sched.lean ====
section
/-!
DEFINITION. The die's scheduler (spec/16 R387-R407, spec/08 R196-R209, spec/12 R323): queues, grids, ranking, admission, pre-emption,
restores and suspensions, the register cache, task lists, waits on memory, deadlines.
-/
namespace Sys2Proof.Machine

/-! ## The device's own accesses -/

/-- An address space as the device uses it. -/
def devSpace (slice die asid : Nat) : Team := { slice, die, asid, priv := true }
/-- The place of a virtual address. -/
def State.vplace (s : State) (x : Team) (need : BitVec 4) (va : Nat) : Except XErr Nat :=
  if 2 ^ 58 ≤ va then .error { cls := .memXlate, stage := 1, level := 0 } else s.teamXlat x need va
/-- `n` bytes at a virtual address, each at the place that `at?` gives. -/
def State.readAt (s : State) (at? : Nat → Except XErr Nat) (va : Nat) : Nat → Except (Nat × XErr) Nat
  | 0 => .ok 0
  | n + 1 =>
    match at? va with
    | .error e => .error (va, e)
    | .ok pa =>
      if s.poisoned pa then .error (va, { cls := .memPoison, stage := 0, level := 0 })
      else (State.readAt s at? (va + 1) n).map fun v => (s.byte pa).toNat + 256 * v
/-- The device's own read: of another package's memory as its owner answers (R461). -/
def State.vread (s : State) (x : Team) (va n : Nat) : Except (Nat × XErr) Nat := s.readAt (fun a => (s.vplace x needR a).bind (s.devSays x.slice)) va n
/-- The device's own write of `n` bytes by an agent: in full, or not at all. -/
def State.vwrite (s : State) (x : Team) (agent va v n : Nat) : Except (Nat × XErr) State := do
  let pas ← (List.range n).mapM fun k =>
    match (s.vplace x needW (va + k)).bind (s.devSays x.slice) with
    | .ok pa => .ok pa
    | .error e => .error (va + k, e)
  pure (if n ≤ 4 then s.storeRun agent (storeStamp s.stamp) (pas.zip (leBytes v n))
    else (pas.zip (leBytes v n)).foldl (fun s p => s.storeByte agent (storeStamp s.stamp) p.1 p.2) s)
/-- A write that is dropped where it cannot be made. -/
def State.vwriteOr (s : State) (x : Team) (agent va v n : Nat) : State := match s.vwrite x agent va v n with | .ok t => t | .error _ => s
/-- Agents: the scheduler of a die for a slice, and a slice's command processor (DEDUCED, log 27). -/
def schedAgent (slice die : Nat) : Nat := 2 ^ 50 + 256 * die + slice
/-- DEDUCED, log 27. -/
def cpAgent (slice : Nat) : Nat := 2 ^ 50 + 1024 + slice
/-- The firmware core of a die as a place (DEDUCED, log 27). -/
def fwPlace (slice die : Nat) : Place := { slice, die, cluster := 13 * die + 12, core := 0, team := 0, grp := 0 }

/-! ## Slices, cores (R426, R427) -/

/-- The core pair of a core. -/
def pairOf (die cl core : Nat) : Nat := 4 * (12 * die + cl) + core / 2
/-- DESIGN CHOICE, log 1. -/
def State.ownsPair (s : State) (sl p : Nat) : Bool :=
  if sl = 192 then !(s.slices.any fun q => q.2.pairs.contains p) else (s.slices.get sl).pairs.contains p
/-- The slice's work cores on a die: cluster and core. -/
def State.coresOf (s : State) (sl die : Nat) : List (Nat × Nat) :=
  (List.range 12).flatMap fun cl => ((List.range 8).filter fun k => s.ownsPair sl (pairOf die cl k)).map fun k => (cl, k)
def State.clustersOf (s : State) (sl die : Nat) : List Nat :=
  (List.range 12).filter fun cl => (List.range 8).any fun k => s.ownsPair sl (pairOf die cl k)
def State.setSdReg (s : State) (sl die n : Nat) (v : Word) : State :=
  let x := s.sliceDieOf sl die
  s.setSliceDie sl die { x with reg := x.reg.set n v }
/-- SLICE_CTL.FREEZE or SLICE_STAT.RESETTING: nothing of the slice starts (R442, R444). -/
def State.halted (s : State) (sl : Nat) : Bool := (s.sreg sl 0x501).getLsbD 1 || (s.sreg sl 0x502).getLsbD 1

/-- A function's MSI-X vector becomes pending (R448): functions are slices, 192 the PF. -/
def State.signal (s : State) (fn vec : Nat) : State := { s with msix := s.msix.set fn (s.msix.get fn ||| 2 ^ vec) }

def State.signalVf (s : State) (sl vec : Nat) : State := if sl < 192 then s.signal sl vec else s

/-! ## Grids and queues -/

def State.grid? (s : State) (g : Nat) : Option Grid := s.grids.find? g
def State.setGrid (s : State) (g : Nat) (x : Grid) : State := { s with grids := s.grids.put g x }
def State.updGrid (s : State) (g : Nat) (f : Grid → Grid) : State := match s.grid? g with | some x => s.setGrid g (f x) | none => s
/-- Grids pending of a slice on a die. -/
def State.pending (s : State) (sl die : Nat) : Nat := (s.grids.filter fun p => p.2.slice == sl && p.2.die == die).length
def queueKey (sl qid : Nat) : Nat := 4096 * sl + qid
def State.queue? (s : State) (sl qid : Nat) : Option Queue := s.queues.find? (queueKey sl qid)

/-- A task entry is well formed (R390). -/
def entryOk (e : Nat) : Bool :=
  let teams := recFld e 28 4
  let stride := recFld e 32 4
  recFld e 0 8 % 4096 == 0 && decide (recFld e 0 8 < 2 ^ 58) && recFld e 16 8 % 4 == 0 && recFld e 24 4 != 2 ^ 32 - 1
  && decide (1 ≤ teams) && decide (teams ≤ 2 ^ 20) && stride % 4096 == 0 && (teams == 1 || decide (4096 ≤ stride)) && recFld e 36 28 == 0
/-- The grid of an entry, whose teams have not started. -/
def gridOf (s : State) (slice die asid : Nat) (priv : Bool) (cls qid e : Nat) : Grid :=
  { slice, die, asid, priv, cls, qid, deadline := if cls = 0 then BitVec.allOnes 64 else BitVec.ofNat 64 (recFld e 8 8), done := recFld e 16 8,
    doneval := recFld e 24 4, teams := recFld e 28 4, image := recFld e 0 8, stride := recFld e 32 4, take := s.stamp, launchSeq := s.coNext - 1,
    left := [(0, recFld e 28 4)] }
def State.addGrid (s : State) (g : Grid) : State := { s.setGrid s.stamp g with stamp := s.stamp + 1 }

/-- The privileged queue table's entry of a queue (R434), in PF memory. -/
def State.pqtStore (s : State) (sl qid : Nat) (q : Queue) (bound : Bool) : State :=
  let pqt := (s.sreg 192 0x510).toNat + 2 ^ 32 * (s.sreg 192 0x511).toNat
  let v := q.hdr + 2 ^ 64 * q.ring + 2 ^ 128 * q.size + 2 ^ 160 * q.tail + 2 ^ 192 * q.head + 2 ^ 224 * q.cls + 2 ^ 232 * q.die + 2 ^ 240 * qid
    + 2 ^ 256 * q.waitTh + 2 ^ 288 * q.asid + (if bound then 2 ^ 304 else 0) + (if q.mismatch then 2 ^ 305 else 0) + 2 ^ 320 * q.miscount
  s.vwriteOr (devSpace 192 0 0) (cpAgent 192) (pqt + 64 * (4096 * sl + qid)) v 64
def State.setQueue (s : State) (sl qid : Nat) (q : Queue) : State :=
  ({ s with queues := s.queues.put (queueKey sl qid) q } : State).pqtStore sl qid q true
def Queue.space (q : Queue) (sl : Nat) : Team := devSpace sl q.die q.asid
/-- The device's new TAIL or HEAD in the header (R389). -/
def State.headerWord (s : State) (sl : Nat) (q : Queue) (off v : Nat) : State := s.vwriteOr (q.space sl) (schedAgent sl q.die) (q.hdr + off) v 4

/-- The P fields of the header are compared with the entry at every take and append (R436). -/
def State.checkHeader (s : State) (sl qid : Nat) (q : Queue) : State × Queue :=
  let same := match s.vread (q.space sl) q.hdr 32 with
    | .ok h => recFld h 0 8 == q.ring && recFld h 8 4 == q.size && recFld h 24 1 == q.cls && recFld h 25 1 == q.die && recFld h 26 2 == qid
        && recFld h 28 4 == q.waitTh
    | .error _ => false
  if same then (s, q)
  else
    let st := s.sreg sl 0x502
    ((s.setSreg sl 0x502 ((st &&& 0xFFFF#32) ||| (((st >>> 16) + 1#32) <<< 16))).signalVf sl 6, { q with mismatch := true, miscount := (q.miscount + 1) % 2 ^ 32 })

def qFull : Nat := 0x80000001
def qNotBound : Nat := 0x80000002
def qBadEntry : Nat := 0x80000003
def qWriteFail : Nat := 0x80000004
/-- Appending an entry to a queue of a slice (R393): the state after, and the status. -/
def State.append (s : State) (sl : Nat) (qid : Option Nat) (e : Nat) : State × Nat :=
  match qid.bind fun n => (s.queue? sl n).map fun q => (n, q) with
  | none => (s, qNotBound)
  | some (n, q) =>
    if !entryOk e then (s, qBadEntry)
    else if (q.tail + 2 ^ 32 - q.head) % 2 ^ 32 = q.size then (s, qFull)
    else
      let (s, q) := s.checkHeader sl n q
      match s.vwrite (q.space sl) (schedAgent sl q.die) (q.ring + 64 * (q.tail % q.size)) e 64 with
      | .error _ => (s.setQueue sl n q, qWriteFail)
      | .ok s =>
        let q' := { q with tail := (q.tail + 1) % 2 ^ 32, appended := q.appended ++ [s.dieCount q.die] }
        ((s.setQueue sl n q').headerWord sl q 0x10 q'.tail, q.tail % 2 ^ 31)

/-- The die of a slice's command processor: its context there takes the next command, where the slice holds a pair (R427) (DEDUCED, log 35). -/
def State.cpDie (s : State) (sl : Nat) : Nat :=
  let d := (s.cps.get sl).die
  if (s.clustersOf sl d).isEmpty then ((List.range 4).find? fun d => !(s.clustersOf sl d).isEmpty).getD 0 else d
/-- The command processor has read or adopted some stores. -/
def State.cpSees (s : State) (sl : Nat) (view : SMap Nat) : State :=
  { s with cps := s.cps.set sl { s.cps.get sl with lb := joinView (s.cps.get sl).lb view } }
/-- An adopt by it at a scope, of every publication so far (R221, R432). -/
def State.cpAdopt (s : State) (sl die : Nat) (sc : Scope) : State := s.cpSees sl (snapshotAt s.pubs sc (fwPlace sl die) s.pubs.length)

/-- A ring command completes: its REL publication of what the command processor has stored, read and adopted (R220), its interrupt, and the next slot is examined (R432, R448). -/
def State.completeCmd (s : State) (sl n : Nat) : State :=
  match (s.cmds.get sl).find? fun c => c.n == n with
  | none => s
  | some c =>
    let s := match c.rel with
      | some sc => s.publishAs (fwPlace sl c.die) (cpAgent sl) sc .plain (joinView (s.storesOf (cpAgent sl)) (s.cps.get sl).lb)
      | none => s
    { s.signal sl 0 with
      cmds := s.cmds.set sl ((s.cmds.get sl).filter fun k => k.n != n), stamp := s.stamp + 1, ringDue := (sl :: s.ringDue).eraseDups }

/-- A queue's head entry is taken (R391): HEAD advances; a bad entry is reported. -/
def State.takeHead (s : State) (sl qid : Nat) (q : Queue) : State :=
  let (s, q) := s.checkHeader sl qid q
  let va := q.ring + 64 * (q.head % q.size)
  let e := s.vread (q.space sl) va 64
  let cmd := (q.launches.find? fun l => l.1 == q.head).map fun l => (sl, l.2)
  let q' := { q with head := (q.head + 1) % 2 ^ 32, appended := q.appended.drop 1, launches := q.launches.filter fun l => l.1 != q.head }
  let s := (s.setQueue sl qid q').headerWord sl q 0x14 q'.head
  let bad := fun cls detail =>
    let s := s.raise sl q.die { kind := 1, src := qid, cls, detail, addr := va, event := 4 }
    match cmd with
    | some (sl, n) => s.completeCmd sl n
    | none => s
  match e with
  | .error (_, x) => bad x.cls.code x.detail
  | .ok e => if entryOk e then s.addGrid { gridOf s sl q.die q.asid (sl == 192) q.cls qid e with cmd } else bad 0 0
def Queue.empty (q : Queue) : Bool := q.tail == q.head

/-- QUEUE_TAKE (R391): the head of a deadline queue. -/
def execQueueTake (sl qid : Nat) (s : State) : Host.Outcome State Fault Refusal :=
  eventOf "QUEUE_TAKE" do
    let q ← s.queue? sl qid
    if q.cls = 0 || q.empty || s.halted sl || 1024 ≤ s.pending sl q.die then none else some (s.takeHead sl qid q)

/-! ## The end of a grid (R391, R392, R425, R432) -/

/-- Every team has ended or will never start: DONE is written after a `.dom` publication, a refusal is reported. -/
def State.finishGrid (s : State) (g : Nat) : State :=
  match s.grid? g with
  | none => s
  | some x =>
    if !x.left.isEmpty || x.listed != 0 || x.running != 0 then s
    else
      let ag := schedAgent x.slice x.die
      let s := { s.publishAs (fwPlace x.slice x.die) ag .dom .plain (s.storesOf ag) with stamp := s.stamp + 1 }
      let s := if x.done = 0 then s
        else s.vwriteOr (devSpace x.slice x.die x.asid) ag x.done (if x.failed then 2 ^ 32 - 1 else x.doneval) 4
      let s := match x.report with
        | some r => s.raise x.slice x.die r
        | none => s
      let s := { s with grids := s.grids.erase g, stamp := s.stamp + 1 }
      match x.cmd with
      | some (sl, n) => s.completeCmd sl n
      | none => s
/-- A grid fails: none of its unstarted teams starts. -/
def State.failGrid (s : State) (g : Nat) (report : Option FaultRec) : State :=
  let fresh := fun (t : Task) => match t with | .fresh k _ => k == g | .team _ => false
  { s.updGrid g (fun x => { x with failed := true, left := [], listed := 0, report := if x.failed then x.report else report }) with
    lists := s.lists.foldl (fun (m : SMap (List Task)) p => m.set p.1 (p.2.filter fun t => !fresh t)) s.lists,
    transit := s.transit.filter fun t => !fresh t.task }

/-! ## Suspension (R401, R206, R207) -/

/-- A path's place is saved: no lane stands in a started clause, holds are dropped, and deadlines become remaining ticks (DEDUCED, log 35). -/
def Group.save (g : Group) (now : Nat) : Group :=
  let g := g.unstart
  let g := g.holds.foldl (fun (g : Group) h => match h.kind with
    | .waitv _ _ _ _ (some d) => g.updLanes h.lanes fun _ y => { y with wdl := some d }
    | _ => g) g
  { (g.updLanes 0xFFFFFFFF#32 fun _ y => { y with hdr := none, wdl := y.wdl.map fun d => d - now }) with holds := [] }
/-- On restore, deadlines count from the counter (R183, R406). -/
def Group.reload (g : Group) (now : Nat) : Group := g.updLanes 0xFFFFFFFF#32 fun _ y => { y with wdl := y.wdl.map fun d => now + d }
def Team.mapGroups (x : Team) (f : Group → Group) : Team := { x with groups := x.groups.map fun p => (p.1, f p.2) }

/-! ### Lines of an image (R206, R207)

A resident team's state stands in `Team`, wherever its lines lie, and its image in memory is older. The lines that cores hold of a suspended team are
those in `lines`: the ones the register cache was given, and every line whose bytes differ from memory (DESIGN CHOICE, log 53). -/

/-- Where a byte of an image lies: as its page is translated now, else where it lay at the restore. -/
def State.imgHome (s : State) (x : Team) (a : Nat) : Option Nat :=
  match s.teamXlat { x with priv := true } needR a with
  | .ok pa => some pa
  | .error _ => (x.pages.find? (a / 2 ^ 14)).map (· + a % 2 ^ 14)
/-- The lines of a field whose bytes in memory are not the team's. -/
def State.fieldLines (s : State) (x : Team) (f : Fld) : List Nat :=
  (((leBytes f.2.2 f.2.1).zipIdx.filter fun b => match s.imgHome x (x.image + f.1 + b.2) with
    | some pa => s.byte pa != b.1
    | none => true).map fun b => (f.1 + b.2) / 128).eraseDups
/-- The lines of an image that a core must hold, since memory is older. -/
def State.dirtyLines (s : State) (x : Team) (now : Nat) : List Nat := ((x.fields now).flatMap (s.fieldLines x)).eraseDups
/-- The lines that cores hold of a team: those it was given, and on its own core the others that are dirty; a lost line is gone (R207). -/
def State.heldLines (s : State) (x : Team) (now : Nat) : List (Nat × Nat) :=
  x.lines ++ ((s.dirtyLines x now).filter fun l => !x.lostLines.contains l && !x.lines.any fun k => k.2 == l).map fun l => (x.coreId, l)
/-- The fields of a line. -/
def Team.lineFields (x : Team) (now l : Nat) : List Fld := (x.fields now).filter fun f => decide (128 * l ≤ f.1) && decide (f.1 < 128 * l + 128)
/-- A line whose bytes in memory are not the team's. -/
def State.lineDirty (s : State) (x : Team) (now l : Nat) : Bool := (x.lineFields now l).any fun f => !(s.fieldLines x f).isEmpty
/-- A line of the header: no store of R207 caches it, and it is written back with the last of the others (DESIGN CHOICE, log 53). -/
def headLine (l : Nat) : Bool := decide (l < 4)
/-- A line that the register cache may hold: of the group records or the varying registers (R207). -/
def Team.regLine (x : Team) (l : Nat) : Bool :=
  (decide (x.groupOff ≤ 128 * l) && decide (128 * l < x.groupOff + x.ngroups * imgGREC x.sregs x.aregs))
  || x.groups.any fun p => decide (x.vbase.get p.1 ≤ 128 * l) && decide (128 * l < x.vbase.get p.1 + 128 * p.2.vmax)
/-- A line of an area of the image. -/
def inArea (off size l : Nat) : Bool := decide (off ≤ 128 * l) && decide (128 * l < off + size)
/-- A line of the operand buffer or the accumulator store. -/
def Team.matrixLine (x : Team) (l : Nat) : Bool := inArea x.obufOff x.obufSize l || inArea x.accOff (32768 * x.tiles) l
/-- A matrix operation of the team is still to finish with the core's lines (R289). -/
def State.matrixBusy (s : State) (t : Nat) : Bool := s.ops.any fun o => o.team == t && o.kind.tile?.isSome

/-- SUSPENDING a resident team (R401, R206): its paths' places are saved; STATUS 4, or 1 where no core holds a line of it, nor uses one for the team's
matrix operations (R289). -/
def State.suspend (s : State) (t : Nat) : State :=
  match s.team? t with
  | none => s
  | some x =>
    if x.st != .resident then s
    else
      let x := x.mapGroups fun g => g.save (s.dieCount x.die)
      let lines := s.heldLines x 0
      let done := lines.isEmpty && !s.matrixBusy t
      let x := { x with lines, st := if done then .written else .suspended }
      (s.setTeam t x).writeStatus x (if done then 1 else 4)
/-- The grid of a team ends as failed: none of its unstarted teams starts, and the started ones are suspended (R401) and will end (R425)
(DEDUCED, log 24). -/
def State.stopGrid (s : State) (g : Nat) : State :=
  let s := s.failGrid g none
  let ts := (s.teams.filter fun (p : Nat × Team) => p.2.grid == g).map (·.1)
  ts.foldl (fun s t => (s.suspend t).updTeam t fun x => { x with ending := true, asleep := none }) s
/-- A write-back that fails: the line is lost, the logger of the core that held it reports it, and the team's grid ends as failed (R207). -/
def State.lostLine (s : State) (x : Team) (core line : Nat) (e : XErr) : State :=
  (s.raise x.slice (core / 256)
    { kind := 0, src := core, cls := e.cls.code, addr := x.image + 128 * line, image := x.image, event := 9, detail := e.detail }).stopGrid x.grid
/-- A line leaves its core: a dirty one is written back, in full or not at all; one that cannot be is lost (R207). -/
def State.writeLine (s : State) (t : Nat) (l : Nat × Nat) : State :=
  match s.team? t with
  | none => s
  | some x =>
    let x := { x with lines := x.lines.filter fun k => k != l }
    let now := if x.st = .resident then s.dieCount x.die else 0
    if !s.lineDirty x now l.2 then s.setTeam t x
    else match s.imgStoreAll x (128 * l.2) (128 * l.2 + 128) (x.lineFields now l.2) with
    | .ok s => s.setTeam t x
    | .error e => (s.setTeam t { x with lostLines := l.2 :: x.lostLines }).lostLine x l.1 l.2 e.2
/-- STATUS 1 once no core holds a line of a suspended team's image (R206) or uses one for it (R289). -/
def State.settleLines (s : State) (t : Nat) : State :=
  match s.team? t with
  | none => s
  | some x => if x.st = .suspended && x.lines.isEmpty && !x.ending && !s.matrixBusy t then (s.setTeam t { x with st := .written }).writeStatus x 1 else s
/-- Every line that a core holds of a team is written back. -/
def State.writeLines (s : State) (t : Nat) : State :=
  match s.team? t with
  | none => s
  | some x => x.lines.foldl (fun s l => s.writeLine t l) s
def State.writeBack (s : State) (t : Nat) : State := (s.writeLines t).settleLines t
/-- A suspended team whose lines are to be written back now: stopped by a debugger (R423), its slice frozen (R444), a line of it on a core that its slice no
longer holds (R438) (DEDUCED, log 36), or no line but the header's left. -/
def State.linesDue (s : State) (t : Nat) : Option State := do
  let x ← s.team? t
  if x.st == .suspended && !x.ending && !s.matrixBusy t
      && (x.stopped || (s.sreg x.slice 0x501).getLsbD 1 && x.cluster != 12 || (x.lines.all fun l => headLine l.2)
          || x.lines.any fun l => l.1 / 16 % 16 < 12 && !s.ownsPair x.slice (pairOf (l.1 / 256) (l.1 / 16 % 16) (l.1 % 16))) then some (s.writeBack t)
  else none
/-- Evicting one line of a team from a core. -/
def State.evict (s : State) (t : Nat) (l : Nat × Nat) : State := (s.writeLine t l).settleLines t
/-- The lines that a core holds of its teams in the operand buffer and the accumulator store are written back (R291). -/
def State.flushMatrix (s : State) (core : Nat) : State :=
  s.teams.foldl (fun s p =>
    let ls := if p.2.st = .resident then s.heldLines p.2 (s.dieCount p.2.die) else p.2.lines
    (ls.filter fun l => l.1 == core && p.2.matrixLine l.2).foldl (fun s l => s.evict p.1 l) s) s
/-- A line whose bytes differ from memory while its team is resident belongs to the core's copy: the team's lines at its end. -/
def State.gatherLines (s : State) (t : Nat) : State :=
  match s.team? t with
  | none => s
  | some x =>
    if x.st != .resident then s
    else s.setTeam t { x with lines := s.heldLines x (s.dieCount x.die) }

/-- REGISTER_CACHE_ALLOCATE (R209): a resident team's line comes onto its core; the 2,049th takes a victim, of suspended teams first,
else of the resident team with the latest deadline, then the most recently restored. -/
def execRegisterCacheAllocate (core t line : Nat) (s : State) : Host.Outcome State Fault Refusal :=
  eventOf "REGISTER_CACHE_ALLOCATE" do
    let x ← s.team? t
    if x.st != .resident || x.coreId != core || !x.regLine line || x.lines.contains (core, line) then none
    else
      let add := fun (s : State) => s.updTeam t fun x => { x with lines := (core, line) :: x.lines }
      let on := s.teams.flatMap fun p => (p.2.lines.filter fun l => l.1 == core && p.2.regLine l.2).map fun l => (p.1, p.2, l)
      if on.length < 2048 then some (add s)
      else
        let better := fun (a b : Nat × Team × (Nat × Nat)) =>
          if a.2.1.st != .resident then true
          else if b.2.1.st != .resident then false
          else decide (b.2.1.deadline.toNat < a.2.1.deadline.toNat) || (a.2.1.deadline == b.2.1.deadline && decide (b.2.1.restored ≤ a.2.1.restored))
        let v ← on.foldl (fun (m : Option (Nat × Team × (Nat × Nat))) a => match m with
          | none => some a
          | some b => if better b a then some b else some a) none
        some (add (s.evict v.1 v.2.2))

/-! ## Ranking (R396) -/

/-- The rank of a team or unstarted task of a grid: its deadline, team index, and whether it is unstarted. -/
def rankOf (g : Grid) (deadline : Dword) (k : Nat) (fresh : Bool) : List Nat :=
  if g.fallback then [0, deadline.toNat, 0, b2n' fresh, g.take, k]
  else if g.cls = 0 then [2]
  else [1, deadline.toNat, g.cls, b2n' fresh, g.take, k]
where b2n' (b : Bool) : Nat := if b then 1 else 0
def State.taskRank (s : State) : Task → Option (List Nat)
  | .fresh g k => (s.grid? g).map fun x => rankOf x x.deadline k true
  | .team t => (s.team? t).bind fun x => (s.grid? x.grid).map fun g => rankOf g x.deadline x.idx false
/-- What decides whether a resident team may be suspended for a waiting task: the deadline, and the CLASS of a deadline task. Teams equal in these rank
equal, and neither is suspended for the other (R400) (DEDUCED, log 35). -/
def plainRank (r : List Nat) : List Nat := r.take 3

/-- The image of team k of a grid, before it is read. -/
def Grid.team (g : Grid) (gid k : Nat) : Team :=
  { slice := g.slice, asid := g.asid, die := g.die, priv := g.priv, cls := g.cls, qid := g.qid, grid := gid, idx := k, launchSeq := g.launchSeq,
    image := g.image + k * g.stride }
/-- Where an image lies in memory. -/
def State.imgAt (s : State) (x : Team) : Option Nat := (s.teamXlat { x with priv := true } needR x.image).toOption
/-- Two teams have one image: of one address in one space, or at one place. -/
def State.sameImage (s : State) (x y : Team) : Bool :=
  (x.slice == y.slice && x.asid == y.asid && x.image == y.image) || ((s.imgAt x).isSome && s.imgAt x == s.imgAt y)
/-- The image belongs to a team that a debugger has stopped: it is withheld from ranking (R423). -/
def State.withheld (s : State) (x : Team) : Bool := s.teams.any fun p => p.2.stopped && s.sameImage p.2 x
/-- An unstarted task's image is. -/
def State.taskWithheld (s : State) : Task → Bool
  | .fresh g k => match s.grid? g with | some x => s.withheld (x.team g k) | none => false
  | .team _ => false

def listKey (sl clu : Nat) : Nat := 64 * sl + clu
/-- Waiting tasks of a slice on a die, each with the cluster (0-11) whose cores alone may admit it. -/
def State.waiting (s : State) (sl die : Nat) : List (Task × Option Nat) :=
  (s.teams.filter fun p => p.2.slice == sl && p.2.die == die && p.2.st != .resident && p.2.asleep.isNone && !p.2.stopped && !p.2.ending
      && (s.grid? p.2.grid).any fun g => g.fallback || g.cls != 0).map (fun p => (Task.team p.1, none))
  ++ (s.grids.filter fun p => p.2.slice == sl && p.2.die == die && (p.2.fallback || p.2.cls != 0)).flatMap (fun p =>
      p.2.left.flatMap fun r => ((List.range r.2).filter fun k => !s.withheld (p.2.team p.1 (r.1 + k))).map fun k => (Task.fresh p.1 (r.1 + k), none))
  ++ (List.range 12).flatMap fun cl => ((s.lists.get (listKey sl (12 * die + cl))).filter fun t => !s.taskWithheld t).map fun t => (t, some cl)
/-- Stable insertion by rank: best first. -/
def insertRank (r : List Nat) (t : Task × Option Nat) : List (List Nat × (Task × Option Nat)) → List (List Nat × (Task × Option Nat))
  | [] => [(r, t)]
  | p :: ps => if lexLt r p.1 then (r, t) :: p :: ps else p :: insertRank r t ps
def State.ranked (s : State) (sl die : Nat) : List (List Nat × (Task × Option Nat)) :=
  (s.waiting sl die).foldl (fun l t => match s.taskRank t.1 with | some r => insertRank r t l | none => l) []

/-! ## Admission (R196, R398, R205) -/

/-- A fresh image first receives TEAM_ID, TEAM_COUNT and DEADLINE (R391, R394). -/
def State.freshen (s : State) (g : Grid) (x : Team) : State :=
  if (s.imgLE x 6 2).toOption = some 0 then
    let ag := schedAgent g.slice g.die
    ((s.vwriteOr { x with priv := true } ag (x.image + 0x28) x.idx 4).vwriteOr { x with priv := true } ag (x.image + 0x2C) g.teams 4).vwriteOr
      { x with priv := true } ag (x.image + 0x30) g.deadline.toNat 8
  else s
/-- Groups read again from an image keep what the memory model holds of them (R227), and their late faults and poison marks. -/
def Group.keep (g o : Group) : Group :=
  { g with lb := o.lb, readFrom := o.readFrom, adoptPos := o.adoptPos, ownPub := o.ownPub, late := o.late, marks := o.marks,
           lanes := g.lanes.zipIdx.map fun p => { p.1 with ret := (o.lane p.2).ret },
           recs := g.recs.map fun p => (p.1, { p.2 with claimed := p.2.mode == .held && (o.getRec p.1).claimed }) }
/-- Memory with the lines that cores hold of a suspended team laid over it: what its restore reads (R206, R207). -/
def State.overlaid (s : State) (x : Team) : State :=
  x.lines.foldl (fun s l => match s.imgStoreAll x (128 * l.2) (128 * l.2 + 128) (x.fields 0) with | .ok s => s | .error _ => s) s
/-- A suspended team read again from its image, with the lines that cores hold (R205-R207). -/
def State.reread (s : State) (x : Team) : Except ImgErr Team :=
  ((s.overlaid x).parseImage x 0).map fun p => { p.1 with groups := p.1.groups.map fun q => (q.1, q.2.keep ((x.group? q.1).getD {})) }
/-- The suspended team, of another grid or of none left, whose image an entry names: it resumes as it stands (R391, R227). -/
def State.known (s : State) (x : Team) : Option (Nat × Team) :=
  List.find? (fun (p : Nat × Team) => p.2.st != .resident && !p.2.ending && p.2.slice == x.slice && p.2.asid == x.asid && p.2.image == x.image) s.teams
/-- The team of a task as a restore finds it, and the state after the header's writes; or what refuses the restore. -/
def State.fetchTask (s : State) : Task → State × Except ImgErr Team
  | .fresh g k =>
    match s.grid? g with
    | none => (s, .error none)
    | some gr =>
      let x := gr.team g k
      match s.known x, (s.imgLE x 6 2).toOption with
      | some (_, y), some 1 | some (_, y), some 4 =>
        (s, (s.reread { y with die := x.die }).map fun z =>
          { z with priv := x.priv, cls := x.cls, qid := x.qid, grid := g, launchSeq := x.launchSeq, also := y.grid :: y.also })
      | _, _ =>
        let s := s.freshen gr x
        (s, (s.parseImage x 0).map (·.1))
  | .team t =>
    match s.team? t with
    | none => (s, .error none)
    | some x => (s, s.reread x)

/-- The residents of a core. -/
def State.residents (s : State) (die cl core : Nat) : List (Nat × Team) :=
  s.teams.filter fun p => p.2.st == .resident && p.2.die == die && p.2.cluster == cl && p.2.core == core
/-- Room beside some teams (R196, R177): group slots, team memory, operand buffer, tiles. -/
def roomFor (x : Team) (others : List Team) : Bool :=
  let sum := fun (f : Team → Nat) => (others.map f).sum
  decide (x.ngroups + sum Team.slotsHeld ≤ 64) && decide (x.tmemSize + sum (·.tmemSize) ≤ 262144) && decide (x.obufSize + sum (·.obufSize) ≤ 196608)
  && decide (x.tiles + sum (·.tiles) ≤ 8)
/-- Suspended teams whose matrix operations still use lines of a core, which cannot be evicted yet (R289). -/
def State.lingering (s : State) (die cl core : Nat) : List Team :=
  ((s.teams.filter fun p => p.2.st == .suspended && s.matrixBusy p.1 && p.2.coreId == die * 256 + cl * 16 + core).map (·.2)).map
    fun x => { x with groups := [], tmemSize := 0 }
def State.fits (s : State) (x : Team) (die cl core : Nat) : Bool :=
  roomFor x ((s.residents die cl core).map (·.2) ++ s.lingering die cl core)
def groupsOn (rs : List (Nat × Team)) : Nat := (rs.map fun p => p.2.slotsHeld).sum
/-- The core that takes a task: the fewest resident groups, then the lower cluster and core. -/
def State.coreFor (s : State) (x : Team) (sl die : Nat) (only : Option Nat) : Option (Nat × Nat) :=
  let cs := (s.coresOf sl die).filter fun c => (only.isNone || only == some c.1) && s.fits x die c.1 c.2
  cs.foldl (fun (m : Option (Nat × Nat)) c => match m with
    | none => some c
    | some b => if groupsOn (s.residents die c.1 c.2) < groupsOn (s.residents die b.1 b.2) then some c else some b) none

/-- Placing the groups of a team one at a time: the scheduler with the fewest groups, its lowest free slot (R196); slots 16 k to 16 k + 15 serve scheduler
k (DESIGN CHOICE, log 57). -/
def placeGroups : List (Nat × Group) → List (Nat × Nat) → List (Nat × Group)
  | [], _ => []
  | (k, g) :: gs, used =>
    let load := fun sc => (used.filter fun u => u.1 == sc).length
    let sc := (List.range 4).foldl (fun b c => if load c < load b then c else b) 0
    let slot := ((List.range 16).find? fun n => !used.contains (sc, 16 * sc + n)).getD 0
    (k, { g with sched := sc, slot := 16 * sc + slot, lastIssue := none }) :: placeGroups gs ((sc, 16 * sc + slot) :: used)
/-- A newcomer's team memory, operand buffer or tiles need the room where lines of suspended teams still lie: those are evicted (R207)
(DESIGN CHOICE, log 53). -/
def State.makeRoom (s : State) (t : Nat) (x : Team) (cl core : Nat) : State :=
  let id := x.die * 256 + cl * 16 + core
  let here := (s.residents x.die cl core).map (·.2)
  let areas : List ((Team → Nat) × (Team → Nat) × Nat) :=
    [((·.tmemOff), (·.tmemSize), 262144), ((·.obufOff), (·.obufSize), 196608), ((·.accOff), (fun y => 32768 * y.tiles), 262144)]
  areas.foldl (fun s a =>
    let held := fun (y : Team) => y.lines.filter fun l => l.1 == id && inArea (a.1 y) (a.2.1 y) l.2
    let others := s.teams.filter fun p => p.1 != t && p.2.st != .resident
    let need := ((x :: here).map a.2.1).sum + 128 * (others.map fun p => (held p.2).length).sum
    if a.2.1 x = 0 || need ≤ a.2.2 then s
    else others.foldl (fun s p => if s.matrixBusy p.1 then s else (held p.2).foldl (fun s l => s.evict p.1 l) s) s) s
/-- The physical pages of an image (R207). -/
def State.imgPages (s : State) (x : Team) : SMap Nat :=
  (List.range (pageCount x.image x.size)).foldl (fun (m : SMap Nat) k =>
    let p := x.image / 2 ^ 14 + k
    match s.teamXlat { x with priv := true } needR (p * 2 ^ 14) with
    | .ok pa => m.put p pa
    | .error _ => m) []
/-- A team becomes resident on a core (R205, R206): STATUS 2; its remaining ticks count from now. A team on a firmware core is privileged (R388). -/
def State.settle (s : State) (t : Nat) (x : Team) (cl core : Nat) : State :=
  let s := s.makeRoom t x cl core
  let used := (s.residents x.die cl core).flatMap fun p => (p.2.groups.filter fun g => !g.2.isOver).map fun g => (g.2.sched, g.2.slot)
  let x := { x.mapGroups (fun g => g.reload (s.dieCount x.die)) with
    st := .resident, cluster := cl, core, priv := x.priv || cl == 12, restored := s.stamp, lastTick := s.dieCount x.die, asleep := none }
  let x := { x with groups := placeGroups x.groups used, lostLines := [], pages := s.imgPages x }
  { (s.setTeam t x).writeStatus x 2 with stamp := s.stamp + 1 }
/-- Firmware starts a team of a slice on its die's firmware core, from its image (R388) (DESIGN CHOICE, log 52). -/
def State.startFirmware (s : State) (sl die asid image : Nat) : Option State :=
  match s.parseImage { slice := sl, die, asid, priv := true, image } 0 with
  | .ok (x, _) => if s.fits x die 12 0 then some (s.settle s.stamp x 12 0) else none
  | .error _ => none

/-- A task leaves its grid's unstarted teams, or its list. -/
def takeIdx (k : Nat) (rs : List (Nat × Nat)) : List (Nat × Nat) :=
  rs.flatMap fun r => if r.1 ≤ k ∧ k < r.1 + r.2 then [(r.1, k - r.1), (k + 1, r.1 + r.2 - (k + 1))].filter fun p => p.2 != 0 else [r]
def State.unlist (s : State) (sl die : Nat) (t : Task) (only : Option Nat) : State :=
  match only with
  | some cl => { s with lists := s.lists.set (listKey sl (12 * die + cl)) ((s.lists.get (listKey sl (12 * die + cl))).erase t) }
  | none => s
/-- ADDR, CLASS and DETAIL of a refused restore (R392): of the first page of the image that fails, where a page's failure was the cause. -/
def State.imgFault (s : State) (x : Team) : ImgErr → Nat × Nat × Nat
  | none => (0, 0, 0)
  | some (va, e) =>
    let low := (List.range (pageCount x.image (va + 1 - x.image))).findSome? fun n =>
      let va := (x.image / 2 ^ 14 + n) * 2 ^ 14
      match s.teamXlat x needRW va with
      | .error e => some (va, e.cls.code, e.detail)
      | .ok _ => none
    low.getD (va / 2 ^ 14 * 2 ^ 14, e.cls.code, e.detail)
/-- A refused restore (R392): the task is over and its grid fails. -/
def State.refuse (s : State) (t : Task) (only : Option Nat) (err : ImgErr) : State :=
  let gi := match t with | .fresh g _ => some g | .team k => (s.team? k).map fun (x : Team) => x.grid
  match gi.bind fun g => (s.grid? g).map fun x => (g, x) with
  | none => s
  | some (g, x) =>
    let tm : Team := match t with | .fresh _ k => x.team g k | .team k => (s.team? k).getD {}
    let f := s.imgFault tm err
    let s := (s.unlist x.slice x.die t only).failGrid g
      (some { kind := 1, src := x.qid, cls := f.2.1, addr := f.1, detail := f.2.2, image := tm.image, event := 4 })
    let s := match t with
      | .fresh .. => s
      | .team k =>
        let gs := g :: tm.also
        gs.foldl (fun s g => s.updGrid g fun x => { x with running := x.running - 1 }) { s with teams := s.teams.erase k }
    (g :: tm.also).foldl State.finishGrid s
/-- A team leaves the lists of its clusters. -/
def State.unrank (s : State) (t : Nat) : State :=
  { s with lists := s.lists.foldl (fun (m : SMap (List Task)) p => m.set p.1 (p.2.filter fun k => k != .team t)) s.lists,
           transit := s.transit.filter fun k => k.task != .team t }
/-- A task is started on a core. -/
def State.start (s : State) (t : Task) (x : Team) (only : Option Nat) (cl core : Nat) : State :=
  let s := s.unlist x.slice x.die t only
  match t with
  | .team k => s.settle k x cl core
  | .fresh g k =>
    let s := s.updGrid g fun y => { y with left := if only.isSome then y.left else takeIdx k y.left, listed := if only.isSome then y.listed - 1 else y.listed,
                                           running := y.running + 1 }
    match (if x.also.isEmpty then none else s.known x) with
    | some (t, _) => (s.unrank t).settle t x cl core
    | none => s.settle s.stamp x cl core

/-- TEAM_ADMIT (R398): the best-ranked waiting task that some core can hold; a refused one ends there. -/
def State.admitTask (s : State) (sl die : Nat) : List (List Nat × (Task × Option Nat)) → Option State
  | [] => none
  | (_, t, only) :: rest =>
    match s.fetchTask t with
    | (s', .error e) => some (s'.refuse t only e)
    | (s', .ok x) =>
      match s'.coreFor x sl die only with
      | some (cl, core) => some (s'.start t x only cl core)
      | none => s.admitTask sl die rest
/-- DEDUCED, log 35. -/
def execTeamAdmit (sl die : Nat) (s : State) : Host.Outcome State Fault Refusal :=
  eventOf "TEAM_ADMIT" (if s.halted sl then none else s.admitTask sl die (s.ranked sl die))

/-! ## Pre-emption (R400) -/

/-- Suspension of a team that leaves its list's cluster: a best-effort team becomes its oldest entry (R397). -/
def State.requeue (s : State) (t : Nat) : State :=
  match s.team? t with
  | none => s
  | some x =>
    if ((s.grid? x.grid).any fun g => !g.fallback && g.cls == 0) && !x.ending && !x.stopped && x.asleep.isNone then
      let k := listKey x.slice (12 * x.die + x.cluster)
      { s.setTeam t { x with aged := s.stamp } with lists := s.lists.set k (.team t :: s.lists.get k), stamp := s.stamp + 1 }
    else s
/-- Victims on a core for a rank: worst first, then most recently restored. -/
def State.victims (s : State) (die cl core sl : Nat) (r : List Nat) : List (List Nat × Nat × Team) :=
  let vs := (s.residents die cl core).filterMap fun p => match s.taskRank (.team p.1) with
    | some q => if p.2.slice == sl && lexLt (plainRank r) (plainRank q) then some (plainRank q, p.1, p.2) else none
    | none => none
  vs.foldl (fun l v =>
    let worse := fun (a b : List Nat × Nat × Team) => lexLt b.1 a.1 || (!lexLt a.1 b.1 && decide (b.2.2.restored < a.2.2.restored))
    (l.takeWhile fun a => !worse v a) ++ v :: l.dropWhile fun a => !worse v a) []
/-- The shortest prefix of the victims whose leaving makes room. -/
def enough (x : Team) (here : List (Nat × Team)) (vs : List (List Nat × Nat × Team)) : Option (List Nat) :=
  ((List.range (vs.length + 1)).map fun n => (vs.take n).map fun v => v.2.1).find? fun out =>
    roomFor x ((here.filter fun p => !out.contains p.1).map (·.2))
/-- TEAM_PREEMPT (R400) (DEDUCED, log 35). -/
def execTeamPreempt (sl die : Nat) (s : State) : Host.Outcome State Fault Refusal :=
  eventOf "TEAM_PREEMPT" do
    let (r, t, only) ← (s.ranked sl die).head?
    if r.headD 2 = 2 || s.halted sl then none
    else
      let x ← (s.fetchTask t).2.toOption
      if (s.coreFor x sl die only).isSome then none
      else
        let cands := (s.coresOf sl die).filterMap fun c =>
          let vs := s.victims die c.1 c.2 sl r
          match vs.head?, enough x (s.residents die c.1 c.2) vs with
          | some v, some out => if out.isEmpty then none else some (v, out)
          | _, _ => none
        let pick := cands.foldl (fun (m : Option ((List Nat × Nat × Team) × List Nat)) c => match m with
          | none => some c
          | some b => if lexLt b.1.1 c.1.1 || (!lexLt c.1.1 b.1.1 && decide (b.1.2.2.restored < c.1.2.2.restored)) then some c else some b) none
        let p ← pick
        some (p.2.foldl (fun s v => (s.suspend v).requeue v) s)

/-! ## Best-effort lists (R397, R323) -/

/-- DEPTH of a slice on a cluster: entries in transit count with the sender. -/
def State.depth (s : State) (sl clu : Nat) : Nat :=
  (s.lists.get (listKey sl clu)).length + (s.transit.filter fun t => t.slice == sl && t.src == clu).length
/-- Unstarted teams of best-effort grids enter the lists, in the order the grids were taken. -/
def State.placeTasks (s : State) (sl die : Nat) : Nat → State
  | 0 => s
  | n + 1 =>
    match (s.grids.filter fun p => p.2.slice == sl && p.2.die == die && p.2.cls == 0 && !p.2.fallback && !p.2.left.isEmpty).head? with
    | none => s
    | some (g, x) =>
      let cl := (s.clustersOf sl die).foldl (fun (m : Option Nat) c => match m with
        | none => some c
        | some b => if s.depth sl (12 * die + c) < s.depth sl (12 * die + b) then some c else some b) none
      match cl, x.left.head? with
      | some c, some r =>
        let k := listKey sl (12 * die + c)
        if 1024 ≤ s.depth sl (12 * die + c) then s
        else
          let s := s.updGrid g fun x => { x with left := takeIdx r.1 x.left, listed := x.listed + 1 }
          State.placeTasks { s with lists := s.lists.set k (s.lists.get k ++ [.fresh g r.1]) } sl die n
      | _, _ => s
/-- The choice of queue of R397: an aged head first, else the most entries. -/
def State.fillQueue (s : State) (sl die : Nat) : Option (Nat × Queue) :=
  let qs := (s.queues.filter fun p => p.1 / 4096 == sl && p.2.die == die && p.2.cls == 0 && !p.2.empty).map fun p => (p.1 % 4096, p.2)
  let age := (s.sdReg sl die 0x308).toNat % 65536
  let now := s.dieCount die
  let since := fun (q : Queue) => q.appended.headD now
  let old := qs.filter fun p => age != 0 && decide (age * 1024 ≤ now - since p.2)
  let n := fun (q : Queue) => (q.tail + 2 ^ 32 - q.head) % 2 ^ 32
  let least := fun (l : List (Nat × Queue)) (f : Nat × Queue → List Nat) =>
    l.foldl (fun (m : Option (Nat × Queue)) a => match m with | none => some a | some b => if lexLt (f a) (f b) then some a else some b) none
  if old.isEmpty then least qs fun p => [2 ^ 32 - n p.2, since p.2, p.1] else least old fun p => [since p.2, p.1]
/-- BEST_EFFORT_FILL (R397): one best-effort grid is taken while the lists run low; teams enter the lists as far as there is room. -/
def execBestEffortFill (sl die : Nat) (s : State) : Host.Outcome State Fault Refusal :=
  eventOf "BEST_EFFORT_FILL" (
    if s.halted sl then none
    else if s.grids.any fun p => p.2.slice == sl && p.2.die == die && p.2.cls == 0 && !p.2.fallback && !p.2.left.isEmpty then
      let s' := s.placeTasks sl die (1024 * 12)
      if s'.lists = s.lists then none else some s'
    else
      let entries := ((List.range 12).map fun cl => s.depth sl (12 * die + cl)).sum
      if 4 * (s.coresOf sl die).length ≤ entries || 1024 ≤ s.pending sl die then none
      else (s.fillQueue sl die).map fun q => (s.takeHead sl q.1 q.2).placeTasks sl die (1024 * 12))

/-- The nearest clusters of a ring of 12 on each side that hold a core of the slice. -/
def State.ringNeighbours (s : State) (sl die cl : Nat) : List Nat :=
  let has := fun c => c != cl && (s.clustersOf sl die).contains c
  let up := ((List.range 11).map fun k => (cl + k + 1) % 12).find? has
  let down := ((List.range 11).map fun k => (cl + 11 - k) % 12).find? has
  (up.toList ++ down.toList).eraseDups
/-- The push of one slice from one cluster (R323). -/
def State.exchange (s : State) (sl clu : Nat) : State :=
  let die := clu / 12
  let qx := (s.cluReg sl clu 0x200).toNat
  let d := s.depth sl clu
  let ok := (s.ringNeighbours sl die (clu % 12)).filter fun c => decide (s.depth sl (12 * die + c) + qx % 65536 < d)
  let pick := ok.foldl (fun (m : Option Nat) c => match m with
    | none => some c
    | some b =>
      let dc := s.depth sl (12 * die + c)
      let db := s.depth sl (12 * die + b)
      if dc < db || (dc == db && decide (b < c)) then some c else some b) none
  match pick with
  | some c =>
    if qx / 2 ^ 31 % 2 = 0 then s
    else
      let l := s.lists.get (listKey sl clu)
      let m := min (min ((d - s.depth sl (12 * die + c)) / 2) (qx / 65536 % 256)) l.length
      let moved := (l.drop (l.length - m)).reverse.map fun t => ({ slice := sl, src := clu, dst := 12 * die + c, task := t } : Transit)
      { s with lists := s.lists.set (listKey sl clu) (l.take (l.length - m)), transit := s.transit ++ moved }
  | none => s
/-- QUEUE_DEPTH_EXCHANGE (R323): a cluster pushes entries of every slice. -/
def execQueueDepthExchange (cl : Nat) (s : State) : Host.Outcome State Fault Refusal :=
  eventOf "QUEUE_DEPTH_EXCHANGE" (if 48 ≤ cl then none else some ((List.range 193).foldl (fun s sl => s.exchange sl cl) s))
/-- The task of a transit entry, as the row names it: team k of a grid, or the suspended team with that index. -/
def Task.named (s : State) (g k : Nat) : Task → Bool
  | .fresh a b => a == g && b == k
  | .team t => (s.team? t).any fun x => x.grid == g && x.idx == k
/-- An entry's age, the oldest first: a suspended team rejoined as the oldest entry, so the one that rejoined last stands before the others (R397). -/
def taskAge (s : State) : Task → List Nat
  | .fresh g k => match s.grid? g with | some x => [1, x.take, k] | none => [1]
  | .team t => match s.team? t with | some x => [0, 2 ^ 64 - x.aged] | none => [0]
def insertAge (s : State) (t : Task) : List Task → List Task
  | [] => [t]
  | a :: as => if lexLt (taskAge s t) (taskAge s a) then t :: a :: as else a :: insertAge s t as
/-- TRANSIT_ENTRY_RECEIVED (R323): the neighbour's list receives the entry, which keeps its age among the entries there. -/
def execTransitEntryReceived (gr k : Nat) (s : State) : Host.Outcome State Fault Refusal :=
  eventOf "TRANSIT_ENTRY_RECEIVED" do
    let e ← s.transit.find? fun t => t.task.named s gr k
    let key := listKey e.slice e.dst
    some { s with transit := s.transit.erase e, lists := s.lists.set key (insertAge s e.task (s.lists.get key)) }

/-! ## The end of a team (R206, R312, R391, R425) -/

/-- Nothing of the team is in flight: no operation, no call of it, none that the router holds or whose return is to commit (R312). -/
def State.quiet (s : State) (t : Nat) : Bool :=
  s.ops.all (fun o => o.team != t) && (s.calls.all fun c => c.team != t) && (s.team? t).all fun x => x.handed.isEmpty && x.returned.isEmpty
/-- DEDUCED, log 35. -/
def Team.ranOut (x : Team) : Bool := x.groups.all fun p => p.2.isOver
/-- A team that has run out, or whose grid was ended, ends: its lines are written back, each that can be, its image takes STATUS 3, and its stores
are published at `.slc` (R206, R207, R391) (DEDUCED, log 35). -/
def State.endTeam (s : State) (t : Nat) : Option State := do
  let x ← s.team? t
  if !s.quiet t || !(x.ending || (x.st == .resident && x.ranOut)) then none
  else
    let s := x.groups.foldl (fun s g => (s.flushTeam t g.1).publish t g.1 .slc .plain) s
    let s := ((s.gatherLines t).writeLines t).writeStatus x 3
    let gs := x.grid :: x.also
    let s := gs.foldl (fun (s : State) g => s.updGrid g fun g => { g with running := g.running - 1 }) s
    let s := { s.unrank t with teams := s.teams.erase t, stamp := s.stamp + 1 }
    some (gs.foldl State.finishGrid s)

/-! ## `enq`, `launch` (R393, R394) -/

/-- ENQ: the group's publication, then the operation. -/
def enqRun (fl : Flg) (d : Dst) (a b : Src) (x : Ctx) : Res :=
  let h := x.rdU 2 .zx a
  let e := x.rdU 2 .zx b
  if h % 64 != 0 || e % 64 != 0 || 2 ^ 58 ≤ h || 2 ^ 58 ≤ e then resFault x .memAlign
  else
    let s := (x.s.flushTeam x.cur.team x.cur.grp).publish x.cur.team x.cur.grp .slc .plain
    { s := x.fly s (x.mkOp fl true false (dstRun d true 1) x.marks (.enq h e)) }
def execEnq (c : Ctl) (fl : Flg) (d : Dst) (a b : Src) (s : State) : Host.Outcome State Fault Refusal :=
  issue (.enq c fl d a b) s (enqRun fl d a b)
/-- LAUNCH. -/
def launchRun (fl : Flg) (d : Dst) (a b : Src) (x : Ctx) : Res :=
  let s := (x.s.flushTeam x.cur.team x.cur.grp).publish x.cur.team x.cur.grp .slc .plain
  { s := x.fly s (x.mkOp fl true false (dstRun d true 1) x.marks (.launch (x.rdU 2 .zx a) (x.rdU 1 .zx b))) }
def execLaunchGrid (c : Ctl) (fl : Flg) (d : Dst) (a b : Src) (s : State) : Host.Outcome State Fault Refusal :=
  issue (.launchGrid c fl d a b) s (launchRun fl d a b)

/-- A group's load of bytes by an operation without items: the value with what was read, a late fault, or poison. -/
def State.opRead (s : State) (o : Op) (x : Team) (va n : Nat) : Except (Nat × XErr) (Nat × State) :=
  (s.readAt (s.vplace x needR) va n).map fun v =>
    (v, (List.range n).foldl (fun s k => match s.teamXlat x needR (va + k) with
      | .ok pa => let (_, seq, ag, st) := coValue s.coNext pa s.co (s.byte pa); s.seen o.team o.grp o.id pa seq ag st
      | .error _ => s) s)
/-- The same once the owner of every remote page has answered (R461). -/
def State.opRead? (s : State) (o : Op) (x : Team) (va n : Nat) : Option (Except (Nat × XErr) (Nat × State)) :=
  (s.checkRange x o needR va n).map fun r => match r with
    | .error e => .error e
    | .ok _ => s.opRead o x va n
/-- The operation ends in a late fault of all its lanes, or in poison (R256, R263). -/
def State.opFail (s : State) (o : Op) (x : Team) (g : Group) (e : Nat × XErr) : State :=
  if e.2.cls = .memPoison then
    (o.items.foldl (fun s it => s.markPoison x o it.lane it.ret e.1) (s.writeLive x o (lowestLane o.lanes) (laneList o.lanes) [0])).endOp o
  else s.dropOp o (o.lateAll g e.2.cls.code e.1 e.2.detail)
/-- The QID of the queue bound to a slice with its header at an address, in the group's address space. -/
def State.queueAt (s : State) (sl asid hdr : Nat) : Option Nat :=
  (List.find? (fun (p : Nat × Queue) => p.1 / 4096 == sl && p.2.asid == asid && p.2.hdr == hdr) s.queues).map fun p => p.1 % 4096

/-- ENQ_COMPLETION (R393). -/
def execEnqCompletion (id : Nat) (s : State) : Host.Outcome State Fault Refusal :=
  eventOf "ENQ_COMPLETION" do
    let o ← s.op? id
    let x ← s.team? o.team
    let g ← x.group? o.grp
    match o.kind with
    | .enq h e =>
      if !s.checkTurn o then none
      else match ← s.opRead? o x e 64 with
        | .error err => some (s.opFail o x g err)
        | .ok (v, s) =>
          let (s, status) := s.append x.slice (s.queueAt x.slice x.asid h) v
          some ((s.writeDst o (lowestLane o.lanes) [status]).endOp o)
    | _ => none
/-- LAUNCH_COMPLETION (R394): image 0's header is read before TEAMS is judged; an IMAGE that is no aligned address below 2^58 has no header to read
(DEDUCED, log 35). -/
def execLaunchCompletion (id : Nat) (s : State) : Host.Outcome State Fault Refusal :=
  eventOf "LAUNCH_COMPLETION" do
    let o ← s.op? id
    let x ← s.team? o.team
    let g ← x.group? o.grp
    match o.kind with
    | .launch image teams =>
      let done := fun (s : State) v => some ((s.writeDst o (lowestLane o.lanes) [v]).endOp o)
      if !s.checkTurn o then none
      else if image % 4096 != 0 || 2 ^ 58 ≤ image then done s qBadEntry
      else match ← s.opRead? o x image 512 with
        | .error err => some (s.opFail o x g err)
        | .ok (v, s) =>
          if teams = 0 || 2 ^ 20 < teams then done s qBadEntry
          else if 1024 ≤ s.pending x.slice x.die then done s qFull
          else
            done (s.addGrid { slice := x.slice, die := x.die, asid := x.asid, priv := x.priv, cls := x.cls, qid := x.qid, deadline := x.deadline, done := 0,
                              doneval := 0, teams, image, stride := roundUp (recFld v 0xA0 8) 4096, take := s.stamp, launchSeq := s.coNext - 1,
                              taken := false, left := [(0, teams)] }) 0
    | _ => none

/-! ## Deadlines (R403, R404) -/

/-- SETDL. -/
def execSetdl (c : Ctl) (a : Src) (s : State) : Host.Outcome State Fault Refusal :=
  issue (.setdl c a) s fun x =>
    { s := if x.tm.cls = 0 then x.s else x.withTeam { x.tm with deadline := BitVec.ofNat 64 (x.rdU 2 .zx a) } }
/-- DISPLAY_TRIGGER (R403): a display grid at or past its trigger tick; the fallback's entry is read, and its grid launched unless one still runs. -/
def execDisplayTrigger (gr : Nat) (s : State) : Host.Outcome State Fault Refusal :=
  eventOf "DISPLAY_TRIGGER" do
    let g ← s.grid? gr
    let guard := (s.sdReg g.slice g.die 0x308).toNat / 65536
    if g.cls != 1 || !g.taken || g.triggered || decide (s.dieCount g.die + 256 * guard < g.deadline.toNat) then none
    else
      let s := s.updGrid gr fun g => { g with triggered := true }
      let st := s.sdReg g.slice g.die 0x30C
      let miss := st.toNat % 65536
      let skip := st.toNat / 65536 % 256
      let s := (s.setSdReg g.slice g.die 0x30C (BitVec.ofNat 32 ((miss + 1) % 65536 + 65536 * skip))).signalVf g.slice 4
      let fb := (s.sdReg g.slice g.die 0x30A).toNat + 2 ^ 32 * (s.sdReg g.slice g.die 0x30B).toNat
      if fb = 0 then some s
      else
        let bad := fun cls detail => s.raise g.slice g.die { kind := 1, src := g.qid, cls, detail, addr := fb, event := 4 }
        match s.vread (devSpace g.slice g.die g.asid) fb 64 with
        | .error e => some (bad e.2.cls.code e.2.detail)
        | .ok e =>
          if !entryOk e then some (bad 0 0)
          else if s.grids.any fun p => p.2.slice == g.slice && p.2.die == g.die && p.2.fallback then
            some (s.setSdReg g.slice g.die 0x30C (BitVec.ofNat 32 ((miss + 1) % 65536 + 65536 * ((skip + 1) % 256))))
          else some (s.addGrid { gridOf s g.slice g.die g.asid g.priv g.cls g.qid e with deadline := g.deadline, taken := false, fallback := true })

/-! ## Waiting on memory (R405-R407) -/

def waitCond (c : WCond) (v w : Nat) : Bool :=
  match c with
  | .eq => v == w
  | .ne => v != w
  | .ge => decide (w ≤ v)
  | .lt => decide (v < w)
/-- The word tested, with its translation. -/
def State.waitWord (s : State) (x : Team) (va : Nat) : Except XErr (Nat × Nat) :=
  match s.teamXlat x needR va with
  | .error e => .error e
  | .ok pa => if (List.range 4).any fun k => s.poisoned (pa + k) then .error { cls := .memPoison, stage := 0, level := 0 } else .ok (pa, s.readLE pa 4)
/-- The owner of a word on another package has refused it (R460). -/
def State.wordAnswer (s : State) (x : Ctx) (va : Nat) : Option XErr :=
  match s.teamXlat x.tm needR va with
  | .error _ => none
  | .ok pa => match s.wordSays x.cur.team x.cur.grp va pa with
    | some (.error e) => some e.2
    | _ => none
/-- Ending a wait: the test's read, and an adopt at `.dom`. -/
def State.waitAdopt (s : State) (t gi op pa : Nat) : State :=
  ((s.flushTeam t gi).seeBytes t gi op pa 4).adopt t gi .dom []
/-- WAITV (R405, R406): the first test is made at issue; a wait that a restore resumes keeps its remaining ticks. -/
def execWaitv (c : Ctl) (cond : WCond) (p : Nat) (a b e : Src) (s : State) : Host.Outcome State Fault Refusal :=
  issue (.waitv c cond p a b e) s fun x =>
    let va := x.rdU 2 .zx a
    let w := x.rdU 1 .zx b
    let t := x.rdU 1 .zx e
    if va % 4 != 0 then resFault x .memAlign
    else if 2 ^ 58 ≤ va then resFaultAt x .memXlate va 32
    else match x.s.waitWord x.tm va, x.s.wordAnswer x va with
      | _, some e => resFaultAt x e.cls va e.detail
      | .error e, _ => resFaultAt x e.cls va e.detail
      | .ok (pa, v), none =>
        if waitCond cond v w then
          { s := (x.s.waitAdopt x.cur.team x.cur.grp x.s.stamp pa).updGroup x.cur.team x.cur.grp fun g => g.setP p x.e fun _ => false }
        else
          let dl := match (x.g.lane (lowestLane x.cur.m)).wdl with
            | some d => some d
            | none => if t = 2 ^ 32 - 1 then none else some (x.s.dieCount x.tm.die + t)
          resHold x x.s (.waitv cond p va (BitVec.ofNat 32 w) dl)
/-- A holding `waitv` ends with 0 or 1 in its predicate. -/
def State.waitEnd (s : State) (t gi : Nat) (h : Hold) (p pa : Nat) (timeout : Bool) : State :=
  ((s.waitAdopt t gi s.stamp pa).updGroup t gi fun g => g.setP p h.e fun _ => timeout).endHold t gi h
/-- WAITV_TEST: a test that finds the condition. -/
def execWaitvTest (t gi id : Nat) (s : State) : Host.Outcome State Fault Refusal :=
  eventOf "WAITV_TEST" do
    let x ← s.team? t
    let g ← x.group? gi
    let h ← g.hold? id
    match h.kind with
    | .waitv cond p va w _ =>
      match s.waitWord x va with
      | .ok (pa, v) => if waitCond cond v w.toNat && !s.readsOut t gi then some (s.waitEnd t gi h p pa false) else none
      | .error _ => none
    | _ => none
/-- WAITV_TIMEOUT: the deadline is reached and the condition is not found; a word that can no longer be read is not found (DEDUCED, log 35). -/
def execWaitvTimeout (t gi id : Nat) (s : State) : Host.Outcome State Fault Refusal :=
  eventOf "WAITV_TIMEOUT" do
    let x ← s.team? t
    let g ← x.group? gi
    let h ← g.hold? id
    match h.kind with
    | .waitv cond p va w (some d) =>
      if s.dieCount x.die < d || s.readsOut t gi then none
      else match s.waitWord x va with
        | .ok (pa, v) => if waitCond cond v w.toNat then none else some (s.waitEnd t gi h p pa true)
        | .error _ => some ((((s.flushTeam t gi).adopt t gi .dom []).updGroup t gi fun g => g.setP p h.e fun _ => true).endHold t gi h)
    | _ => none

/-- A lane has come to a matrix instruction of a lent engine, or to an `xstat` whose tile is in use, and waits there (R401). -/
def State.waitsAt (s : State) (t : Nat) (x : Team) (y : Lane) : Bool :=
  y.hdr.isSome && y.fresh.isNone && match s.fetchWord x y.pc.toNat with
  | .ok w => match decode w with
    | .ok i => (usesEngine i && ((s.coreReg.get x.coreId).get 0x128).getLsbD 1) || match i with
      | .xstatNan _ _ n | .xstatOvf _ _ n => !(s.tileOps t n s.stamp).isEmpty
      | _ => false
    | .error _ => false
  | .error _ => false
/-- A hold at an instruction that R401 lists; `dbg.stop` and ENDGRID are none. -/
def HoldKind.idles : HoldKind → Bool
  | .endgrid .. | .stopped .. => false
  | _ => true
/-- Every lane of a group holds at such an instruction, waits, has exited, or stands at a clause start whose flags are not clear (R407). -/
def Group.stuck (s : State) (t : Nat) (x : Team) (g : Group) : Bool :=
  (List.range 32).all fun l =>
    let y := g.lane l
    !g.runs l || (g.holds.any fun h => h.kind.idles && h.lanes.getLsbD l) || s.waitsAt t x y
    || (g.atHeader l && match formCheck s x y.pc.toNat with | .ok imm => !waitClear g imm | _ => false)
/-- What is still to be delivered to a team: completions, and returns of calls, whether the router or a unit holds them. -/
def State.workOf (s : State) (t : Nat) : Nat :=
  (s.ops.filter fun o => o.team == t).length + (s.calls.filter fun c => c.team == t && (c.ret.isSome || c.replay.isSome)).length
  + match s.team? t with
    | some x => (x.handed.filter fun h => x.callHdrOk (x.handedRec h) && !hdrNoret (x.handedRec h)).length
    | none => 0
/-- The lines that a team's waits name, and their earliest deadline. -/
def State.waitLines (s : State) (x : Team) : List Nat :=
  x.groups.flatMap fun p => p.2.holds.filterMap fun h => match h.kind with
    | .waitv _ _ va _ _ | .cbarWait _ va _ => (match s.teamXlat x needR va with | .ok pa => some (pa / 128) | .error _ => none)
    | _ => none
def Team.earliest (x : Team) : Option Nat :=
  let ds := x.groups.flatMap fun (p : Nat × Group) =>
    (p.2.holds.filterMap fun h => match h.kind with | .waitv _ _ _ _ d => d | _ => none)
    ++ (List.range 32).filterMap fun l => if (p.2.lane l).st == .waiting then (p.2.lane l).wdl else none
  ds.foldl (fun (m : Option Nat) d => match m with | none => some d | some b => some (min b d)) none
/-- IDLE_SWAP (R407). A firmware team belongs to no queue, and so has no WAIT_TH. -/
def execIdleSwap (t : Nat) (s : State) : Host.Outcome State Fault Refusal :=
  eventOf "IDLE_SWAP" do
    let x ← s.team? t
    let q ← s.queue? x.slice x.qid
    if x.st != .resident || x.cluster == 12 || q.waitTh = 0 || s.dieCount x.die - x.lastTick < q.waitTh
        || !(x.groups.all fun p => Group.stuck s t x p.2) || s.stream1.isSome then none
    else
      let nap : Asleep := { tick := s.dieCount x.die, coNext := s.coNext, work := s.workOf t, tmem := x.tmem, lines := s.waitLines x, due := x.earliest }
      some ((s.setTeam t { x with asleep := some nap }).suspend t)
/-- TEAM_WAKE (R407). -/
def execTeamWake (t : Nat) (s : State) : Host.Outcome State Fault Refusal :=
  eventOf "TEAM_WAKE" do
    let x ← s.team? t
    let n ← x.asleep
    let now := s.dieCount x.die
    let th := ((s.queue? x.slice x.qid).map (·.waitTh)).getD 0
    let stored := s.co.any fun e => decide (n.coNext ≤ e.seq) && n.lines.contains (e.addr / 128)
    if stored || decide (s.workOf t < n.work) || x.tmem != n.tmem || (n.due.any fun d => decide (d ≤ now)) || decide (n.tick + 16 * th ≤ now) then
      some ((s.setTeam t { x with asleep := none }).requeue t)
    else none

end Sys2Proof.Machine
end

