-- ==== Sys2Proof/Machine/Slice.lean ====
section
/-!
DEFINITION. Slices and command rings (spec/18 R426-R444): reading and completing commands, queue binding, reshaping, leases, slice reset,
freezing.
-/
namespace Sys2Proof.Machine

/-! ## The ring (R430-R432) -/

def State.ringSize (s : State) (sl : Nat) : Nat := 2 ^ min 16 ((s.sreg sl 0x506).toNat % 32)
/-- The intermediate address of slot count n. -/
def State.slotIpa (s : State) (sl n : Nat) : Nat :=
  (s.sreg sl 0x504).toNat + 2 ^ 32 * (s.sreg sl 0x505).toNat + 256 * (n % s.ringSize sl)
/-- A byte at an intermediate address of the slice, as the command processor reaches it. -/
def State.cpByte (s : State) (sl : Nat) (need : BitVec 4) (ipa : Nat) : Except XErr Nat :=
  match s.stage2 sl (s.cpDie sl) ipa with
  | .error e => .error e
  | .ok l => if l.perm &&& need == need then s.owned sl (l.apply ipa) else .error { cls := .memPerm, stage := 2, level := 3 }
def State.cpRead (s : State) (sl ipa : Nat) : Nat → Option Nat
  | 0 => some 0
  | n + 1 =>
    match s.cpByte sl needR ipa with
    | .error _ => none
    | .ok pa => if s.poisoned pa then none else (State.cpRead s sl (ipa + 1) n).map fun v => (s.byte pa).toNat + 256 * v
/-- A write that is dropped where it cannot be made. -/
def State.cpWrite (s : State) (sl ipa v n : Nat) : State :=
  (leBytes v n).zipIdx.foldl (fun s p => match s.cpByte sl needW (ipa + p.2) with
    | .ok pa => s.storeByte (cpAgent sl) (storeStamp s.stamp) pa p.1
    | .error _ => s) s
/-- RESULT of slot count n (R430). -/
def State.putResult (s : State) (sl n v : Nat) : State := s.cpWrite sl (s.slotIpa sl n + 248) v 4

/-- The slot at CMD_HEAD, where it holds a valid command: its count and its 256 bytes. -/
def State.headSlot (s : State) (sl : Nat) : Option (Nat × Nat) := do
  let n := (s.sreg sl 0x508).toNat
  let valid := if n / s.ringSize sl % 2 = 0 then 0xC3 else 0x3C
  if !(s.sreg sl 0x506).getLsbD 31 || s.halted sl || !s.ringDue.contains sl || (s.slices.get sl).chans.any (fun ch => (s.chans.get ch).training) then none
  else
    let b ← s.cpRead sl (s.slotIpa sl n + 255) 1
    if b != valid then none else (s.cpRead sl (s.slotIpa sl n) 256).map fun v => (n, v)
/-- A ring with no valid command at its head has been examined. -/
def State.ringIdle (s : State) : Option State :=
  (s.ringDue.find? fun sl => (s.headSlot sl).isNone && !s.halted sl).map fun sl => { s with ringDue := s.ringDue.filter fun k => k != sl }

def cmdType (v : Nat) : Nat := recFld v 254 1
def cmdSerial (v : Nat) : Bool := recFld v 252 4 / 2 ^ 12 % 16 == 1
def cmdScope (v : Nat) : Option Scope :=
  match recFld v 252 4 / 2 ^ 8 % 4 with | 0 => some .die | 1 => some .slc | 2 => some .dom | _ => none
def cmdRel (v : Nat) : Option Scope := if (recFld v 252 4).testBit 11 then cmdScope v else none
/-- The trailer's reserved values, and the payload bytes that a type leaves unused (ranges of used ones: first, count). -/
def cmdForm (v : Nat) (used : List (Nat × Nat)) : Bool :=
  let t := recFld v 252 4
  t % 256 == 0 && decide (t / 2 ^ 12 % 16 ≤ 1) && (cmdScope v).isSome
  && (List.range 248).all fun k => (used.any fun u => decide (u.1 ≤ k) && decide (k < u.1 + u.2)) || recFld v k 1 == 0

/-- ACQ of the trailer: an adopt at the scope precedes the start. -/
def cmdAcq (v : Nat) : Option Scope := if (recFld v 252 4).testBit 10 then cmdScope v else none
/-- A command starts: the adopt of the slot's read at `.dom`, that of ACQ, RESULT, then CMD_HEAD (R432). -/
def State.startCmd (s : State) (sl n v result : Nat) : State :=
  let die := s.cpDie sl
  let s := s.cpAdopt sl die .dom
  let s := match cmdAcq v with | some sc => s.cpAdopt sl die sc | none => s
  let s := (s.putResult sl n result).setSreg sl 0x508 (BitVec.ofNat 32 (n + 1))
  { s with cmds := s.cmds.set sl (s.cmds.get sl ++ [{ n, die, rel := cmdRel v }]), ringDue := (sl :: s.ringDue).eraseDups }
/-- CMD_STAT counts a refusal. -/
def State.countBad (s : State) (sl n : Nat) : State :=
  let st := s.sreg sl 0x509
  (s.setSreg sl 0x509 ((((st >>> 16) + 1#32) <<< 16) ||| BitVec.ofNat 32 (n % s.ringSize sl % 65536))).signal sl 1
/-- A command is refused or fails at its start: it does nothing and completes (DEDUCED, log 36). -/
def State.refuseCmd (s : State) (sl n v result : Nat) : State :=
  (((s.startCmd sl n (v % 2 ^ 2016) result).countBad sl n)).completeCmd sl n
/-- A command that starts and completes at once. -/
def State.doneCmd (s : State) (sl n v result : Nat) : State := (s.startCmd sl n v result).completeCmd sl n
def resUnknown : Nat := 0x40000001
def resBad : Nat := 0x40000002
def resBusy : Nat := 0x40000003
def resFail : Nat := 0x40000004
def resPending : Nat := 0x40000000

/-- A row of the ring: the head's type, its order, its reserved fields, then its work. -/
def State.cmdRow (s : State) (sl type : Nat) (used : List (Nat × Nat)) (f : Nat → Nat → Option State) : Option State := do
  let (n, v) ← s.headSlot sl
  if cmdType v != type || (cmdSerial v && !(s.cmds.get sl).isEmpty) then none
  else if !cmdForm v used then some (s.refuseCmd sl n v resBad) else f n v

/-- CMD_TAIL (R432): a doorbell. -/
def execCmdTail (sl : Nat) (v : Word) (s : State) : Host.Outcome State Fault Refusal :=
  .next { s.setSreg sl 0x507 v with ringDue := (sl :: s.ringDue).eraseDups }
/-- A write of CMD_CTL: one that sets EN resets CMD_HEAD (R429). -/
def State.writeCmdCtl (s : State) (sl : Nat) (v : Word) : State :=
  let s' := s.setSreg sl 0x506 (v &&& 0x8000001F#32)
  if v.getLsbD 31 then s'.setSreg sl 0x508 0#32 else s'
/-- CMD_CTL_WRITE. -/
def execCmdCtlWrite (sl : Nat) (v : Word) (s : State) : Host.Outcome State Fault Refusal := .next (s.writeCmdCtl sl v)

/-! ## Commands of every ring (R433) -/

/-- LAUNCH_CMD: appends to a queue of its own slice, and completes when the grid ends; it holds while the queue is full. -/
def execLaunchCmd (sl : Nat) (s : State) : Host.Outcome State Fault Refusal :=
  eventOf "LAUNCH_CMD" (s.cmdRow sl 1 [(0, 66)] fun n v =>
    let qid := recFld v 64 2
    let (s', st) := s.append sl (if qid < 4096 then some qid else none) (recFld v 0 64)
    if st = qFull then none
    else if st = qWriteFail then some (s'.refuseCmd sl n v resFail)
    else if 2 ^ 31 ≤ st then some (s'.doneCmd sl n v st)
    else
      let tail := ((s.queue? sl qid).map (·.tail)).getD 0
      let s' := match s'.queue? sl qid with
        | some q => { s' with queues := s'.queues.put (queueKey sl qid) { q with launches := q.launches ++ [(tail, n)] } }
        | none => s'
      some (s'.startCmd sl n v st))

/-- The address and ASID of WRITE32 and WAIT32 are in order. -/
def State.wordOk (s : State) (sl v : Nat) : Bool :=
  recFld v 0 8 % 4 == 0 && decide (recFld v 0 8 < 2 ^ 58) && match s.asTable sl (s.cpDie sl) (recFld v 12 2) with | .ok _ => true | .error _ => false
/-- WRITE32: RESULT stands at PENDING until the store has entered co(x), within this one step. -/
def execWrite32 (sl : Nat) (s : State) : Host.Outcome State Fault Refusal :=
  eventOf "WRITE32" (s.cmdRow sl 2 [(0, 14)] fun n v =>
    if !s.wordOk sl v then some (s.refuseCmd sl n v resBad)
    else
      let s := s.startCmd sl n v resPending
      some (match s.vwrite (devSpace sl (s.cpDie sl) (recFld v 12 2)) (cpAgent sl) (recFld v 0 8) (recFld v 8 4) 4 with
        | .ok s => (s.putResult sl n 0).completeCmd sl n
        | .error _ => ((s.putResult sl n resFail).countBad sl n).completeCmd sl n))
def condOf (n : Nat) : Option WCond := match n with | 0 => some .eq | 1 => some .ne | 2 => some .ge | 3 => some .lt | _ => none
/-- WAIT32: it starts; its tests follow. -/
def execWait32 (sl : Nat) (s : State) : Host.Outcome State Fault Refusal :=
  eventOf "WAIT32" (s.cmdRow sl 3 [(0, 15)] fun n v =>
    match condOf (recFld v 14 1) with
    | none => some (s.refuseCmd sl n v resBad)
    | some c =>
      if !s.wordOk sl v then some (s.refuseCmd sl n v resBad)
      else
        let s := s.startCmd sl n v resPending
        some { s with cmds := s.cmds.set sl ((s.cmds.get sl).map fun k =>
                 if k.n = n then { k with wait := some (recFld v 0 8, recFld v 12 2, recFld v 8 4, c) } else k) })
/-- WAIT32_SATISFIED: a test finds the condition, or its access fails. -/
def execWait32Satisfied (sl n : Nat) (s : State) : Host.Outcome State Fault Refusal :=
  eventOf "WAIT32_SATISFIED" do
    let c ← (s.cmds.get sl).find? fun c => c.n == n
    let (va, asid, val, cond) ← c.wait
    if s.halted sl then none
    else match s.vread (devSpace sl c.die asid) va 4 with
      | .error _ => some (((s.putResult sl n resFail).countBad sl n).completeCmd sl n)
      | .ok w =>
        if waitCond cond w val then
          let s := s.cpSees sl (((List.range 4).filterMap fun k => (s.teamXlat (devSpace sl c.die asid) needR (va + k)).toOption).map fun pa => (pa, s.lastSeq pa))
          some (((s.cpAdopt sl c.die .dom).putResult sl n 0).completeCmd sl n)
        else none
/-- The types of a ring: the PF's has its own. -/
def knownType (sl type : Nat) : Bool := (decide (1 ≤ type) && decide (type ≤ 4)) || (sl == 192 && decide (0x10 ≤ type) && decide (type ≤ 0x17))
/-- NOP_CMD; and a command of a type that the ring does not have. -/
def execNopCmd (sl : Nat) (s : State) : Host.Outcome State Fault Refusal :=
  eventOf "NOP_CMD" do
    let (n, v) ← s.headSlot sl
    if knownType sl (cmdType v) then s.cmdRow sl 4 [] fun n v => some (s.doneCmd sl n v 0)
    else if cmdSerial v && !(s.cmds.get sl).isEmpty then none
    else some (s.refuseCmd sl n v resUnknown)

/-! ## Queue binding (R435) -/

/-- Some grid taken from the queue has not ended. -/
def State.queueRuns (s : State) (sl qid : Nat) : Bool := s.grids.any fun p => p.2.slice == sl && p.2.qid == qid && p.2.taken
/-- The values of a BIND are within R389, and the slice holds a pair on the die. -/
def State.bindOk (s : State) (v : Nat) : Bool :=
  let size := recFld v 24 4
  let ring := recFld v 16 8
  let hdr := recFld v 8 8
  decide (recFld v 0 1 ≤ 192) && decide (recFld v 1 1 < 4) && decide (recFld v 2 2 < 4096) && hdr % 64 == 0 && decide (hdr + 64 ≤ 2 ^ 58)
  && ring % 64 == 0 && decide (ring + 64 * size ≤ 2 ^ 58) && ((List.range 17).any fun k => size == 2 ^ k) && decide (recFld v 28 1 ≤ 2) && decide (recFld v 29 1 ≤ 3)
  && !(s.clustersOf (recFld v 0 1) (recFld v 29 1)).isEmpty && !((recFld v 1 1).testBit 1 && recFld v 32 4 != 0)
/-- BIND: the entry, then the header's P fields, TAIL and HEAD, published at `.slc`; with RESTORE the entries of LAUNCH commands stay theirs (R433). -/
def execBindQueue (s : State) : Host.Outcome State Fault Refusal :=
  eventOf "BIND" (s.cmdRow 192 0x10 [(0, 6), (8, 22), (32, 12)] fun n v =>
    let sl := recFld v 0 1
    let qid := recFld v 2 2
    let restore := (recFld v 1 1).testBit 0
    if !s.bindOk v then some (s.refuseCmd 192 n v resBad)
    else
      let busy := match s.queue? sl qid with
        | some q => s.queueRuns sl qid || (!restore && q.head != q.tail)
        | none => false
      if busy then some (s.doneCmd 192 n v resBusy)
      else
        let q : Queue := { hdr := recFld v 8 8, ring := recFld v 16 8, size := recFld v 24 4, cls := recFld v 28 1, die := recFld v 29 1,
                           waitTh := if (recFld v 1 1).testBit 1 then 20000 else recFld v 32 4, asid := recFld v 4 2,
                           head := if restore then recFld v 36 4 else 0, tail := if restore then recFld v 40 4 else 0,
                           launches := if restore then ((s.queue? sl qid).map (·.launches)).getD [] else [] }
        let q := { q with appended := List.replicate ((q.tail + 2 ^ 32 - q.head) % 2 ^ 32) (s.dieCount q.die) }
        let s := s.setQueue sl qid q
        let ag := schedAgent sl q.die
        let w := fun (s : State) off x k => s.vwriteOr (q.space sl) ag (q.hdr + off) x k
        let s := w (w s 0 (q.ring + 2 ^ 64 * q.size) 12) 0x10 (q.tail + 2 ^ 32 * q.head + 2 ^ 64 * q.cls + 2 ^ 72 * q.die + 2 ^ 80 * qid + 2 ^ 96 * q.waitTh) 16
        some ((s.publishAs (fwPlace sl q.die) ag .slc .plain (s.storesOf ag)).doneCmd 192 n v 0))
/-- UNBIND (DEDUCED, log 36). -/
def execUnbindQueue (s : State) : Host.Outcome State Fault Refusal :=
  eventOf "UNBIND" (s.cmdRow 192 0x11 [(0, 1), (2, 2)] fun n v =>
    let sl := recFld v 0 1
    let qid := recFld v 2 2
    if 192 < sl || 4096 ≤ qid then some (s.refuseCmd 192 n v resBad)
    else if s.queueRuns sl qid then some (s.doneCmd 192 n v resBusy)
    else
      let s := match s.queue? sl qid with
        | some q => ({ s with queues := s.queues.erase (queueKey sl qid) } : State).pqtStore sl qid q false
        | none => s
      some (s.doneCmd 192 n v 0))

/-! ## Leases (R441, R290, R291) -/

def State.setLeaseReg (s : State) (core v : Nat) : State :=
  let k := coreIdOf core
  { s with coreReg := s.coreReg.set k ((s.coreReg.get k).set 0x128 (BitVec.ofNat 32 v)) }
/-- An operation on the core's tiles or operand buffer is in flight (R289). -/
def State.engineBusy (s : State) (core : Nat) : Bool :=
  s.ops.any fun o => (o.kind.tile?.isSome || match o.kind with | .copy dst .. => dst.spc == .obuf | _ => false)
    && match s.team? o.team with | some x => x.coreId == coreIdOf core | none => false
def State.signalOwners (s : State) (l : Lease) : State :=
  [l.lender, l.borrower].foldl (fun s k => match s.ownerOf k with | some sl => s.signalVf sl 5 | none => s) s
/-- A lease ends, between two operations of the engine: the borrower's lines are written back unless its slice is being reset, and MX_LEASE of both
cores is cleared (R291, R442) (DEDUCED, log 28). -/
def State.endLease (s : State) (l : Lease) : State :=
  let s := if ((s.ownerOf l.borrower).map fun sl => (s.sreg sl 0x502).getLsbD 1) = some true then s else s.flushMatrix (coreIdOf l.borrower)
  { ((s.setLeaseReg l.lender 0).setLeaseReg l.borrower 0).signalOwners l with leases := s.leases.filter fun k => k != l }
/-- LEASE: it starts once the lender's engine has no operation in flight, and writes back the lender's lines (R291). -/
def execLease (s : State) : Host.Outcome State Fault Refusal :=
  eventOf "LEASE" (s.cmdRow 192 0x13 [(0, 4), (8, 8)] fun n v =>
    let a := recFld v 0 2
    let b := recFld v 2 2
    let ok := decide (a < 384) && decide (b < 384) && a / 8 == b / 8 && match s.ownerOf a, s.ownerOf b with | some p, some q => p != q | _, _ => false
    if !ok then some (s.refuseCmd 192 n v resBad)
    else if s.leases.any fun l => l.lender == a || l.borrower == a || l.lender == b || l.borrower == b then some (s.doneCmd 192 n v resBusy)
    else if s.engineBusy a then none
    else
      let l : Lease := { lender := a, borrower := b, start := s.dieCount (a / 96), term := recFld v 8 8 }
      let s := s.flushMatrix (coreIdOf a)
      let s := (s.setLeaseReg a (256 * (b % 8) + 2)).setLeaseReg b (256 * (a % 8) + 1)
      some (({ s.signalOwners l with leases := s.leases ++ [l] } : State).doneCmd 192 n v 0))
/-- LEASE_END. -/
def execLeaseEnd (s : State) : Host.Outcome State Fault Refusal :=
  eventOf "LEASE_END" (s.cmdRow 192 0x14 [(0, 2)] fun n v =>
    match s.leases.find? fun l => l.lender == recFld v 0 2 with
    | none => some (s.refuseCmd 192 n v resBad)
    | some l => some ((s.endLease l).doneCmd 192 n v 0))
/-- LEASE_TERM_EXPIRY: the die counter has passed start + TERM. -/
def execLeaseTermExpiry (core : Nat) (s : State) : Host.Outcome State Fault Refusal :=
  eventOf "LEASE_TERM_EXPIRY" do
    let l ← s.leases.find? fun l => l.lender == core
    if l.term = 0 || s.dieCount (core / 96) ≤ l.start + l.term then none else some (s.endLease l)

/-! ## Cache ways (R324, R437) -/

def State.setCluReg (s : State) (sl cl n : Nat) (v : Word) : State :=
  { s with sliceClu := s.sliceClu.set (64 * sl + cl) ((s.sliceClu.get (64 * sl + cl)).set n v) }
/-- The most lines that a slice has pinned in one set of a cluster's cache (DESIGN CHOICE, log 18, DEDUCED, log 37). -/
def State.pinDepth (s : State) (sl cl : Nat) : Nat :=
  let used := s.pinsOf sl cl
  (used.map fun l => (used.filter fun k => Config.cacheSet k % 4096 == Config.cacheSet l % 4096).length).foldl max 0
/-- The ways of the other slices on a cluster. -/
def State.otherWays (s : State) (sl cl : Nat) : Nat := (((List.range 193).filter fun k => k != sl).map fun k => popcN 16 (s.cluReg k cl 0x203).toNat).sum
/-- A number of ways that R427 allows a slice on a cluster: at least 2 where it holds a pair, and 16 with those of the others. -/
def State.waysOk (s : State) (sl cl : Nat) (v : Word) : Bool :=
  (decide (2 ≤ popcN 16 v.toNat) || !(s.slices.get sl).pairs.any fun p => p / 4 == cl) && decide (popcN 16 v.toNat + s.otherWays sl cl ≤ 16)
/-- A write of CL_WAYS: ignored where R427 does not allow the number, and where a removed way holds a pinned line, that is, where the ways kept
cannot hold them all (DEDUCED, log 37). -/
def State.writeWays (s : State) (sl cl : Nat) (v : Word) : State :=
  let old := s.cluReg sl cl 0x203
  let v := v &&& 0xFFFF#32
  if !s.waysOk sl cl v || ((old &&& ~~~v) != 0#32 && decide (popcN 16 (old &&& v).toNat < s.pinDepth sl cl)) then s else s.setCluReg sl cl 0x203 v
/-- DEDUCED, log 37. -/
def State.dropPins (s : State) (sl cl : Nat) : State := { s with pinned := s.pinned.filter fun k => k / 2 ^ 48 != sl * 2 ^ 8 + cl }
/-- Ways for a count: the slice's own first, then free ones, lowest first (DEDUCED, log 36). -/
def State.pickWays (s : State) (sl cl n : Nat) : Word :=
  let own := (s.cluReg sl cl 0x203).toNat
  let taken := fun w => (List.range 193).any fun k => k != sl && (s.cluReg k cl 0x203).getLsbD w
  let ws := (List.range 16).filter own.testBit ++ (List.range 16).filter fun w => !own.testBit w && !taken w
  BitVec.ofNat 32 ((ws.take n).foldl (fun m w => m + 2 ^ w) 0)

/-! ## Reshaping (R437, R438) -/

def bitList (v n : Nat) : List Nat := (List.range n).filter v.testBit
/-- The channel's memory is zeroed and its poison cleared. -/
def State.scrubChan (s : State) (ch : Nat) : State :=
  let lo := ch * 2 ^ 30
  let hi := lo + 2 ^ 30
  let s := (s.mem.filter fun p => decide (lo ≤ p.1) && decide (p.1 < hi)).foldl (fun s p => s.storeByte 0 0 p.1 0#8) s
  { s with poison := s.poison.clearRange (lo / 32) (hi / 32) }
def State.quiescent (s : State) (sl : Nat) : Bool :=
  s.teams.all (fun p => p.2.slice != sl || p.2.cluster == 12) && s.grids.all (fun p => p.2.slice != sl) && s.queues.all (fun p => p.1 / 4096 != sl)
  && s.leases.all (fun l => !((s.slices.get sl).pairs.contains (l.lender / 2)) && !((s.slices.get sl).pairs.contains (l.borrower / 2)))
  && !(s.sreg sl 0x506).getLsbD 31
/-- The ways of a RESHAPE on a cluster. -/
def reshapeWays (v cl : Nat) : Nat := 2 * (recFld v 80 16 / 4 ^ cl % 4 + 1)
/-- The conditions of R437; no slice can be shaped in recovery (R451; its RESULT is DEDUCED, log 36). -/
def State.reshapeOk (s : State) (sl v : Nat) (new : SliceSt) : Bool :=
  let old := s.slices.get sl
  let free := fun (f : SliceSt → List Nat) => (f new).all fun k => (f old).contains k || s.slices.all fun p => p.1 == sl || !(f p.2).contains k
  let empty := new.pairs.isEmpty && new.chans.isEmpty && new.encs.isEmpty
  decide (sl ≤ 191) && recFld v 92 4 == 0 && !(s.pkg 0x600).getLsbD 30 && free (·.pairs) && free (·.chans) && free (·.encs)
  && ((List.range 48).all fun cl => !(new.pairs.any fun p => p / 4 == cl)
      || decide (s.otherWays sl cl + reshapeWays v cl ≤ 16))
  && (!(s.sreg sl 0x502).getLsbD 0 || new.pairs.isEmpty == new.chans.isEmpty)
  && (!empty || s.quiescent sl)
/-- The sets, their memory, teams, leases and ways take effect (DEDUCED, log 36). -/
def State.reshapeTo (s : State) (sl v : Nat) (new : SliceSt) : State :=
  let old := s.slices.get sl
  let gone := old.pairs.filter fun p => !new.pairs.contains p
  let ts := (s.teams.filter fun p => p.2.slice == sl && p.2.cluster != 12 && p.2.st == .resident && gone.contains (pairOf p.2.die p.2.cluster p.2.core)).map (·.1)
  let s := ts.foldl (fun s t => (s.suspend t).requeue t) s
  let s := (s.leases.filter fun l => gone.contains (l.lender / 2) || gone.contains (l.borrower / 2)).foldl State.endLease s
  let has := fun cl => new.pairs.any fun p => p / 4 == cl
  let s := (List.range 48).foldl (fun (s : State) cl =>
    if has cl then s.writeWays sl cl (s.pickWays sl cl (reshapeWays v cl)) else (s.dropPins sl cl).setCluReg sl cl 0x203 0#32) s
  let s := (List.range 48).foldl (fun (s : State) cl =>
    let l := s.lists.get (listKey sl cl)
    if has cl || l.isEmpty then s
    else match (List.range 48).find? fun c => c / 12 == cl / 12 && has c with
      | some c => { s with lists := (s.lists.set (listKey sl cl) []).set (listKey sl c) (s.lists.get (listKey sl c) ++ l) }
      | none => s) s
  let s := (old.chans.filter fun c => !new.chans.contains c).foldl State.scrubChan s
  let s := (new.chans.filter fun c => !old.chans.contains c).foldl State.scrubChan s
  let s := { s with slices := s.slices.set sl new }
  let st := s.sreg sl 0x502
  s.setSreg sl 0x502 (if !new.pairs.isEmpty && !new.chans.isEmpty then st ||| 1#32 else if new.pairs.isEmpty && new.chans.isEmpty then st &&& ~~~1#32 else st)
/-- An operation in flight whose check found a byte of one of some channels: it is performed before the channel is taken away (R428, R438)
(DEDUCED, log 36). -/
def Op.usesChan (o : Op) (cs : List Nat) : Bool :=
  let hit := fun (pa : Nat) => cs.contains (pa / 2 ^ 30)
  (o.items.any fun it => it.pa.any hit) || match o.kind with
    | .copy _ _ _ _ _ dp sp => dp.any hit || sp.any hit
    | .drain _ _ _ _ _ _ pgs => pgs.any fun p => hit p.2
    | _ => false
/-- A checked operation, or an admitted request of another package, has still to be performed on one of some channels (R438, R443) (DEDUCED, log 36). -/
def State.chansBusy (s : State) (cs : List Nat) : Bool :=
  (s.ops.any fun o => o.usesChan cs) || s.requests.any fun r => r.adm && r.addr % 256 == 0 && cs.contains (r.addr / 2 ^ 30)
/-- RESHAPE: it waits until nothing that has been checked or admitted uses a channel that it removes or adds. -/
def execReshape (s : State) : Host.Outcome State Fault Refusal :=
  eventOf "RESHAPE" (s.cmdRow 192 0x12 [(0, 1), (8, 88)] fun n v =>
    let sl := recFld v 0 1
    let new : SliceSt := { pairs := bitList (recFld v 8 24) 192, chans := bitList (recFld v 32 24) 192, encs := bitList (recFld v 56 24) 192 }
    let old := (s.slices.get sl).chans
    if s.chansBusy ((old.filter fun c => !new.chans.contains c) ++ new.chans.filter fun c => !old.contains c) then none
    else some (if s.reshapeOk sl v new then (s.reshapeTo sl v new).doneCmd 192 n v 0 else s.refuseCmd 192 n v resBad))

/-! ## Slice reset (R442) -/

/-- Steps 1 to 6. -/
def State.beginReset (s : State) (sl : Nat) : State :=
  let mine := fun (x : Team) => x.slice == sl && x.cluster != 12
  let gone := (s.teams.filter fun p => mine p.2).map (·.1)
  let ls := s.leases.filter fun l => s.ownerOf l.lender == some sl || s.ownerOf l.borrower == some sl
  let s := if (s.sreg sl 0x502).getLsbD 2 then s.signalVf sl 3 else s
  let s := s.setSreg sl 0x502 ((s.sreg sl 0x502 &&& 1#32) ||| 2#32)
  let s := ls.foldl State.endLease s
  let s := (s.queues.filter fun p => p.1 / 4096 == sl).foldl (fun s p => s.pqtStore sl (p.1 % 4096) p.2 false) s
  let die := fun (x : SliceDie) =>
    { x with reg := [0x30A, 0x30B, 0x30C, 0x423, 0x424].foldl (fun (m : SMap Word) n => m.set n 0#32) x.reg, copies := 0 }
  let s := (List.range 4).foldl (fun (s : State) d => s.setSliceDie sl d (die (s.sliceDieOf sl d))) s
  let reg := s.sliceReg.get sl
  let reg := [0x504, 0x505, 0x506, 0x507, 0x508, 0x509, 0x50C, 0x50D, 0x50E, 0x50F].foldl (fun (m : SMap Word) n => m.set n 0#32) reg
  let reg := reg.set 0x501 (reg.get 0x501 &&& 4#32)
  { s with
    sliceReg := s.sliceReg.set sl reg
    teams := s.teams.filter fun p => !mine p.2
    grids := s.grids.filter fun p => p.2.slice != sl
    lists := s.lists.filter fun p => p.1 / 64 != sl
    transit := s.transit.filter fun t => t.slice != sl
    ops := s.ops.filter fun o => !gone.contains o.team
    calls := s.calls.filter fun c => c.slice != sl
    streams := s.streams.filter fun p => p.1 / 16 % 256 != sl
    pinned := s.pinned.filter fun k => k / 2 ^ 56 != sl
    queues := s.queues.filter fun p => p.1 / 4096 != sl
    cmds := s.cmds.erase sl
    cps := s.cps.erase sl
    ringDue := s.ringDue.filter fun k => k != sl
    contribs := s.contribs.map fun c => match c.op with
      | some id => if (s.ops.any fun o => o.id == id && gone.contains o.team) then { c with lost := true, op := none, done := true } else c
      | none => c }
/-- Step 7. -/
def State.scrubSlice (s : State) (sl : Nat) : State :=
  if (s.sreg sl 0x501).getLsbD 2 then (s.slices.get sl).chans.foldl State.scrubChan s else s
/-- DEDUCED, log 36. -/
def State.endReset (s : State) (sl : Nat) : State :=
  ((s.scrubSlice sl).setSreg sl 0x502 (s.sreg sl 0x502 &&& ~~~2#32)).signalVf sl 2
def State.resetting (s : State) (sl : Nat) : Bool := (s.sreg sl 0x502).getLsbD 1
/-- SLICE_RESET: a write of 1 while RESETTING is set has no effect. -/
def State.writeReset (s : State) (sl : Nat) : State := if s.resetting sl then s else s.beginReset sl
def execSliceReset (sl : Nat) (s : State) : Host.Outcome State Fault Refusal := .next (s.writeReset sl)
/-- SLICE_RESET_DONE. -/
def execSliceResetDone (sl : Nat) (s : State) : Host.Outcome State Fault Refusal :=
  eventOf "SLICE_RESET_DONE" (if s.resetting sl then some (s.endReset sl) else none)
/-- VF_FLR (R447). -/
def execVfFlr (sl : Nat) (s : State) : Host.Outcome State Fault Refusal := .next (s.writeReset sl)

/-! ## Freezing (R444) -/

/-- FREEZE set: every team of the slice is suspended; its lines are written back once its matrix operations have finished with them. -/
def State.freeze (s : State) (sl : Nat) : State :=
  let s := s.setSreg sl 0x501 (s.sreg sl 0x501 ||| 2#32)
  let ts := (s.teams.filter fun p => p.2.slice == sl && p.2.cluster != 12 && p.2.st == .resident).map (·.1)
  ts.foldl (fun (s : State) t => (s.suspend t).requeue t) s
def execSliceFreeze (sl : Nat) (s : State) : Host.Outcome State Fault Refusal := .next (if (s.sreg sl 0x501).getLsbD 1 then s else s.freeze sl)
/-- FREEZE_COMPLETE (DEDUCED, log 36). -/
def execFreezeComplete (sl : Nat) (s : State) : Host.Outcome State Fault Refusal :=
  eventOf "FREEZE_COMPLETE" (
    if !(s.sreg sl 0x501).getLsbD 1 || (s.sreg sl 0x502).getLsbD 2 then none
    else if (s.teams.all fun p => p.2.slice != sl || p.2.cluster == 12 || p.2.st == .written) && (s.calls.all fun c => c.slice != sl)
        && s.ops.all fun o => (match o.kind with | .crecv .. => true | _ => false) || match s.team? o.team with
          | some x => x.slice != sl || x.cluster == 12
          | none => true then
      some ((s.setSreg sl 0x502 (s.sreg sl 0x502 ||| 4#32)).signalVf sl 3)
    else none)
/-- FREEZE cleared: FROZEN clears, and every ring of the slice is examined again. -/
def State.thaw (s : State) (sl : Nat) : State :=
  let st := s.sreg sl 0x502
  let s := (s.setSreg sl 0x501 (s.sreg sl 0x501 &&& ~~~2#32)).setSreg sl 0x502 (st &&& ~~~4#32)
  let s := if st.getLsbD 2 then s.signalVf sl 3 else s
  { s with ringDue := (sl :: s.ringDue).eraseDups }
def execSliceThaw (sl : Nat) (s : State) : Host.Outcome State Fault Refusal := .next (if (s.sreg sl 0x501).getLsbD 1 then s.thaw sl else s)

end Sys2Proof.Machine
end

