-- ==== Sys2Proof/Machine/HostUnits.lean ====
section
/-!
DEFINITION. The host link, memory channels, secure boot, measurement and power (spec/19 R445-R456).
-/
namespace Sys2Proof.Machine

def State.setPkg (s : State) (n : Nat) (v : Word) : State := { s with pkgReg := s.pkgReg.set n v }

/-! ## Memory channels (R449, R450) -/

def State.updChan (s : State) (ch : Nat) (f : ChanSt → ChanSt) : State := { s with chans := s.chans.set ch (f (s.chans.get ch)) }
/-- MEM_CRC_ERROR: retried up to 8 times; if the retries fail the channel retrains. -/
def execMemCrcError (ch retries : Nat) (s : State) : Host.Outcome State Fault Refusal :=
  .next (if retries ≤ 8 then s else s.updChan ch fun c => { c with training := true })
/-- CHANNEL_RETRAIN: the third failure in a row fails the channel. -/
def execChannelRetrain (ch : Nat) (ok : Bool) (s : State) : Host.Outcome State Fault Refusal :=
  .next (
    let n := (s.chans.get ch).fails + 1
    if ok then s.updChan ch fun c => { c with training := false, fails := 0 }
    else if n < 3 then s.updChan ch fun c => { c with fails := n }
    else (s.updChan ch fun c => { c with training := false, fails := n, failed := true }).signal 192 4)
/-- CECNT saturates. -/
def State.countCe (s : State) (ch n : Nat) : State := s.updChan ch fun c => { c with ce := min 65535 (c.ce + n) }
/-- CORRECTED_ERROR. -/
def execCorrectedError (ch : Nat) (s : State) : Host.Outcome State Fault Refusal := .next (s.countCe ch 1)
/-- An uncorrectable error: its sector is poisoned where the table has room, and UECNT rises (DEDUCED, log 32). -/
def State.uncorrectable (s : State) (pa : Nat) : State :=
  ((s.setPoison pa 0xFFFFFFFF#32).updChan (pa / 2 ^ 30) fun c => { c with ue := (c.ue + 1) % 2 ^ 32 }).signal 192 4
/-- PATROL_SCRUB: a pass above a channel finds corrected errors and sectors with uncorrectable ones. -/
def execPatrolScrub (ch ce : Nat) (ue : List Nat) (s : State) : Host.Outcome State Fault Refusal :=
  .next ((ue.filter fun a => a / 2 ^ 30 == ch).foldl State.uncorrectable (s.countCe ch ce))

/-! ## Measurement registers (R453) -/

def bytesOf256 (v : BitVec 256) : List Byte := leBytes v.toNat 32
/-- MR n := SHA-256(MR n ∥ d). -/
def State.extendMr (s : State) (n : Nat) (d : List Byte) : State :=
  { s with mr := s.mr.set n (Config.sha256 (bytesOf256 (s.mr.get n) ++ d)) }
/-- The digest in MR_DATA0-7. -/
def State.mrData (s : State) : List Byte := (List.range 8).flatMap fun k => leBytes (s.pkg (0x608 + k)).toNat 4
/-- The extend in progress completes. -/
def State.finishExtend (s : State) : State :=
  match s.extend with
  | none => s
  | some n => { (s.extendMr n s.mrData).setPkg 0x610 (s.pkg 0x610 &&& 0x7FFFFFFF#32) with extend := none }
/-- A write of INDEX: an extend in progress completes first. -/
def State.writeExtend (s : State) (ix : Nat) : State :=
  let s := s.finishExtend
  if ix < 5 then s.setPkg 0x610 0x40000000#32 else { s.setPkg 0x610 0x80000000#32 with extend := some ix }
/-- MR_EXTEND. -/
def execMrExtend (ix : BitVec 3) (s : State) : Host.Outcome State Fault Refusal := .next (s.writeExtend ix.toNat)
/-- MR_EXTEND_DONE. -/
def execMrExtendDone (s : State) : Host.Outcome State Fault Refusal :=
  eventOf "MR_EXTEND_DONE" (if s.extend.isSome then some s.finishExtend else none)

/-! ## Boot (R451, R452) -/

/-- DESIGN CHOICE, log 2. -/
def State.flashLE (s : State) (off : Nat) : Nat → Nat
  | 0 => 0
  | n + 1 => (s.flash.get off).toNat + 256 * State.flashLE s (off + 1) n
def State.flashBytes (s : State) (off n : Nat) : List Byte := (List.range n).map fun k => s.flash.get (off + k)
/-- Where stage n of a copy lies. -/
def stageBase (copy n : Nat) : Nat := copy * 0x1000000 + (n - 1) * 0x500000
/-- An image passes (R452). -/
def State.stageOk (s : State) (copy n : Nat) : Bool :=
  let o := stageBase copy n
  let len := s.flashLE (o + 0x0C) 4
  s.flashLE o 4 == 0x4D494B42 && s.flashLE (o + 4) 1 == n && decide (s.flashLE (o + 5) 1 < 2) && s.flashLE (o + 6) 2 == 0 && s.flashLE (o + 0x30) 16 == 0
  && len % 16 == 0 && decide (len ≤ 2 ^ 22) && decide (s.fuseSvn ≤ s.flashLE (o + 8) 4)
  && s.flashBytes (o + 0x10) 32 == bytesOf256 (Config.sha256 (s.flashBytes (o + 64) len))
  && Config.lmsVerify Config.keyHash (s.flashBytes o 64) (s.flashBytes (o + 64 + len) 2668)
/-- A stage that passes is measured: its header's digest, then DIGEST. -/
def State.measure (s : State) (copy n : Nat) : State :=
  let o := stageBase copy n
  (s.extendMr n (bytesOf256 (Config.sha256 (s.flashBytes o 64)))).extendMr n (s.flashBytes (o + 0x10) 32)
/-- A copy's stages in turn: the state, and the first stage that fails. -/
def State.bootCopy (s : State) (copy : Nat) : State × Option Nat :=
  [1, 2, 3].foldl (fun r n => match r.2 with
    | some _ => r
    | none => if r.1.stageOk copy n then (r.1.measure copy n, none) else (r.1, some n)) (s, none)
/-- Boot succeeds from a copy: MR4, the fused minimum, READY. -/
def State.booted (s : State) (copy fail : Nat) : State :=
  let s := s.extendMr 4 (BitVec.ofNat 8 copy :: List.replicate 31 0#8)
  let o := stageBase copy 1
  let svn := if (s.flashLE (o + 5) 1).testBit 0 then max s.fuseSvn (s.flashLE (o + 8) 4) else s.fuseSvn
  ({ s with fuseSvn := svn }.setPkg 0x600 (BitVec.ofNat 32 (2 ^ 31 + 65536 * fail))).signal 192 2
/-- The boot chain (DESIGN CHOICE, log 30). -/
def State.boot (s : State) : State :=
  let s := (s.extendMr 0 (bytesOf256 Config.romDigest)).extendMr 0 (bytesOf256 Config.fuseDigest)
  match s.bootCopy 0 with
  | (s, none) => s.booted 0 0
  | (s, some a) =>
    match s.bootCopy 1 with
    | (s, none) => s.booted 1 a
    | (s, some _) => (s.setPkg 0x600 (BitVec.ofNat 32 (2 ^ 30 + 65536 * a))).signal 192 2
/-- DEVICE_RESET: every register at its reset value; flash, fuses, the contents of memory, and the poison of other packages' memory stay; then boot
(DEDUCED, log 31). -/
def execDeviceReset (s : State) : Host.Outcome State Fault Refusal :=
  .next { State.reset with mem := s.mem, poison := s.poison.filter fun p => decide (2 ^ 46 ≤ p.1), flash := s.flash, fuseSvn := s.fuseSvn, agenda := s.agenda, stamp := s.stamp, fresh := s.fresh }.boot

/-! ## Function-level resets (R447) -/

/-- PF_FLR: every slice, scrubbed, then the package registers but BOOT_STAT, the measurement registers and fields that firmware set (DEDUCED, log 31). -/
def execPfFlr (s : State) : Host.Outcome State Fault Refusal :=
  .next (
    let s := (List.range 192).foldl (fun (s : State) sl =>
      let keep := s.sreg sl 0x501 &&& 4#32
      let s := (if s.resetting sl then s else s.beginReset sl).setSreg sl 0x501 4#32
      (s.endReset sl).setSreg sl 0x501 keep) s
    let zero := [0x608, 0x609, 0x60A, 0x60B, 0x60C, 0x60D, 0x60E, 0x60F, 0x618, 0x621, 0x622, 0x705] ++ (List.range 16).map (0x710 + ·)
    let s := if (List.range 16).any fun k => (s.pkg (0x710 + k)).getLsbD 31 then s.signal 192 6 else s
    let s := zero.foldl (fun (s : State) n => s.setPkg n 0#32) s.finishExtend
    let s := (s.setPkg 0x610 0#32).setPkg 0x701 (s.pkg 0x701 &&& 0x7FFFFFFF#32)
    { s with requests := [], chans := s.chans.foldl (fun (m : SMap ChanSt) (p : Nat × ChanSt) => m.set p.1 { p.2 with failed := false, ce := 0, ue := 0 }) [] })

/-! ## SPDM over DOE (R454) -/

def State.answerDoe (s : State) (r : List Byte) : State := { s with doe := s.doe ++ [r] }
/-- The measurement registers at one instant. -/
def State.mrs (s : State) : List (BitVec 256) := (List.range 8).map s.mr.get
/-- The code of a request (PRESUMED, log 54). -/
def spdmCode (req : List Byte) : Nat := (req.getD 1 0#8).toNat
/-- GET_DIGESTS, GET_CERTIFICATE, CHALLENGE, GET_VERSION, GET_MEASUREMENTS, GET_CAPABILITIES, NEGOTIATE_ALGORITHMS (PRESUMED, log 54). -/
def spdmCodes : List Nat := [0x81, 0x82, 0x83, 0x84, 0xE0, 0xE1, 0xE3]
/-- ERROR (0x7F) with UnsupportedRequest (0x07) and the request's code (PRESUMED, log 54). -/
def spdmError (req : List Byte) : List Byte := [req.getD 0 0#8, 0x7F#8, 0x07#8, req.getD 1 0#8]
/-- Both boot copies failed: DOE answers with measurement blocks alone (R451). -/
def State.recovering (s : State) : Bool := (s.pkg 0x600).getLsbD 30
/-- A supported request with its code is answered by the responder from the measurement registers of this instant; in recovery one that only a device key
or certificate could answer is not supported (R451, R454) (DESIGN CHOICE, log 30). -/
def spdmRun (row : String) (code : Nat) (key : Bool) (req : List Byte) (s : State) : Host.Outcome State Fault Refusal :=
  eventOf row (if spdmCode req != code then none
    else some (s.answerDoe (if key && s.recovering then spdmError req else Config.spdmReply req s.mrs)))
/-- GET_VERSION. -/
def execGetVersion (req : List Byte) (s : State) : Host.Outcome State Fault Refusal := spdmRun "GET_VERSION" 0x84 false req s
/-- GET_CAPABILITIES. -/
def execGetCapabilities (req : List Byte) (s : State) : Host.Outcome State Fault Refusal := spdmRun "GET_CAPABILITIES" 0xE1 false req s
/-- NEGOTIATE_ALGORITHMS. -/
def execNegotiateAlgorithms (req : List Byte) (s : State) : Host.Outcome State Fault Refusal := spdmRun "NEGOTIATE_ALGORITHMS" 0xE3 false req s
/-- GET_DIGESTS. -/
def execGetDigests (req : List Byte) (s : State) : Host.Outcome State Fault Refusal := spdmRun "GET_DIGESTS" 0x81 true req s
/-- GET_CERTIFICATE. -/
def execGetCertificate (req : List Byte) (s : State) : Host.Outcome State Fault Refusal := spdmRun "GET_CERTIFICATE" 0x82 true req s
/-- CHALLENGE. -/
def execChallenge (req : List Byte) (s : State) : Host.Outcome State Fault Refusal := spdmRun "CHALLENGE" 0x83 true req s
/-- The measurement record: blocks 1-8 hold MR0-MR7 as raw digests, each after its DMTF header. -/
def State.measurements (s : State) (blocks : List Nat) : List Byte :=
  (blocks.filter fun b => decide (1 ≤ b) && decide (b ≤ 8)).flatMap fun b => Config.blockHeader b ++ bytesOf256 (s.mr.get (b - 1))
/-- GET_MEASUREMENTS: the message's head, the record, and its end with the signature under the device key, which comes from fuses and MR1
(DESIGN CHOICE, log 30). -/
def execGetMeasurements (blocks : List Nat) (s : State) : Host.Outcome State Fault Refusal :=
  let r := s.measurements blocks
  .next (s.answerDoe (Config.measureHead blocks r.length ++ r ++ Config.measureTail (s.mr.get 1) r))
/-- UNSUPPORTED_REQUEST: every other request, KEY_EXCHANGE among them (R454). -/
def execUnsupportedRequest (req : List Byte) (s : State) : Host.Outcome State Fault Refusal :=
  eventOf "UNSUPPORTED_REQUEST" (if spdmCodes.contains (spdmCode req) then none else some (s.answerDoe (spdmError req)))

/-! ## Power (R455, R456) -/

/-- POWER_WINDOW: the end of a 10 ms window with its average (DESIGN CHOICE, log 20). -/
def execPowerWindow (watts : Nat) (s : State) : Host.Outcome State Fault Refusal :=
  .next (
    let cap := (s.pkg 0x620).toNat % 65536
    let above := decide (cap < watts)
    let mhz := if above then max 1200 (s.mhz - 100) else if 100 * watts < 95 * cap then min 3600 (s.mhz + 100) else s.mhz
    let half := if watts < cap then false else s.halfRate || (above && s.mhz == 1200)
    let s' := { s with mhz, halfRate := half }.setPkg 0x621 (BitVec.ofNat 32 (watts % 65536 * 65536 + mhz))
    if half && !s.halfRate then s'.signal 192 7 else s')
/-- DROOP_STRETCH. -/
def execDroopStretch (cl : Nat) (s : State) : Host.Outcome State Fault Refusal :=
  .next { s.setPkg 0x622 (s.pkg 0x622 + 1#32) with droop := (cl :: s.droop).eraseDups }
/-- DROOP_RELEASE. -/
def execDroopRelease (cl : Nat) (s : State) : Host.Outcome State Fault Refusal := .next { s with droop := s.droop.filter fun k => k != cl }

end Sys2Proof.Machine
end

