-- ==== Sys2Proof/Machine/Block.lean ====
section
/-!
DEFINITION. Blocks and the quantising store (spec/04 R104-R116).
-/
namespace Sys2Proof.Machine

/-! ## Headers and elements (R104-R110) -/

def hdrScale (h : Nat) : Nat := h / 256 % 256
def hdrSel (h : Nat) : Nat := h / 64 % 4
def hdrSpecial (h : Nat) : Nat := h / 4 % 16
def hdrLT (h : Nat) : Nat := h % 4

/-- R106, with the number of level tables held (R268). -/
def malformed (w nlt h : Nat) : Bool :=
  let sel := hdrSel h
  let lt := hdrLT h
  sel == 3 || (sel == 1 && (decide (2 ≤ lt) || (w == 4 && lt == 1))) || (sel == 0 && lt != 0)
  || (hdrSpecial h != 0 && !(sel == 1 && w == 4)) || (hdrScale h == 255 && h % 256 != 0) || (sel == 2 && decide (nlt ≤ lt))

/-- The float format of a width and variant (R105). -/
def blockFmt (w lt : Nat) : Fmt :=
  match w, lt with
  | 8, 0 => { e := 4, m := 3, bias := 7, spec := .fn }
  | 8, _ => { e := 5, m := 2, bias := 15, spec := .ieee }
  | 6, 0 => { e := 2, m := 3, bias := 1, spec := .fn }
  | 6, _ => { e := 3, m := 2, bias := 3, spec := .fn }
  | _, _ => { e := 2, m := 1, bias := 1, spec := .blk }

/-- SpecialMag in quarters (R110). -/
def specialMag (ix : Nat) : Nat := [1, 3, 5, 7, 10, 14, 18, 20].getD ix 0
/-- A value times 2^s. -/
def FVal.scale (v : FVal) (s : Int) : FVal :=
  match v with
  | .num n m e st => .num n m (e + s) st
  | v => v
/-- The value of a code in a block (R107); `level` gives the bytes of the reservation's tables. -/
def blockElem (w h : Nat) (level : Nat → Nat → Nat) (c : Nat) : FVal :=
  if hdrScale h = 255 then .dnan
  else
    let sc : Int := (hdrScale h : Int) - 127
    if hdrSel h = 0 then (ofInt (signedN w c)).scale sc
    else if hdrSel h = 1 then
      if w = 4 ∧ c = 8 then .num (decide (8 ≤ hdrSpecial h)) (specialMag (hdrSpecial h % 8)) (sc - 2) false
      else ((blockFmt w (hdrLT h)).read c).scale sc
    else (ofInt (signedN 8 (level (hdrLT h) c))).scale sc

/-- The code of element i in the data bytes of a block (R108). -/
def blockCode (w : Nat) (byte : Nat → Nat) (i : Nat) : Nat :=
  match w with
  | 8 => byte i
  | 6 =>
    let o := 4 * (i / 5)
    (byte o + 256 * byte (o + 1) + 65536 * byte (o + 2) + 16777216 * byte (o + 3)) / 2 ^ (6 * (i % 5)) % 64
  | _ => byte (i / 2) / 16 ^ (i % 2) % 16
/-- The data bytes of 32 codes (R108), as a little-endian number. -/
def blockData (w : Nat) (cs : List Nat) : Nat :=
  match w with
  | 6 => (List.range 7).foldr (fun k v => packList 6 ((cs.drop (5 * k)).take 5) + 2 ^ 32 * v) 0
  | w => packList w cs

/-! ## The quantising store (R111-R116) -/

/-- The width and the float variant of a drain's format register (R111). -/
def drainFmt (w : Word) : Option (Nat × Nat) := do
  let f ← fmtOfWord w
  match f.e, f.m, f.bias, f.spec with
  | 2, 1, 1, .blk => some (4, 0)
  | 2, 3, 1, .fn => some (6, 0)
  | 3, 2, 3, .fn => some (6, 1)
  | 4, 3, 7, .fn => some (8, 0)
  | 5, 2, 15, .ieee => some (8, 1)
  | 0, 3, 0, .none => some (4, 0)
  | 0, 5, 0, .none => some (6, 0)
  | 0, 7, 0, .none => some (8, 0)
  | _, _, _, _ => none

/-- A candidate: its selector, its codes with their values in units of 2^-16, lowest code first, and its largest magnitude in the same
units (R112). -/
structure Cand where
  sel : Nat
  special : Nat
  vals : List (Nat × Int)
  top : Nat
deriving Repr

def unit16 : FVal → Int
  | .num n m e _ => let k : Nat := m * 2 ^ (e + 16).toNat; if n then -k else k
  | _ => 0
def floatVals (w lt : Nat) : List (Nat × Int) :=
  (List.range (2 ^ w)).filterMap fun c => match (blockFmt w lt).read c with
    | v@(.num ..) => if w = 4 ∧ c = 8 then none else some (c, unit16 v)
    | _ => none
def maxAbs (vs : List (Nat × Int)) : Nat := (vs.map fun p => p.2.natAbs).foldl max 0
def candidates (w lt : Nat) (levels : Option (List Nat)) : List Cand :=
  let ints := (List.range (2 ^ w)).filterMap fun c => if c = 2 ^ (w - 1) then none else some (c, signedN w c * 65536)
  let fl := floatVals w lt
  [{ sel := 0, special := 0, vals := ints, top := maxAbs ints }]
  ++ (if w = 4 then (List.range 16).map fun sp =>
        let m : Int := specialMag (sp % 8) * 16384
        { sel := 1, special := sp, vals := fl ++ [(8, if 8 ≤ sp then -m else m)], top := maxAbs fl }
      else [{ sel := 1, special := 0, vals := fl, top := maxAbs fl }])
  ++ match levels with
    | none => []
    | some ls => let vs := ls.zipIdx.map fun p => (p.2, signedN 8 p.1 * 65536); [{ sel := 2, special := 0, vals := vs, top := maxAbs vs }]

/-- TowardZero (R114) of an integer in the units of the scaled values: the member and its lowest code. -/
def towardZero (y : Int) (vs : List (Nat × Int)) : Nat × Int :=
  let better := fun (best : Option (Nat × Int)) (p : Nat × Int) => match best with
    | none => some p
    | some b => if b.2.natAbs < p.2.natAbs then some p else some b
  match (vs.filter fun p => p.2 == 0 || (decide (0 < p.2) == decide (0 < y) && y != 0 && decide (p.2.natAbs ≤ y.natAbs))).foldl better none with
  | some p => p
  | none =>
    let near := fun (best : Option (Nat × Int)) (p : Nat × Int) => match best with
      | none => some p
      | some b =>
        let db := (b.2 - y).natAbs
        let dp := (p.2 - y).natAbs
        if dp < db ∨ (dp = db ∧ b.2 < 0 ∧ 0 < p.2 ∧ 0 ≤ y) ∨ (dp = db ∧ 0 < b.2 ∧ p.2 < 0 ∧ y < 0) then some p else some b
    (vs.foldl near none).getD (0, 0)

/-- RoundTZ to binary64 of an integer number of units 2^e: the rounded number of the same units (e at most -1090). -/
def truncF64 (n : Nat) (e : Int) : Nat :=
  match (fmtT .f64).read ((fmtT .f64).writeNum .rtz false n e false).v with
  | .num _ m e' _ => m * 2 ^ (e' - e).toNat
  | _ => 0
/-- The unit of the error sums. -/
def errExp : Int := -1300

/-- One candidate tried at its scale: the scale, the codes and the error (R113). -/
def tryCand (xs : List FVal) (c : Cand) : Int × List Nat × Nat :=
  let sx := xs.map (scaled errExp)
  let mx := (sx.map Int.natAbs).foldl max 0
  let fits := fun (s : Int) => decide (mx ≤ c.top * 2 ^ (s - 16 - errExp).toNat)
  let s : Int := (((List.range 255).map fun (k : Nat) => (k : Int) - 127).find? fits).getD 127
  let u := 2 ^ (s - 16 - errExp).toNat
  let vs := c.vals.map fun p => (p.1, p.2 * u)
  let qs := sx.map fun y => (y, towardZero y vs)
  (s, qs.map (·.2.1), qs.foldl (fun e p => truncF64 (e + truncF64 (p.1 - p.2.2).natAbs errExp) errExp) 0)

/-- The block of 32 binary64 values: its header and its codes (R113-R116). -/
def quantise (w lt : Nat) (levels : Option (Nat × List Nat)) (xs : List FVal) : Nat × List Nat :=
  if xs.any fun x => x.isNaN || x.isInf then (0xFF00, List.replicate 32 0)
  else
    let best := (candidates w lt (levels.map (·.2))).foldl (fun (b : Option (Cand × Int × List Nat × Nat)) c =>
      let r := tryCand xs c
      match b with
      | none => some (c, r)
      | some y => if r.2.2 < y.2.2.2 then some (c, r) else some y) none
    match best with
    | none => (0, List.replicate 32 0)
    | some (c, s, cs, _) =>
      ((s + 127).toNat * 256 + c.sel * 64 + c.special * 4
        + (if c.sel = 1 then lt else if c.sel = 2 then (levels.map (·.1)).getD 0 else 0), cs)

end Sys2Proof.Machine
end

