-- ==== Sys2Proof/Machine/Matrix.lean ====
section
/-!
DEFINITION. The matrix engine and the operand buffer (spec/10 R264-R291): reservations, fragment loads, multiply-accumulate, drains, and
moves between tiles and lanes. The operations on a tile take effect one at a time in the order in which they were issued (R266).
-/
namespace Sys2Proof.Machine

/-! ## Reservations (R267, R268) -/

structure Resv where
  valid : Bool
  hoff : Nat
  nlt : Nat
  fk : Nat
  size : Nat
  base : Nat
deriving DecidableEq, Repr

/-- Sizes and starts in bytes. -/
def resvOf (v : Dword) : Resv :=
  let f := fun (lo n : Nat) => v.toNat / 2 ^ lo % 2 ^ n
  { valid := v.getLsbD 63, hoff := 256 * f 22 10, nlt := f 19 3, fk := f 16 3, size := 1024 * f 8 8, base := 1024 * f 0 8 }
def Resv.w (r : Resv) : Nat := match r.fk with | 0 | 1 => 16 | 2 | 5 => 8 | 3 | 6 => 6 | _ => 4
def Resv.block (r : Resv) : Bool := decide (2 ≤ r.fk) && decide (r.fk ≤ 4)
def Resv.unitBytes (r : Resv) : Nat := match r.w with | 16 => 64 | w => blockBytes w
def Resv.db0 (r : Resv) : Nat := if r.block then 256 * r.nlt else 0
/-- A byte of the operand buffer at a reservation's offset (DESIGN CHOICE, log 42). -/
def Resv.byte (r : Resv) (x : Team) (off : Nat) : Nat := (x.obuf.get (r.base + off)).toNat
/-- Unit of line l in K-group g, and its header. -/
def resvUnit (g l : Nat) : Nat := 64 * g + l
def Resv.header (r : Resv) (x : Team) (g l : Nat) : Nat :=
  r.byte x (r.hoff + 2 * resvUnit g l) + 256 * r.byte x (r.hoff + 2 * resvUnit g l + 1)
/-- The code of element t of a unit. -/
def Resv.code (r : Resv) (x : Team) (g l t : Nat) : Nat :=
  let o := r.db0 + resvUnit g l * r.unitBytes
  if r.w = 16 then r.byte x (o + 2 * t) + 256 * r.byte x (o + 2 * t + 1) else blockCode r.w (fun b => r.byte x (o + b)) t
def Resv.level (r : Resv) (x : Team) (m c : Nat) : Nat := r.byte x (256 * m + c)
/-- The value of element t of line l in K-group g (R277). -/
def Resv.value (r : Resv) (x : Team) (g l t : Nat) : FVal :=
  let c := r.code x g l t
  match r.fk with
  | 0 => (fmtT .f16).read c
  | 1 => (fmtT .bf16).read c
  | _ => if r.block then blockElem r.w (r.header x g l) (r.level x) c else ofInt (signedN r.w c)

/-- OBRES (R269). -/
def execObres (c : Ctl) (o : Nat) (a : Src) (s : State) : Host.Outcome State Fault Refusal :=
  issue (.obres c o a) s fun x =>
    let v := BitVec.ofNat 64 (2 ^ 63 + x.rdU 1 .zx a)
    let r := resvOf v
    let ok := decide (1024 ≤ r.size) && decide (r.base + r.size ≤ x.tm.obufSize)
      && (if r.block then decide (r.nlt ≤ 4) && decide (256 * r.nlt ≤ r.hoff) && decide (r.hoff < r.size) else r.nlt == 0 && r.hoff == 0)
    if ok then { s := x.withTeam { x.tm with obres := x.tm.obres.set o v } } else resFault x .illegalOp
/-- OBREL (R269). -/
def execObrel (c : Ctl) (o : Nat) (s : State) : Host.Outcome State Fault Refusal :=
  issue (.obrel c o) s fun x =>
    { s := x.withTeam { x.tm with obres := x.tm.obres.set o ((x.tm.obres.get o) &&& 0x7FFFFFFFFFFFFFFF#64) } }

/-! ## Filling the operand buffer (R271) -/

def obldRun (o : Nat) (src : Range) (bar : Nat) (x : Ctx) : Res :=
  let r := resvOf (x.tm.obres.get o)
  if !r.valid then resFault x .illegalOp else copyRun { spc := .obuf, base := r.base } src r.size bar x
/-- OBLD_G. -/
def execObldG (c : Ctl) (o : Nat) (a : Src) (bar : BitVec 18) (s : State) : Host.Outcome State Fault Refusal :=
  issue (.obldG c o a bar) s fun x => obldRun o (srcG x a) bar.toNat x
/-- OBLD_TM. -/
def execObldTm (c : Ctl) (o : Nat) (a : Src) (bar : BitVec 18) (s : State) : Host.Outcome State Fault Refusal :=
  issue (.obldTm c o a bar) s fun x => obldRun o (srcT x a) bar.toNat x

/-! ## Fragment loads (R273, R274) -/

/-- The row addresses, fragment by fragment: from the lanes of an affine base, or from a uniform base and pitch. -/
def fragRows (x : Ctx) (un : Bool) (f : Nat) (pitch off : Nat) (a : Src) : List Nat :=
  (List.range f).flatMap fun k => (List.range 8).map fun r =>
    if un then x.rdU 1 .zx a + off + 16 * k + 16 * pitch * r else (x.rdA .zx a).value (8 * k + r) + off
def fragRun (fl : Flg) (un tr : Bool) (cnt : Cnt) (pitch : BitVec 12) (off : BitVec 18) (d : Dst) (a : Src) (x : Ctx) : Res :=
  let rows := fragRows x un cnt.num pitch.toNat off.toNat a
  if rows.any fun t => t % 16 != 0 then resFault x .memAlign
  else if rows.any fun t => decide (x.tm.tmemSize < t + 16) then resFault x .memXlate
  else { s := x.fly x.s (x.mkOp fl false false (dstRun d false cnt.num)
           (rows.map fun t => { lane := lowestLane x.e, addr := t, mask := lowMask 16 }) (.frag tr cnt.num)) }
/-- LDFRAG. -/
def execLdfrag (c : Ctl) (fl : Flg) (un tr : Bool) (cnt : Cnt) (pitch : BitVec 12) (off : BitVec 18) (d : Dst) (a : Src) (s : State) :
    Host.Outcome State Fault Refusal :=
  issue (.ldfrag c fl un tr cnt pitch off d a) s (fragRun fl un tr cnt pitch off d a)

/-! ## Tiles (R264-R266) -/

def Team.elem (x : Team) (n i j : Nat) : Dword := x.tile.get (tileKey n i j)
def xsOvf (w : Word) : Bool := w.getLsbD 31
def xsInt (w : Word) : Bool := w.getLsbD 30
def xsFixed (w : Word) : Bool := w.getLsbD 29
def xsNan (w : Word) : Nat := (w.extractLsb' 0 29).toNat
def xsWord (ovf int fixed : Bool) (nan : Nat) : Word :=
  BitVec.ofNat 32 ((if ovf then 2 ^ 31 else 0) + (if int then 2 ^ 30 else 0) + (if fixed then 2 ^ 29 else 0) + min nan (2 ^ 29 - 1))

/-- The status word's FIXED and IMODE as the operations issued earlier will leave them (R276). -/
def State.tileMode (s : State) (t n : Nat) (x : Team) : Bool × Bool :=
  (s.tileOps t n s.stamp).foldl (fun m o => match o.kind with
    | .mma int .. => if m.1 then m else (true, int)
    | .xzero _ => (false, false)
    | _ => m) (xsFixed (x.xstat.get n), xsInt (x.xstat.get n))

/-! ## Multiply-accumulate (R275-R282) -/

/-- The units and headers that an operand reads end within the reservation, and do not overlap (R276). -/
def operandOk (r : Resv) (g0 n : Nat) : Bool :=
  let u0 := 64 * g0
  let u1 := 64 * (g0 + n)
  decide (r.db0 + u1 * r.unitBytes ≤ r.size)
  && (!r.block || (decide (r.hoff + 2 * u1 ≤ r.size)
    && (decide (256 * r.nlt ≤ r.hoff + 2 * u0))
    && (decide (r.hoff + 2 * u1 ≤ r.db0 + u0 * r.unitBytes) || decide (r.db0 + u1 * r.unitBytes ≤ r.hoff + 2 * u0))))

def mmaRun (fl : Flg) (int : Bool) (k : BitVec 2) (nz : Bool) (ga gb : BitVec 8) (xd oa ob : Nat) (x : Ctx) : Res :=
  let va := x.tm.obres.get oa
  let vb := x.tm.obres.get ob
  let a := resvOf va
  let b := resvOf vb
  let n := 2 ^ k.toNat
  let (fixed, im) := x.s.tileMode x.cur.team xd x.tm
  let kinds := fun (r : Resv) => if int then decide (5 ≤ r.fk) else decide (r.fk ≤ 4)
  if a.valid && b.valid && kinds a && kinds b && operandOk a ga.toNat n && operandOk b gb.toNat n && (!fixed || im == int) then
    { s := x.fly x.s (x.mkOp fl false false none x.marks (.mma int nz n ga.toNat gb.toNat xd va vb)) }
  else resFault x .illegalOp
/-- MMA (R275). -/
def execMma (c : Ctl) (fl : Flg) (int : Bool) (k : BitVec 2) (nz : Bool) (ga gb : BitVec 8) (xd oa ob : Nat) (s : State) :
    Host.Outcome State Fault Refusal :=
  issue (.mma c fl int k nz ga gb xd oa ob) s (mmaRun fl int k nz ga gb xd oa ob)

/-- The first malformed header: lowest K-group, A before B, lowest line; its offset in the operand buffer (R282). -/
def badHeader (x : Team) (a b : Resv) (ga gb n : Nat) : Option Nat :=
  (List.range n).findSome? fun g => [(a, ga + g), (b, gb + g)].findSome? fun p =>
    if !p.1.block then none
    else (List.range 64).findSome? fun l =>
      if malformed p.1.w p.1.nlt (p.1.header x p.2 l) then some (p.1.base + p.1.hoff + 2 * resvUnit p.2 l) else none

/-- The 32 elements of a line in a K-group; in zero-count mode a NaN is taken as +0 (R279). -/
def lineVals (x : Team) (nz : Bool) (r : Resv) (g l : Nat) : List FVal :=
  (List.range 32).map fun t => let v := r.value x g l t; if nz && v.isNaN then .num false 0 0 false else v
/-- NaN elements that an operand holds in the K-groups read. -/
def nanCount (x : Team) (r : Resv) (g0 n : Nat) : Nat :=
  ((List.range n).map fun g => ((List.range 64).map fun l => ((lineVals x false r (g0 + g) l).filter FVal.isNaN).length).sum).sum

/-- One group's accumulation into a binary64 element (R278): one rounding; NaN results per R278 and R279. -/
def accF (nz : Bool) (old : Dword) (as bs : List FVal) : Dword × Nat :=
  let f := fmtT .f64
  let o := f.read old.toNat
  let ps := (as.zip bs).map fun p => if p.1.isNaN || p.2.isNaN then ({ v := .dnan } : XRes) else mulVal p.1 p.2
  let r := if o.isNaN || ps.any fun p => p.v.isNaN then FVal.dnan else (sumVal .rne (o :: ps.map (·.v))).v
  if r.isNaN then
    if nz then (0#64, 1)
    else if o.isNaN then (old, 0)
    else (BitVec.ofNat 64 (f.write .rne false r).v, 0)
  else (BitVec.ofNat 64 (f.write .rne false r).v, 0)
/-- One group's accumulation into an int64 element, with overflow (R280). -/
def accI (old : Dword) (as bs : List FVal) : Dword × Bool :=
  let t := old.toInt + (((as.zip bs).map fun p => scaled 0 p.1 * scaled 0 p.2).foldl (· + ·) 0)
  (BitVec.ofInt 64 t, decide (t < -2 ^ 63) || decide (2 ^ 63 ≤ t))

/-- One K-group added into a tile and its status word. -/
def accGroup (int nz : Bool) (n : Nat) (a b : Resv) (ga gb : Nat) (x : Team) (g : Nat) : Team :=
  let la := (List.range 64).map fun i => lineVals x nz a (ga + g) i
  let lb := (List.range 64).map fun j => lineVals x nz b (gb + g) j
  let w := x.xstat.get n
  let step := fun (r : SMap Dword × Bool × Nat) (p : Nat × Nat) =>
    let old := x.elem n p.1 p.2
    let as := la.getD p.1 []
    let bs := lb.getD p.2 []
    if int then let (v, o) := accI old as bs; (r.1.set (tileKey n p.1 p.2) v, r.2.1 || o, r.2.2)
    else let (v, c) := accF nz old as bs; (r.1.set (tileKey n p.1 p.2) v, r.2.1, r.2.2 + c)
  let (tile, ovf, nan) := ((List.range 64).flatMap fun i => (List.range 64).map fun j => (i, j)).foldl step (x.tile, false, 0)
  { x with tile, xstat := x.xstat.set n (xsWord (xsOvf w || ovf) (xsInt w) (xsFixed w) (xsNan w + nan)) }

/-- The whole accumulation: IMODE is fixed, NaN operands counted once, K-groups in ascending order. -/
def Team.accumulate (x : Team) (int nz : Bool) (groups ga gb n : Nat) (a b : Resv) : Team :=
  let w := x.xstat.get n
  let cnt := if nz then nanCount x a ga groups + nanCount x b gb groups else 0
  let x := { x with xstat := x.xstat.set n (xsWord (xsOvf w) (if xsFixed w then xsInt w else int) true (xsNan w + cnt)) }
  (List.range groups).foldl (accGroup int nz n a b ga gb) x

/-! ## Metering a lease (R441) -/

/-- Adds to a 64-bit meter of a slice, named by its low half (DEDUCED, log 28). -/
def State.addMeter (s : State) (sl lo n : Nat) : State :=
  let v := (s.sreg sl lo).toNat + 2 ^ 32 * (s.sreg sl (lo + 1)).toNat + n
  (s.setSreg sl lo (BitVec.ofNat 32 v)).setSreg sl (lo + 1) (BitVec.ofNat 32 (v / 2 ^ 32))
/-- A matrix operation of a team has ended. Where the team's core holds a borrowed engine, either engine may have performed it: the
lent one adds its cycles to the meters of both slices. The choice is a free value, and so is a count of cycles that no rule gives (DESIGN CHOICE, log 5, DEDUCED, log 28). -/
def State.metered (s : State) (x : Team) (cycles : Option Nat) : State :=
  match s.leases.find? fun l => coreIdOf l.borrower == x.coreId with
  | none => s
  | some l =>
    let f := Config.freeValue s.fresh
    let n := match cycles with | some c => c * (f % 2) | none => f
    let s := ({ s with fresh := s.fresh + 1 } : State).addMeter x.slice 0x50C n
    match s.ownerOf l.lender with
    | some sl => s.addMeter sl 0x50E n
    | none => s
/-- The engine's rate on an operand, in multiply-accumulates a cycle (R268). -/
def Resv.rate (r : Resv) : Nat := match r.fk with | 0 | 1 => 2048 | 4 | 7 => 8192 | _ => 4096
/-- The cycles of a multiply-accumulate over groups of 32 (R281) (DEDUCED, log 28). -/
def mmaCycles (a b : Resv) (groups : Nat) : Nat := 4096 * (32 * groups) / min a.rate b.rate

/-- MMA_ACCUMULATE (R278, R282): every header is checked before anything is accumulated (DESIGN CHOICE, log 42). -/
def execMmaAccumulate (id : Nat) (s : State) : Host.Outcome State Fault Refusal :=
  eventOf "MMA_ACCUMULATE" do
    let o ← s.op? id
    let x ← s.team? o.team
    let g ← x.group? o.grp
    match o.kind with
    | .mma int nz groups ga gb n va vb =>
      if !(s.tileOps o.team n o.id).isEmpty then none
      else match badHeader x (resvOf va) (resvOf vb) ga gb groups with
        | some a => some ((s.dropOp o (o.items.map fun it => { o.late g it.lane it.ret FClass.selector.code a 0 0 0 with lo := 0 })).tileSettle.metered x none)
        | none => some (((s.setTeam o.team (x.accumulate int nz groups ga gb n (resvOf va) (resvOf vb))).endOp o).tileSettle.metered x
            (some (mmaCycles (resvOf va) (resvOf vb) groups)))
    | _ => none

/-! ## Draining (R283-R286) -/

/-- The pitch in force. -/
def drainPitch (kind : DrainKind) (db : Nat) (p : Nat) : Nat := if p = 0 then (match kind with | .q => 2 * db | _ => 512) else p
/-- The issue checks of R286 in their order, then the drain (DEDUCED, log 21). -/
def drainRun (fl : Flg) (kind : DrainKind) (fm : BitVec 2) (pitch : BitVec 20) (lt : Option (Nat × Nat)) (n : Nat) (b : Src) (x : Ctx) : Res :=
  let d0 := x.rdU 2 .zx b
  let p := pitch.toNat
  let fw := x.st.getFmt fm.toNat
  let db := match kind with | .q => blockBytes ((drainFmt fw).getD (8, 0)).1 | _ => 256
  let (fixed, im) := x.s.tileMode x.cur.team n x.tm
  let mode := !fixed || im == (kind == .i64)
  let ltOk := match lt with
    | none => true
    | some (o, k) => let r := resvOf (x.tm.obres.get o); r.valid && r.block && r.w == ((drainFmt fw).getD (0, 0)).1 && decide (k < r.nlt)
  let al := match kind with | .q => 4 | _ => 8
  let pp := drainPitch kind db p
  if !mode || (kind == .q && ((drainFmt fw).isNone || !ltOk)) || (p != 0 && decide (p < 2 * db)) then resFault x .illegalOp
  else if d0 % al != 0 || p % al != 0 then resFault x .memAlign
  else if 2 ^ 58 < d0 + (match kind with | .q => max (63 * pp + 2 * db) (64 * pp + 256) | _ => 63 * pp + 512) then resFault x .memXlate
  else
    let dbq := match kind with | .q => db | _ => 8
    let remote := (drainBlocks kind dbq d0 pp).any fun bl => x.s.namesPkg x.tm bl.1 || x.s.namesPkg x.tm (bl.1 + bl.2 - 1)
    let s := if remote then x.s.countCopy x.tm else x.s
    { s := x.fly s { x.mkOp fl false false none x.marks
        (.drain kind fw (lt.map fun q => (x.tm.obres.get q.1, q.2)) n d0 pp []) with ver := s.copyVer x.tm remote } }
/-- DRAIN_F64 (R284). -/
def execDrainF64 (c : Ctl) (fl : Flg) (pitch : BitVec 20) (n : Nat) (b : Src) (s : State) : Host.Outcome State Fault Refusal :=
  issue (.drainF64 c fl pitch n b) s (drainRun fl .f64 0#2 pitch none n b)
/-- DRAIN_I64 (R284). -/
def execDrainI64 (c : Ctl) (fl : Flg) (pitch : BitVec 20) (n : Nat) (b : Src) (s : State) : Host.Outcome State Fault Refusal :=
  issue (.drainI64 c fl pitch n b) s (drainRun fl .i64 0#2 pitch none n b)
/-- DRAIN_Q (R285). -/
def execDrainQ (c : Ctl) (fl : Flg) (fm : BitVec 2) (pitch : BitVec 20) (ltv : Bool) (obn : BitVec 4) (ltn : BitVec 2) (n : Nat) (b : Src)
    (s : State) : Host.Outcome State Fault Refusal :=
  issue (.drainQ c fl fm pitch ltv obn ltn n b) s
    (drainRun fl .q fm pitch (if ltv then some (obn.toNat, ltn.toNat) else none) n b)

/-- What a drain writes: addresses with bytes (R284, R285). -/
def drainData (x : Team) (kind : DrainKind) (fw : Word) (lt : Option (Dword × Nat)) (n base pitch : Nat) : List (Nat × Byte) :=
  let at' := fun (a len v : Nat) => (leBytes v len).zipIdx.map fun p => (a + p.2, p.1)
  match kind with
  | .q =>
    let (w, var) := (drainFmt fw).getD (8, 0)
    let db := blockBytes w
    let levels := lt.map fun q => (q.2, (List.range (2 ^ w)).map fun c => (resvOf q.1).level x q.2 c)
    (List.range 128).flatMap fun k =>
      let i := k / 2
      let h := k % 2
      let (hd, cs) := quantise w var levels ((List.range 32).map fun t => (fmtT .f64).read (x.elem n i (32 * h + t)).toNat)
      at' (base + i * pitch + h * db) db (blockData w cs) ++ at' (base + 64 * pitch + 4 * i + 2 * h) 2 hd
  | _ => (List.range 4096).flatMap fun k => at' (base + k / 64 * pitch + 8 * (k % 64)) 8 (x.elem n (k / 64) (k % 64)).toNat

/-- DRAIN_COMPLETION (R286): the bytes enter co(x) as stores of the group, in its order at this moment; those of lost blocks are poisoned (R463). -/
def execDrainCompletion (id : Nat) (s : State) : Host.Outcome State Fault Refusal :=
  eventOf "DRAIN_COMPLETION" do
    let o ← s.op? id
    let x ← s.team? o.team
    match o.kind with
    | .drain kind fw lt n base pitch pgs =>
      let bs := drainData x kind fw lt n base pitch
      let lost := fun (p : Nat × Byte) => o.lost.contains (p.1 / 256)
      if !o.chk || !(s.tileOps o.team n o.id).isEmpty || s.chanHeld ((bs.filter fun p => !lost p).map fun p => blockByte pgs p.1) then none
      else
        let w := { o with id := s.stamp }
        let s := bs.foldl (fun s p =>
          let pa := blockByte pgs p.1
          if lost p then (s.opStore w pa 0#8).nextPos.poisonAt x o pa p.1 else (s.opStore w pa p.2).nextPos) s
        some ((({ s with stamp := s.stamp + 1 } : State).endOp o).tileSettle.metered x none)
    | _ => none

/-! ## Tiles and lanes (R287, R288) -/

/-- An operation on a tile that needs no engine time: it waits behind the tile's earlier operations, if any. -/
def tileRun (x : Ctx) (items : List Item) (kind : OpKind) : Res :=
  let o := { x.mkOp .none false true none items kind with flag := none }
  { s := ({ x.s with ops := x.s.ops ++ [o] } : State).tileSettle }
/-- XZERO. -/
def execXzero (c : Ctl) (n : Nat) (s : State) : Host.Outcome State Fault Refusal := issue (.xzero c n) s fun x => tileRun x [] (.xzero n)
/-- XSTAT_NAN: nothing is left in flight on the tile (`tileHeld`). -/
def execXstatNan (c : Ctl) (d : Dst) (n : Nat) (s : State) : Host.Outcome State Fault Refusal :=
  issue (.xstatNan c d n) s fun x => resU x 1 d (xsNan (x.tm.xstat.get n))
/-- XSTAT_OVF. -/
def execXstatOvf (c : Ctl) (d : Dst) (n : Nat) (s : State) : Host.Outcome State Fault Refusal :=
  issue (.xstatOvf c d n) s fun x => resU x 1 d (if xsOvf (x.tm.xstat.get n) then 1 else 0)
/-- XGET. -/
def execXget (c : Ctl) (fl : Flg) (d : Dst) (n : Nat) (b : Src) (s : State) : Host.Outcome State Fault Refusal :=
  issue (.xget c fl d n b) s fun x =>
    let r := x.rdU 1 .zx b
    if 128 ≤ r then resFault x .illegalOp
    else { s := x.fly x.s (x.mkOp fl false true (dstRun d false 2) x.marks (.xget n r)) }
/-- XPUT: the registers are read at issue. -/
def execXput (c : Ctl) (n : Nat) (a b : Src) (s : State) : Host.Outcome State Fault Refusal :=
  issue (.xput c n a b) s fun x =>
    let r := x.rdU 1 .zx b
    if 128 ≤ r then resFault x .illegalOp
    else tileRun x ((laneList x.e).map fun l => x.item l 0 0 (x.rdV 2 .zx a l)) (.xput n r)

/-- An `xget` whose turn has come: the half-row goes to its lanes (R288) (DEDUCED, log 19). -/
def State.xgetDone (s : State) (o : Op) (x : Team) (n row : Nat) : Option State :=
  if !(s.tileOps o.team n o.id).isEmpty then none
  else
    let s := o.items.foldl (fun s it =>
      let v := (x.elem n (row % 64) (32 * (row / 64) + it.lane)).toNat
      s.writeDst o it.lane [v % 2 ^ 32, v / 2 ^ 32]) s
    some ((s.endOp o).tileSettle.metered x none)

/-! ## Completion of loads -/

/-- LOAD_COMPLETION (R233, R235): `asOf` chooses the stores read, packed as lags behind the latest store.
Fragment loads and `xget` complete here too (R274, R288) (DEDUCED, log 12, DEDUCED, log 19). -/
def execLoadCompletion (id asOf : Nat) (s : State) : Host.Outcome State Fault Refusal :=
  eventOf "LOAD_COMPLETION" do
    let o ← s.op? id
    let x ← s.team? o.team
    match o.kind with
    | .load const ty cnt =>
      if !o.chk || s.loadWaits o || o.items.any s.itemPoisoned then none
      else
        let rs ← o.items.mapM fun it => (s.loadItem o const x.launchSeq asOf it).map fun r => (it, r)
        let s := rs.foldl (fun s p => s.writeDst o p.1.lane (runWords ty cnt.num p.2.1)) s
        let s := if const then s else (rs.flatMap fun p => p.2.2).foldl (fun s p => s.seen o.team o.grp o.id p.1 p.2.1 p.2.2.1 p.2.2.2) s
        some (s.endOp o)
    | .tload ty cnt =>
      if s.teamWaits o then none
      else
        let s := s.performTeam o
        let o ← s.op? id
        some ((o.items.foldl (fun s it => s.writeDst o it.lane (runWords ty cnt.num it.res)) s).endOp o)
    | .frag tr f =>
      if s.teamWaits o then none
      else
        let s := s.performTeam o
        let o ← s.op? id
        let el := fun (k r c : Nat) => ((o.items[8 * k + r]?).map (·.res)).getD 0 / 2 ^ (16 * c) % 65536
        let val := fun (k l : Nat) =>
          let q := l / 4
          let c := 2 * (l % 4)
          if tr then el k c q + 65536 * el k (c + 1) q else el k q c + 65536 * el k q (c + 1)
        some (((laneList o.lanes).foldl (fun s l => s.writeDst o l ((List.range f).map fun k => val k l)) s).endOp o)
    | .xget n row => s.xgetDone o x n row
    | _ => none

end Sys2Proof.Machine
end

