-- ==== Sys2Proof/Machine/Fabric.lean ====
section
/-!
DEFINITION. The fabric (spec/20 R457-R473): ports, guard tags, requests of other packages, lost requests, collectives, forwarding.
-/
namespace Sys2Proof.Machine

/-! ## Ports (R457, R458, R473) -/

/-- FLIT_CRC_FAIL: the flit is sent again; no result changes (DESIGN CHOICE, log 44). -/
def execFlitCrcFail (_port : Nat) (s : State) : Host.Outcome State Fault Refusal := .next s
def portWord (up : Bool) (lanes peer : Nat) : Word := BitVec.ofNat 32 ((if up then 2 ^ 31 else 0) + lanes % 8 * 2 ^ 28 + peer % 256 * 2 ^ 8)
/-- PORT_LANE_LOSS. -/
def execPortLaneLoss (port lanes : Nat) (s : State) : Host.Outcome State Fault Refusal :=
  eventOf "PORT_LANE_LOSS" (if 16 ≤ port || 4 < lanes then none
    else some (s.setPkg (0x710 + port) ((s.pkg (0x710 + port) &&& 0x8000FF00#32) ||| BitVec.ofNat 32 (lanes * 2 ^ 28))))
/-- PORT_UP_CHANGE: a port trains or goes down; which packages are reached follows from the routes (R458). -/
def execPortUpChange (port : Nat) (up : Bool) (lanes peer : Nat) (s : State) : Host.Outcome State Fault Refusal :=
  eventOf "PORT_UP_CHANGE" (if 16 ≤ port || 4 < lanes || 256 ≤ peer then none
    else
      let was := (s.pkg (0x710 + port)).getLsbD 31
      let s := s.setPkg (0x710 + port) (portWord up lanes peer)
      some (if was != up then s.signal 192 6 else s))

/-! ## Guard tags (R464) -/

/-- One bit of CRC-32C, reflected. -/
def crcBit (c : Nat) : Nat := if c % 2 = 1 then c / 2 ^^^ 0x82F63B78 else c / 2
def crcByte (c b : Nat) : Nat := (List.range 8).foldl (fun c _ => crcBit c) (c ^^^ b)
/-- CRC-32C of the 256 bytes of a block, disabled bytes as zero. -/
def blockCrc (mask data : Nat) : Nat :=
  (List.range 256).foldl (fun c k => crcByte c (if mask.testBit k then data / 2 ^ (8 * k) % 256 else 0)) 0xFFFFFFFF ^^^ 0xFFFFFFFF
def guardTag (ver dom mask data : Nat) : Nat := ver % 2 ^ 12 * 2 ^ 52 + dom / 256 % 2 ^ 20 * 2 ^ 32 + blockCrc mask data
/-- This package's domain address of a local one. -/
def State.domainOf (s : State) (pa : Nat) : Nat := 2 ^ 51 + (s.pkg 0x700).toNat % 256 * 2 ^ 40 + pa

/-- DOM_STAT.GUARD or LOST rises (R463, R466). -/
def State.countDom (s : State) (guard : Bool) : State :=
  let v := (s.pkg 0x705).toNat
  (s.setPkg 0x705 (BitVec.ofNat 32 (if guard then (v / 65536 + 1) % 65536 * 65536 + v % 65536 else v / 65536 * 65536 + (v % 65536 + 1) % 65536))).signal 192 5

/-! ## Requests of other packages (R460, R462, R466, R471) -/

/-- An export entry admits a request. -/
def State.exportAdmits (s : State) (r : Request) (need e : Nat) : Bool :=
  let base := recFld e 0 8
  let size := recFld e 8 8
  let dst := recFld e 0x12 1
  let perm := recFld e 0x13 1
  perm.testBit 7 && perm / 4 % 32 == 0 && recFld e 0x14 12 == 0 && recFld e 0x10 1 == r.pkg && recFld e 0x11 1 == r.slice && perm &&& need == need
  && ((List.range 256).all fun k => !r.mask.testBit k || (decide (base ≤ r.addr + k) && decide (r.addr + k < base + size)))
  && decide (0 < size) && decide (base + size ≤ 192 * 2 ^ 30)
  && (List.range ((base + size - 1) / 2 ^ 30 - base / 2 ^ 30 + 1)).all fun k => s.ownsChan dst (base / 2 ^ 30 + k)
/-- Some entry of the export table does. -/
def State.exported (s : State) (r : Request) (need : Nat) : Bool :=
  let tbl := (s.pkg 0x702).toNat + 2 ^ 32 * (s.pkg 0x703).toNat
  (List.range (min 4096 (s.pkg 0x704).toNat)).any fun k => match s.vread (devSpace 192 0 0) (tbl + 32 * k) 32 with
    | .ok e => s.exportAdmits r need e
    | .error _ => false
def reqNeed : ReqKind → Nat | .load => 1 | .store | .copied => 2 | .atomic .. => 3
/-- A request arrives: the export table is judged now (R460). While DOM_CTL.EN is 0 it is lost to its requester (R463, R471). -/
def State.arrive (s : State) (r : Request) : State :=
  if !(s.pkg 0x701).getLsbD 31 then s else
  { s with requests := s.requests ++ [{ r with adm := s.exported { r with adm := false } (reqNeed r.kind) }] }
/-- The request touches a channel of a slice of this package for which `p` holds. -/
def State.reqOn (s : State) (r : Request) (p : Nat → Bool) : Bool :=
  (List.range 192).any fun sl => p sl && (s.slices.get sl).chans.contains (r.addr / 2 ^ 30)
/-- A slice under reset holds every access to its channels (R471); a frozen one all but those of the PF (R444). -/
def State.reqReset (s : State) (r : Request) : Bool := s.reqOn r fun sl => (s.sreg sl 0x502).getLsbD 1
def State.reqFrozen (s : State) (r : Request) : Bool := r.slice != 192 && s.reqOn r fun sl => (s.sreg sl 0x501).getLsbD 1
def State.reply (s : State) (r : Request) (status data tag : Nat) : State :=
  { s with requests := s.requests.filter fun k => k.id != r.id, replies := s.replies ++ [{ id := r.id, status, data, tag }] }
/-- The agent of a group on another package. -/
def farAgent (pkg slice : Nat) : Nat := 2 ^ 52 + 256 * pkg + slice
/-- The enabled bytes of a block. -/
def State.blockRead (s : State) (addr mask : Nat) : Nat :=
  (List.range 256).foldl (fun v k => if mask.testBit k then v + (s.byte (addr + k)).toNat * 2 ^ (8 * k) else v) 0
/-- The enabled bytes of each aligned 8 bytes are one single-copy atomic store (R217, R462) (DEDUCED, log 12). -/
def State.blockWrite (s : State) (agent addr mask data : Nat) : State :=
  (List.range 32).foldl (fun s n => match ((List.range 8).map (· + 8 * n)).filter mask.testBit with
    | [] => s
    | ks => s.storeRun agent (storeStamp s.stamp) (ks.map fun k => (addr + k, BitVec.ofNat 8 (data / 2 ^ (8 * k))))) s
/-- The enabled bytes of a block that failed its guard check: 0, and poisoned where the table has room (R450, R466). -/
def State.blockPoison (s : State) (agent addr mask : Nat) : State :=
  (List.range 256).foldl (fun s k => if mask.testBit k then
    (s.storeByte agent (storeStamp s.stamp) (addr + k) 0#8).setPoison (addr + k) (1#32 <<< ((addr + k) % 32)) else s) s
/-- An admitted request is performed. -/
def State.performReq (s : State) (r : Request) : State :=
  let ag := farAgent r.pkg r.slice
  let k0 := ((List.range 256).find? r.mask.testBit).getD 0
  let send := fun (s : State) data => s.reply r 0 data (guardTag r.ver (r.dst.getD (s.domainOf r.addr)) r.mask data)
  match r.kind with
  | .load => if (List.range 256).any fun k => r.mask.testBit k && s.poisoned (r.addr + k) then s.reply r 3 0 0 else send s (s.blockRead r.addr r.mask)
  | .store | .copied => (s.blockWrite ag r.addr r.mask r.data).reply r 0 0 0
  | .atomic op w64 =>
    if (List.range 256).any fun k => r.mask.testBit k && s.poisoned (r.addr + k) then s.reply r 3 0 0
    else
      let n := if w64 then 8 else 4
      let old := s.readLE (r.addr + k0) n
      let s' := match atomNew op w64 (atomFAdd w64) old (r.data / 2 ^ (8 * k0)) r.cmp with
        | some v => s.blockWrite ag r.addr r.mask (v * 2 ^ (8 * k0))
        | none => s
      send s' (old * 2 ^ (8 * k0))
/-- The owner's memory controller checks the guard tag of a store or atomic, and of a copying engine's block with the version that its request names
(R466) (DEDUCED, log 38). -/
def Request.guardOk (r : Request) (dom : Nat) : Bool :=
  match r.kind with
  | .load => true
  | .copied => r.tag == guardTag r.ver dom r.mask r.data
  | _ => r.tag == guardTag 0 dom r.mask r.data
/-- REMOTE_REQUEST (R460): refused, held, sent back to its requester, or performed; one that fails its guard check leaves poison and has no reply
(DEDUCED, log 38). -/
def execRemoteRequest (id : Nat) (s : State) : Host.Outcome State Fault Refusal :=
  eventOf "REMOTE_REQUEST" do
    let r ← s.requests.find? fun r => r.id == id
    let dom := s.domainOf r.addr
    if !(s.pkg 0x701).getLsbD 31 || r.addr % 256 != 0 then none
    else if !r.adm then some (s.reply r 1 0 0)
    else if s.reqReset r || s.chanHeld [r.addr] then none
    else if s.reqFrozen r then
      if s.fwd.any fun f => decide (f.1 ≤ dom) && decide (dom < f.1 + f.2.1) then some (s.reply r 2 0 0) else none
    else if !r.guardOk dom then
      some { (s.countDom true).blockPoison (farAgent r.pkg r.slice) r.addr r.mask with requests := s.requests.filter fun k => k.id != r.id }
    else some (s.performReq r)

/-! ## Slices of other packages as agents (R462) -/

/-- Where such an agent runs: its slice's number is no slice of this package, so that only `.dom` reaches it. -/
def farPlace (pkg slice : Nat) : Place := { slice := 256 * (pkg + 1) + slice, die := 4 }
/-- Its store to memory of another package, as the owner performs it. -/
def State.farStore (s : State) (pkg slice addr mask data : Nat) : Option State :=
  if isRemote addr && addr % 256 == 0 && pkg != (s.pkg 0x700).toNat % 256 then some (s.blockWrite (farAgent pkg slice) addr mask data) else none
/-- Its publication at `.dom`, of the stores that their owners have performed. -/
def State.farPublish (s : State) (pkg slice : Nat) : Option State :=
  if pkg = (s.pkg 0x700).toNat % 256 then none
  else some { s.publishAs (farPlace pkg slice) (farAgent pkg slice) .dom .plain (s.storesOf (farAgent pkg slice)) with stamp := s.stamp + 1 }

/-! ## Lost requests (R463, R466) -/

/-- The physical addresses of an item, as found at its check or as its pages are translated now. -/
def State.itemPas (s : State) (x : Team) (o : Op) (it : Item) : List Nat :=
  if it.pa.isEmpty then match s.xlatItem x o.needs it with | .ok ps => ps | .error _ => [] else it.pa
/-- DESIGN CHOICE, log 23. -/
def State.itemRemote (s : State) (x : Team) (o : Op) (it : Item) : Bool := (s.itemPas x o it).any isRemote
/-- A byte of a range is remote. -/
def rangeByte (r : Range) (pgs : List Nat) (k : Nat) : Bool := r.spc == .glob && isRemote (pageByte r.base pgs k)
/-- A free bit, and the counter after it (DESIGN CHOICE, log 5). -/
def State.freeBits (s : State) : Nat × State := (Config.freeValue s.fresh, { s with fresh := s.fresh + 1 })
/-- The poison record of a lost store or reduction. -/
def State.lostRecord (s : State) (x : Team) (o : Op) (it : Item) : State := s.poisonRecord x o it.addr (if o.uni then o.lanes else 1#32 <<< it.lane)

/-- One lost item: a load or atomic ends as poison, a store or reduction as a record; what the owner performed is open. -/
def State.loseItem (s : State) (x : Team) (o : Op) (it : Item) : State :=
  let (b, s) := s.freeBits
  let it' := { it with pa := s.itemPas x o it }
  let ls := if o.uni then laneList o.lanes else [it.lane]
  let poison := fun (s : State) =>
    ls.foldl (fun s l => s.markPoison x o l it.ret it.addr) (s.writeLive x o it.lane ls (List.replicate ((o.dst.map (·.k)).getD 0) 0))
  match o.kind with
  | .atomic op w64 _ _ ret =>
    let t := s.atomicItem o op w64 false it'
    let s := if b % 2 = 1 then { s with mem := t.mem, poison := t.poison, co := t.co, coNext := t.coNext } else s
    if ret then poison s else s.lostRecord x o it
  | .store =>
    let keep := it'.bytes.filter fun p => b.testBit p.1
    let s := if o.chk then s else keep.foldl (fun s p => s.opStore o p.2 (BitVec.ofNat 8 (it.data / 2 ^ (8 * p.1)))) s
    s.lostRecord x o it
  | _ => poison s
/-- The bytes of a copy in its destination's n-th 256-byte block. -/
def blockRange (dst : Range) (len n : Nat) : List Nat := (List.range len).filter fun k => (dst.base + k) / 256 == dst.base / 256 + n
/-- A lost block of a copy: its bytes are poisoned, and counted. -/
def State.loseCopy (s : State) (x : Team) (o : Op) (dst src : Range) (len bar : Nat) (done : List (Nat × Nat)) (dpg spg ks : List Nat) : State :=
  let s := ks.foldl (fun s k => s.putCopy x o dst dpg k 0#8 true) s
  let view := if dst.spc = .glob then ks.foldl (fun (m : SMap Nat) k => let pa := pageByte dst.base dpg k; m.set pa (s.lastSeq pa)) [] else []
  let s := s.updTeam o.team fun x => x.countBytes bar ks.length view
  let done := ks.map (fun k => (k, 1)) ++ done
  if (done.map (·.2)).sum = len then s.endOp o else s.setOp { o with kind := .copy dst src len bar done dpg spg }
/-- The ranks that a collective still waits for. -/
def State.missingRanks (s : State) (c : Contrib) : List Nat :=
  (List.range c.members.length).filter fun r => !(s.contribs.any fun k => k.members == c.members && k.group == c.group && k.seq == c.seq && k.rank == r)
/-- One of them is lost to it. -/
def State.loseRank (s : State) (c : Contrib) (r : Nat) : State :=
  { s with contribs := s.contribs ++ [{ members := c.members, group := c.group, seq := c.seq, rank := r, form := c.form, lost := true }] }
/-- A 16 KiB page of an operation's team is remote, and its owner has not answered. -/
def State.pageWaits (s : State) (x : Team) (need : BitVec 4) (id page : Nat) : Bool :=
  (match s.teamXlat x need (page * 2 ^ 14) with | .ok pa => isRemote pa | .error _ => false) && (s.verdict id page).isNone
/-- The owners of some pages are asked no more: their requests are lost with all blocks on them. -/
def State.unaskPages (s : State) (id : Nat) (pages : List Nat) : State :=
  { s with verdicts := pages.foldl (fun m p => m.set (partKey id p) 1) s.verdicts }
/-- The address under which a page-wise asker names a byte: an operation that reads a descriptor, a unit's call, an instruction that tests a word, or
the device for a slice (DESIGN CHOICE, log 23). -/
def State.askerByte (s : State) (id va : Nat) : Option Nat :=
  match s.op? id with
  | some o => match o.kind with
    | .enq .. | .launch .. | .coll .. => if o.chk then none else (s.team? o.team).bind fun x => (s.teamXlat x needR va).toOption
    | _ => none
  | none => match s.call? id with
    | some c => (s.teamXlat c.space needR va).toOption
    | none =>
      if 2 ^ 61 ≤ id then some va
      else s.teams.findSome? fun p => if p.2.groups.any fun g => wordId (agentOf p.1 g.1) == id then (s.teamXlat p.2 needR va).toOption else none
/-- Its owner's answer for the page is out. -/
def State.pageAsked (s : State) (id page : Nat) : Bool := (s.askerByte id (page * 2 ^ 14)).any isRemote && (s.verdict id page).isNone
/-- It is lost, or a block of it failed its guard check (R463, R466). -/
def State.losePage (s : State) (id page : Nat) (guard : Bool) : State := { s.countDom guard with verdicts := s.verdicts.set (partKey id page) 3 }
def blocksOf (bs : List (Nat × Nat)) : List Nat := (bs.flatMap fun b => [b.1 / 256, (b.1 + b.2 - 1) / 256]).eraseDups

/-- One request of an operation to another package is lost, or its block fails the guard check: the lane's item; the destination block of a copy or
drain, and with it, while an owner is still to answer for a page of it, every block on that page; a rank of a collective (R463, R466) (DEDUCED, log 38). -/
def State.losePart (s : State) (id part : Nat) (guard : Bool) : Option State := do
  let o ← s.op? id
  let x ← s.team? o.team
  match o.kind with
  | .load .. | .store | .atomic .. =>
    let it ← o.items.find? fun it => it.lane == part && s.itemRemote x o it
    let s := (s.countDom guard).loseItem x o it
    let o := { o with items := o.items.filter fun k => k.lane != part }
    some (if o.items.isEmpty then s.endOp o else s.setOp o)
  | .copy dst src len bar done dpg spg =>
    let pages := fun (need : BitVec 4) (r : Range) (l : List Nat) =>
      if r.spc = .glob && !o.chk then (s.xlatPages x need r.base (pageCount r.base len)).toOption else some l
    let dpg ← pages needW dst dpg
    let spg ← pages needR src spg
    let open' := fun (k : Nat) => !done.any fun d => decide (d.1 ≤ k) && decide (k < d.1 + d.2)
    let ks := (blockRange dst len part).filter fun k => (rangeByte dst dpg k || rangeByte src spg k) && open' k
    let pageOf := fun (r : Range) (pg : List Nat) (k : Nat) =>
      if rangeByte r pg k && (s.verdict id ((r.base + k) / 2 ^ 14)).isNone then [(r.base + k) / 2 ^ 14] else ([] : List Nat)
    let asked := fun (k : Nat) => if o.chk then ([] : List Nat) else pageOf dst dpg k ++ pageOf src spg k
    let ps := (ks.flatMap asked).eraseDups
    let ks := if ps.isEmpty then ks else (List.range len).filter fun k => open' k && (asked k).any ps.contains
    if ks.isEmpty then none else some (((s.countDom guard).unaskPages id ps).loseCopy x o dst src len bar done dpg spg ks)
  | .drain kind fw _ _ base pitch pgs =>
    let bs := blocksOf (drainBlocks kind (drainDB kind fw) base pitch)
    if o.lost.contains part || !bs.contains part then none
    else if o.chk then
      if pgs.any fun p => p.1 == part / 64 && isRemote p.2 then some ((s.countDom guard).setOp { o with lost := part :: o.lost }) else none
    else if s.pageWaits x needW id (part / 64) then
      some (((s.countDom guard).unaskPages id [part / 64]).setOp { o with lost := (bs.filter fun b => b / 64 == part / 64) ++ o.lost })
    else none
  | .coll .. =>
    let c ← s.contribs.find? fun c => c.op == some id && !c.done
    if (s.missingRanks c).contains part then some ((s.countDom guard).loseRank c part) else none
  | _ => none
/-- REMOTE_TIMEOUT (R463): of a page that is asked for, or of an operation's part (DESIGN CHOICE, log 23). -/
def execRemoteTimeout (key : Nat) (s : State) : Host.Outcome State Fault Refusal :=
  eventOf "REMOTE_TIMEOUT" (
    if s.pageAsked (keyId key) (keyPart key) then some (s.losePage (keyId key) (keyPart key) false)
    else s.losePart (keyId key) (keyPart key) false)
/-- The parts of a checked operation whose requests are lost, since their package can no longer be reached; of a collective, the ranks on it. -/
def State.goneParts (s : State) (o : Op) : List Nat :=
  if !o.chk then [] else match o.kind with
  | .load .. | .store | .atomic .. => (o.items.filter fun it => it.pa.any s.gone).map (·.lane)
  | .copy dst src len _ done dpg spg =>
    if (dpg ++ spg).any s.gone then
      (List.range ((dst.base + len - 1) / 256 - dst.base / 256 + 1)).filter fun n => (blockRange dst len n).any fun k =>
        ((dst.spc == .glob && s.gone (pageByte dst.base dpg k)) || (src.spc == .glob && s.gone (pageByte src.base spg k)))
          && !done.any fun d => decide (d.1 ≤ k) && decide (k < d.1 + d.2)
    else []
  | .drain kind fw _ _ base pitch pgs =>
    if pgs.any fun p => s.gone p.2 then
      (blocksOf (drainBlocks kind (drainDB kind fw) base pitch)).filter fun b => !o.lost.contains b && s.gone (blockByte pgs (256 * b))
    else []
  | .coll .. => match s.contribs.find? fun c => c.op == some o.id && !c.done with
    | some c => (s.missingRanks c).filter fun r => let p := c.members.getD r 0 / 256; p != s.ownPkg && !s.reachable p
    | none => []
  | _ => []

/-! ## Sizes of a collective (R468) -/

/-- Element size of a TYPE. -/
def collElem (type : Nat) : Nat := if type = 3 || type = 4 || type = 5 || type = 7 then 8 else 4
def collSrcBytes (kind count e n : Nat) : Nat := if kind = 2 then n * count * e else count * e
def collDstBytes (kind count e n : Nat) : Nat := if kind = 1 then n * count * e else count * e

/-! ## Blocks that come over a link (R464, R466) -/

/-- The domain address of a byte. -/
def State.domainAt (s : State) (pa : Nat) : Nat := if isRemote pa then pa else s.domainOf pa
/-- The bytes of a block as a mask. -/
def blockMask (as : List Nat) : Nat := as.foldl (fun m a => m ||| 2 ^ (a % 256)) 0
/-- What the last consumer of a part of an operation expects beside its version: the destination's domain address, and the enabled bytes; a block
for team memory or a register bears its source's (DEDUCED, log 38). -/
def State.blockDue (s : State) (o : Op) (part : Nat) : Option (Nat × Nat) := do
  match o.kind with
  | .load .. | .atomic .. =>
    let it ← o.items.find? fun it => it.lane == part
    some (s.domainAt (it.pa.headD 0), blockMask it.pa)
  | .copy dst src len _ _ dpg spg =>
    let pas := (blockRange dst len part).map fun k => if dst.spc == .glob then pageByte dst.base dpg k else pageByte src.base spg k
    let a ← pas.head?
    some (s.domainAt a, blockMask pas)
  | .coll .. =>
    let x ← s.team? o.team
    let c ← s.contribs.find? fun c => c.op == some o.id
    let dst := c.form.getD 5 0
    let bytes := collDstBytes (c.form.getD 0 0) (c.form.getD 3 0) (collElem (c.form.getD 1 0)) c.members.length
    match s.teamXlat x needW (dst + 256 * part) with
    | .ok pa => some (s.domainAt pa, 2 ^ (min 256 (bytes - 256 * part)) - 1)
    | .error _ => none
  | _ => none
/-- The version that it expects: SEQ of a collective, the copy count of a copy, 0 of a load or atomic (R464, R465). -/
def State.verDue (s : State) (o : Op) : Nat :=
  match o.kind with
  | .coll .. => ((s.contribs.find? fun c => c.op == some o.id).map (·.seq)).getD 0
  | _ => o.ver
/-- A block arrives for an operation: one whose tag does not check is not used (R466); a collective's own rank notes it (R470). One of a page that is
asked for is a whole block, named by its address div 256. -/
def State.takeBlock (s : State) (id part data tag : Nat) : Option State := do
  if s.pageAsked id (part / 64) then
    let pa ← s.askerByte id (256 * part)
    if tag = guardTag 0 pa (2 ^ 256 - 1) data then none else some (s.losePage id (part / 64) true)
  else
  let o ← s.op? id
  if !o.chk then none
  let d ← s.blockDue o part
  if tag = guardTag (s.verDue o) d.1 d.2 data then none
  else match o.kind with
    | .coll .. => some { s.countDom true with contribs := s.contribs.map fun c => if c.op = some id then { c with bad := part :: c.bad } else c }
    | _ => s.losePart id part true

/-! ## Collectives (R467-R470) -/

/-- The issue of a collective: alignment and range, the `.dom` publication, the operation. -/
def collRun (kind : Nat) (fl : Flg) (d : Dst) (a : Src) (x : Ctx) : Res :=
  let va := x.rdU 2 .zx a
  if va % 64 != 0 then resFault x .memAlign
  else if 2 ^ 58 ≤ va then resFault x .memXlate
  else
    let s := (x.s.flushTeam x.cur.team x.cur.grp).publish x.cur.team x.cur.grp .dom .plain
    { s := x.fly s (x.mkOp fl true false (dstRun d true 1) x.marks (.coll kind va)) }
/-- COLL_ALLREDUCE. -/
def execCollAllreduce (c : Ctl) (fl : Flg) (d : Dst) (a : Src) (s : State) : Host.Outcome State Fault Refusal :=
  issue (.collAllreduce c fl d a) s (collRun 0 fl d a)
/-- COLL_ALLGATHER. -/
def execCollAllgather (c : Ctl) (fl : Flg) (d : Dst) (a : Src) (s : State) : Host.Outcome State Fault Refusal :=
  issue (.collAllgather c fl d a) s (collRun 1 fl d a)
/-- COLL_REDSCAT. -/
def execCollRedscat (c : Ctl) (fl : Flg) (d : Dst) (a : Src) (s : State) : Host.Outcome State Fault Refusal :=
  issue (.collRedscat c fl d a) s (collRun 2 fl d a)
/-- COLL_BCAST. -/
def execCollBcast (c : Ctl) (fl : Flg) (d : Dst) (a : Src) (s : State) : Host.Outcome State Fault Refusal :=
  issue (.collBcast c fl d a) s (collRun 3 fl d a)

/-- The descriptor is well formed for n ranks (R468). -/
def descOk (kind v n : Nat) : Bool :=
  let type := recFld v 0x14 1
  let op := recFld v 0x15 1
  let count := recFld v 0x10 4
  let e := collElem type
  let sb := collSrcBytes kind count e n
  let db := collDstBytes kind count e n
  recFld v 0 8 % 256 == 0 && recFld v 8 8 % 256 == 0 && decide (1 ≤ count) && decide (type ≤ 7) && decide (op ≤ 5)
  && (if op ≤ 2 then decide (type ≤ 5) else decide (6 ≤ type)) && !(op != 0 && (kind == 1 || kind == 3))
  && (if kind = 3 then decide (recFld v 0x18 2 < n) else recFld v 0x18 2 == 0) && recFld v 0x1A 2 == 0 && recFld v 0x20 32 == 0
  && decide (sb ≤ 2 ^ 28) && decide (db ≤ 2 ^ 28) && decide (recFld v 0 8 + sb ≤ 2 ^ 58) && decide (recFld v 8 8 + db ≤ 2 ^ 58)
/-- A collective ends with a status. -/
def State.collEnd (s : State) (o : Op) (status : Nat) : State := (s.writeDst o (lowestLane o.lanes) [status]).endOp o
/-- It meets poison: no part in any collective, S[d] unwritten, every lane marked (DEDUCED, log 22). -/
def State.collPoison (s : State) (o : Op) (x : Team) (addr : Nat) : State :=
  (o.items.foldl (fun s it => s.markPoison x o it.lane it.ret addr) s).endOp o

/-- The operation reads its descriptor and its SRC, and joins the call (R467, R470); a rank that the others have given up is lost to it too. -/
def State.collJoin (s : State) (id : Nat) : Option State := do
  let o ← s.op? id
  let x ← s.team? o.team
  let g ← x.group? o.grp
  match o.kind with
  | .coll kind va =>
    if o.chk || !s.checkTurn o then none
    else
      -- with the bytes of SRC and DST, once they are known (R258)
      let fail := fun (s : State) (e : Nat × XErr) (more : List (Nat × Nat)) =>
        if e.2.cls = .memPoison then s.collPoison o x e.1
        else s.dropOp o ((o.lateAll g e.2.cls.code e.1 e.2.detail).map fun f => { f with spans := f.spans ++ more })
      match ← s.opRead? o x va 64 with
      | .error e => some (fail s e [])
      | .ok (v, s) =>
        let grp := recFld v 0x16 2
        let me := (s.pkg 0x700).toNat % 256 * 256 + x.slice
        let ms := if grp < 4096 then s.collgrps.get (4096 * x.slice + grp) else []
        let rank := ms.idxOf me
        let seq := recFld v 0x1C 4
        let type := recFld v 0x14 1
        let count := recFld v 0x10 4
        let sb := collSrcBytes kind count (collElem type) ms.length
        let db := collDstBytes kind count (collElem type) ms.length
        if !ms.contains me then some (s.collEnd o 0x80000002)
        else if !descOk kind v ms.length || s.contribs.any fun c => c.members == ms && c.group == grp && c.seq == seq && c.rank == rank && c.op.isSome && !c.done then
          some (s.collEnd o 0x80000001)
        else
          let reads := kind != 3 || rank == recFld v 0x18 2
          let src ← if reads then s.opRead? o x (recFld v 0 8) sb else some (.ok (0, s))
          let dst ← s.checkRange x o needW (recFld v 8 8) db
          let more := (if reads then [(recFld v 0 8, sb)] else []) ++ [(recFld v 8 8, db)]
          match src, dst with
          | .error e, _ => some (fail s e more)
          | _, .error e => some (fail s e more)
          | .ok (data, s), .ok _ =>
            let pub := s.pubs.findIdx? fun p => p.agent == agentOf o.team o.grp && p.stamp == pubStamp o.id
            let c : Contrib := { members := ms, group := grp, seq, rank, form := [kind, type, recFld v 0x15 1, count, recFld v 0x18 2, recFld v 8 8], data,
                                 pub, op := some id }
            let mine := fun (k : Contrib) => k.members == ms && k.group == grp && k.seq == seq && k.rank == rank && k.op.isNone
            some ({ s with contribs := (s.contribs.filter fun k => !mine k) ++ [{ c with lost := s.contribs.any fun k => mine k && k.lost }] }.setOp { o with chk := true })
  | _ => none

/-- One reduced element of the rank values in rank order (R469). -/
def collReduce (type op : Nat) (vs : List Nat) : Nat :=
  let w := 8 * collElem type
  let mn := fun (lt : Nat → Nat → Bool) => (vs.drop 1).foldl (fun m v => if lt v m then v else m) (vs.headD 0)
  let slt := fun (a b : Nat) => decide (signedN w a < signedN w b)
  if type = 2 || type = 3 then
    (combineFloat (if type = 2 then .f32 else .f64) (match op with | 0 => .add | 1 => .min | _ => .max) vs).v
  else match op with
    | 0 => vs.sum % 2 ^ w
    | 1 => if type = 0 || type = 4 then mn slt else mn fun a b => decide (a < b)
    | 2 => if type = 0 || type = 4 then mn fun a b => slt b a else mn fun a b => decide (b < a)
    | 3 => vs.foldl (· &&& ·) (2 ^ w - 1)
    | 4 => vs.foldl (· ||| ·) 0
    | _ => vs.foldl (· ^^^ ·) 0
/-- DST of a rank from every rank's SRC (R468). -/
def collResult (form : List Nat) (rank : Nat) (data : List Nat) : Nat :=
  let f := fun k => form.getD k 0
  let e := collElem (f 1)
  let count := f 3
  let el := fun (d i : Nat) => d / 2 ^ (8 * e * i) % 2 ^ (8 * e)
  let red := fun (base : Nat) => (List.range count).foldl (fun v i => v + collReduce (f 1) (f 2) (data.map fun d => el d (base + i)) * 2 ^ (8 * e * i)) 0
  match f 0 with
  | 0 => red 0
  | 1 => data.zipIdx.foldl (fun v p => v + p.1 % 2 ^ (8 * e * count) * 2 ^ (8 * e * count * p.2)) 0
  | 2 => red (rank * count)
  | _ => data.getD (f 4) 0

/-- COLLECTIVE_COMPLETION (R470): every rank's part is in, or lost. Where ranks were lost, what they would have brought, and which bytes
of DST hold their old value, are open. -/
def execCollectiveCompletion (id : Nat) (s : State) : Host.Outcome State Fault Refusal :=
  eventOf "COLLECTIVE_COMPLETION" do
    let o ← s.op? id
    let x ← s.team? o.team
    let c ← s.contribs.find? fun c => c.op == some id && !c.done
    if s.readsOut o.team o.grp then none
    let same := s.contribs.filter fun k => k.members == c.members && k.group == c.group && k.seq == c.seq
    let parts ← (List.range c.members.length).mapM fun r => same.find? fun k => k.rank == r
    let head := fun (k : Contrib) => k.form.take 5
    let status := if parts.any fun k => !k.lost && head k != head c then 0x80000003
      else if parts.any (·.lost) then 0x80000004 else if parts.any fun k => !k.bad.isEmpty then 0x80000005 else 0
    let (miss, s) := s.freeBits
    let (keep, s) := s.freeBits
    let bytes := collDstBytes (c.form.getD 0 0) (c.form.getD 3 0) (collElem (c.form.getD 1 0)) c.members.length
    let r := collResult c.form c.rank (parts.map fun k => if k.lost then miss / 2 ^ (2 ^ 32 * k.rank) else k.data)
    let dst := c.form.getD 5 0
    let ag := engineAgent o.id
    let s := if status = 0x80000003 then s else
      (leBytes r bytes).zipIdx.foldl (fun (s : State) p =>
        match s.teamXlat x needW (dst + p.2) with
        | .error _ => s
        | .ok pa =>
          if parts.any fun k => k.bad.contains (p.2 / 256) then s.poisonByte x o pa (dst + p.2)
          else if status != 0 && keep.testBit p.2 then s else s.storeByte ag (storeStamp o.id) pa p.1) s
    let s := if status = 0 then
        (s.adopt o.team o.grp .dom (parts.filterMap (·.pub))).updGroup o.team o.grp fun g => { g with lb := joinView g.lb (s.storesOf ag) }
      else s
    let cs := s.contribs.map fun k => if k = c then { k with done := true } else k
    let mine := fun (k : Contrib) => k.members == c.members && k.group == c.group && k.seq == c.seq
    let ended := cs.all fun k => !mine k || k.op.isNone || k.done
    some ({ s with contribs := if ended then cs.filter fun k => !mine k else cs }.collEnd o status)

/-- COLLGRP (R470) (DEDUCED, log 38). -/
def execCollgrp (s : State) : Host.Outcome State Fault Refusal :=
  eventOf "COLLGRP" (s.cmdRow 192 0x15 [(0, 1), (2, 14)] fun n v =>
    let sl := recFld v 0 1
    let grp := recFld v 2 2
    let nr := recFld v 4 2
    let asid := recFld v 6 2
    let die := s.cpDie 192
    let asOk := match s.asTable 192 die asid with | .ok _ => true | .error _ => false
    match s.vread (devSpace 192 die asid) (recFld v 8 8) (2 * nr) with
    | .ok l =>
      if 192 < sl || 4096 ≤ grp || nr = 0 || 256 < nr || !asOk then some (s.refuseCmd 192 n v resBad)
      else some ({ s with collgrps := s.collgrps.set (4096 * sl + grp) ((List.range nr).map fun k => recFld l (2 * k) 2) }.doneCmd 192 n v 0)
    | .error _ => some (s.refuseCmd 192 n v resBad))

/-! ## Forwarding (R472) -/

def isDomain (a : Nat) : Bool := a / 2 ^ 51 == 1 && a / 2 ^ 48 % 8 == 0 && a / 2 ^ 38 % 4 == 0
/-- The place of a checked access after the forwarding entries: sent again to its new home (R472), which is local where it is this package. -/
def State.rehome (s : State) (pa : Nat) : Nat :=
  let a := s.forwarded pa
  if isRemote a && pkgOf a == s.ownPkg then a % 2 ^ 38 else a
/-- The same for what an operation in flight has still to perform. -/
def State.rehomeOp (s : State) (o : Op) : Op :=
  { o with
    items := o.items.map fun it => { it with pa := it.pa.map s.rehome },
    kind := match o.kind with
      | .copy dst src len bar done dpg spg => .copy dst src len bar done (dpg.map s.rehome) (spg.map s.rehome)
      | .drain kind fw lt n base pitch pgs => .drain kind fw lt n base pitch (pgs.map fun p => (p.1, s.rehome p.2))
      | k => k }
/-- A forwarding entry of 64 at most; accesses in flight follow it. -/
def State.forward (s : State) (base size new : Nat) : Option State :=
  if 64 ≤ s.fwd.length then none
  else
    let s := { s with fwd := s.fwd ++ [(base, size, new)] }
    some { s with ops := s.ops.map s.rehomeOp }
/-- Another package's rank takes part in a collective: its issue published at `.dom` (R467, R470). -/
def State.contribute (s : State) (c : Contrib) : Option State := do
  let m ← c.members[c.rank]?
  let s ← s.farPublish (m / 256) (m % 256)
  some { s with contribs := s.contribs ++ [{ c with pub := some (s.pubs.length - 1), op := none, done := false }] }
def State.unforward (s : State) (base : Nat) : State := { s with fwd := s.fwd.filter fun f => f.1 != base }
/-- Another member of the domain can be reached. -/
def State.hasPeers (s : State) : Bool := s.routes.any fun r => s.reachable r.1
/-- REMAP: it completes when every member has acknowledged; a full table on any of them gives BUSY (DEDUCED, log 38). -/
def execRemap (s : State) : Host.Outcome State Fault Refusal :=
  eventOf "REMAP" (s.cmdRow 192 0x16 [(0, 24)] fun n v =>
    let base := recFld v 0 8
    let size := recFld v 8 8
    let new := recFld v 16 8
    if !isDomain base || !isDomain new || size % 2 ^ 14 != 0 then some (s.refuseCmd 192 n v resBad)
    else
      let ack := if s.hasPeers then s.remapAck else some true
      ack.map fun ok =>
        let s := { s with remapAck := none }
        match (if ok then s.forward base size new else none) with
        | some t => t.doneCmd 192 n v 0
        | none => s.doneCmd 192 n v resBusy)
/-- UNREMAP. -/
def execUnremap (s : State) : Host.Outcome State Fault Refusal :=
  eventOf "UNREMAP" (s.cmdRow 192 0x17 [(0, 8)] fun n v => some ((s.unforward (recFld v 0 8)).doneCmd 192 n v 0))

end Sys2Proof.Machine
end

