-- ==== Sys2Proof/Machine/Replay.lean ====
section
/-!
DEFINITION. `hret` and the replay of late faults (spec/07 R186, spec/09 R260-R262, spec/12 R310).
-/
namespace Sys2Proof.Machine

/-- The effect of an instruction that can stand at a replay position (R257); none for the others (DEDUCED, log 9). A
replayed `drain.q` takes its format from the state's register as it now is (DEDUCED, log 49). -/
def replayEffect : Instr → Option (Ctx → Res)
  | .ldgV _ f ac m d a => some (loadV false f ac m d a)
  | .ldcV _ f ac m d a => some (loadV true f ac m d a)
  | .ldgS _ f m d a => some (loadS false f m d a)
  | .ldcS _ f m d a => some (loadS true f m d a)
  | .stgV _ f ac m a b => some (storeV f ac m a b)
  | .stgS _ f ac m a b => some (storeS f ac m a b)
  | .stmsk _ f ac m a b e => some (storeMask f ac m a b e)
  | .atom _ f op m d a b e => some fun x => atomV f op m true (dstRun d false (kOf m.w64)) a b (casArg op m.w64 e x) x
  | .red _ f op m a b => some (atomV f op m false none a b fun _ => 0)
  | .pinLines _ f d a b => some (pinRun false f d a b)
  | .unpinLines _ f d a b => some (pinRun true f d a b)
  | .cpyG2t _ a b e bar => some fun x => copyRun (srcT x a) (srcG x b) (x.rdU 1 .zx e) bar.toNat x
  | .cpyT2g _ a b e bar => some fun x => copyRun (srcG x a) (srcT x b) (x.rdU 1 .zx e) bar.toNat x
  | .cpyG2g _ a b e bar => some fun x => copyRun (srcG x a) (srcG x b) (x.rdU 1 .zx e) bar.toNat x
  | .cpyT2t _ a b e bar => some fun x => copyRun (srcT x a) (srcT x b) (x.rdU 1 .zx e) bar.toNat x
  | .obldG _ o a bar => some fun x => obldRun o (srcG x a) bar.toNat x
  | .mma _ f i k nz ga gb xd oa ob => some (mmaRun f i k nz ga gb xd oa ob)
  | .drainF64 _ f p n b => some (drainRun f .f64 0#2 p none n b)
  | .drainI64 _ f p n b => some (drainRun f .i64 0#2 p none n b)
  | .drainQ _ f fm p ltv obn ltn n b => some (drainRun f .q fm p (if ltv then some (obn.toNat, ltn.toNat) else none) n b)
  | .enq _ f d a b => some (enqRun f d a b)
  | .launchGrid _ f d a b => some (launchRun f d a b)
  | .collAllreduce _ f d a => some (collRun 0 f d a)
  | .collAllgather _ f d a => some (collRun 1 f d a)
  | .collRedscat _ f d a => some (collRun 2 f d a)
  | .collBcast _ f d a => some (collRun 3 f d a)
  | _ => none

/-- The word at a replay position as the device performs it for some lanes: no guard is evaluated (R261). -/
def replayCtx (s : State) (t gi rc : Nat) (due : Mask) (hdr k : Nat) : Option Ctx := do
  let tm ← s.team? t
  let g ← tm.group? gi
  let st ← g.recs.find? rc
  let h := match s.fetchWord tm hdr with | .ok w => (Fields.ofBits w).imm | .error _ => 0#32
  some { s, cur := { team := t, grp := gi, rc, m := due, pc := BitVec.ofNat 64 (hdr + 12 * k), pos := k, hdr := h }, tm, g, st, c := default, e := due }

/-- The instruction at a replay position. -/
def Ctx.replayInstr (x : Ctx) : Option Instr :=
  match x.s.fetchWord x.tm x.cur.pc.toNat with
  | .ok w => match decode w with | .ok i => some i | .error _ => none
  | .error _ => none

/-- Faults found at issue during a replay park the lanes again at the consumer header (R261) (DEDUCED, log 9). -/
def Ctx.replayFaults (x : Ctx) (f : Flg) (fs : List Flt) : List LateFault :=
  fs.flatMap fun t => (laneList t.lanes).map fun l =>
    { id := x.s.stamp, lane := l, hdr := x.cur.pc.toNat - 12 * x.cur.pos, pos := x.cur.pos, cls := t.cls.code, addr := t.addr, lo := 0, mask := 0,
      flag := x.flagOf f, skid := 0, detail := t.detail, again := true, rc0 := x.cur.rc }

/-- The call at a slot is dispatched again (R310); its flag is the one that the `crecv` word names. -/
def Ctx.recall (x : Ctx) (f : Flg) (slot : Nat) : State :=
  x.s.replayCall { x.mkOp f false false none x.marks (.recall slot) with re := true } slot

/-- The effect of a replayed word: a register out of the budget faults first (R71, R255); its operations are those of a replay. -/
def Ctx.replayRun (x : Ctx) (i : Instr) (f : Ctx → Res) : State :=
  let r : Res := if regBudget x i then resFault x .regBudget else f x
  let s := r.s.addLate x.cur.team x.cur.grp (x.replayFaults (flagSel i) r.flts)
  { s with stamp := s.stamp + 1, ops := s.ops.map fun o => if o.id = x.s.stamp then { o with re := true } else o }

/-- One position of a replay. A word that can no longer be fetched faults as a fetch; one that makes no access is passed over (DEDUCED, log 9). -/
def replayOne (s : State) (t gi rc : Nat) (due : Mask) (hdr k : Nat) : State :=
  match replayCtx s t gi rc due hdr k with
  | none => s
  | some x =>
    match s.fetchWord x.tm x.cur.pc.toNat with
    | .error e => s.addLate t gi (x.replayFaults .none [{ cls := e.cls, lanes := due }])
    | .ok w => match decode w with
      | .error _ => s
      | .ok i => match i with
        | .crecv _ f d _ => x.recall f (match d with | .reg n => (x.st.getS n).toNat | .discard => 0)
        | i => match replayEffect i with
          | none => s
          | some f => x.replayRun i f

/-- The positions of POS, ascending. -/
def Replay.positions (p : Replay) : List Nat := ((List.range 24).filter fun k => p.pos.getLsbD k).map (· + 1)

/-- The replay of a state's record for some lanes (R261, R310) (DEDUCED, log 9). -/
def State.replay (s : State) (t gi rc : Nat) (due : Mask) (p : Replay) : State :=
  if p.kind = 1 then p.positions.foldl (fun s k => replayOne s t gi rc due p.hdr.toNat k) s
  else if p.kind = 2 then
    match replayCtx s t gi rc due p.hdr.toNat p.fpos with
    | none => s
    | some x => x.recall (match x.replayInstr with | some (.crecv _ f _ _) => f | _ => .none) p.slot
  else s

/-- What holds a replay as it holds an instruction: operands awaited (R19, R262), flags that would pass 63 (R25), a lent engine (R291). -/
def State.replayWaits (s : State) (t gi rc : Nat) (due : Mask) (p : Replay) : Bool :=
  let xs := (if p.kind = 1 then p.positions else if p.kind = 2 then [p.fpos] else []).filterMap fun k => replayCtx s t gi rc due p.hdr.toNat k
  let is := xs.filterMap fun x => x.replayInstr.map fun i => (x, i)
  is.any (fun q => lentAway q.1 q.2 || interlocked q.1 (uses q.2) || orderHeld q.1 q.2)
  || (List.range 12).any fun n => match xs.head? with
    | none => false
    | some x => decide (63 < x.g.flag n + (is.filter fun q => q.1.flagOf (flagSel q.2) == some n).length)

/-- The lanes of a resumption whose replay is still due (R186). -/
def StRec.due (r : StRec) (e : Mask) : Mask := if r.hasReplay then e &&& r.rpend else 0#32

/-- RETURNING in the whole state: the replays that are due, then the lanes resume (R186) (DEDUCED, log 9). -/
def State.resumeLanes (s : State) (t gi rc : Nat) (e : Mask) : State :=
  match (s.group? t gi).bind fun g => g.recs.find? rc with
  | none => s
  | some r =>
    let due := r.due e
    (if due = 0#32 then s else s.replay t gi rc due r.replay).updGroup t gi fun g => g.resume rc e

/-- HRET (R186): the lanes of E resume from their state's record. -/
def execHret (c : Ctl) (s : State) : Host.Outcome State Fault Refusal :=
  issue (.hret c) s fun x =>
    if !x.st.hasRec then resFault x .illegalOp
    else
      let due := x.st.due x.e
      if due != 0#32 && x.s.replayWaits x.cur.team x.cur.grp x.cur.rc due x.st.replay then { s := x.s, stay := true }
      else { s := x.s.resumeLanes x.cur.team x.cur.grp x.cur.rc x.e, nxt := fun l => if x.e.getLsbD l then .placed else .seq }

end Sys2Proof.Machine
end

