-- ==== Sys2Proof/Machine/Probe.lean ====
section
/-!
DEFINITION. Invalidating and probing translations, and delivering fault records (spec/17 R416-R420).
-/
namespace Sys2Proof.Machine

/-! ## The target word (R416) -/

def tAsid (t : Nat) : Nat := t % 2 ^ 16
def tSlice (t : Nat) : Nat := t / 2 ^ 16 % 256
def tStage2 (t : Nat) : Bool := decide (2 ^ 31 ≤ t)
/-- A slice of 0-192, and bits 30:24 zero. -/
def targetOk (t : Nat) : Bool := decide (tSlice t ≤ 192) && t / 2 ^ 24 % 128 == 0

/-- A translation of a page that pageCovers an address. -/
def pageCovers (base bits addr : Nat) : Bool := base == addr / 2 ^ bits * 2 ^ bits

/-- Discarded translations leave every die at once, after a publication at `.dom` (DEDUCED, log 41). -/
def tlbinv (x : Ctx) (ok : Bool) (keep1 : T1 → Bool) (keep2 : T2 → Bool) : Res :=
  if !ok then resFault x .illegalOp
  else
    let s := (x.s.flushTeam x.cur.team x.cur.grp).publish x.cur.team x.cur.grp .dom .plain
    { s := { s with tlb1 := s.tlb1.filter keep1, tlb2 := s.tlb2.filter keep2 } }

/-- TLBINV_ASID (R416). -/
def execTlbinvAsid (c : Ctl) (a : Src) (s : State) : Host.Outcome State Fault Refusal :=
  issue (.tlbinvAsid c a) s fun x =>
    let t := x.rdU 1 .zx a
    tlbinv x (targetOk t && !tStage2 t) (fun e => !(e.slice == tSlice t && e.asid == tAsid t)) fun _ => true
/-- TLBINV_PAGE (R416): with STAGE2, also every stage-1 translation of the slice, whose walk may have used the entry. -/
def execTlbinvPage (c : Ctl) (a b : Src) (s : State) : Host.Outcome State Fault Refusal :=
  issue (.tlbinvPage c a b) s fun x =>
    let t := x.rdU 1 .zx b
    let addr := x.rdU 2 .zx a / 2 ^ 14 * 2 ^ 14
    let ok := targetOk t && !(tStage2 t && tAsid t != 0)
    if tStage2 t then tlbinv x ok (fun e => !(e.slice == tSlice t)) fun e => !(e.slice == tSlice t && pageCovers e.ipa e.bits addr)
    else tlbinv x ok (fun e => !(e.slice == tSlice t && e.asid == tAsid t && pageCovers e.va e.bits addr)) fun _ => true
/-- TLBINV_SLICE (R416). -/
def execTlbinvSlice (c : Ctl) (a : Src) (s : State) : Host.Outcome State Fault Refusal :=
  issue (.tlbinvSlice c a) s fun x =>
    let t := x.rdU 1 .zx a
    tlbinv x (targetOk t && !tStage2 t) (fun e => !(e.slice == tSlice t)) fun e => !(e.slice == tSlice t)

/-! ## Probing (R417) -/

/-- XLAT: the probe goes into flight. -/
def execXlat (c : Ctl) (fl : Flg) (d : Dst) (a b : Src) (s : State) : Host.Outcome State Fault Refusal :=
  issue (.xlat c fl d a b) s fun x =>
    let t := x.rdU 1 .zx b
    if targetOk t then { s := x.fly x.s (x.mkOp fl true true (dstRun d true 2) x.marks (.xlat (x.rdU 2 .zx a) t)) }
    else resFault x .illegalOp

/-- The size code of a page. -/
def pageCode (bits : Nat) : Nat := if bits = 14 then 0 else if bits = 25 then 1 else 2
/-- A failed probe: class 7 or 10, stage, level; an entry that may not be read gives no translation, and so class 7 (DEDUCED, log 41). -/
def XErr.probe (e : XErr) : Nat := 2 ^ 63 + (if e.cls = .memPoison then 10 else 7) + e.stage * 2 ^ 5 + e.level * 2 ^ 8
/-- A successful one: permissions, page size, physical address. -/
def probeOk (pa : Nat) (perm : BitVec 4) (bits : Nat) : Nat := perm.toNat * 2 ^ 56 + pageCode bits * 2 ^ 54 + pa % 2 ^ 52
/-- The result of a probe for a target word, on a die. -/
def State.probe (s : State) (die addr t : Nat) : Nat :=
  if 2 ^ 58 ≤ addr then XErr.probe { cls := .memXlate, stage := 1, level := 0 }
  else if tStage2 t then
    match s.stage2 (tSlice t) die addr with
    | .ok l => probeOk (l.apply addr) l.perm l.bits
    | .error e => e.probe
  else match s.bothStages (tSlice t) die (tAsid t) addr with
    | .ok (pa, perm, bits) => probeOk pa perm bits
    | .error e => e.probe

/-- XLAT_COMPLETION (R417). -/
def execXlatCompletion (id : Nat) (s : State) : Host.Outcome State Fault Refusal :=
  eventOf "XLAT_COMPLETION" do
    let o ← s.op? id
    let x ← s.team? o.team
    match o.kind with
    | .xlat addr t =>
      let v := s.probe x.die addr t
      some ((s.writeDst o (lowestLane o.lanes) [v % 2 ^ 32, v / 2 ^ 32]).endOp o)
    | _ => none

/-! ## Delivery of fault records (R418-R420) -/

/-- The 64 bytes of a record (R419). -/
def FaultRec.bytes (r : FaultRec) (die seq : Nat) : Nat :=
  seq % 2 ^ 16 + r.kind * 2 ^ 16 + r.cls * 2 ^ 24 + r.src * 2 ^ 32 + r.tick % 2 ^ 64 * 2 ^ 64 + r.addr % 2 ^ 64 * 2 ^ 128 + r.image % 2 ^ 64 * 2 ^ 192
  + r.pc % 2 ^ 64 * 2 ^ 256 + r.lanes.toNat * 2 ^ 320 + r.grp % 256 * 2 ^ 352 + r.state % 256 * 2 ^ 360 + r.event * 2 ^ 368 + die * 2 ^ 376
  + r.detail % 2 ^ 32 * 2 ^ 384

/-- The ring of a slice on a die takes a record: it is set up and not full. -/
def State.ringBase (s : State) (sl die : Nat) : Nat := (s.sdReg sl die 0x420).toNat + 2 ^ 32 * (s.sdReg sl die 0x421).toNat
def State.ringTakes (s : State) (sl die : Nat) : Bool :=
  s.ringBase sl die != 0 && decide ((s.sdReg sl die 0x423 - s.sdReg sl die 0x424).toNat < 2 ^ ((s.sdReg sl die 0x422).toNat % 16))

/-- FAULT_RECORD_DELIVERY (R420): the oldest record of a source is written, published at `.slc`, counted and signalled. -/
def execFaultRecordDelivery (sl die kind src : Nat) (s : State) : Host.Outcome State Fault Refusal :=
  eventOf "FAULT_RECORD_DELIVERY" do
    let y := s.sliceDieOf sl die
    let r ← y.held.find? fun r => r.kind == kind && r.src == src
    if !s.ringTakes sl die then none
    else
      let key := kind * 65536 + src
      let tail := s.sdReg sl die 0x423
      let at? := s.ringBase sl die + 64 * (tail.toNat % 2 ^ ((s.sdReg sl die 0x422).toNat % 16))
      let s := s.vwriteOr (devSpace sl die 0) (schedAgent sl die) at? (r.bytes die (y.seq.get key)) 64
      let n := s.pubs.length
      let s := { s.publishAs (fwPlace sl die) (schedAgent sl die) .slc .plain (s.storesOf (schedAgent sl die)) with stamp := s.stamp + 1 }
      some ((s.setSliceDie sl die
        { y with held := y.held.erase r, seq := y.seq.set key ((y.seq.get key + 1) % 2 ^ 16), frPubs := n :: y.frPubs,
                 reg := y.reg.set 0x423 (tail + 1#32) }).signal 192 3)

end Sys2Proof.Machine
end

