-- ==== Sys2Proof/Machine/Debug.lean ====
section
/-!
DEFINITION. Debug access and settling held sub-groups (spec/17 R422-R425).
-/
namespace Sys2Proof.Machine

/-! ## The team that DBG_IMG names -/

def dbgOk : Nat := 0
def dbgBusy : Nat := 1
def dbgNotStopped : Nat := 2
def dbgBadArg : Nat := 3
def dbgLoadWon : Nat := 4
def dbgDiscarded : Nat := 5

/-- The physical address of DBG_IMG in the issuing group's address space. -/
def Ctx.dbgPa (x : Ctx) : Option Nat :=
  match x.s.teamXlat x.tm needR x.st.dbgImg.toNat with
  | .ok pa => some pa
  | .error _ => none
/-- The image of a team lies at a physical address. -/
def State.imageAt (s : State) (x : Team) (pa : Nat) : Bool :=
  match s.teamXlat { x with priv := true } needR x.image with
  | .ok q => q == pa
  | .error _ => false
/-- A team that has been started, or that a debugger has found in its image, with its image there (DEDUCED, log 40). -/
def Ctx.dbgTeam (x : Ctx) : Option (Nat × Team) := x.dbgPa.bind fun pa => List.find? (fun (p : Nat × Team) => x.s.imageAt p.2 pa) x.s.teams
/-- The issuing group's view of the image, for one that belongs to no started team. -/
def Ctx.dbgView (x : Ctx) : Team := { slice := x.tm.slice, asid := x.tm.asid, die := x.tm.die, priv := x.tm.priv, image := x.st.dbgImg.toNat }
/-- The team that a debug instruction acts on: a started one; else that of an image at STATUS 1 (or 4, with no line left on a core), which from now
on is kept as a team of no grid (R423, R425) (DEDUCED, log 40). -/
def Ctx.dbgFind (x : Ctx) : Option (State × Nat × Team) :=
  match x.dbgTeam with
  | some (t, y) => some (x.s, t, y)
  | none => match x.s.parseImage x.dbgView 0 with
    | .ok (y, n) =>
      if n = 1 ∨ n = 4 then
        let y := { y with st := .written }
        some ({ x.s.setTeam x.s.stamp y with stamp := x.s.stamp + 1 }, x.s.stamp, y)
      else none
    | .error _ => none

/-- A team as its state stands: one without a core is read again from its image, and fails where R205 fails. -/
def State.asImage (s : State) (y : Team) : Option Team := if y.st == .resident then some y else (s.reread y).toOption

/-- Changes of a suspended team are delivered to where their lines lie: into the image where no core holds them (R208, R252, R425); lines that its
matrix operations use are on its core until those have finished (R289) (DEDUCED, log 35). -/
def State.mirror (s : State) (t : Nat) (old new : Team) (busy : Bool) : State :=
  let out := ((new.fields 0).zip (old.fields 0)).filterMap fun p => if p.1 = p.2 || new.lines.any (fun l => l.2 == p.1.1 / 128) then none else some p.1
  let used := fun (f : Fld) => busy && new.st == .suspended && new.matrixLine (f.1 / 128)
  let s := s.updTeam t fun x => { x with lines := x.lines ++ (((out.filter used).map fun f => f.1 / 128).eraseDups).map fun l => (x.coreId, l) }
  match s.imgStoreAll new 0 new.size (out.filter fun f => !used f) with
  | .ok s => s
  | .error _ => s

/-! ## Status -/

/-- DBG_STAT, and S[d] of every form but `dbg.rd`. -/
def Ctx.dbgEnd (x : Ctx) (s : State) (d : Dst) (v status : Nat) : Res :=
  { s := s.updGroup x.cur.team x.cur.grp fun g => match g.recs.find? x.cur.rc with
      | some r => g.setRec x.cur.rc (putS { r with dbgStat := BitVec.ofNat 32 status } 1 d v)
      | none => g }
def Ctx.dbgStatus (x : Ctx) (s : State) (d : Dst) (status : Nat) : Res := x.dbgEnd s d status status

/-! ## Stopping and resuming (R423) -/

/-- A team is suspended, its lines are written back once no matrix operation uses them, and it is withheld from ranking and waking
(DEDUCED, log 24). -/
def State.stopTeam (s : State) (t : Nat) : State :=
  let s := ((s.suspend t).updTeam t fun x => { x with stopped := true, asleep := none }).unrank t
  (s.linesDue t).getD s

/-- DBG_STOP (R423): the path holds until the image holds STATUS 1. -/
def execDbgStop (c : Ctl) (d : Dst) (a : Src) (s : State) : Host.Outcome State Fault Refusal :=
  issue (.dbgStop c d a) s fun x =>
    let m := x.rdU 1 .zx a
    match x.dbgFind with
    | none => x.dbgStatus x.s d dbgBadArg
    | some (s, t, y) =>
      if 2 ≤ m || y.ending || (s.asImage y).isNone then x.dbgStatus x.s d dbgBadArg
      else
        let s := (s.stopTeam t).updTeam t fun y => { y with claimed := m == 1 }
        if t = x.cur.team then { s, stay := true }
        else match s.team? t with
          | some z => if z.ending then x.dbgStatus s d dbgBadArg else if z.st == .written then x.dbgStatus s d dbgOk else resHold x s (.stopped t d)
          | none => x.dbgStatus s d dbgBadArg
/-- A holding `dbg.stop` ends: with OK at STATUS 1, with BAD_ARG where a lost line has ended the team (R207) (DEDUCED, log 24). -/
def State.stopDone (s : State) (t gi id : Nat) : Option State := do
  let g ← s.group? t gi
  let h ← g.hold? id
  match h.kind with
  | .stopped k d =>
    let v ← match s.team? k with
      | none => some dbgBadArg
      | some z => if z.ending then some dbgBadArg else if z.st == .written then some dbgOk else none
    let s := s.updGroup t gi fun g => g.setRec h.rc { g.getRec h.rc with dbgStat := BitVec.ofNat 32 v }
    some ((s.holdWrite t gi h d v).endHold t gi h)
  | _ => none

/-- The records held by a claimed break. -/
def Team.claimedHeld (x : Team) : List (Nat × Nat) :=
  x.groups.flatMap fun p => (p.2.recs.filter fun r => r.2.mode == .held && r.2.claimed).map fun r => (p.1, r.1)
/-- The end of a cycle in which a debugger changed a group; that of the issuing group is still to come. -/
def Ctx.settle (x : Ctx) (s : State) (t gi : Nat) : State := if t = x.cur.team ∧ gi = x.cur.grp then s else s.endCycle t gi
/-- A sub-group's lanes all resume. -/
def Ctx.resumeHeld (x : Ctx) (s : State) (t gi rc : Nat) : State :=
  let snap := s.snap
  let s := match s.group? t gi with
    | some g => ({ s with snap := none } : State).resumeLanes t gi rc (g.live rc)
    | none => s
  x.settle { s with snap } t gi
def Team.heldWaits (s : State) (t : Nat) (x : Team) (rs : List (Nat × Nat)) : Bool :=
  rs.any fun r => match x.group? r.1 with
    | some g =>
      let st := g.getRec r.2
      let due := st.due (g.live r.2)
      due != 0#32 && s.replayWaits t r.1 r.2 due st.replay
    | none => false

/-- DBG_RESUME (R423). -/
def execDbgResume (c : Ctl) (d : Dst) (a : Src) (s : State) : Host.Outcome State Fault Refusal :=
  issue (.dbgResume c d a) s fun x =>
    let m := x.rdU 1 .zx a
    if 2 ≤ m then x.dbgStatus x.s d dbgBadArg
    else match x.dbgFind with
      | none => x.dbgStatus x.s d dbgBadArg
      | some (s, t, y) =>
        if !y.stopped then x.dbgStatus x.s d dbgNotStopped
        else match s.asImage y with
          | none => x.dbgStatus x.s d dbgBadArg
          | some z =>
            let s := s.setTeam t z
            let rs := z.claimedHeld
            if Team.heldWaits s t z rs then { s := x.s, stay := true }
            else
              let s := rs.foldl (fun s r => x.resumeHeld s t r.1 r.2) s
              let s := (s.updTeam t fun y => { y with stopped := false, claimed := m == 1 }).requeue t
              x.dbgStatus s d dbgOk

/-! ## Words of an image (R422-R424) -/

/-- The parts of a selector: group, state record, lane. -/
def selGroup (v : Nat) : Nat := v % 16
def selRec (v : Nat) : Nat := v / 16 % 32
def selLane (v : Nat) : Nat := v / 512 % 32

/-- The place of a selected word in the image: its offset and bytes; none for a bad selector (R423) (DEDUCED, log 40). -/
def Team.wordAt (x : Team) (file r v : Nat) : Option (Nat × Nat) := do
  let k := selGroup v
  let g ← x.group? k
  check (decide (v < 2 ^ 14))
  let o := x.groupOff + k * imgGREC x.sregs x.aregs
  let sr := o + 1024 + selRec v * imgSREC x.sregs x.aregs + 0x80
  let used : Option Unit := check (g.recs.find? (selRec v)).isSome
  let aff : Option Nat := do
    used
    check (decide (r < x.aregs))
    pure (sr + imgSA x.sregs + 16 * r)
  match file with
  | 0 => if r < g.vmax then some (x.vbase.get k + 128 * r + 4 * selLane v, 4) else none
  | 1 => do
    used
    check (decide (r < x.sregs))
    pure (sr + 4 * r, 4)
  | 2 => aff.map fun a => (a, 4)
  | 3 => aff.map fun a => (a + 4, 4)
  | 4 => aff.map fun a => (a + 8, 4)
  | 5 => some (o + 0x200 + 4 * r, 4)
  | 6 => some (o + 0x240 + 4 * r, 4)
  | _ => some (o + 0x260 + r, 1)

/-- The same word of the team's own state. -/
def Group.putWord (g : Group) (file r v : Nat) (w : Word) : Group :=
  let rc := selRec v
  let aff := fun (f : Aff → Aff) => g.setRec rc ((g.getRec rc).setA r (f ((g.getRec rc).getA r)))
  match file with
  | 0 => if r < g.vcur then g.setV r (selLane v) w else g
  | 1 => g.setRec rc ((g.getRec rc).setS r w)
  | 2 => aff fun a => { a with base := a.base &&& 0xFFFFFFFF00000000#64 ||| w.setWidth 64 }
  | 3 => aff fun a => { a with base := a.base &&& 0xFFFFFFFF#64 ||| (w.setWidth 64 <<< 32) }
  | 4 => aff fun a => { a with stride := w }
  | 5 => { g with preds := g.preds.set r w }
  | 6 => g.setJ r w
  | _ => g

/-- Operations whose replies are those of loads and atomics (R208, R424). -/
def OpKind.replies : OpKind → Bool
  | .load .. | .atomic .. | .tload .. | .tatomic .. | .frag .. => true
  | _ => false
/-- The operation whose completion is pending for a word: none but registers v and s have one. -/
def State.pendingOn (s : State) (t file r v : Nat) : Option Op :=
  s.ops.find? fun o => o.team == t && o.grp == selGroup v && o.kind.replies && match o.dst with
    | none => false
    | some q => decide (q.n ≤ r) && decide (r < q.n + q.k) && !o.skip.contains (skipKey q.uni r (selLane v))
      && ((file == 0 && !q.uni && o.lanes.getLsbD (selLane v)) || (file == 1 && q.uni && o.rc == selRec v))

/-- A stopped team and the place of a word in its image, or the status that a `dbg.rd` or `dbg.wr` ends with. -/
def Ctx.dbgWord (x : Ctx) (file r v : Nat) : Except Nat (Nat × Team × Nat × Nat) :=
  match x.dbgFind with
  | none => .error dbgBadArg
  | some (_, t, y) =>
    if !y.stopped then .error dbgNotStopped
    else match (x.s.asImage y).bind fun z => (z.wordAt file r v).map fun p => (z, p) with
      | none => .error dbgBadArg
      | some (z, o, n) => .ok (t, z, o, n)

/-- DBG_RD (R423): the value is open where the status is BAD_ARG. -/
def execDbgRd (c : Ctl) (file : BitVec 4) (r : BitVec 8) (d : Dst) (a : Src) (s : State) : Host.Outcome State Fault Refusal :=
  issue (.dbgRd c file r d a) s fun x =>
    let v := x.rdU 1 .zx a
    let bad := fun (n : Nat) => if n = dbgNotStopped then x.dbgEnd x.s d 0 n else let (w, s) := x.s.freeBits; x.dbgEnd s d w n
    match x.dbgWord file.toNat r.toNat v with
    | .error n => bad n
    | .ok (t, z, o, n) =>
      match x.s.imgLE z o n with
      | .error _ => bad dbgBadArg
      | .ok w => x.dbgEnd x.s d w (if (x.s.pendingOn t file.toNat r.toNat v).isSome then dbgBusy else dbgOk)

/-- A word of a stopped team is written, in its image and in its state. -/
def State.dbgPut (s : State) (t : Nat) (z : Team) (o n file r v : Nat) (w : Word) : State :=
  match s.imgStore z w.toNat n (z.image + o) with
  | .ok s => (s.setTeam t z).updGroup t (selGroup v) fun g => g.putWord file r v w
  | .error _ => s

/-- DBG_WR (R424). -/
def execDbgWr (c : Ctl) (file : BitVec 4) (r : BitVec 8) (d : Dst) (a b : Src) (s : State) : Host.Outcome State Fault Refusal :=
  issue (.dbgWr c file r d a b) s fun x =>
    let v := x.rdU 1 .zx a
    match x.dbgWord file.toNat r.toNat v with
    | .error n => x.dbgStatus x.s d n
    | .ok (t, z, o, n) =>
      if (x.s.pendingOn t file.toNat r.toNat v).isSome then x.dbgStatus x.s d dbgBusy
      else x.dbgStatus (x.s.dbgPut t z o n file.toNat r.toNat v (BitVec.ofNat 32 (x.rdU 1 .zx b))) d dbgOk

/-- DBG_WR_FORCE (R424): whether a checked reply has come to be in delivery is open; once it is, it stays so. -/
def execDbgWrForce (c : Ctl) (file : BitVec 4) (r : BitVec 8) (d : Dst) (a b : Src) (s : State) : Host.Outcome State Fault Refusal :=
  issue (.dbgWrForce c file r d a b) s fun x =>
    let v := x.rdU 1 .zx a
    match x.dbgWord file.toNat r.toNat v with
    | .error n => x.dbgStatus x.s d n
    | .ok (t, z, o, n) =>
      let put := fun (s : State) => s.dbgPut t z o n file.toNat r.toNat v (BitVec.ofNat 32 (x.rdU 1 .zx b))
      match x.s.pendingOn t file.toNat r.toNat v with
      | none => x.dbgStatus (put x.s) d dbgOk
      | some op =>
        let (w, s) := x.s.freeBits
        if op.dlv then x.dbgStatus x.s d dbgLoadWon
        else if op.chk && w % 2 == 1 then x.dbgStatus (s.setOp { op with dlv := true }) d dbgLoadWon
        else x.dbgStatus ((put s).setOp { op with skip := skipKey (file == 1#4) r.toNat (selLane v) :: op.skip }) d dbgDiscarded

/-! ## `dbg.act` (R425) -/

/-- RESUME and EXIT act on a held sub-group, wherever the team's state lies. -/
def dbgSettle (x : Ctx) (d : Dst) (v : Nat) (exits : Bool) : Res :=
  match x.dbgFind with
  | none => x.dbgStatus x.s d dbgBadArg
  | some (s, t, y) =>
    let gi := selGroup v
    let rc := selRec v
    match s.asImage y with
    | none => x.dbgStatus x.s d dbgBadArg
    | some z =>
      match (z.group? gi).bind fun g => g.recs.find? rc with
      | none => x.dbgStatus x.s d dbgBadArg
      | some r =>
        if r.mode != .held || decide (2 ^ 14 ≤ v) then x.dbgStatus x.s d dbgBadArg
        else
          let s := s.setTeam t z
          -- a team found just now has its image in memory, and nowhere else
          let out := fun (u : State) => match x.s.team? t, u.team? t with
            | none, some y => u.mirror t z y false
            | _, _ => u
          if exits then
            let s := s.updGroup t gi fun g => g.updLanes (g.live rc) fun _ l => { l with st := .exited, off := 0, hdr := none, fresh := none }
            x.dbgStatus (out (x.settle s t gi)) d dbgOk
          else if Team.heldWaits s t z [(gi, rc)] then { s := x.s, stay := true }
          else x.dbgStatus (out (x.resumeHeld s t gi rc)) d dbgOk

/-- The grid of the image: that of a started team, or of one still to start. -/
def Ctx.dbgGrid (x : Ctx) : Option Nat :=
  match (x.dbgTeam.map fun p => p.2.grid).filter fun g => (x.s.grid? g).isSome with
  | some g => some g
  | none => x.dbgPa.bind fun pa => (List.find? (fun (p : Nat × Grid) => (List.range p.2.teams).any fun k =>
      ((p.2.left.any fun r => decide (r.1 ≤ k) && decide (k < r.1 + r.2)) || (x.s.lists.any fun l => l.2.contains (.fresh p.1 k))
        || x.s.transit.any fun e => e.task == .fresh p.1 k) && x.s.imageAt (p.2.team p.1 k) pa) x.s.grids).map (·.1)

/-- ENDGRID: the path holds until every team has ended. -/
def dbgEndGrid (x : Ctx) (d : Dst) : Res :=
  match x.dbgGrid with
  | none => x.dbgStatus x.s d dbgBadArg
  | some g =>
    let s := (x.s.stopGrid g).finishGrid g
    if (x.s.grid? g).isNone then x.dbgStatus x.s d dbgBadArg
    else if (s.grid? g).isNone then x.dbgStatus s d dbgOk
    else if x.tm.grid = g then { s, stay := true }
    else resHold x s (.endgrid g d)
/-- The grid of a holding ENDGRID has ended. -/
def State.endgridDone (s : State) (t gi id : Nat) : Option State := do
  let g ← s.group? t gi
  let h ← g.hold? id
  match h.kind with
  | .endgrid k d =>
    if (s.grid? k).isSome then none
    else
      let s := s.updGroup t gi fun g => g.setRec h.rc { g.getRec h.rc with dbgStat := 0#32 }
      some ((s.holdWrite t gi h d dbgOk).endHold t gi h)
  | _ => none

/-- The action that S[b] names. -/
def dbgAct (d : Dst) (a b : Src) (x : Ctx) : Res :=
  match x.rdU 1 .zx b with
  | 0 => dbgSettle x d (x.rdU 1 .zx a) false
  | 1 => dbgSettle x d (x.rdU 1 .zx a) true
  | 2 => dbgEndGrid x d
  | _ => x.dbgStatus x.s d dbgBadArg

/-- DBG_ACT_RESUME (R425): `dbg.act`; the three rows have one word, and S[b] chooses the action (DEDUCED, log 40). -/
def execDbgActResume (c : Ctl) (d : Dst) (a b : Src) (s : State) : Host.Outcome State Fault Refusal :=
  issue (.dbgActResume c d a b) s (dbgAct d a b)
/-- DBG_ACT_EXIT (R425) (DEDUCED, log 40). -/
def execDbgActExit (c : Ctl) (d : Dst) (a b : Src) (s : State) : Host.Outcome State Fault Refusal :=
  issue (.dbgActExit c d a b) s (dbgAct d a b)
/-- ENDGRID (R425) (DEDUCED, log 40). -/
def execEndgrid (c : Ctl) (d : Dst) (a b : Src) (s : State) : Host.Outcome State Fault Refusal :=
  issue (.endgrid c d a b) s (dbgAct d a b)

end Sys2Proof.Machine
end

