-- ==== Sys2Proof/Machine/Encoder.lean ====
section
/-!
DEFINITION. Encoder lanes (spec/18 R439, R440): their checks, what they read and write, and their returns. The bit streams and the layout of
a state area are constants of Config.
-/
namespace Sys2Proof.Machine

/-- The slice of a call holds the lane it names on its cluster (R426, R439). -/
def State.hasLane (s : State) (c : Call) : Bool := (s.slices.get c.slice).encs.contains (4 * c.clu + c.fld 9 1 % 4)
/-- Bytes of a sample of a depth. -/
def sampleBytes (depth : Nat) : Nat := if depth = 8 then 1 else 2

/-- CONFIG's fields are in range (R439). -/
def configOk (c : Call) : Bool :=
  let w := c.fld 16 2
  let h := c.fld 18 2
  decide (c.fld 12 1 ≤ 1) && (c.fld 13 1 == 8 || c.fld 13 1 == 10) && c.fld 10 2 == 0 && c.fld 14 2 == 0 && c.fld 20 4 == 0 && c.fld 36 28 == 0
  && w % 8 == 0 && decide (64 ≤ w) && decide (w ≤ 4096) && h % 8 == 0 && decide (64 ≤ h) && decide (h ≤ 4096)
  && c.fld 24 8 % 4096 == 0 && decide (65536 + 3 * w * h * sampleBytes (c.fld 13 1) ≤ c.fld 32 4)
def configSession (c : Call) : Config.Session :=
  { codec := c.fld 12 1, depth := c.fld 13 1, width := c.fld 16 2, height := c.fld 18 2, bytes := c.fld 32 4, frames := 0, due := true }

/-- The first 65,536 bytes of a state area, which show its session. -/
def areaHead (v : Nat) : Nat := v % 2 ^ 524288
/-- The session of a state area: the one that a lane wrote with those bytes, else what the bytes mean (R439, R440) (DESIGN CHOICE, log 29). -/
def State.sessionAt (s : State) (head : Nat) : Option Config.Session :=
  match s.sessions.find? fun p => p.1 == head with
  | some p => some p.2
  | none => Config.sessionOf head
/-- A lane writes a state area. -/
def State.putSession (s : State) (v : Nat) (x : Config.Session) : State :=
  { s with sessions := (areaHead v, x) :: s.sessions.filter fun p => p.1 != areaHead v }
/-- ENCODER_CONFIG (R439): a fresh session into the state area (DESIGN CHOICE, log 29). -/
def execEncoderConfig (call : Nat) (s : State) : Host.Outcome State Fault Refusal :=
  eventOf "ENCODER_CONFIG" do
    let c ← s.call? call
    if c.fld 8 1 != 0 then none
    else s.plainRow 8 call fun c =>
      if !s.hasLane c then s.unitErr c 6
      else if 4 ≤ c.fld 9 1 || !configOk c then s.unitErr c 4
      else match s.cpages c needW (c.fld 24 8) (c.fld 32 4) with
        | some e => s.unitFault c e
        | none =>
          let v := Config.freshSession (configSession c)
          ((s.cwrite c (c.fld 24 8) v (c.fld 32 4)).putSession v (configSession c)).unitReturn c 0 0 0 0

/-- ENCODE's fields, but for those that the session bounds. -/
def encodeForm (c : Call) : Bool :=
  c.fld 10 2 == 0 && decide (c.fld 12 1 ≤ 1) && c.fld 14 2 == 0 && c.fld 16 8 % 64 == 0 && c.fld 24 8 % 64 == 0 && c.fld 32 4 % 64 == 0
  && c.fld 48 8 % 16 == 0 && c.fld 56 8 % 4096 == 0
/-- And those of the session. -/
def encodeFits (c : Call) (x : Config.Session) : Bool :=
  (x.codec == 0 || decide (c.fld 13 1 ≤ 51)) && decide (x.width * sampleBytes x.depth ≤ c.fld 32 4)
/-- A plane's rows, joined: `n` rows of `w` bytes, `pitch` apart. -/
def State.planeRows (s : State) (c : Call) (base pitch w : Nat) : Nat → Except (Nat × XErr) Nat
  | 0 => .ok 0
  | n + 1 =>
    match s.cread c base w with
    | .error e => .error e
    | .ok v => (State.planeRows s c (base + pitch) pitch w n).map fun r => v + 2 ^ (8 * w) * r
def State.planePages (s : State) (c : Call) (base pitch w n : Nat) : Option (Nat × XErr) :=
  (List.range n).findSome? fun k => s.cpages c needR (base + k * pitch) w
/-- P010 keeps bits 15:6 of a sample. -/
def keepSamples (depth v : Nat) : Nat → Nat
  | 0 => 0
  | n + 1 => if depth = 8 then v else (v % 65536 / 64 * 64) + 65536 * keepSamples depth (v / 65536) n

/-- The write of one frame: the state area, the access unit, its bytes counted into the barrier (DESIGN CHOICE, log 29). -/
def State.putFrame (s : State) (c : Call) (x : Config.Session) (len unit st bar : Nat) : State :=
  let s := ((s.cwrite c (c.fld 56 8) st x.bytes).putSession st { x with frames := x.frames + 1, due := false }).cwrite c (c.fld 40 8) unit len
  if c.fld 48 8 = 0 then s
  else s.ccount (engineAgent c.id) bar len (s.storesOf (engineAgent c.id))
/-- The barrier's physical address, with its permissions; 0 names none. -/
def State.encodeBar (s : State) (c : Call) : Except (Nat × XErr) Nat := if c.fld 48 8 = 0 then .ok 0 else s.cxlat c needRW (c.fld 48 8)

/-- ENCODER_ENCODE (R439, R440) (DESIGN CHOICE, log 29). -/
def execEncoderEncode (call : Nat) (s : State) : Host.Outcome State Fault Refusal :=
  eventOf "ENCODER_ENCODE" do
    let c ← s.call? call
    if c.fld 8 1 = 0 then none
    else s.plainRow 8 call fun c =>
      if !s.hasLane c then s.unitErr c 6
      else if 2 ≤ c.fld 8 1 || 4 ≤ c.fld 9 1 || !encodeForm c then s.unitErr c 4
      else match s.cread c (c.fld 56 8) 65536 with
        | .error e => s.unitFault c e
        | .ok hd =>
          match s.sessionAt hd with
          | none => (s.raise c.slice c.die { kind := 3, src := c.clu / 12 * 256 + c.clu % 12 * 16 + c.fld 9 1 % 4, image := c.image, lanes := c.lanes,
                                             grp := c.grp, state := c.rc, event := 6 }).unitErr c 4
          | some x =>
            let b := sampleBytes x.depth
            let planes : Except (Nat × XErr) (Nat × Nat × Nat × Nat) := do
              let st ← s.cread c (c.fld 56 8) x.bytes
              let y ← s.planeRows c (c.fld 16 8) (c.fld 32 4) (x.width * b) x.height
              let uv ← s.planeRows c (c.fld 24 8) (c.fld 32 4) (x.width * b) (x.height / 2)
              let bar ← s.encodeBar c
              pure (st, y, uv, bar)
            if !encodeFits c x then s.unitErr c 4
            else match s.cpages c needRW (c.fld 56 8) x.bytes, s.planePages c (c.fld 16 8) (c.fld 32 4) (x.width * b) x.height,
                s.planePages c (c.fld 24 8) (c.fld 32 4) (x.width * b) (x.height / 2), s.cpages c needW (c.fld 40 8) (c.fld 36 4) with
              | some e, _, _, _ | _, some e, _, _ | _, _, some e, _ | _, _, _, some e => s.unitFault c e
              | none, none, none, none =>
                match planes with
                | .error e => s.unitFault c e
                | .ok (st, y, uv, bar) =>
                  let src := keepSamples x.depth (y + 2 ^ (8 * x.width * b * x.height) * uv) (x.width * x.height * 2)
                  let (len, unit, st') := Config.encodeFrame st src (c.rcd / 2 ^ 96) (c.fld 36 4)
                  let key := x.due || (c.fld 12 1).testBit 0
                  let ret := 2 ^ 32 * (x.frames % 2 ^ 32) + 2 ^ 64 * (if key then 1 else 0)
                  if c.fld 36 4 < len then s.unitReturn c 20 0 0 ret
                  else (s.putFrame c x len unit st' bar).unitReturn c 0 0 0 (len + ret)

end Sys2Proof.Machine
end

