-- ==== Sys2Proof/Machine/Raster.lean ====
section
/-!
DEFINITION. The binner, the rasteriser, stream binding, the depth-stencil unit and the blender (spec/13 R325-R351).
-/
namespace Sys2Proof.Machine

/-! ## Regions and samples (R325, R326) -/

/-- The sample offsets of a MODE code; none for the reserved code. -/
def samplePattern : Nat → Option (List (Int × Int))
  | 0 => some [(128, 128)]
  | 1 => some [(96, 32), (224, 96), (32, 160), (160, 224)]
  | 2 => some [(144, 16), (48, 48), (208, 80), (112, 112), (16, 144), (176, 176), (80, 208), (240, 240)]
  | _ => none
def regionPixels : List (Nat × Nat) := (List.range 32).flatMap fun y => (List.range 32).map fun x => (x, y)
/-- A team area of a payload: an aligned address and a length within TMEM. -/
def State.teamArea (s : State) (c : Call) (t align len : Nat) : Bool := t % align == 0 && s.ctRange c t len
def Call.i16 (c : Call) (off : Nat) : Int := signedN 16 (c.fld off 2)
def Call.i32 (c : Call) (off : Nat) : Int := signedN 32 (c.fld off 4)

/-! ## f32 steps -/

def f32 : Fmt := fmtT .f32
/-- RoundNE to f32 of an exact result. -/
def f32Code (r : XRes) : Nat := (f32.done .rne r).v
/-- k * 2^-8. -/
def f32Of8 (k : Int) : Nat := f32Code { v := .num (decide (k < 0)) k.natAbs (-8) false }
/-- RoundNE(a * b + c), one fused step. -/
def f32Fma (a b c : Nat) : Nat := f32Code (fFma .rne (f32.read a) (f32.read b) (f32.read c))
def f32Mul (a b : Nat) : Nat := f32Code (fMul (f32.read a) (f32.read b))
def f32Sub (a b : Nat) : Nat := f32Code (fSub .rne (f32.read a) (f32.read b))
def f32Div (a b : Nat) : Nat := f32Code (fDiv (f32.read a) (f32.read b))
/-- RoundNE(a * b - c): a NaN operand keeps its sign (R97). -/
def f32MulSub (a b c : Nat) : Nat :=
  f32Code (fDot .rne [f32.read a, f32.read b, f32.read c] [(f32.read a, f32.read b)] (f32.read c).negate)

/-! ## Triangles (R338, R339) -/

structure Vtx where
  x : Int
  y : Int
  z : Nat := 0
deriving DecidableEq, Repr

/-- E_ab(P). -/
def edgeFn (a b : Vtx) (px py : Int) : Int := (b.x - a.x) * (py - a.y) - (b.y - a.y) * (px - a.x)
def triArea (a b c : Vtx) : Int := edgeFn a b c.x c.y
def Vtx.inRange (v : Vtx) : Bool := decide (-2 ^ 23 ≤ v.x) && decide (v.x < 2 ^ 23) && decide (-2 ^ 23 ≤ v.y) && decide (v.y < 2 ^ 23)
/-- Top or left. -/
def topLeft (a b : Vtx) : Bool := (a.y == b.y && decide (a.x < b.x)) || decide (b.y < a.y)
def covers (a b c : Vtx) (px py : Int) : Bool :=
  [(a, b), (b, c), (c, a)].all fun e => let w := edgeFn e.1 e.2 px py; decide (0 < w) || (w == 0 && topLeft e.1 e.2)
/-- DZDX and DZDY. -/
def depthPlane (v0 v1 v2 : Vtx) : Nat × Nat :=
  let a := f32Of8 (v1.x - v0.x)
  let b := f32Of8 (v1.y - v0.y)
  let c := f32Of8 (v2.x - v0.x)
  let d := f32Of8 (v2.y - v0.y)
  let dz1 := f32Sub v1.z v0.z
  let dz2 := f32Sub v2.z v0.z
  let det := f32MulSub a d (f32Mul b c)
  let bad := match f32.read det with | .num _ m _ _ => m == 0 | _ => true
  if bad then (0, 0)
  else (f32Div (f32MulSub dz1 d (f32Mul dz2 b)) det, f32Div (f32MulSub dz2 a (f32Mul dz1 c)) det)

/-! ## The binner (R328-R336) -/

/-- A pool header. -/
structure Pool where
  chunkBase : Nat
  bintab : Nat
  count : Nat
  next : Nat
  binsX : Nat
  binsY : Nat
  orgX : Int
  orgY : Int
  token : Nat
  tbase : Nat
deriving DecidableEq, Repr

def poolOf (h : Nat) : Pool :=
  { chunkBase := recFld h 0 8, bintab := recFld h 8 8, count := recFld h 16 4, next := recFld h 20 4, binsX := recFld h 24 2, binsY := recFld h 26 2,
    orgX := signedN 16 (recFld h 28 2), orgY := signedN 16 (recFld h 30 2), token := recFld h 32 2, tbase := recFld h 34 2 }
def poolOk (h : Nat) : Bool :=
  let p := poolOf h
  p.binsX * p.binsY != 0 && decide (p.binsX * p.binsY ≤ 65536) && decide (p.next ≤ p.count) && decide ((p.token + 65536 - p.tbase) % 65536 < 32768)
  && p.chunkBase % 256 == 0 && p.bintab % 16 == 0 && recFld h 36 28 == 0

/-- A binner call under way: the memory so far, the pool's cursor, the counts, and why it stopped. -/
structure BinRun where
  s : State
  next : Nat
  token : Nat
  accepted : Nat := 0
  binned : Nat := 0
  cullIndex : Nat := 0
  cullOther : Nat := 0
  stop : Option Nat := none

/-- A bin entry and the USED of its last chunk. -/
def State.binEntry (s : State) (c : Call) (p : Pool) (b : Nat) : Except (Nat × XErr) (Nat × Nat) :=
  match s.cread c (p.bintab + 16 * b) 16 with
  | .error e => .error e
  | .ok e => if recFld e 8 4 = 0 then .ok (e, 31) else (s.cread c (p.chunkBase + 256 * recFld e 4 4 + 4) 4).map fun u => (e, u)

/-- The primitive enters one bin (R333). -/
def BinRun.enter (r : BinRun) (c : Call) (p : Pool) (i b : Nat) : Except (Nat × XErr) BinRun := do
  let (e, used) ← r.s.binEntry c p b
  let fresh := used == 31
  let cnt := recFld e 8 4
  let tail := if fresh then r.next else recFld e 4 4
  let head := if cnt = 0 then tail else recFld e 0 4
  let s := if fresh then
      let s := r.s.cwrite c (p.chunkBase + 256 * tail) (2 ^ 32 - 1) 8
      if cnt = 0 then s else s.cwrite c (p.chunkBase + 256 * recFld e 4 4) tail 4
    else r.s
  let u := if fresh then 0 else used
  let flags := recFld e 14 2
  let prev := if flags % 2 = 1 then recFld e 12 2 else r.token
  let s := s.cwrite c (p.chunkBase + 256 * tail + 8 + 8 * u) (i + 2 ^ 32 * r.token + 2 ^ 48 * prev) 8
  let s := s.cwrite c (p.chunkBase + 256 * tail + 4) (u + 1) 4
  let s := s.cwrite c (p.bintab + 16 * b)
    (head + 2 ^ 32 * tail + 2 ^ 64 * ((cnt + 1) % 2 ^ 32) + 2 ^ 96 * r.token + 2 ^ 112 * (if flags % 2 = 1 then flags else flags + 1)) 16
  pure { r with s, next := if fresh then r.next + 1 else r.next }

/-- The bins of a bounding box, in ascending tile number (R332). -/
def Pool.bins (p : Pool) (vs : List Vtx) : List Nat :=
  let span : (Vtx → Int) → Int → Nat → List Nat := fun f org n =>
    let xs := vs.map f
    let lo := ((xs.foldl min (xs.headD 0)) - 256 * org) / 8192
    let hi := ((xs.foldl max (xs.headD 0)) - 256 * org) / 8192
    (List.range n).filter fun (b : Nat) => decide (lo ≤ (b : Int)) && decide ((b : Int) ≤ hi)
  let bxs := span Vtx.x p.orgX p.binsX
  (span Vtx.y p.orgY p.binsY).flatMap fun y => bxs.map fun x => y * p.binsX + x

/-- The three indices of a primitive. -/
def State.primIndices (s : State) (c : Call) (i : Nat) : Except (Nat × XErr) (List Nat) :=
  let w := if (c.fld 36 4).testBit 1 then 2 else 4
  [0, 1, 2].mapM fun k => s.cread c (c.fld 16 8 + w * (3 * i + k)) w
/-- X and Y of a vertex; its Z is read with them (R330, R335). -/
def State.vertex (s : State) (c : Call) (i : Nat) : Except (Nat × XErr) Vtx :=
  (s.cread c (c.fld 8 8 + 16 * i) 12).map fun v => { x := signedN 32 (v % 2 ^ 32), y := signedN 32 (v / 2 ^ 32 % 2 ^ 32) }

/-- One primitive (R331, R333). -/
def BinRun.prim (r : BinRun) (c : Call) (p : Pool) (i : Nat) : Except (Nat × XErr) BinRun := do
  if r.stop.isSome then return r
  let ks ← r.s.primIndices c i
  if ks.any fun k => decide (c.fld 24 4 ≤ k) then return { r with accepted := r.accepted + 1, cullIndex := r.cullIndex + 1 }
  let vs ← ks.mapM fun k => r.s.vertex c k
  let area := match vs with | [a, b, d] => triArea a b d | _ => 0
  let cull := c.fld 36 4 / 4 % 4
  let bins := p.bins vs
  if !(vs.all Vtx.inRange) || area == 0 || (cull == 1 && decide (area < 0)) || (cull == 2 && decide (0 < area)) || bins.isEmpty then
    return { r with accepted := r.accepted + 1, cullOther := r.cullOther + 1 }
  let es ← bins.mapM fun b => r.s.binEntry c p b
  let need := (es.filter fun e => e.2 == 31).length
  if (r.token + 65536 - p.tbase) % 65536 = 32767 then return { r with stop := some 1 }
  if p.count < r.next + need then return { r with stop := some 0 }
  let q ← bins.foldlM (fun (q : BinRun) b => q.enter c p i b) r
  pure { q with token := (r.token + 1) % 65536, accepted := r.accepted + 1, binned := r.binned + 1 }

def binFields (acc binned ci co tok reason : Nat) : Nat :=
  acc + 2 ^ 32 * binned + 2 ^ 64 * ci + 2 ^ 96 * co + 2 ^ 128 * tok + 2 ^ 144 * reason

/-- The payload's limits (R330) (DEDUCED, log 34). -/
def binnerOk (c : Call) : Bool :=
  c.fld 8 8 % 16 == 0 && decide (c.fld 28 4 ≤ 2 ^ 20) && decide (c.fld 32 4 ≤ c.fld 28 4) && c.fld 36 4 / 4 % 4 != 3 && c.fld 36 4 / 16 == 0
  && c.fld 40 8 % 64 == 0 && c.fld 48 16 == 0

/-- The whole call: the memory after it, its STATUS and its return fields (R331-R335), which are 0 with STATUS 1 to 4 (DESIGN CHOICE, log 60). -/
def binnerWork (s : State) (c : Call) : Except (Nat × XErr) (State × Nat × Nat) := do
  let w := if (c.fld 36 4).testBit 1 then 2 else 4
  let first := c.fld 32 4
  let n := c.fld 28 4
  let pool := c.fld 40 8
  let pages := fun need base len => match s.cpages c need base len with | some e => Except.error e | none => .ok ()
  pages needR (c.fld 16 8 + 3 * w * first) (3 * w * (n - first))
  pages needR (c.fld 8 8) (16 * c.fld 24 4)
  pages needRW pool 64
  let h ← s.cread c pool 64
  if !poolOk h then return (s, 4, 0)
  let p := poolOf h
  pages needRW p.bintab (16 * (p.binsX * p.binsY))
  pages needRW p.chunkBase (256 * p.count)
  let prims := (List.range (n - first)).map (· + first)
  let bad ← if c.fld 36 4 % 2 = 1 then prims.filterM fun i => (s.primIndices c i).map fun ks => ks.any fun k => decide (c.fld 24 4 ≤ k) else pure []
  if !bad.isEmpty then return (s, 17, binFields 0 0 bad.length 0 p.token 0)
  let r ← prims.foldlM (fun (r : BinRun) i => r.prim c p i) { s, next := p.next, token := p.token }
  let s := (r.s.cwrite c (pool + 0x14) r.next 4).cwrite c (pool + 0x20) r.token 2
  pure (s, if r.stop.isSome then 16 else 0, binFields r.accepted r.binned r.cullIndex r.cullOther r.token (r.stop.getD 0))

/-- BINNER_CALL (R330-R336) (DEDUCED, log 34). -/
def execBinnerCall (call : Nat) (s : State) : Host.Outcome State Fault Refusal :=
  eventOf "BINNER_CALL" (s.plainRow 1 call fun c =>
    if !binnerOk c then s.unitErr c 4
    else match binnerWork s c with
      | .error e => s.unitFault c e
      | .ok (s, st, f) => s.unitReturn c st 0 0 f)

/-! ## The rasteriser (R337-R340) -/

/-- The coverage byte of a pixel. -/
def coverByte (a b d : Vtx) (pat : List (Int × Int)) (px py : Int) : Nat :=
  pat.zipIdx.foldl (fun v q => if covers a b d (256 * px + q.1.1) (256 * py + q.1.2) then v + 2 ^ q.2 else v) 0

def rasterOk (s : State) (c : Call) : Bool :=
  ([8, 12, 16, 20, 24, 28].all fun o => decide (-2 ^ 23 ≤ c.i32 o) && decide (c.i32 o < 2 ^ 23))
  && s.teamArea c (c.fld 48 4) 16 1024 && (samplePattern (c.fld 52 1)).isSome && c.fld 53 11 == 0

/-- RASTERISER_CALL: the whole coverage map, the samples covered, the depth plane. -/
def execRasteriserCall (call : Nat) (s : State) : Host.Outcome State Fault Refusal :=
  eventOf "RASTERISER_CALL" (s.plainRow 2 call fun c =>
    if !rasterOk s c then s.unitErr c 4
    else
      let v := fun (k : Nat) => ({ x := c.i32 (8 + 8 * k), y := c.i32 (12 + 8 * k), z := c.fld (32 + 4 * k) 4 } : Vtx)
      let flip := decide (triArea (v 0) (v 1) (v 2) < 0)
      let b := if flip then v 2 else v 1
      let d := if flip then v 1 else v 2
      let none? := triArea (v 0) (v 1) (v 2) == 0
      let pat := (samplePattern (c.fld 52 1)).getD []
      let bytes := regionPixels.map fun p => if none? then 0 else coverByte (v 0) b d pat (c.i16 44 + p.1) (c.i16 46 + p.2)
      let (gx, gy) := depthPlane (v 0) b d
      let s := s.updTeam c.team fun x => Team.settleBars { x with tmem := x.tmem.setRun (c.fld 48 4) (bytes.map (BitVec.ofNat 8)) }
      let covered := (bytes.map fun m => popcN 8 m).sum
      s.unitReturn c 0 0 0 (covered + 2 ^ 32 * gx + 2 ^ 64 * gy + (if flip then 2 ^ 96 else 0)))

/-! ## Streams (R341, R342) -/

/-- The chain state of every tile becomes none, in the unit and in the area. -/
def State.clearChain (s : State) (c : Call) (st : Stream) : State :=
  (List.range st.tiles).foldl (fun s n => s.cwrite { c with asid := st.asid, priv := st.priv } (st.state + 4 * n) 0 4) s
def numSamples (code : Nat) : Nat := match samplePattern code with | some p => p.length | none => 0
def bindOk (c : Call) : Bool :=
  let sm := c.fld 10 1
  let n := numSamples sm
  let fmt := c.fld 11 1
  let w := c.fld 48 2
  c.fld 8 1 == 1 && decide (c.fld 9 1 < 16) && n != 0 && decide (fmt ≤ 1) && decide (1 ≤ c.fld 12 4) && decide (c.fld 12 4 ≤ 65536)
  && c.fld 16 8 % 256 == 0 && c.fld 24 8 % 4 == 0 && c.fld 32 4 % 4 == 0 && decide (4 * n * w ≤ c.fld 32 4)
  && (if c.type == 3 && fmt == 1 then decide (n * w ≤ c.fld 44 4) else c.fld 36 8 == 0 && c.fld 44 4 == 0)
  && (c.type == 4 || c.fld 52 4 == 0) && c.fld 56 8 == 0

/-- An unordered record of an ordered unit. -/
def State.streamRow (s : State) (call : Nat) (f : Call → State) : Option State :=
  match s.plainRow 3 call f with
  | some t => some t
  | none => s.plainRow 4 call f
def Call.opKey (c : Call) : Nat := streamKey c.type c.clu c.slice (c.fld 9 1 % 16)

/-- STREAM_BIND (R341); an OP that is neither BIND nor CLEAR is answered here (DEDUCED, log 34). -/
def execStreamBind (call : Nat) (s : State) : Host.Outcome State Fault Refusal :=
  eventOf "STREAM_BIND" (if (s.call? call).any fun c => c.fld 8 1 == 2 then none else s.streamRow call fun c =>
    if !bindOk c then s.unitErr c 4
    else if !s.drained c.slice c.clu (c.fld 9 1) then s.unitErr c 18
    else match s.cpages c needRW (c.fld 16 8) (4 * c.fld 12 4) with
      | some e => s.unitFault c e
      | none =>
        let st : Stream := {
          bound := true, asid := c.asid, priv := c.priv, samples := c.fld 10 1, fmt := c.fld 11 1, tiles := c.fld 12 4, state := c.fld 16 8,
          base := c.fld 24 8, pitch := c.fld 32 4, sbase := c.fld 36 8, spitch := c.fld 44 4, width := c.fld 48 2, height := c.fld 50 2,
          const := c.fld 52 4 }
        let s := s.clearChain c st
        ({ s with streams := s.streams.set c.opKey st } : State).unitErr c 0)
/-- STREAM_CLEAR (R341); an unbound stream has no chain states. -/
def execStreamClear (call : Nat) (s : State) : Host.Outcome State Fault Refusal :=
  eventOf "STREAM_CLEAR" (if (s.call? call).any fun c => c.fld 8 1 != 2 then none else s.streamRow call fun c =>
    if 16 ≤ c.fld 9 1 || c.fld 10 54 != 0 then s.unitErr c 4
    else if !s.drained c.slice c.clu (c.fld 9 1) then s.unitErr c 18
    else
      let st := s.streams.get c.opKey
      match (if st.bound then s.cpages { c with asid := st.asid, priv := st.priv } needRW st.state (4 * st.tiles) else none) with
      | some e => s.unitFault c e
      | none =>
        let s := s.clearChain c st
        ({ s with streams := s.streams.set c.opKey { st with chain := [] } } : State).unitErr c 0)

/-! ## Samples of a bound surface (R344) -/

/-- A sample of the region that a coverage map selects, within the surface: its pixel in the region, its number, its position. -/
structure Samp where
  x : Nat
  y : Nat
  s : Nat
  px : Int
  py : Int
  ox : Int
  oy : Int
deriving DecidableEq, Repr

def selected (s : State) (c : Call) (st : Stream) (map : Nat) (rx ry : Int) : List Samp :=
  let pat := (samplePattern st.samples).getD []
  regionPixels.flatMap fun p =>
    let px := rx + p.1
    let py := ry + p.2
    if 0 ≤ px ∧ px < st.width ∧ 0 ≤ py ∧ py < st.height then
      let m := s.ctread c (map + 32 * p.2 + p.1) 1
      (pat.zipIdx.filter fun q => m.testBit q.2).map fun q =>
        { x := p.1, y := p.2, s := q.2, px, py, ox := 256 * px + q.1.1, oy := 256 * py + q.1.2 }
    else []
def Stream.index (st : Stream) (q : Samp) : Nat := numSamples st.samples * q.px.toNat + q.s
/-- Depth or colour, and stencil. -/
def Stream.addr4 (st : Stream) (q : Samp) : Nat := st.base + q.py.toNat * st.pitch + 4 * st.index q
def Stream.addr1 (st : Stream) (q : Samp) : Nat := st.sbase + q.py.toNat * st.spitch + st.index q
/-- The binding's address space, for a call on it. -/
def Stream.call (st : Stream) (c : Call) : Call := { c with asid := st.asid, priv := st.priv }

/-- Every target byte can be accessed, and none that is read is poisoned (R318) (DEDUCED, log 34). -/
def State.targets (s : State) (c : Call) (need : BitVec 4) (as : List (Nat × Nat)) : Except (Nat × XErr) Unit :=
  as.forM fun a => (List.range a.2).forM fun k => match s.cxlat c need (a.1 + k) with
    | .error e => .error e
    | .ok pa => if s.poisoned pa then .error (a.1 + k, { cls := .memPoison, stage := 0, level := 0 }) else .ok ()

/-! ## Depth and stencil (R345-R347) -/

/-- Cmp(f, a, b), from a comparison; an unordered one fails all but always. -/
def cmpFn (f : Nat) (u : Bool) (o : Ordering) : Bool :=
  match f with
  | 0 => false
  | 1 => !u && o == .lt
  | 2 => !u && o == .eq
  | 3 => !u && o != .gt
  | 4 => !u && o == .gt
  | 5 => !u && o != .eq
  | 6 => !u && o != .lt
  | _ => true
/-- Op(op, sv). -/
def stencilOp (op sref sv : Nat) : Nat :=
  match op with
  | 0 => sv
  | 1 => 0
  | 2 => sref
  | 3 => min (sv + 1) 255
  | 4 => sv - 1
  | 5 => 255 - sv
  | 6 => (sv + 1) % 256
  | _ => (sv + 255) % 256
/-- The depth of a sample, clamped to 0 to 1. -/
def sampleDepth (c : Call) (q : Samp) : Nat :=
  let u := f32Of8 (q.ox - c.i32 28)
  let v := f32Of8 (q.oy - c.i32 32)
  let z := f32Fma (c.fld 24 4) v (f32Fma (c.fld 20 4) u (c.fld 16 4))
  (f32.sat01 { v := z }).v
def depthOk (s : State) (c : Call) (st : Stream) : Bool :=
  s.teamArea c (c.fld 40 4) 16 1024 && s.teamArea c (c.fld 44 4) 16 1024 && decide (c.fld 48 1 < 32) && !((c.fld 48 1).testBit 4 && st.fmt != 1)
  && decide (c.fld 52 1 < 8) && decide (c.fld 53 1 < 64) && decide (c.fld 54 1 < 8) && c.fld 55 9 == 0 && recFld c.rcd 12 4 / 32 == 0
/-- One sample: the memory after it, and whether it passes. -/
def depthSample (s : State) (c : Call) (st : Stream) (q : Samp) : State × Bool :=
  let k := st.call c
  let rd := fun (s : State) (a n : Nat) => match s.cread k a n with | .ok v => v | .error _ => 0
  let ctl := c.fld 48 1
  let sten := ctl.testBit 4
  let sv := if sten then rd s (st.addr1 q) 1 else 0
  let sref := c.fld 49 1
  let rmask := c.fld 50 1
  let wmask := c.fld 51 1
  let z := sampleDepth c q
  let zs := rd s (st.addr4 q) 4
  let sOk := !sten || cmpFn (c.fld 52 1) false (compare (sref &&& rmask) (sv &&& rmask))
  let zOk := cmpFn (ctl % 8) ((f32.read z).isNaN || (f32.read zs).isNaN) (fCmp (f32.read z) (f32.read zs))
  let op := if !sOk then c.fld 53 1 % 8 else if !zOk then c.fld 53 1 / 8 else c.fld 54 1
  let pass := sOk && zOk
  let s := if pass && ctl.testBit 3 then s.cwrite k (st.addr4 q) z 4 else s
  let s := if sten then s.cwrite k (st.addr1 q) ((sv &&& (255 - wmask)) ||| (stencilOp op sref sv &&& wmask)) 1 else s
  (s, pass)
/-- A depth-stencil record at its commit (R345, R346) (DEDUCED, log 34). -/
def depthWork : UnitWork := fun s c =>
  let st := c.stream s
  if !depthOk s c st then .ok (s, 4, 0)
  else do
    let qs := selected s c st (c.fld 40 4) (c.i16 36) (c.i16 38)
    let ctl := c.fld 48 1
    s.targets (st.call c) (if ctl.testBit 3 then needRW else needR) (qs.map fun q => (st.addr4 q, 4))
    if ctl.testBit 4 then s.targets (st.call c) needRW (qs.map fun q => (st.addr1 q, 1))
    let (s, map) := qs.foldl (fun (r : State × SMap Nat) q =>
      let (s, pass) := depthSample r.1 c st q
      (s, if pass then r.2.set (32 * q.y + q.x) (r.2.get (32 * q.y + q.x) + 2 ^ q.s) else r.2)) (s, [])
    let bytes := (List.range 1024).map fun n => BitVec.ofNat 8 (map.get n)
    pure (s.updTeam c.team fun x => Team.settleBars { x with tmem := x.tmem.setRun (c.fld 44 4) bytes }, 0, 0)
/-- DEPTH_STENCIL_COMMIT (R314, R315, R346). -/
def execDepthStencilCommit (call : Nat) (s : State) : Host.Outcome State Fault Refusal :=
  eventOf "DEPTH_STENCIL_COMMIT" (s.orderedRow 3 call depthWork)

/-! ## Blending (R348-R350) -/

/-- The factor of a channel: own source and destination, their alphas, the constant, and whether the channel is alpha (R349). -/
def blendFactor (code s d sa da k : Nat) (alpha : Bool) : Nat :=
  match code with
  | 0 => 0
  | 1 => 255
  | 2 => s
  | 3 => 255 - s
  | 4 => sa
  | 5 => 255 - sa
  | 6 => d
  | 7 => 255 - d
  | 8 => da
  | 9 => 255 - da
  | 10 => k
  | 11 => 255 - k
  | _ => if alpha then 255 else min sa (255 - da)
def mul255 (a b : Nat) : Nat := let t := a * b + 128; (t + t / 256) / 256
def blendOp (op s d fs fd : Nat) : Nat :=
  match op with
  | 0 => min 255 (mul255 s fs + mul255 d fd)
  | 1 => mul255 s fs - mul255 d fd
  | 2 => mul255 d fd - mul255 s fs
  | 3 => min s d
  | _ => max s d
def blendOk (s : State) (c : Call) : Bool :=
  s.ctRange c (c.fld 16 4) 4096 && s.teamArea c (c.fld 20 4) 16 1024
  && decide (c.fld 28 1 % 16 ≤ 12) && decide (c.fld 28 1 / 16 ≤ 12) && decide (c.fld 29 1 % 16 ≤ 12) && decide (c.fld 29 1 / 16 ≤ 12)
  && decide (c.fld 30 1 % 8 ≤ 4) && decide (c.fld 30 1 / 8 ≤ 4) && decide (c.fld 31 1 < 16) && decide (c.fld 32 1 ≤ 1) && c.fld 33 31 == 0
  && recFld c.rcd 12 4 / 32 == 0
/-- Byte j of a value. -/
def byteN (v j : Nat) : Nat := v / 2 ^ (8 * j) % 256
/-- The new four bytes of a sample: R, G, B, A, from source, stored value and constant in that order. -/
def blendPixel (c : Call) (src dst k : Nat) : Nat :=
  (List.range 4).foldl (fun v j =>
    let s := byteN src j
    let d := byteN dst j
    let al := j == 3
    let f := c.fld (if al then 29 else 28) 1
    let op := if al then c.fld 30 1 / 8 else c.fld 30 1 % 8
    let fac := fun code => blendFactor code s d (byteN src 3) (byteN dst 3) (byteN k j) al
    let r := if c.fld 32 1 = 0 then s else blendOp op s d (fac (f % 16)) (fac (f / 16))
    v + (if (c.fld 31 1).testBit j then r else d) * 2 ^ (8 * j)) 0
/-- The bytes of a colour in RGBA order, from the surface's order. -/
def swapBR (fmt v : Nat) : Nat := if fmt = 1 then byteN v 2 + 2 ^ 8 * byteN v 1 + 2 ^ 16 * byteN v 0 + 2 ^ 24 * byteN v 3 else v
/-- A blender record at its commit (DEDUCED, log 34). -/
def blendWork : UnitWork := fun s c =>
  let st := c.stream s
  if !blendOk s c then .ok (s, 4, 0)
  else do
    let qs := selected s c st (c.fld 20 4) (c.i16 24) (c.i16 26)
    s.targets (st.call c) needRW (qs.map fun q => (st.addr4 q, 4))
    let s := qs.foldl (fun s q =>
      let src := s.ctread c (c.fld 16 4 + 4 * (32 * q.y + q.x)) 4
      let dst := match s.cread (st.call c) (st.addr4 q) 4 with | .ok v => swapBR st.fmt v | .error _ => 0
      s.cwrite1 (st.call c) (st.addr4 q) (swapBR st.fmt (blendPixel c src dst st.const)) 4) s
    pure (s, 0, 0)
/-- BLEND_COMMIT (R314, R315, R350). -/
def execBlendCommit (call : Nat) (s : State) : Host.Outcome State Fault Refusal :=
  eventOf "BLEND_COMMIT" (s.orderedRow 4 call blendWork)

end Sys2Proof.Machine
end

