-- ==== Sys2Proof/Machine/Texture.lean ====
section
/-!
DEFINITION. The texture filter (spec/13 R358-R365). Coordinates, weights and sums are exact.
-/
namespace Sys2Proof.Machine

/-! ## Descriptors and formats (R359, R360) -/

/-- Block width, block height, block bytes, and whether the channels are floats. -/
structure TexFmt where
  bw : Nat
  bh : Nat
  bb : Nat
  float : Bool
deriving DecidableEq, Repr

def texFmt (f : Nat) : Option TexFmt :=
  match f with
  | 0 => some ⟨1, 1, 4, false⟩
  | 1 => some ⟨1, 1, 1, false⟩
  | 2 => some ⟨1, 1, 2, false⟩
  | 3 => some ⟨1, 1, 8, true⟩
  | 4 | 7 => some ⟨4, 4, 8, false⟩
  | 5 | 6 | 8 | 11 => some ⟨4, 4, 16, false⟩
  | 9 | 10 => some ⟨4, 4, 16, true⟩
  | n =>
    let foot := [(4, 4), (5, 4), (5, 5), (6, 5), (6, 6), (8, 5), (8, 6), (8, 8), (10, 5), (10, 6), (10, 8), (10, 10), (12, 10), (12, 12)]
    match foot[n - 12]? with
    | some p => if 12 ≤ n then some ⟨p.1, p.2, 16, false⟩ else none
    | none => none

structure TexDesc where
  base : Nat
  w : Nat
  h : Nat
  code : Nat
  fmt : TexFmt
  levels : Nat
  umode : Nat
  vmode : Nat
  border : Nat
  linear : Bool
  mip : Nat
  maxAniso : Nat
  bias : Int
deriving DecidableEq, Repr

/-- A descriptor within its limits. -/
def texDesc (d : Nat) : Option TexDesc :=
  let w := recFld d 8 2 + 1
  let h := recFld d 10 2 + 1
  let lv := recFld d 13 1
  let ad := recFld d 14 1
  let fi := recFld d 15 1
  match texFmt (recFld d 12 1) with
  | none => none
  | some fmt =>
    if recFld d 0 8 % 256 == 0 && decide (1 ≤ lv) && decide (lv ≤ 1 + Nat.log2 (max w h)) && ad / 16 != 3 && decide (ad < 64) && fi / 2 % 4 != 3
        && decide (fi / 8 ≤ 4) && recFld d 18 14 == 0 then
      some { base := recFld d 0 8, w, h, code := recFld d 12 1, fmt, levels := lv, umode := ad % 4, vmode := ad / 4 % 4, border := ad / 16, linear := fi % 2 == 1,
             mip := fi / 2 % 4, maxAniso := 2 ^ (fi / 8), bias := signedN 16 (recFld d 16 2) }
    else none

def TexDesc.lw (d : TexDesc) (l : Nat) : Nat := max 1 (d.w / 2 ^ l)
def TexDesc.lh (d : TexDesc) (l : Nat) : Nat := max 1 (d.h / 2 ^ l)
def ceilDiv (a b : Nat) : Nat := (a + b - 1) / b
/-- The address of a level. -/
def TexDesc.level (d : TexDesc) : Nat → Nat
  | 0 => d.base
  | l + 1 =>
    let e := d.level l + ceilDiv (d.lw l) d.fmt.bw * ceilDiv (d.lh l) d.fmt.bh * d.fmt.bb
    (e + 255) / 256 * 256

/-! ## Decoding (R360, R361): four channels -/

def bits (v lo n : Nat) : Nat := v / 2 ^ lo % 2 ^ n
/-- Bit replication of an endpoint of n bits. -/
def expand8 (e n : Nat) : Nat := e * 2 ^ (8 - n) + e / 2 ^ (2 * n - 8)
def rgb565 (c : Nat) : List Nat := [expand8 (bits c 11 5) 5, expand8 (bits c 5 6) 6, expand8 (bits c 0 5) 5]
/-- The colours of BC1 (8 bytes), or with `four` those of BC2 and BC3: R, G, B, A (PRESUMED, log 26). -/
def bc1Texel (four : Bool) (b x y : Nat) : List Nat :=
  let c0 := bits b 0 16
  let c1 := bits b 16 16
  let mix := fun (f : Nat → Nat → Nat) => (List.zipWith f (rgb565 c0) (rgb565 c1)) ++ [255]
  match bits b (32 + 2 * (4 * y + x)) 2 with
  | 0 => rgb565 c0 ++ [255]
  | 1 => rgb565 c1 ++ [255]
  | 2 => if four || decide (c1 < c0) then mix fun p q => (2 * p + q + 1) / 3 else mix fun p q => (p + q + 1) / 2
  | _ => if four || decide (c1 < c0) then mix fun p q => (p + 2 * q + 1) / 3 else [0, 0, 0, 0]
/-- A BC4 value (8 bytes) (PRESUMED, log 26). -/
def bc4Texel (b x y : Nat) : Nat :=
  let e0 := bits b 0 8
  let e1 := bits b 8 8
  match bits b (16 + 3 * (4 * y + x)) 3 with
  | 0 => e0
  | 1 => e1
  | i => if e1 < e0 then ((8 - i) * e0 + (i - 1) * e1 + 3) / 7 else if i ≤ 5 then ((6 - i) * e0 + (i - 1) * e1 + 2) / 5 else if i = 6 then 0 else 255

/-- An ASTC texel (R361): a void-extent block is one colour; HDR content and illegal blocks give (M, 0, M, M) (PRESUMED, log 26). -/
def astcTexel (code b x y : Nat) : List Nat :=
  if bits b 0 9 = 0x1FC then
    if bits b 9 1 = 1 || Config.astcError code b then [255, 0, 255, 255] else [bits b 72 8, bits b 88 8, bits b 104 8, bits b 120 8]
  else if Config.astcError code b then [255, 0, 255, 255]
  else let v := Config.blockTexel code b x y; [bits v 0 8, bits v 16 8, bits v 32 8, bits v 48 8]

/-- The channels of a texel of a block: integers to 255, or binary16 codes (PRESUMED, log 26). -/
def texel (code b x y : Nat) : List Nat :=
  let alpha := fun (l : List Nat) (a : Nat) => l.take 3 ++ [a]
  match code with
  | 0 => [bits b 0 8, bits b 8 8, bits b 16 8, bits b 24 8]
  | 1 => [bits b 0 8, 0, 0, 255]
  | 2 => [bits b 0 8, bits b 8 8, 0, 255]
  | 3 => [bits b 0 16, bits b 16 16, bits b 32 16, bits b 48 16]
  | 4 => bc1Texel false b x y
  | 5 => alpha (bc1Texel true (b / 2 ^ 64) x y) (17 * bits b (4 * (4 * y + x)) 4)
  | 6 => alpha (bc1Texel true (b / 2 ^ 64) x y) (bc4Texel b x y)
  | 7 => [bc4Texel b x y, 0, 0, 255]
  | 8 => [bc4Texel b x y, bc4Texel (b / 2 ^ 64) x y, 0, 255]
  | 9 | 10 => let v := Config.blockTexel code b x y; [bits v 0 16, bits v 16 16, bits v 32 16, 0x3C00]
  | 11 => let v := Config.blockTexel code b x y; [bits v 0 8, bits v 16 8, bits v 32 8, bits v 48 8]
  | _ => astcTexel code b x y

/-! ## Level of detail and probes (R362): reals as integers over 2^149 -/

def unit149 : Nat := 2 ^ 149
def sc149 (f : Nat) : Int := scaled (-149) (f32.read f)
def finite32 (f : Nat) : Bool := match f32.read f with | .num .. => true | _ => false

structure Lod where
  /-- 1/256 levels, before the clamp; none: the least value of the clamp -/
  lq : Option Int
  n : Nat
  /-- the axis, over 2^149 -/
  du : Int
  dv : Int
deriving DecidableEq, Repr

/-- The greatest k with 2^k ≤ (q / (n^2 * 2^298))^128. -/
def lodLevel (q n : Nat) : Int :=
  let a := q ^ 128
  let b := n ^ 256
  let t : Int := (Nat.log2 a : Int) - Nat.log2 b
  let le := if 0 ≤ t then decide (b * 2 ^ t.toNat ≤ a) else decide (b ≤ a * 2 ^ (-t).toNat)
  (if le then t else t - 1) - 298 * 128

def explicitLod (d : TexDesc) (f : Nat) : Lod :=
  let k : Int := match f32.read f with
    | .nan .. => 0
    | .inf n => if n then -2 ^ 40 else 2 ^ 40
    | .num .. => (256 * sc149 f) / (unit149 : Int)
  { lq := some (k + d.bias), n := 1, du := 0, dv := 0 }
/-- From dudx, dvdx, dudy, dvdy. -/
def gradLod (d : TexDesc) (dudx dvdx dudy dvdy : Nat) : Lod :=
  if !([dudx, dvdx, dudy, dvdy].all finite32) then { lq := some d.bias, n := 1, du := 0, dv := 0 }
  else
    let sq := fun (a b : Nat) => ((sc149 a * d.w) ^ 2 + (sc149 b * d.h) ^ 2).toNat
    let qx := sq dudx dvdx
    let qy := sq dudy dvdy
    let qmax := max qx qy
    let qmin := min qx qy
    let n := if qmax = 0 then 1 else if qmin = 0 then d.maxAniso
      else ((List.range d.maxAniso).map (· + 1)).find? (fun n => decide (qmax ≤ n * n * qmin)) |>.getD d.maxAniso
    { lq := if qmax = 0 then none else some (lodLevel qmax n + d.bias), n,
      du := sc149 (if qy ≤ qx then dudx else dudy), dv := sc149 (if qy ≤ qx then dvdx else dvdy) }

/-- The levels sampled, with their weights. -/
def TexDesc.mips (d : TexDesc) (l : Lod) : List (Nat × Nat) :=
  let top : Int := 256 * (d.levels - 1 : Nat)
  let lq := (match l.lq with | none => 0 | some k => max 0 (min k top)).toNat
  match d.mip with
  | 0 => [(0, 256)]
  | 1 => [((lq + 128) / 256, 256)]
  | _ =>
    let f := if lq / 256 = d.levels - 1 then 0 else lq % 256
    [(lq / 256, 256 - f), (lq / 256 + 1, f)]

/-! ## Texels of a probe (R363) -/

/-- RoundNE of a quotient. -/
def divNE (a : Int) (b : Nat) : Int :=
  let q := a / (b : Int)
  let r := a % (b : Int)
  if (b : Int) < 2 * r ∨ (2 * r = b ∧ q % 2 = 1) then q + 1 else q
/-- The integer coordinate U of probe i. -/
def probeCoord (f : Nat) (d : Int) (n i size : Nat) : Int :=
  match f32.read f with
  | .nan .. => 0
  | .inf neg => if neg then -2 ^ 40 else 2 ^ 40
  | .num .. =>
    let k := (sc149 f * (2 * n) + d * (2 * i + 1 - n)) * size * 256
    max (-2 ^ 40) (min (2 ^ 40) (divNE k (2 * n * unit149)))
/-- Texel indices with their weights, before the address mode. -/
def texIndices (linear : Bool) (u : Int) : List (Int × Nat) :=
  if linear then
    let x := u - 128
    let a := (x % 256).toNat
    [(x / 256, 256 - a), (x / 256 + 1, a)]
  else [(u / 256, 256)]
/-- The mapped index; none for the border. -/
def mapIndex (mode : Nat) (i : Int) (size : Nat) : Option Nat :=
  match mode with
  | 0 => some (i % (size : Int)).toNat
  | 1 => let m := (i % (2 * size : Nat)).toNat; some (if m < size then m else 2 * size - 1 - m)
  | 2 => some (max 0 (min i (size - 1 : Nat))).toNat
  | _ => if 0 ≤ i ∧ i < size then some i.toNat else none

/-- A weighted texel: its weight, and its level and place, or none for the border colour. -/
structure Tap where
  weight : Nat
  at? : Option (Nat × Nat × Nat)
deriving DecidableEq, Repr

/-- Every texel of nonzero weight, in the order of R365. -/
def TexDesc.taps (d : TexDesc) (l : Lod) (u v : Nat) : List Tap :=
  (d.mips l).flatMap fun m => (List.range l.n).flatMap fun i =>
    let w := d.lw m.1
    let h := d.lh m.1
    (texIndices d.linear (probeCoord v l.dv l.n i h)).flatMap fun r => (texIndices d.linear (probeCoord u l.du l.n i w)).filterMap fun t =>
      let wt := t.2 * r.2 * m.2
      if wt = 0 then none
      else some { weight := wt, at? := match mapIndex d.umode t.1 w, mapIndex d.vmode r.1 h with
        | some x, some y => some (m.1, x, y)
        | _, _ => none }

/-! ## Sums (R364) -/

/-- RoundNE to f32 of a quotient of naturals with a sign. -/
def f32Ratio (neg : Bool) (a b : Nat) : Nat :=
  if a = 0 then 0 else
    let k := 64 + Nat.log2 b
    f32Code { v := .num neg (a * 2 ^ k / b) (-(k : Int)) (a * 2 ^ k % b != 0) }
def f16 : Fmt := fmtT .f16
/-- One channel from weights and texel values. -/
def texChannel (float : Bool) (n : Nat) (ts : List (Nat × Nat)) : Nat :=
  let den := 2 ^ 24 * n
  if float then
    let vs := ts.map fun p => (p.1, f16.read p.2)
    let dn := 0x7FC00000
    let pos := vs.any fun p => p.2 == .inf false
    let ng := vs.any fun p => p.2 == .inf true
    if (vs.any fun p => p.2.isNaN) || (pos && ng) then dn
    else if pos then 0x7F800000
    else if ng then 0xFF800000
    else
      let k := vs.foldl (fun (t : Int) p => t + p.1 * scaled (-24) p.2) 0
      f32Ratio (decide (k < 0)) k.natAbs (den * 2 ^ 24)
  else f32Ratio false (ts.foldl (fun t p => t + p.1 * p.2) 0) (den * 255)

/-- The channels of a tap. Its address does not wrap at 2^64: beyond 2^58 it has no translation (DESIGN CHOICE, log 62). -/
def State.tapValue (s : State) (c : Call) (d : TexDesc) (t : Tap) : Except (Nat × XErr) (List Nat) :=
  match t.at? with
  | none =>
    let one := if d.fmt.float then 0x3C00 else 255
    .ok (match d.border with | 0 => [0, 0, 0, 0] | 1 => [0, 0, 0, one] | _ => [one, one, one, one])
  | some (l, x, y) =>
    let a := d.level l + (y / d.fmt.bh * ceilDiv (d.lw l) d.fmt.bw + x / d.fmt.bw) * d.fmt.bb
    (s.cread c a d.fmt.bb).map fun b => texel d.code b (x % d.fmt.bw) (y % d.fmt.bh)

/-- One lane's four results. -/
def State.texLane (s : State) (c : Call) (d : TexDesc) (l : Nat) : Except (Nat × XErr) (List Nat) := do
  let a := c.fld 16 4 + 32 * l
  let f := fun k => s.ctread c (a + 4 * k) 4
  let lod := if (c.fld 24 1).testBit 0 then gradLod d (f 2) (f 3) (f 4) (f 5) else explicitLod d (f 2)
  let vs ← (d.taps lod (f 0) (f 1)).mapM fun t => (s.tapValue c d t).map fun v => (t.weight, v)
  pure ((List.range 4).map fun ch => texChannel d.fmt.float lod.n (vs.map fun p => (p.1, p.2.getD ch 0)))

/-- The payload's limits (R358): the whole entries of the lanes in LANES. -/
def textureOk (s : State) (c : Call) : Bool :=
  c.fld 8 8 % 32 == 0 && c.fld 16 4 % 16 == 0 && c.fld 20 4 % 16 == 0 && decide (c.fld 16 4 < 2 ^ 18) && decide (c.fld 20 4 < 2 ^ 18)
  && decide (c.fld 24 1 < 2) && c.fld 25 39 == 0
  && (laneList c.lanes).all fun l => match s.team? c.team with
    | some x => decide (c.fld 16 4 + 32 * l + 32 ≤ x.tmemSize) && decide (c.fld 20 4 + 16 * l + 16 ≤ x.tmemSize)
    | none => false

/-- What a lane-by-lane unit answers: the results of lanes without a fault are written by `put`, the first failing lane gives STATUS. -/
def State.laneReturn (s : State) (c : Call) (rs : List (Nat × Except (Nat × XErr) (List Nat))) (put : State → Nat → List Nat → State) : State :=
  let s0 := s
  let s := rs.foldl (fun s r => match r.2 with | .ok v => put s r.1 v | .error _ => s) s
  let bad := rs.filterMap fun r => match r.2 with | .error e => some (r.1, e) | .ok _ => none
  match bad with
  | [] => s.unitReturn c 0 0 0 0
  | (_, e) :: _ => if bad.any fun p => p.2.2 = stillOut then s0 else s.unitReturn c (statusOf e.2) (bad.foldl (fun m p => m + 2 ^ p.1) 0) e.1 0

/-- TEXTURE_CALL (R358-R365). -/
def execTextureCall (call : Nat) (s : State) : Host.Outcome State Fault Refusal :=
  eventOf "TEXTURE_CALL" (s.plainRow 6 call fun c =>
    if !textureOk s c then s.unitErr c 4
    else match s.cread c (c.fld 8 8) 32 with
      | .error e => s.unitFault c e
      | .ok b =>
        match texDesc b with
        | none => s.unitErr c 4
        | some d =>
          s.laneReturn c ((laneList c.lanes).map fun l => (l, s.texLane c d l)) fun s l v =>
            v.zipIdx.foldl (fun s p => s.ctwrite c (c.fld 20 4 + 16 * l + 4 * p.2) 4 p.1) s)

end Sys2Proof.Machine
end

