-- ==== Sys2Proof/Machine/Ray.lean ====
section
/-!
DEFINITION. The ray traversal unit (spec/14 R366-R382).
-/
namespace Sys2Proof.Machine

/-! ## Records (R366, R367) -/

structure Ray where
  org : List Nat
  dir : List Nat
  tmin : Nat
  tmax : Nat
  node : Nat
  trail : Nat
  /-- CTL 31:28 -/
  rsv : Nat
  opq : Bool
  cullBack : Bool
  firstHit : Bool
  hasHit : Bool
  cinst : Nat
  state : Nat
  inst : Bool
  scnt : Nat
  ilev : Nat
  level : Nat
  stack : List Nat
  hit : Nat
deriving DecidableEq, Repr

def words (v off n : Nat) : List Nat := (List.range n).map fun k => recFld v (off + 4 * k) 4
def unwords (ws : List Nat) : Nat := ws.zipIdx.foldl (fun v p => v + p.1 % 2 ^ 32 * 2 ^ (32 * p.2)) 0
def rayOf (v : Nat) : Ray :=
  let c := recFld v 40 4
  { org := words v 0 3, dir := words v 12 3, tmin := recFld v 24 4, tmax := recFld v 28 4, node := recFld v 32 4, trail := recFld v 36 4,
    rsv := c / 2 ^ 28, opq := c.testBit 27, cullBack := c.testBit 26, firstHit := c.testBit 25, hasHit := c.testBit 24, cinst := bits c 17 7,
    state := bits c 14 3, inst := c.testBit 13, scnt := bits c 10 3, ilev := bits c 5 5, level := bits c 0 5, stack := words v 44 4, hit := recFld v 60 4 }
def b2n (b : Bool) : Nat := if b then 1 else 0
def Ray.word (r : Ray) : Nat :=
  let c := r.rsv * 2 ^ 28 + b2n r.opq * 2 ^ 27 + b2n r.cullBack * 2 ^ 26 + b2n r.firstHit * 2 ^ 25 + b2n r.hasHit * 2 ^ 24 + r.cinst * 2 ^ 17
    + r.state * 2 ^ 14 + b2n r.inst * 2 ^ 13 + r.scnt * 2 ^ 10 + r.ilev * 2 ^ 5 + r.level
  unwords (r.org ++ r.dir ++ [r.tmin, r.tmax, r.node, r.trail, c] ++ r.stack ++ [r.hit])

def isNaN32 (c : Nat) : Bool := (f32.read c).isNaN
def le32 (a b : Nat) : Bool := fCmp (f32.read a) (f32.read b) != .gt
def lt32 (a b : Nat) : Bool := fCmp (f32.read a) (f32.read b) == .lt

/-- Taking up a READY record (R368). -/
def Ray.start (r : Ray) : Ray :=
  let bad := (r.org ++ r.dir ++ [r.tmin, r.tmax]).any isNaN32 || lt32 r.tmax r.tmin || r.tmin == 0x7F800000
  { r with node := 0, trail := 0, stack := [0, 0, 0, 0], hit := 0, rsv := 0, hasHit := false, cinst := 0, inst := false, scnt := 0, ilev := 0, level := 0,
           state := if bad then 4 else 1 }

/-! ## References (R370) -/

def refKind (r : Nat) : Nat := r / 2 ^ 30
def leafFirst (r : Nat) : Nat := r % 2 ^ 25
def leafCount (r : Nat) : Nat := bits r 27 3 + 1
def leafRef (first count : Nat) : Nat := 2 ^ 30 + (count - 1) * 2 ^ 27 + first
/-- A malformed reference in NODE, in the top tree or a bottom tree. -/
def badRef (r : Nat) (inst : Bool) (ninst : Nat) : Bool :=
  match refKind r with
  | 0 => bits r 28 2 != 0
  | 1 => bits r 25 2 != 0 || decide (2 ^ 25 ≤ leafFirst r + leafCount r - 1) || !inst
  | 2 => bits r 7 23 != 0 || decide (ninst ≤ r % 128) || inst
  | _ => true

/-! ## Exact reals with signed zeros (R374): multiples of a fixed power of two -/

structure XR where
  n : Int
  neg : Bool
deriving DecidableEq, Repr
def xrOf (c : Nat) : XR := { n := sc149 c, neg := (f32.read c).neg }
def XR.mul (a b : XR) : XR := { n := a.n * b.n, neg := a.neg != b.neg }
def XR.opp (a : XR) : XR := { n := -a.n, neg := !a.neg }
def xrSum (l : List XR) : XR :=
  let n := (l.map (·.n)).foldl (· + ·) 0
  { n, neg := if n = 0 then l.all fun x => x.n == 0 && x.neg else decide (n < 0) }
def XR.sub (a b : XR) : XR := xrSum [a, b.opp]
abbrev Vec3 := List XR
def Vec3.at (v : Vec3) (k : Nat) : XR := List.getD v k { n := 0, neg := false }
def vsub (a b : Vec3) : Vec3 := List.zipWith XR.sub a b
def vdot (a b : Vec3) : XR := xrSum (List.zipWith XR.mul a b)
def vcross (a b : Vec3) : Vec3 :=
  [(1, 2), (2, 0), (0, 1)].map fun p => ((Vec3.at a p.1).mul (Vec3.at b p.2)).sub ((Vec3.at a p.2).mul (Vec3.at b p.1))
/-- RoundNE to f32 of a quotient of two such reals. -/
def xrRatio (a d : XR) : Nat :=
  let neg := a.neg != d.neg
  if a.n = 0 then (if neg then 2 ^ 31 else 0) else f32Ratio neg a.n.natAbs d.n.natAbs

/-! ## Tests (R374) -/

/-- A ray in the space of a tree. -/
structure Line where
  o : List Nat
  d : List Nat
deriving DecidableEq, Repr

/-- The object-space ray of an instance record. -/
def objectLine (rec : Nat) (r : Ray) : Line :=
  let m := fun i j => f32.read (recFld rec (16 * i + 4 * j) 4)
  let row := fun (v : List Nat) (i : Nat) (c : FVal) =>
    let xs := v.map f32.read
    let ms := (List.range 3).map fun j => m i j
    f32Code (fDot .rne (ms ++ xs ++ [c]) (ms.zip xs) c)
  { o := (List.range 3).map fun i => row r.org i (m i 3), d := (List.range 3).map fun i => row r.dir i (.num true 0 0 false) }

/-- The larger and the smaller of two codes that are no NaN, -0 below +0. -/
def max32 (a b : Nat) : Nat := if fLe (f32.read a) (f32.read b) then b else a
def min32 (a b : Nat) : Nat := if fLe (f32.read a) (f32.read b) then a else b
/-- tnear and tfar of a box of six codes. -/
def boxSpan (l : Line) (tmin tmax : Nat) (box : List Nat) : Nat × Nat :=
  let slab := fun (b o d inf : Nat) =>
    let invc := f32.read (f32Code (fRcp (f32.read d)))
    let diff := (fSub .rne (f32.read b) (f32.read o)).v
    let v := f32Code (fMul diff invc)
    if isNaN32 v then inf else v
  let axes := (List.range 3).map fun k =>
    let o := l.o.getD k 0
    let d := l.d.getD k 0
    let a := slab (box.getD k 0) o d 0xFF800000
    let b := slab (box.getD (3 + k) 0) o d 0x7F800000
    (min32 a b, max32 a b)
  (axes.foldl (fun t p => max32 t p.1) tmin, axes.foldl (fun t p => min32 t p.2) tmax)
/-- tnear of a box of six codes that is hit. -/
def boxTest (l : Line) (tmin tmax : Nat) (box : List Nat) : Option Nat :=
  let t := boxSpan l tmin tmax box
  if box.any isNaN32 || (((box.take 3).zip (box.drop 3)).any fun p => lt32 p.2 p.1) || !le32 t.1 t.2 then none else some t.1

/-- det, and u, v, t of a triangle of nine codes; none where it has none. -/
def triValues (l : Line) (vs : List Nat) : Option (XR × XR × XR × XR) :=
  if !((vs ++ l.o ++ l.d).all finite32) then none
  else
    let p := fun k => (vs.drop (3 * k)).take 3 |>.map xrOf
    let o := l.o.map xrOf
    let d := l.d.map xrOf
    let e1 := vsub (p 1) (p 0)
    let e2 := vsub (p 2) (p 0)
    let s := vsub o (p 0)
    let q := vcross s e1
    let w := vcross d e2
    let det := vdot e1 w
    if det.n = 0 then none else some (det, vdot s w, vdot d q, vdot e2 q)
/-- T, U and V as reported. -/
def triReport (l : Line) (vs : List Nat) : Option (Nat × Nat × Nat) :=
  (triValues l vs).map fun p => (xrRatio p.2.2.2 p.1, xrRatio p.2.1 p.1, xrRatio p.2.2.1 p.1)
/-- T of a triangle that is hit. -/
def triTest (r : Ray) (l : Line) (vs : List Nat) : Option Nat :=
  match triValues l vs with
  | none => none
  | some (det, u, v, t) =>
    let sg : Int := if det.n < 0 then -1 else 1
    let T := xrRatio t det
    if 0 ≤ sg * u.n ∧ 0 ≤ sg * v.n ∧ sg * (u.n + v.n) ≤ sg * det.n ∧ le32 r.tmin T = true ∧ lt32 T r.tmax = true ∧ !(r.cullBack && decide (det.n < 0)) = true
    then some T else none

/-! ## Memory (R369, R371) -/

/-- What a call names. -/
structure Scene where
  s : State
  c : Call
  ninst : Nat

def Scene.rd (k : Scene) (a n : Nat) : Except (Nat × XErr) Nat := k.s.cread k.c a n
/-- An instance record: malformed where NODES or PRIMS is misaligned. -/
def Scene.instance? (k : Scene) (n : Nat) : Except (Nat × XErr) Nat := k.rd (k.c.fld 40 8 + 64 * n) 64
def instBad (rec : Nat) : Bool := recFld rec 48 8 % 64 != 0 || recFld rec 56 8 % 16 != 0
def worldLine (r : Ray) : Line := { o := r.org, d := r.dir }
/-- A primitive: its record, and whether it breaks a reserved field. -/
def primBad (p : Nat) : Bool :=
  recFld p 36 4 / 4 != 0 || recFld p 40 8 != 0 || ((recFld p 36 4).testBit 1 && recFld p 24 12 != 0)
def primProc (p : Nat) : Bool := (recFld p 36 4).testBit 1

/-! ## The step (R375) -/

/-- What a step leaves: the ray goes on or stops, or a read failed. -/
inductive Stepped where
  | go (r : Ray)
  | stop (r : Ray)
  | fail (e : Nat × XErr)

def Ray.descend (r : Ray) (c : Nat) : Stepped :=
  if r.level = 31 then .stop { r with state := 5 } else .go { r with level := r.level + 1, node := c }
def Ray.push (r : Ray) (c : Nat) : Ray :=
  if r.scnt = 4 then { r with stack := r.stack.drop 1 ++ [c] } else { r with stack := r.stack.set r.scnt c, scnt := r.scnt + 1 }
def Ray.pop (r : Ray) : Stepped :=
  match ((List.range r.level).filter fun k => !r.trail.testBit k).getLast? with
  | none => .stop { r with state := 4 }
  | some k =>
    let r := { r with trail := r.trail % 2 ^ k + 2 ^ k, level := k + 1, inst := r.inst && !decide (k < r.ilev) }
    if 0 < r.scnt then .go { r with scnt := r.scnt - 1, node := r.stack.getD (r.scnt - 1) 0 }
    else .go { r with level := 0, inst := false, node := 0 }
def Ray.advance (r : Ray) : Stepped :=
  if leafCount r.node = 1 then r.pop else .go { r with node := leafRef (leafFirst r.node + 1) (leafCount r.node - 1) }
def Ray.accept (r : Ray) (p t : Nat) : Ray := { r with tmax := t, hit := p * 2 ^ 7 + r.cinst, hasHit := true }

/-- The step on an interior node. -/
def Ray.stepNode (r : Ray) (k : Scene) (l : Line) (base : Nat) : Stepped :=
  match k.rd (base + 64 * (r.node % 2 ^ 28)) 64 with
  | .error e => .fail e
  | .ok n =>
    if recFld n 56 8 != 0 then .stop { r with state := 5 }
    else
      let test := fun i => if refKind (recFld n (48 + 4 * i) 4) = 3 then none else boxTest l r.tmin r.tmax (words n (24 * i) 6)
      let c := fun i => recFld n (48 + 4 * i) 4
      match test 0, test 1 with
      | some a, some b =>
        let near := if lt32 b a then 1 else 0
        if r.trail.testBit r.level then r.descend (c (1 - near)) else (r.push (c (1 - near))).descend (c near)
      | some _, none => ({ r with trail := r.trail ||| 2 ^ r.level }).descend (c 0)
      | none, some _ => ({ r with trail := r.trail ||| 2 ^ r.level }).descend (c 1)
      | none, none => r.pop
/-- The step on a primitive leaf. -/
def Ray.stepLeaf (r : Ray) (k : Scene) (l : Line) (prims : Nat) : Stepped :=
  let first := leafFirst r.node
  match k.rd (prims + 48 * first) 48 with
  | .error e => .fail e
  | .ok p =>
    if primBad p then .stop { r with state := 5 }
    else if primProc p then
      (match boxTest l r.tmin r.tmax (words p 0 6) with
       | none => r.advance
       | some _ => .stop { r with state := 3 })
    else match triTest r l (words p 0 9) with
      | none => r.advance
      | some t =>
        if (recFld p 36 4).testBit 0 || r.opq then
          let r := r.accept first t
          if r.firstHit then .stop { r with state := 4 } else r.advance
        else .stop { r with state := 2 }
/-- One step. -/
def Ray.step (r : Ray) (k : Scene) : Stepped :=
  if r.inst then
    if k.ninst ≤ r.cinst then .stop { r with state := 5 }
    else match k.instance? r.cinst with
      | .error e => .fail e
      | .ok i =>
        if instBad i || badRef r.node true k.ninst then .stop { r with state := 5 }
        else if refKind r.node = 0 then r.stepNode k (objectLine i r) (recFld i 48 8)
        else r.stepLeaf k (objectLine i r) (recFld i 56 8)
  else if badRef r.node false k.ninst then .stop { r with state := 5 }
  else if refKind r.node = 0 then r.stepNode k (worldLine r) (k.c.fld 32 8)
  else match k.instance? (r.node % 128) with
    | .error e => .fail e
    | .ok i =>
      if instBad i then .stop { r with state := 5 }
      else .go { r with inst := true, ilev := r.level, cinst := r.node % 128, node := 0 }

/-- Steps until the ray stops, a read fails, or the limit (R373): the ray, written with STATE 1 where it has not stopped, and the failure. -/
def Ray.run (k : Scene) : Ray → Nat → Ray × Option (Nat × XErr)
  | r, 0 => (r, none)
  | r, n + 1 =>
    match r.step k with
    | .go r => Ray.run k r n
    | .stop r => (r, none)
    | .fail e => (r, some e)
/-- STEPLIM; 0 sets no limit (2^64 steps: no tree of 32 levels takes as many). -/
def stepLimit (c : Call) : Nat := if c.fld 20 4 = 0 then 2 ^ 64 else c.fld 20 4

/-! ## Verdicts and reports (R372, R376, R380) -/

/-- What the report of a triangle holds that has no T any more (DESIGN CHOICE, log 46). -/
def Ray.stale (r : Ray) : Nat × Nat × Nat :=
  let v := Config.staleHit r.word
  (v % 2 ^ 32, v / 2 ^ 32 % 2 ^ 32, v / 2 ^ 64 % 2 ^ 32)
/-- The candidate that an awaiting ray stands at: its T, and U and V, formed again (R374, R376); a procedural primitive's T is its box's tnear, hit or
not. None where NODE, the instance or the primitive is malformed (R370), or NODE names no leaf: the ray goes to ERROR (DESIGN CHOICE, log 46). -/
def Ray.candidate (r : Ray) (k : Scene) : Except (Nat × XErr) (Option (Nat × Nat × Nat)) :=
  if !r.inst || k.ninst ≤ r.cinst || badRef r.node true k.ninst || refKind r.node != 1 then .ok none
  else match k.instance? r.cinst with
    | .error e => .error e
    | .ok i =>
      match k.rd (recFld i 56 8 + 48 * leafFirst r.node) 48 with
      | .error e => .error e
      | .ok p =>
        let l := objectLine i r
        .ok (if instBad i || primBad p then none
             else if primProc p then some ((boxSpan l r.tmin r.tmax (words p 0 6)).1, 0, 0)
             else some ((triReport l (words p 0 9)).getD r.stale))
/-- U and V of the hit of a finished ray. -/
def Ray.hitUV (r : Ray) (k : Scene) : Except (Nat × XErr) (Nat × Nat) :=
  match k.instance? (r.hit % 128) with
  | .error e => .error e
  | .ok i =>
    match k.rd (recFld i 56 8 + 48 * (r.hit / 128)) 48 with
    | .error e => .error e
    | .ok p =>
      .ok (if primProc p then (0, 0) else match triReport (objectLine i r) (words p 0 9) with | some (_, u, v) => (u, v) | none => r.stale.2)
/-- An OUT entry: RESULT, T, U, V, PRIM. -/
def outEntry (res t u v prim : Nat) : Nat := unwords [res, t, u, v, prim]
def Ray.report (r : Ray) (k : Scene) : Except (Nat × XErr) (Nat × Nat) :=
  let none' := 2 ^ 32 - 1
  match r.state with
  | 1 => .ok (4, outEntry 4 0 0 0 none')
  | 2 | 3 => (r.candidate k).map fun c =>
      let (t, u, v) := c.getD (0, 0, 0)
      let uv := r.state == 2
      (r.state, outEntry r.state t (if uv then u else 0) (if uv then v else 0) (leafFirst r.node * 128 + r.cinst))
  | 4 => if r.hasHit then (r.hitUV k).map fun p => (1, outEntry 1 r.tmax p.1 p.2 r.hit) else .ok (0, outEntry 0 r.tmax 0 0 none')
  | _ => .ok (5, outEntry 5 0 0 0 none')

/-- What a verdict does to an awaiting ray whose candidate stands: it ends, or goes on. -/
def Ray.verdict (r : Ray) (t vflags vt : Nat) : Stepped :=
  let f := if vflags / 4 != 0 then 0 else vflags
  let p := leafFirst r.node
  let ok := f.testBit 0 && (r.state == 2 || (!isNaN32 vt && le32 r.tmin vt && lt32 vt r.tmax))
  let r' := if ok then r.accept p (if r.state = 2 then t else vt) else r
  if f.testBit 1 || (r.firstHit && ok) then .stop { r' with state := 4 } else ({ r' with state := 1 }).advance

/-- The ray's work in a call: the record to be written, if any, and the failure, if any. -/
def Ray.work (r : Ray) (k : Scene) (verdict : Bool) (vflags vt : Nat) : Option Ray × Option (Nat × XErr) :=
  let go := fun (r : Ray) => let p := Ray.run k r (stepLimit k.c); (some p.1, p.2)
  if r.state = 0 then let r := r.start; if r.state = 4 then (some r, none) else go r
  else if 5 < r.state || r.rsv != 0 || 4 < r.scnt || isNaN32 r.tmin || isNaN32 r.tmax then (some { r with state := 5 }, none)
  else if r.state = 1 then go r
  else if r.state = 2 ∨ r.state = 3 then
    match r.candidate k with
    | .error e => (none, some e)
    | .ok none => (some { r with state := 5 }, none)
    | .ok (some (t, _, _)) =>
      if !verdict then (some r, none)
      else match r.verdict t vflags vt with
        | .go r => go r
        | .stop r => (some r, none)
        | .fail e => (none, some e)
  else (some r, none)

/-! ## Calls (R378-R381) -/

def rayOk (s : State) (c : Call) : Bool :=
  decide (c.fld 8 1 ≤ 1) && c.fld 9 3 == 0 && c.fld 12 4 % 16 == 0 && c.fld 16 4 % 16 == 0 && decide (c.fld 12 4 < 2 ^ 18) && decide (c.fld 16 4 < 2 ^ 18)
  && c.fld 24 8 % 64 == 0 && c.fld 32 8 % 64 == 0 && c.fld 40 8 % 64 == 0 && decide (1 ≤ c.fld 48 2) && decide (c.fld 48 2 ≤ 128) && c.fld 50 14 == 0
  && (laneList c.lanes).all fun l => match s.team? c.team with
    | some x => decide (c.fld 12 4 + 16 * l + 16 ≤ x.tmemSize) && decide (c.fld 16 4 + 32 * l + 32 ≤ x.tmemSize)
    | none => false

/-- One lane: the memory after it, and its result or failure. -/
def rayLane (s : State) (c : Call) (l : Nat) : State × Except (Nat × XErr) Nat :=
  let e := s.ctread c (c.fld 12 4 + 16 * l) 16
  let a := c.fld 24 8 + 64 * recFld e 0 4
  match s.cpages c needRW a 64 with
  | some e => (s, .error e)
  | none =>
    match s.cread c a 64 with
    | .error e => (s, .error e)
    | .ok w =>
      let k : Scene := { s, c, ninst := c.fld 48 2 }
      let (r, bad) := (rayOf w).work k (c.fld 8 1 == 1) (recFld e 4 4) (recFld e 8 4)
      match r with
      | none => (s, .error (bad.getD (a, { cls := .memXlate, stage := 1, level := 0 })))
      | some r =>
        let s' := s.cwrite1 c a r.word 64
        match bad with
        | some e => (s', .error e)
        | none =>
          match r.report k with
          | .error e => (s', .error e)
          | .ok (res, out) => (s'.ctwrite c (c.fld 16 4 + 32 * l) 32 out, .ok res)

def rayRun (s : State) (c : Call) : State :=
  if !rayOk s c then s.unitErr c 4
  else
    let s0 := s
    let (s, rs) := (laneList c.lanes).foldl (fun (p : State × List (Nat × Except (Nat × XErr) Nat)) l =>
      let (s, r) := rayLane p.1 c l; (s, p.2 ++ [(l, r)])) (s, [])
    let mask := fun (f : Nat → Bool) => rs.foldl (fun m p => match p.2 with | .ok v => if f v then m + 2 ^ p.1 else m | .error _ => m) 0
    let fields := unwords [mask fun v => v ≤ 1, mask fun v => v == 2 || v == 3, mask fun v => v == 3, mask fun v => v == 4, mask fun v => v == 5]
    let bad := rs.filterMap fun p => match p.2 with | .error e => some (p.1, e) | .ok _ => none
    match bad with
    | [] => s.unitReturn c 0 0 0 fields
    | (_, e) :: _ => if bad.any fun p => p.2.2 = stillOut then s0 else s.unitReturn c (statusOf e.2) (bad.foldl (fun m p => m + 2 ^ p.1) 0) e.1 fields

/-- TRACE (R372-R381), and a record whose OP is neither. -/
def execTraceRays (call : Nat) (s : State) : Host.Outcome State Fault Refusal :=
  eventOf "TRACE" (if (s.call? call).any fun c => c.fld 8 1 == 1 then none else s.plainRow 7 call fun c => rayRun s c)
/-- VERDICT (R372, R376). -/
def execVerdict (call : Nat) (s : State) : Host.Outcome State Fault Refusal :=
  eventOf "VERDICT" (if (s.call? call).any fun c => c.fld 8 1 != 1 then none else s.plainRow 7 call fun c => rayRun s c)

end Sys2Proof.Machine
end

