-- ==== Sys2Proof/Machine/Special.lean ====
section
/-!
DEFINITION. Special registers: their fields and views (spec/00 R8, R9, spec/03 R83-R90, spec/06 R146-R149, spec/08 R216, spec/10 R290, spec/12
R324, spec/16 R408, R409, spec/17 R421, spec/18 R429, spec/19 R445, spec/20 R473), `getsr`, `setsr`, and writes from outside.
-/
namespace Sys2Proof.Machine

/-! ## Fields and views -/

/-- Access codes (R9). -/
inductive Acc where | rw | ro | wo | w1c | no
deriving DecidableEq, Repr
def Acc.reads : Acc → Bool | .rw | .ro | .w1c => true | _ => false
/-- A field: lowest bit, width, U-view, P-view. -/
abbrev SrFld := Nat × Nat × Acc × Acc
def both (lo n : Nat) (a : Acc) : SrFld := (lo, n, a, a)
def ponly (lo n : Nat) (a : Acc) : SrFld := (lo, n, .no, a)

/-- The fields of a special register that are not reserved. -/
def srFields (n : Nat) : List SrFld :=
  match n with
  | 0x000 => [ponly 16 6 .ro, ponly 14 2 .ro, both 8 2 .ro, both 0 4 .ro]
  | 0x008 => [both 0 12 .ro]
  | 0x00C => [both 16 9 .ro, both 0 9 .ro]
  | 0x00D => [both 8 7 .ro, both 0 8 .ro]
  | 0x010 | 0x011 | 0x012 | 0x013 => [both 31 1 .ro, both 24 5 .ro, both 16 8 .rw, both 8 2 .rw, both 4 4 .rw, both 0 4 .rw]
  | 0x022 => [both 0 26 .ro]
  | 0x100 => [both 0 5 .rw]
  | 0x101 => [both 0 5 .w1c]
  | 0x120 => [ponly 8 2 .ro, ponly 4 4 .ro, ponly 0 3 .ro]
  | 0x121 => [(0, 16, .ro, .rw)]
  | 0x122 => [both 0 16 .ro]
  | 0x128 => [ponly 8 3 .ro, both 0 2 .ro]
  | 0x200 => [(31, 1, .ro, .rw), (16, 8, .ro, .rw), (0, 16, .ro, .rw)]
  | 0x201 => [both 0 16 .ro]
  | 0x202 => [(0, 11, .ro, .rw)]
  | 0x203 => [(0, 16, .ro, .rw)]
  | 0x304 => [both 31 1 .ro, both 0 14 .ro]
  | 0x308 => [(0, 32, .ro, .rw)]
  | 0x30A => [both 6 26 .rw]
  | 0x30B => [both 0 26 .rw]
  | 0x30C => [both 0 24 .ro]
  | 0x400 => [both 0 16 .ro]
  | 0x401 => [ponly 4 28 .rw]
  | 0x402 => [ponly 0 20 .rw]
  | 0x403 => [ponly 0 17 .rw]
  | 0x404 => [ponly 8 24 .rw]
  | 0x405 => [ponly 0 20 .rw]
  | 0x410 => [ponly 12 20 .rw]
  | 0x411 => [ponly 0 26 .rw]
  | 0x412 => [ponly 0 3 .ro]
  | 0x420 => [ponly 6 26 .rw]
  | 0x421 => [ponly 0 26 .rw]
  | 0x422 => [ponly 0 4 .rw]
  | 0x423 => [ponly 0 32 .ro]
  | 0x424 => [ponly 0 32 .rw]
  | 0x500 => [both 0 8 .ro]
  | 0x501 => [ponly 2 1 .rw, ponly 1 1 .rw, ponly 0 1 .wo]
  | 0x502 => [both 16 16 .ro, both 0 3 .ro]
  | 0x504 => [both 8 24 .rw]
  | 0x505 => [both 0 20 .rw]
  | 0x506 => [both 31 1 .rw, both 0 5 .rw]
  | 0x507 => [both 0 32 .rw]
  | 0x510 => [ponly 6 26 .rw]
  | 0x511 => [ponly 0 26 .rw]
  | 0x600 => [ponly 30 2 .ro, ponly 0 24 .ro]
  | 0x608 | 0x609 | 0x60A | 0x60B | 0x60C | 0x60D | 0x60E | 0x60F => [ponly 0 32 .wo]
  | 0x610 => [ponly 30 2 .ro, ponly 0 3 .wo]
  | 0x618 => [ponly 0 8 .rw]
  | 0x619 => [ponly 31 1 .ro, ponly 0 16 .w1c]
  | 0x61A | 0x621 | 0x622 | 0x705 => [ponly 0 32 .ro]
  | 0x620 => [ponly 0 16 .rw]
  | 0x700 => [(0, 8, .ro, .rw)]
  | 0x701 => [ponly 31 1 .rw, ponly 0 16 .rw]
  | 0x702 => [ponly 5 27 .rw]
  | 0x703 => [ponly 0 26 .rw]
  | 0x704 => [ponly 0 13 .rw]
  | n => if 0x710 ≤ n ∧ n ≤ 0x71F then [ponly 31 1 .ro, ponly 28 3 .ro, ponly 8 8 .ro] else [both 0 32 .ro]

/-- The bits whose view satisfies a test. -/
def srMask (n : Nat) (priv : Bool) (f : Acc → Bool) : Word :=
  BitVec.ofNat 32 ((srFields n).foldl (fun m d => if f (if priv then d.2.2.2 else d.2.2.1) then m + lowMask d.2.1 * 2 ^ d.1 else m) 0)
/-- What a read assembles of a register's value. -/
def srView (n : Nat) (priv : Bool) (v : Word) : Word := v &&& srMask n priv Acc.reads
/-- What a write makes of it: RW fields are set, W1C bits cleared. -/
def srMerge (n : Nat) (priv : Bool) (old v : Word) : Word :=
  let rw := srMask n priv (· == .rw)
  let wc := srMask n priv (· == .w1c)
  (old &&& ~~~rw &&& ~~~(wc &&& v)) ||| (v &&& rw)

/-! ## Reading (R87-R90) -/

/-- The special registers as they stood before the cycle. -/
def Ctx.sr (x : Ctx) : SrSnap := x.s.snapSr.getD (x.s.snapRegs x.cur.team)
/-- Fields (lowest bit, width, value) side by side. -/
def packed (fs : List (Nat × Nat × Nat)) : Nat := (fs.map fun f => f.2.2 % 2 ^ f.2.1 * 2 ^ f.1).sum
def parkInfo (r : StRec) : Nat := r.off * 2 ^ 27 + r.skid % 64 * 2 ^ 21 + r.cls % 32 * 2 ^ 16 + r.code.toNat

/-- The value behind a package or fabric register. -/
def pkgValue (pkg : SMap Word) (chans : SMap ChanSt) (fuseSvn n : Nat) : Nat :=
  let ch := chans.get ((pkg.get 0x618).toNat % 256)
  match n with
  | 0x600 => (pkg.get n &&& 0xFFFF0000#32).toNat + fuseSvn % 65536
  | 0x619 => packed [(0, 16, ch.ce), (31, 1, if ch.failed then 1 else 0)]
  | 0x61A => ch.ue
  | n => (pkg.get n).toNat
/-- The value behind a register, before its views (DEDUCED, log 40). -/
def Ctx.srValue (x : Ctx) (n : Nat) : Nat :=
  let g := x.g0
  let r := g.getRec x.cur.rc
  let q := x.sr
  let tm := x.tm
  let die := fun n => ((q.sliceDie.get (4 * tm.slice + tm.die)).reg.get n).toNat
  let clu := fun n => ((q.sliceClu.get (64 * tm.slice + tm.cluIx)).get n).toNat
  let now := x.s.dieCount tm.die
  match n with
  | 0x000 => packed [(0, 4, x.cur.grp), (8, 2, g.role), (14, 2, g.sched), (16, 6, g.slot)]
  | 0x001 => tm.idx
  | 0x002 => tm.count
  | 0x004 => (g.live x.cur.rc).toNat
  | 0x005 => x.cur.m.toNat
  | 0x006 => g.exited.toNat
  | 0x007 => g.parked.toNat
  | 0x008 => ((List.range 12).filter fun k => g.flag k != 0).foldl (fun v k => v + 2 ^ k) 0
  | 0x00C => packed [(0, 9, g.vcur), (16, 9, g.vmax)]
  | 0x00D => packed [(0, 8, tm.sregs), (8, 7, tm.aregs)]
  | 0x010 | 0x011 | 0x012 | 0x013 => (r.getFmt (n - 0x010)).toNat
  | 0x020 => if r.mode = .main then 0 else parkInfo r
  | 0x021 => if r.mode = .main then 0 else r.pc.toNat % 2 ^ 32
  | 0x022 => if r.mode = .main then 0 else r.pc.toNat / 2 ^ 32
  | 0x100 => r.fpCtl.toNat
  | 0x101 => g.fpStatus.toNat
  | 0x120 => packed [(0, 3, tm.core), (4, 4, tm.cluster), (8, 2, tm.die)]
  | 0x122 => (x.s.pinsOf tm.slice tm.cluIx).length
  | 0x128 => ((x.s.coreReg.get tm.coreId).get 0x128).toNat
  | 0x121 | 0x200 | 0x202 | 0x203 => clu n
  | 0x201 => x.s.depth tm.slice tm.cluIx
  | 0x300 => now % 2 ^ 32
  | 0x301 => now / 2 ^ 32
  | 0x302 => q.deadline.toNat % 2 ^ 32
  | 0x303 => q.deadline.toNat / 2 ^ 32
  | 0x304 => packed [(0, 12, tm.qid), (12, 2, tm.cls), (31, 1, if tm.priv then 1 else 0)]
  | 0x400 => tm.asid
  | 0x410 => r.dbgImg.toNat % 2 ^ 32
  | 0x411 => r.dbgImg.toNat / 2 ^ 32
  | 0x412 => r.dbgStat.toNat
  | 0x500 => tm.slice
  | 0x510 | 0x511 => if tm.slice = 192 then ((q.sliceReg.get 192).get n).toNat else 0
  | n =>
    if n < 0x500 then die n else if n < 0x600 then ((q.sliceReg.get tm.slice).get n).toNat else pkgValue q.pkgReg q.chans x.s.fuseSvn n

/-- Reading FR_TAIL is an adopt at `.slc` joined to the records' publications (R420). -/
def Ctx.readTail (x : Ctx) : State :=
  (x.s.flushTeam x.cur.team x.cur.grp).adopt x.cur.team x.cur.grp .slc (x.s.sliceDieOf x.tm.slice x.tm.die).frPubs
/-- GETSR (R408). -/
def execGetsr (c : Ctl) (d : Dst) (n : BitVec 12) (s : State) : Host.Outcome State Fault Refusal :=
  issue (.getsr c d n) s fun x =>
    let v := srView n.toNat x.tm.priv (BitVec.ofNat 32 (x.srValue n.toNat))
    let s := if n = 0x423#12 then x.readTail else x.s
    { s := s.updGroup x.cur.team x.cur.grp fun g => g.setRec x.cur.rc (putS x.st 1 d v.toNat) }

/-! ## Writing -/

/-- R84. -/
def fmtValid (e m sp : Nat) : Bool :=
  decide (e ≤ 8) && decide (m ≤ 10) && (1 + e + m ∈ [4, 6, 8, 16]) && (sp != 2 || e == 0) && (decide (2 ≤ sp) || decide (1 ≤ e)) && (sp != 3 || (e == 2 && m == 1))
/-- A format register's new value: VALID and EW recomputed (R83). -/
def fmtWord (v : Word) : Word :=
  let e := v.toNat % 16
  let m := v.toNat / 16 % 16
  let sp := v.toNat / 256 % 4
  (v &&& 0x00FF03FF#32) ||| BitVec.ofNat 32 ((1 + e + m) * 2 ^ 24 + (if fmtValid e m sp then 2 ^ 31 else 0))
/-- FP_STATUS after a write, with what the cycle has raised (R149). -/
def Group.clearStatus (g : Group) (v : Word) : Group := { g with fpStatus := (g.fpStatus &&& ~~~v) ||| g.fpRaised }

/-- The registers of a slice on a die that can be written (R409, R421). -/
def dieNumbers : List Nat := [0x308, 0x30A, 0x30B, 0x401, 0x402, 0x403, 0x404, 0x405, 0x420, 0x421, 0x422, 0x424]
/-- Registers of a slice on a die: FR_HEAD may not pass records not yet delivered (R421). A number that names none of them is ignored. -/
def State.writeSd (s : State) (sl die n : Nat) (priv : Bool) (v : Word) : State :=
  if !dieNumbers.contains n then s else
  let new := srMerge n priv (s.sdReg sl die n) v
  if n = 0x424 && decide ((s.sdReg sl die 0x423 - s.sdReg sl die 0x424).toNat < (new - s.sdReg sl die 0x424).toNat) then s else s.setSdReg sl die n new
/-- Registers of a slice on a cluster (R216, R324); a number that names none of them is ignored. -/
def State.writeClu (s : State) (sl cl n : Nat) (priv : Bool) (v : Word) : State :=
  let new := srMerge n priv (s.cluReg sl cl n) v
  if !priv then s else match n with
  | 0x121 => s.setCluReg sl cl n (BitVec.ofNat 32 (min new.toNat (4096 * (popcN 16 (s.cluReg sl cl 0x203).toNat - 1))))
  | 0x202 =>
    let others := (((List.range 193).filter fun k => k != sl).map fun k => (s.cluReg k cl 0x202).toNat).sum
    s.setCluReg sl cl n (BitVec.ofNat 32 (min new.toNat (1024 - others)))
  | 0x203 => s.writeWays sl cl new
  | 0x200 => s.setCluReg sl cl n new
  | _ => s
/-- SLICE_CTL (R429). -/
def State.writeSliceCtl (s : State) (sl : Nat) (v : Word) : State :=
  let s := s.setSreg sl 0x501 ((s.sreg sl 0x501 &&& ~~~4#32) ||| (v &&& 4#32))
  let on := (s.sreg sl 0x501).getLsbD 1
  let s := if v.getLsbD 1 && !on then s.freeze sl else if !v.getLsbD 1 && on then s.thaw sl else s
  if v.getLsbD 0 then s.writeReset sl else s
/-- The slice registers of R429; PQT is the PF's alone. -/
def sliceNumber (sl n : Nat) : Bool :=
  n ∈ [0x500, 0x501, 0x502, 0x504, 0x505, 0x506, 0x507, 0x508, 0x509, 0x50C, 0x50D, 0x50E, 0x50F] || (sl == 192 && n ∈ [0x510, 0x511])
def State.writeSlice (s : State) (sl n : Nat) (priv : Bool) (v : Word) : State :=
  if !sliceNumber sl n then s else match n with
  | 0x501 => if priv then s.writeSliceCtl sl v else s
  | 0x506 => s.writeCmdCtl sl v
  | 0x507 => { s.setSreg sl 0x507 v with ringDue := (sl :: s.ringDue).eraseDups }
  | 0x510 | 0x511 => if sl = 192 then s.setSreg sl n (srMerge n priv (s.sreg sl n) v) else s
  | _ => s.setSreg sl n (srMerge n priv (s.sreg sl n) v)
/-- MR_DATA while an extend is in progress is ignored (R453). -/
def State.writeMrData (s : State) (n : Nat) (v : Word) : State := if s.extend.isSome then s else s.setPkg n v
/-- MEM_STAT: corrected errors of the selected channel (R445). -/
def State.clearCe (s : State) (v : Word) : State :=
  let ch := (s.pkg 0x618).toNat
  s.updChan ch fun c => { c with ce := (BitVec.ofNat 32 c.ce &&& ~~~v).toNat }
def clampCap (v : Nat) : Nat := if v < 300 then 300 else if 1800 < v then 1800 else v
/-- Package and fabric registers, whose writable fields have the P-view alone (R445, R473). -/
def State.writePkg (s : State) (n : Nat) (v : Word) : State :=
  let new := srMerge n true (s.pkg n) v
  match n with
  | 0x610 => s.writeExtend (v.toNat % 8)
  | 0x618 => s.setPkg n (BitVec.ofNat 32 (min new.toNat 191))
  | 0x619 => s.clearCe v
  | 0x620 => s.setPkg n (BitVec.ofNat 32 (clampCap new.toNat))
  | 0x701 => s.setPkg n (if new &&& 0xFFFF#32 = 0#32 then new ||| 1#32 else new)
  | 0x704 => s.setPkg n (BitVec.ofNat 32 (min new.toNat 4096))
  | 0x700 | 0x702 | 0x703 => s.setPkg n new
  | n => if 0x608 ≤ n ∧ n ≤ 0x60F then s.writeMrData n v else s

/-! ## The windows of BAR0 (R429, R445, R446) -/

/-- A slice register as a window shows it. -/
def State.readSlice (s : State) (sl n : Nat) (priv : Bool) : Word :=
  if !sliceNumber sl n then 0#32 else srView n priv (if n = 0x500 then BitVec.ofNat 32 sl else s.sreg sl n)
def State.readPkg (s : State) (n : Nat) : Word := srView n true (BitVec.ofNat 32 (pkgValue s.pkgReg s.chans s.fuseSvn n))
/-- Where an offset of a function's BAR0 leads: a VF reaches its own slice's registers alone, the PF every slice's and the package's. -/
inductive Window where
  | slice (sl n : Nat) (priv : Bool)
  | package (n : Nat)
  | none
deriving DecidableEq, Repr
def windowOf (fn off : Nat) : Window :=
  if fn < 192 then (if off < 0x10000 then .slice fn (off / 4) false else .none)
  else if 0x1000000 ≤ off then .none
  else if 0xD00000 ≤ off then (if (off - 0xD00000) / 4 < 0x600 ∨ 0x800 ≤ (off - 0xD00000) / 4 then .none else .package ((off - 0xD00000) / 4))
  else if off / 0x10000 ≤ 192 then .slice (off / 0x10000) (off % 0x10000 / 4) true
  else .none
/-- A read of a function's BAR0; what names no register reads zero. -/
def State.barRead (s : State) (fn off : Nat) : Word :=
  match windowOf fn off with
  | .slice sl n priv => s.readSlice sl n priv
  | .package n => s.readPkg n
  | .none => 0#32
/-- A write through it; what names no register is ignored. -/
def State.barWrite (s : State) (fn off : Nat) (v : Word) : State :=
  match windowOf fn off with
  | .slice sl n priv => s.writeSlice sl n priv v
  | .package n => s.writePkg n v
  | .none => s

/-- A `setsr` by an issuing state (DEDUCED, log 40). -/
def Ctx.writeSr (x : Ctx) (n : Nat) (v : Word) : State :=
  let tm := x.tm
  let p := tm.priv
  let rc := fun (f : StRec → StRec) => x.withGroup (x.g.setRec x.cur.rc (f x.st))
  match n with
  | 0x010 | 0x011 | 0x012 | 0x013 => rc fun r => { r with fmt := r.fmt.set (n - 0x010) (fmtWord v) }
  | 0x100 => rc fun r => { r with fpCtl := srMerge n p r.fpCtl v }
  | 0x101 => x.withGroup (x.g.clearStatus v)
  | 0x410 => if p then rc fun r => { r with dbgImg := BitVec.ofNat 64 (r.dbgImg.toNat / 2 ^ 32 * 2 ^ 32 + v.toNat / 4096 * 4096) } else x.s
  | 0x411 => if p then rc fun r => { r with dbgImg := BitVec.ofNat 64 (r.dbgImg.toNat % 2 ^ 32 + v.toNat % 2 ^ 26 * 2 ^ 32) } else x.s
  | 0x121 | 0x200 | 0x202 | 0x203 => x.s.writeClu tm.slice tm.cluIx n p v
  | n =>
    if dieNumbers.contains n then x.s.writeSd tm.slice tm.die n p v
    else if 0x500 ≤ n ∧ n < 0x600 then x.s.writeSlice tm.slice n p v
    else if 0x600 ≤ n ∧ p then x.s.writePkg n v
    else x.s
/-- SETSR (R408). -/
def execSetsr (c : Ctl) (n : BitVec 12) (a : Src) (s : State) : Host.Outcome State Fault Refusal :=
  issue (.setsr c n a) s fun x => { s := x.writeSr n.toNat (BitVec.ofNat 32 (x.rdU 1 .zx a)) }

/-! ## The rows of writes -/

/-- A write of the issuing path to a register of its state, checked under R64 and R75 where the register's rule says so. -/
def stateWrite (row : String) (pr r75 : Bool) (f : Ctx → State) (s : State) : Host.Outcome State Fault Refusal :=
  eventOf row do
    let x ← ctxOf s { gp := 15#4, gn := false, fin := false, yld := false, rua := false, rub := false, stall := 0#3 }
    if pr && !x.tm.priv then some (s.park x.cur.team x.cur.grp x.cur.rc x.cur.m { cls := FClass.priv.code, pc := x.cur.pc, off := x.cur.pos })
    else if r75 && !subMask (x.g0.live x.cur.rc) x.e then
      some (s.park x.cur.team x.cur.grp x.cur.rc x.e { cls := FClass.partialWrite.code, pc := x.cur.pc, off := x.cur.pos })
    else some (f x)
/-- FMT_WRITE (R83). -/
def execFmtWrite (n : BitVec 2) (v : Word) (s : State) : Host.Outcome State Fault Refusal :=
  stateWrite "FMT_WRITE" false true (fun x => x.writeSr (0x010 + n.toNat) v) s
/-- FP_CTL_WRITE (R146). -/
def execFpCtlWrite (v : Word) (s : State) : Host.Outcome State Fault Refusal := stateWrite "FP_CTL_WRITE" false true (fun x => x.writeSr 0x100 v) s
/-- FP_STATUS_CLEAR (R149). -/
def execFpStatusClear (v : Word) (s : State) : Host.Outcome State Fault Refusal := stateWrite "FP_STATUS_CLEAR" false false (fun x => x.writeSr 0x101 v) s
/-- FR_TAIL_READ (R420): its fields have no U-view, so an unprivileged path takes PRIV (R28, R421). -/
def execFrTailRead (d : Dst) (s : State) : Host.Outcome State Fault Refusal :=
  stateWrite "FR_TAIL_READ" true true (fun x => x.readTail.updGroup x.cur.team x.cur.grp fun g =>
    g.setRec x.cur.rc (putS x.st 1 d (srView 0x423 x.tm.priv (BitVec.ofNat 32 (x.srValue 0x423))).toNat)) s
/-- PIN_QUOTA_WRITE (R216). -/
def execPinQuotaWrite (sl cl : Nat) (v : Word) (s : State) : Host.Outcome State Fault Refusal := .next (s.writeClu sl cl 0x121 true v)
/-- CL_REORDER_WRITE (R324). -/
def execClReorderWrite (sl cl : Nat) (v : Word) (s : State) : Host.Outcome State Fault Refusal := .next (s.writeClu sl cl 0x202 true v)
/-- CL_WAYS_WRITE (R324). -/
def execClWaysWrite (sl cl : Nat) (v : Word) (s : State) : Host.Outcome State Fault Refusal := .next (s.writeClu sl cl 0x203 true v)
/-- FR_HEAD_WRITE (R421). -/
def execFrHeadWrite (sl die : Nat) (v : Word) (s : State) : Host.Outcome State Fault Refusal := .next (s.writeSd sl die 0x424 true v)
/-- FR_BASE_WRITE (R420). -/
def execFrBaseWrite (sl die : Nat) (hi : Bool) (v : Word) (s : State) : Host.Outcome State Fault Refusal :=
  .next (s.writeSd sl die (if hi then 0x421 else 0x420) true v)
/-- MEM_STAT_CLEAR (R445). -/
def execMemStatClear (v : Word) (s : State) : Host.Outcome State Fault Refusal := .next (s.clearCe v)
/-- PWR_CAP_WRITE (R445). -/
def execPwrCapWrite (v : Word) (s : State) : Host.Outcome State Fault Refusal := .next (s.writePkg 0x620 v)
/-- DOM_CTL_WRITE (R473). -/
def execDomCtlWrite (v : Word) (s : State) : Host.Outcome State Fault Refusal := .next (s.writePkg 0x701 v)
/-- DOM_EXPCNT_WRITE (R473). -/
def execDomExpcntWrite (v : Word) (s : State) : Host.Outcome State Fault Refusal := .next (s.writePkg 0x704 v)
/-- MEM_SEL_WRITE (R445). -/
def execMemSelWrite (v : Word) (s : State) : Host.Outcome State Fault Refusal := .next (s.writePkg 0x618 v)
/-- REGISTER_WRITE (R9, R429, R445): a write through a window or by firmware. -/
def execRegisterWrite (p : RegPlace) (priv : Bool) (n : BitVec 12) (v : Word) (s : State) : Host.Outcome State Fault Refusal :=
  .next (match p with
    | .slice sl => s.writeSlice sl n.toNat priv v
    | .sliceDie sl die => s.writeSd sl die n.toNat priv v
    | .sliceCluster sl cl => s.writeClu sl cl n.toNat priv v
    | .package => if priv then s.writePkg n.toNat v else s)

end Sys2Proof.Machine
end

