-- ==== Sys2Proof/Machine/Tess.lean ====
section
/-!
DEFINITION. The tessellator (spec/13 R352-R357).
-/
namespace Sys2Proof.Machine

/-- NaN or at most 0: such a factor culls its patch (R353). -/
def cullsPatch (f : Nat) : Bool :=
  match f32.read f with
  | .nan .. => true
  | .inf n => n
  | .num n m _ _ => n || m == 0
/-- min(64, ceil(F)) of a positive factor. -/
def tessFactor (f : Nat) : Nat :=
  match f32.read f with
  | .num _ m e st => min 64 (roundInt .rup false m e st).1
  | _ => 64
/-- 2 for NaN and for factors up to 2. -/
def innerFactor (f : Nat) : Nat :=
  match f32.read f with
  | .nan .. => 2
  | .inf n => if n then 2 else 64
  | .num n .. => if n then 2 else max 2 (tessFactor f)
/-- FixDiv(k, n). -/
def fixDiv (k n : Nat) : Nat := (2 ^ 17 * k + n) / (2 * n)
def fixOne : Nat := 0x10000

/-- A patch: its points in index order, and its primitives as lists of indices. -/
structure Patch where
  points : List (Nat × Nat)
  prims : List (List Nat)
deriving DecidableEq, Repr

/-- The points of a quad patch (R354). -/
def quadPoints (e0 e1 e2 e3 iu iv : Nat) : List (Nat × Nat) :=
  (List.range (e0 + 1)).map (fun k => (fixDiv k e0, 0))
  ++ (List.range e1).map (fun k => (fixOne, fixDiv (k + 1) e1))
  ++ (List.range e2).map (fun k => (fixDiv (e2 - (k + 1)) e2, fixOne))
  ++ (List.range (e3 - 1)).map (fun k => (0, fixDiv (e3 - (k + 1)) e3))
  ++ (List.range (iv - 1)).flatMap fun j => (List.range (iu - 1)).map fun i => (fixDiv (i + 1) iu, fixDiv (j + 1) iv)

/-- Joining an outer run to an inner one, each a list of indices with keys (R355). -/
def joinRuns (o n : List (Nat × Nat)) : Nat → List (List Nat)
  | 0 => []
  | fuel + 1 =>
    match o, n with
    | (o0, _) :: (o1, ko) :: os, (n0, kn0) :: (n1, kn) :: ns =>
      if ko ≤ kn then [o0, o1, n0] :: joinRuns ((o1, ko) :: os) ((n0, kn0) :: (n1, kn) :: ns) fuel
      else [o0, n1, n0] :: joinRuns ((o0, 0) :: (o1, ko) :: os) ((n1, kn) :: ns) fuel
    | (o0, _) :: (o1, ko) :: os, [(n0, kn)] => [o0, o1, n0] :: joinRuns ((o1, ko) :: os) [(n0, kn)] fuel
    | [(o0, ko)], (n0, _) :: (n1, kn) :: ns => [o0, n1, n0] :: joinRuns [(o0, ko)] ((n1, kn) :: ns) fuel
    | _, _ => []

/-- The triangles of a quad patch (R355). -/
def quadTris (e0 e1 e2 e3 iu iv : Nat) : List (List Nat) :=
  let ps := quadPoints e0 e1 e2 e3 iu iv
  let n := e0 + e1 + e2 + e3
  let inner := fun (i j : Nat) => n + (j - 1) * (iu - 1) + (i - 1)
  let u := fun (k : Nat) => (ps.getD k (0, 0)).1
  let v := fun (k : Nat) => (ps.getD k (0, 0)).2
  let outer := fun (start len : Nat) => (List.range (len + 1)).map fun k => (start + k) % n
  let side := fun (o i : List Nat) (key : Nat → Nat) => joinRuns (o.map fun k => (k, key k)) (i.map fun k => (k, key k)) (o.length + i.length)
  let is := (List.range (iu - 1)).map (· + 1)
  let js := (List.range (iv - 1)).map (· + 1)
  side (outer 0 e0) (is.map fun i => inner i 1) u
  ++ side (outer e0 e1) (js.map fun j => inner (iu - 1) j) v
  ++ side (outer (e0 + e1) e2) (is.reverse.map fun i => inner i (iv - 1)) (fun k => fixOne - u k)
  ++ side (outer (e0 + e1 + e2) e3) (js.reverse.map fun j => inner 1 j) (fun k => fixOne - v k)
  ++ (List.range (iv - 2)).flatMap fun j => (List.range (iu - 2)).flatMap fun i =>
      [[inner (i + 1) (j + 1), inner (i + 2) (j + 1), inner (i + 2) (j + 2)], [inner (i + 1) (j + 1), inner (i + 2) (j + 2), inner (i + 1) (j + 2)]]

def quadPatch (f : Nat → Nat) (iu iv : Nat) : Patch :=
  let e := fun k => tessFactor (f k)
  let a := innerFactor iu
  let b := innerFactor iv
  { points := quadPoints (e 0) (e 1) (e 2) (e 3) a b, prims := quadTris (e 0) (e 1) (e 2) (e 3) a b }
/-- R356. -/
def isolinePatch (f : Nat → Nat) : Patch :=
  let l := tessFactor (f 0)
  let n := tessFactor (f 1)
  { points := (List.range l).flatMap fun j => (List.range (n + 1)).map fun k => (fixDiv k n, fixDiv j l),
    prims := (List.range l).flatMap fun j => (List.range n).map fun k => [j * (n + 1) + k, j * (n + 1) + k + 1] }

/-- TESSELLATOR_CALL (R352-R357); with STATUS 1 to 4 its counts are 0 (DESIGN CHOICE, log 60). -/
def execTessellatorCall (call : Nat) (s : State) : Host.Outcome State Fault Refusal :=
  eventOf "TESSELLATOR_CALL" (s.plainRow 5 call fun c =>
    let iso := c.fld 8 1 == 1
    let f := fun k => c.fld (12 + 4 * k) 4
    if 1 < c.fld 8 1 || c.fld 9 3 != 0 || c.fld 36 8 % 8 != 0 || c.fld 48 8 % 2 != 0 || c.fld 60 4 != 0 then s.unitErr c 4
    else if (List.range (if iso then 2 else 4)).any fun k => cullsPatch (f k) then s.unitReturn c 0 0 0 (2 ^ 64)
    else
      let p := if iso then isolinePatch f else quadPatch f (c.fld 28 4) (c.fld 32 4)
      let np := p.points.length
      let ni := p.prims.length
      let w := if iso then 4 else 6
      let out := np + 2 ^ 32 * ni
      if c.fld 44 4 < 8 * np || c.fld 56 4 < w * ni then s.unitReturn c 19 0 0 out
      else match s.cpages c needW (c.fld 36 8) (8 * np), s.cpages c needW (c.fld 48 8) (w * ni) with
        | some e, _ | _, some e => s.unitFault c e
        | none, none =>
          let s := p.points.zipIdx.foldl (fun s q => s.cwrite c (c.fld 36 8 + 8 * q.2) (q.1.1 + 2 ^ 32 * q.1.2) 8) s
          let s := p.prims.zipIdx.foldl (fun s q =>
            s.cwrite c (c.fld 48 8 + w * q.2) (q.1.zipIdx.foldl (fun v k => v + k.1 * 2 ^ (16 * k.2)) 0) w) s
          s.unitReturn c 0 0 0 out)

end Sys2Proof.Machine
end

