-- ==== Sys2Proof/Machine/Rows.lean ====
section
/-!
DEFINITION. The paths of a group and their choice (spec/03 R68, R69, spec/07 R173); the transitions of other agents that may be due; what a
transition reads and stores, for the channels that retrain and the errors that a full poison table cannot hold (spec/19 R449, R450).
-/
namespace Sys2Proof.Machine

/-! ## Rows -/

/-- A row, or another transition of the model, that may be due. -/
abbrev Row := State → Host.Outcome State Fault Refusal
/-- A transition without a row of its own. -/
def rowOf (f : State → Option State) : Row := fun s => eventOf "STEP" (f s)


/-! ## Channels that retrain (R449) -/

/-- The retraining channels as if they had failed: what a step reads there is poison. -/
def State.blind (s : State) : State := { s with chans := s.chans.map fun p => (p.1, if p.2.training then { p.2 with dark := true } else p.2) }
/-- A transition reads or stores bytes of a retraining channel: it would come out otherwise if they were poison, or its stores lie there. Such an
access holds (R449) (DEDUCED, log 32). -/
def State.reaches (s : State) (r : Row) : Bool :=
  (s.chans.any fun p => p.2.training) && match r s with
  | .next t =>
    (match r s.blind with
      | .next u => decide ({ t with chans := [] } ≠ { u with chans := [] })
      | _ => true)
    || t.co.any fun e => decide (s.coNext ≤ e.seq) && (s.chans.get (e.addr / 2 ^ 30)).training
  | _ => false
/-- The first row that is due and that no channel holds (DESIGN CHOICE, log 7). -/
def firstNext (s : State) : List Row → Option State
  | [] => none
  | r :: rs => match r s with
    | .next t => if s.reaches r then firstNext s rs else some t
    | _ => firstNext s rs

/-- FETCHING: the word at the cursor. -/
def State.cursorWord (s : State) (c : Cursor) : Option (Except XErr (BitVec 96)) := (s.team? c.team).map fun x => s.fetchWord x c.pc.toNat
/-- A word that cannot be fetched parks the whole path (R29). -/
def State.fetchFault (s : State) (c : Cursor) (e : XErr) : State :=
  closeCycle { s.park c.team c.grp c.rc c.m { cls := e.cls.code, pc := c.pc, off := c.pos, addr := c.pc.toNat, detail := e.detail } with
    stamp := s.stamp + 1 } c

/-! ## Paths (R68, R69) -/

/-- Running lanes of one state with equal PCs. Equal PCs imply equal clause positions (R68); an image may hold lanes for which they do not, and those
stand on paths of their own (DESIGN CHOICE, log 45). -/
def Group.samePath (g : Group) (a b : Nat) : Bool :=
  g.runs b && (g.lane a).rc == (g.lane b).rc && (g.lane a).pc == (g.lane b).pc && (g.lane a).off == (g.lane b).off
def Group.paths (g : Group) : List Mask :=
  ((List.range 32).filter g.runs).filterMap fun l =>
    let m := maskOf (g.samePath l)
    if lowestLane m = l then some m else none
/-- Most lanes, then the lower PC, at a clause start that of the header (R68), then the state holding the lower-numbered lane. -/
def Group.pathKey (g : Group) (m : Mask) : List Nat :=
  let y := (g.lane (lowestLane m)).unstart
  [32 - countLanes m, y.pc.toNat, lowestLane (g.live y.rc)]
def insertPath (g : Group) (m : Mask) : List Mask → List Mask
  | [] => [m]
  | a :: as => if lexLt (g.pathKey m) (g.pathKey a) then m :: a :: as else a :: insertPath g m as
def Group.rankPaths (g : Group) (ms : List Mask) : List Mask := ms.foldl (fun l m => insertPath g m l) []

/-- The lane has issued an instruction of its clause. -/
def Lane.holdsPlace (y : Lane) : Bool := y.hdr.isSome && y.fresh.isNone
/-- The lowest lane of a path that satisfies `p`. -/
def Group.laneOf (g : Group) (m : Mask) (p : Lane → Bool) : Option Nat := (laneList m).find? fun l => p (g.lane l)
/-- The paths that hold a place (R173), and the others. -/
def Group.holders (g : Group) : List Mask := g.paths.filter fun m => (g.laneOf m Lane.holdsPlace).isSome
def Group.others (g : Group) : List Mask := g.paths.filter fun m => (g.laneOf m Lane.holdsPlace).isNone
/-- The paths that may issue in this cycle: those with a place. -/
def Group.inClause (g : Group) : List Mask := g.rankPaths (g.paths.filter fun m => (g.laneOf m fun y => y.hdr.isSome).isSome)

/-! ## Filling the places (R173) -/

/-- A path fills a place, unless the words of its clause stand in a channel that holds them (R449). -/
def State.pathStart (s : State) (t gi : Nat) (m : Mask) : Option State := if s.reaches (execClauseStart t gi m) then none else s.clauseStart t gi m

/-- Lanes that have come to a path that holds a place are of that path (R68): they take up its clause once their check passes (R26). -/
def State.joinPath (s : State) (t gi : Nat) (g : Group) (m : Mask) : State :=
  let ls := maskOf fun l => m.getLsbD l && (g.lane l).hdr.isNone
  match g.laneOf m Lane.holdsPlace, (if ls = 0#32 then none else s.pathStart t gi ls) with
  | some a, some s => s.updGroup t gi fun y => y.updLanes ls fun _ l => if l.hdr.isSome then { l with hdr := (g.lane a).hdr } else l
  | _, _ => s
/-- The eligible paths in the order of R173: those that have yielded come last. -/
def State.eligible (s : State) (t gi : Nat) (g : Group) : List Mask :=
  let el := g.rankPaths (g.others.filter fun m => (s.pathStart t gi m).isSome)
  let y := fun (m : Mask) => (laneList m).any fun l => (g.lane l).yld
  el.filter (fun m => !y m) ++ el.filter y
/-- The places are filled anew: lanes join the paths that hold one, and those left free go to the first eligible paths (R173); a yield counts in one
arbitration only (DESIGN CHOICE, log 7). -/
def State.arbitrate (s : State) (t gi : Nat) (g : Group) : State :=
  let s := s.updGroup t gi Group.unstart
  let g := g.unstart
  let free := 2 - g.holders.length
  let el := if free = 0 then [] else s.eligible t gi g
  let s := s.updGroup t gi fun g => el.foldl (fun g m => g.updLanes m fun _ y => { y with yld := false }) g
  let s := g.holders.foldl (fun s m => s.joinPath t gi g m) s
  (el.take free).foldl (fun s m => (s.pathStart t gi m).getD s) s

/-- The cursor of a path in its clause. -/
def Group.cursor (g : Group) (t gi : Nat) (m : Mask) : Cursor :=
  let y := g.lane (lowestLane m)
  let h := ((g.laneOf m Lane.holdsPlace).bind fun l => (g.lane l).hdr).orElse fun _ => (laneList m).findSome? fun l => (g.lane l).hdr
  { team := t, grp := gi, rc := y.rc, m, pc := y.pc, pos := y.off, hdr := h.getD 0#32 }

/-! ## Transitions that may be due -/

/-- The first gap of a copy's written bytes: where the engine goes on, and how far. -/
def nextBytes (len : Nat) (done : List (Nat × Nat)) : Nat × Nat :=
  let off := done.length.fold (fun _ _ off => match done.find? fun d => decide (d.1 ≤ off) && decide (off < d.1 + d.2) with
    | some d => d.1 + d.2
    | none => off) 0
  (off, (done.foldl (fun m d => if off ≤ d.1 then min m d.1 else m) len) - off)
/-- The first of some rows that is due. -/
def firstOut : List (Host.Outcome State Fault Refusal) → Host.Outcome State Fault Refusal
  | [] => notNow "STEP"
  | .next t :: _ => .next t
  | _ :: rs => firstOut rs
/-- Progress of an operation in flight. -/
def opRows (o : Op) : List Row :=
  [fun s => firstOut ((s.goneParts o).map fun k => execRemoteTimeout (partKey o.id k) s), execAccessCheck o.id, execPoisonFound o.id,
    execLoadCompletion o.id 0, execStoreCompletion o.id, execAtomicCompletion o.id,
   execReductionCompletion o.id, execPinCompletion o.id, execMmaAccumulate o.id, execDrainCompletion o.id, execCrecvTake o.id, execEnqCompletion o.id,
   execLaunchCompletion o.id, rowOf fun s => s.orderDone o.id, rowOf fun s => s.collJoin o.id, execCollectiveCompletion o.id, execXlatCompletion o.id]
  ++ match o.kind with
    | .copy _ _ len _ done _ _ => let b := nextBytes len done; [execEngineByteCount o.id b.1 b.2]
    | _ => []
/-- Paths that hold. -/
def holdRows (t gi : Nat) (h : Hold) : List Row :=
  [execBarWaitComplete t gi h.id, execChresGrant t gi h.id, execChtakeGrant t gi h.id, execTokWaitDrained t gi h.id, execCbarWaitComplete t gi h.id,
   execWaitvTest t gi h.id, execWaitvTimeout t gi h.id, rowOf fun s => s.endgridDone t gi h.id, rowOf fun s => s.stopDone t gi h.id]
/-- Groups and teams. -/
def teamRows (s : State) : List Row :=
  s.teams.flatMap fun p =>
    (if p.2.st == .resident then
      p.2.groups.flatMap (fun q => [execLateFaultPark p.1 q.1, execPoisonPark p.1 q.1] ++ q.2.holds.flatMap (holdRows p.1 q.1))
    else [])
    ++ (p.2.handed.map (·.ch)).eraseDups.map (execRouterDispatch p.1)
    ++ [rowOf fun s => s.linesDue p.1, rowOf fun s => s.endTeam p.1, execIdleSwap p.1, execTeamWake p.1]
/-- The units of the clusters (R305). -/
def callRows (c : Call) : List Row :=
  [execBinnerCall c.id, execRasteriserCall c.id, execStreamBind c.id, execStreamClear c.id, execDepthStencilCommit c.id, execBlendCommit c.id,
   execTessellatorCall c.id, execTextureCall c.id, execTraceRays c.id, execVerdict c.id, execEncoderConfig c.id, execEncoderEncode c.id]
/-- The slices and dies that have queues, grids or teams. -/
def schedPlaces (s : State) : List (Nat × Nat) :=
  let qs := s.queues.map fun (p : Nat × Queue) => (p.1 / 4096, p.2.die)
  let gs := s.grids.map fun (p : Nat × Grid) => (p.2.slice, p.2.die)
  let ts := s.teams.map fun (p : Nat × Team) => (p.2.slice, p.2.die)
  (qs ++ gs ++ ts).eraseDups
/-- The schedulers (R391-R403). -/
def schedRows (s : State) : List Row :=
  (s.queues.map fun p => execQueueTake (p.1 / 4096) (p.1 % 4096)) ++ (s.grids.map fun p => execDisplayTrigger p.1)
  ++ (schedPlaces s).flatMap (fun q => [execBestEffortFill q.1 q.2, execTeamAdmit q.1 q.2, execTeamPreempt q.1 q.2])
  ++ s.transit.map fun e => match e.task with
    | .fresh g k => execTransitEntryReceived g k
    | .team t => fun s => match s.team? t with | some x => execTransitEntryReceived x.grid x.idx s | none => notNow "TRANSIT_ENTRY_RECEIVED"
/-- Command rings (R432, R433, R438), leases, resets, freezing. -/
def sliceRows (s : State) : List Row :=
  (s.ringDue.flatMap fun sl =>
    [execLaunchCmd sl, execWrite32 sl, execWait32 sl, execNopCmd sl]
    ++ if sl = 192 then [execBindQueue, execUnbindQueue, execReshape, execLease, execLeaseEnd, execCollgrp, execRemap, execUnremap] else [])
  ++ [rowOf State.ringIdle]
  ++ (s.cmds.flatMap fun p => p.2.map fun c => execWait32Satisfied p.1 c.n)
  ++ (s.leases.map fun l => execLeaseTermExpiry l.lender)
  ++ s.sliceReg.flatMap fun p => [execSliceResetDone p.1, execFreezeComplete p.1]
/-- Fault records (R420), remote requests (R460), a measurement's extend (R453). -/
def otherRows (s : State) : List Row :=
  (s.sliceDie.flatMap fun p => (p.2.held.map fun r => (r.kind, r.src)).eraseDups.map fun k => execFaultRecordDelivery (p.1 / 4) (p.1 % 4) k.1 k.2)
  ++ (s.requests.map fun r => execRemoteRequest r.id) ++ [execMrExtendDone]

/-! ## An error that no entry can hold (R450) -/

/-- The transitions of agents other than the paths that issue. -/
def State.agentRows (s : State) : List Row :=
  s.ops.flatMap opRows ++ teamRows s ++ s.calls.flatMap callRows ++ sliceRows s ++ schedRows s ++ otherRows s
/-- What a path at an instruction reads of memory at its issue: the word itself, and the words that `waitv` and the cluster barriers name. -/
def issueReads (c : Cursor) : Row := fun s =>
  match s.cursorWord c with
  | some (.error e) => .next (s.fetchFault c e)
  | some (.ok w) => match decode w with
    | .ok (.waitv k cond p a b e) => execWaitv k cond p a b e { s with cur := some c }
    | .ok (.cbarArrive k sc a) => execCbarArrive k sc a { s with cur := some c }
    | .ok (.cbarWait k sc a) => execCbarWait k sc a { s with cur := some c }
    | _ => notNow "STEP"
  | none => notNow "STEP"
/-- The reads of the paths: of the clauses that they start, and of the instructions that they have come to. -/
def pathReads (s : State) : List Row :=
  (s.teams.filter fun p => p.2.st == .resident).flatMap fun p => p.2.groups.flatMap fun q =>
    q.2.others.map (execClauseStart p.1 q.1) ++ q.2.inClause.map fun m => issueReads (q.2.cursor p.1 q.1 m)
/-- A transition that reads a sector in error, as it comes out: it differs from what it would be without the error. -/
def State.readBad (s : State) (pa : Nat) (r : Row) : Option State :=
  match r { s with poison := s.poison.set (pa / 32) 0xFFFFFFFF#32 } with
  | .next t =>
    let t := { t with poison := t.poison.erase (pa / 32) }
    match r s with
    | .next u => if t = u then none else some t
    | _ => some t
  | _ => none
/-- Such an error poisons the read that finds it alone, here the first due one of the sector (R450) (DEDUCED, log 32). -/
def State.poisonRead (s : State) (pa : Nat) : State := ((s.agentRows ++ pathReads s).findSome? (s.readBad pa)).getD s
/-- UNCORRECTABLE_ERROR: with a full table, it poisons only the read that found it. -/
def execUncorrectableError (addr : Nat) (s : State) : Host.Outcome State Fault Refusal :=
  .next ((if s.poisonRoom addr then s else s.poisonRead addr).uncorrectable addr)

end Sys2Proof.Machine
end

