-- ==== Sys2Proof/Machine/Dispatch.lean ====
section
/-!
DEFINITION. One arm per constructor of `Instr`, each a direct call of its meaning.
-/
namespace Sys2Proof.Machine

def exec (i : Instr) (s : State) : Host.Outcome State Fault Refusal :=
  match i with
  | .nop c => Sys2Proof.Machine.execNop c s
  | .bra c imm => Sys2Proof.Machine.execBra c imm s
  | .brxV c a => Sys2Proof.Machine.execBrxV c a s
  | .brxS c a => Sys2Proof.Machine.execBrxS c a s
  | .call c d imm => Sys2Proof.Machine.execCall c d imm s
  | .callIndirect c d a => Sys2Proof.Machine.execCallIndirect c d a s
  | .ret c a => Sys2Proof.Machine.execRet c a s
  | .exit c => Sys2Proof.Machine.execExit c s
  | .yieldPath c => Sys2Proof.Machine.execYieldPath c s
  | .jset c j => Sys2Proof.Machine.execJset c j s
  | .jadd c j => Sys2Proof.Machine.execJadd c j s
  | .jsub c j => Sys2Proof.Machine.execJsub c j s
  | .jget c d j => Sys2Proof.Machine.execJget c d j s
  | .jput c j a => Sys2Proof.Machine.execJput c j a s
  | .rejoin c j => Sys2Proof.Machine.execRejoin c j s
  | .rejoinTmo c p j b => Sys2Proof.Machine.execRejoinTmo c p j b s
  | .brk c code => Sys2Proof.Machine.execBrk c code s
  | .trap c code => Sys2Proof.Machine.execTrap c code s
  | .hret c => Sys2Proof.Machine.execHret c s
  | .addV c t sat d a b => Sys2Proof.Machine.execAddV c t sat d a b s
  | .addS c t sat d a b => Sys2Proof.Machine.execAddS c t sat d a b s
  | .subV c t sat d a b => Sys2Proof.Machine.execSubV c t sat d a b s
  | .subS c t sat d a b => Sys2Proof.Machine.execSubS c t sat d a b s
  | .mulV c t hi d a b => Sys2Proof.Machine.execMulV c t hi d a b s
  | .mulS c t hi d a b => Sys2Proof.Machine.execMulS c t hi d a b s
  | .madV c t d a b e => Sys2Proof.Machine.execMadV c t d a b e s
  | .madS c t d a b e => Sys2Proof.Machine.execMadS c t d a b e s
  | .addcV c t d a b p => Sys2Proof.Machine.execAddcV c t d a b p s
  | .subcV c t d a b p => Sys2Proof.Machine.execSubcV c t d a b p s
  | .minV c t d a b => Sys2Proof.Machine.execMinV c t d a b s
  | .minS c t d a b => Sys2Proof.Machine.execMinS c t d a b s
  | .maxV c t d a b => Sys2Proof.Machine.execMaxV c t d a b s
  | .maxS c t d a b => Sys2Proof.Machine.execMaxS c t d a b s
  | .absV c w64 d a => Sys2Proof.Machine.execAbsV c w64 d a s
  | .absS c w64 d a => Sys2Proof.Machine.execAbsS c w64 d a s
  | .negV c w64 d a => Sys2Proof.Machine.execNegV c w64 d a s
  | .negS c w64 d a => Sys2Proof.Machine.execNegS c w64 d a s
  | .andV c w64 d a b => Sys2Proof.Machine.execAndV c w64 d a b s
  | .andS c w64 d a b => Sys2Proof.Machine.execAndS c w64 d a b s
  | .orV c w64 d a b => Sys2Proof.Machine.execOrV c w64 d a b s
  | .orS c w64 d a b => Sys2Proof.Machine.execOrS c w64 d a b s
  | .xorV c w64 d a b => Sys2Proof.Machine.execXorV c w64 d a b s
  | .xorS c w64 d a b => Sys2Proof.Machine.execXorS c w64 d a b s
  | .andnV c w64 d a b => Sys2Proof.Machine.execAndnV c w64 d a b s
  | .andnS c w64 d a b => Sys2Proof.Machine.execAndnS c w64 d a b s
  | .ornV c w64 d a b => Sys2Proof.Machine.execOrnV c w64 d a b s
  | .ornS c w64 d a b => Sys2Proof.Machine.execOrnS c w64 d a b s
  | .xnorV c w64 d a b => Sys2Proof.Machine.execXnorV c w64 d a b s
  | .xnorS c w64 d a b => Sys2Proof.Machine.execXnorS c w64 d a b s
  | .notV c w64 d a => Sys2Proof.Machine.execNotV c w64 d a s
  | .notS c w64 d a => Sys2Proof.Machine.execNotS c w64 d a s
  | .shlV c w64 d a b => Sys2Proof.Machine.execShlV c w64 d a b s
  | .shlS c w64 d a b => Sys2Proof.Machine.execShlS c w64 d a b s
  | .shrV c w64 d a b => Sys2Proof.Machine.execShrV c w64 d a b s
  | .shrS c w64 d a b => Sys2Proof.Machine.execShrS c w64 d a b s
  | .sarV c w64 d a b => Sys2Proof.Machine.execSarV c w64 d a b s
  | .sarS c w64 d a b => Sys2Proof.Machine.execSarS c w64 d a b s
  | .shfV c right clamp d a b e => Sys2Proof.Machine.execShfV c right clamp d a b e s
  | .shfS c right clamp d a b e => Sys2Proof.Machine.execShfS c right clamp d a b e s
  | .bfeV c sg d a b e => Sys2Proof.Machine.execBfeV c sg d a b e s
  | .bfeS c sg d a b e => Sys2Proof.Machine.execBfeS c sg d a b e s
  | .bfiV c d a b e => Sys2Proof.Machine.execBfiV c d a b e s
  | .bfiS c d a b e => Sys2Proof.Machine.execBfiS c d a b e s
  | .brevV c d a => Sys2Proof.Machine.execBrevV c d a s
  | .brevS c d a => Sys2Proof.Machine.execBrevS c d a s
  | .popcV c w64 d a => Sys2Proof.Machine.execPopcV c w64 d a s
  | .popcS c w64 d a => Sys2Proof.Machine.execPopcS c w64 d a s
  | .clzV c w64 d a => Sys2Proof.Machine.execClzV c w64 d a s
  | .clzS c w64 d a => Sys2Proof.Machine.execClzS c w64 d a s
  | .ctzV c w64 d a => Sys2Proof.Machine.execCtzV c w64 d a s
  | .ctzS c w64 d a => Sys2Proof.Machine.execCtzS c w64 d a s
  | .bgatV c d a b e => Sys2Proof.Machine.execBgatV c d a b e s
  | .bgatS c d a b e => Sys2Proof.Machine.execBgatS c d a b e s
  | .cmpV c w64 cond cmb pd pc a b => Sys2Proof.Machine.execCmpV c w64 cond cmb pd pc a b s
  | .cmpS c w64 cond cmb pd pc a b => Sys2Proof.Machine.execCmpS c w64 cond cmb pd pc a b s
  | .movV c w64 d a => Sys2Proof.Machine.execMovV c w64 d a s
  | .movS c w64 d a => Sys2Proof.Machine.execMovS c w64 d a s
  | .selV c w64 d a b p => Sys2Proof.Machine.execSelV c w64 d a b p s
  | .divV c t d a b => Sys2Proof.Machine.execDivV c t d a b s
  | .divS c t d a b => Sys2Proof.Machine.execDivS c t d a b s
  | .remV c t d a b => Sys2Proof.Machine.execRemV c t d a b s
  | .remS c t d a b => Sys2Proof.Machine.execRemS c t d a b s
  | .addA c sg bu d a b => Sys2Proof.Machine.execAddA c sg bu d a b s
  | .subA c sg bu d a b => Sys2Proof.Machine.execSubA c sg bu d a b s
  | .mulA c sg d a b => Sys2Proof.Machine.execMulA c sg d a b s
  | .madA c sg d a b e => Sys2Proof.Machine.execMadA c sg d a b e s
  | .shlA c d a b => Sys2Proof.Machine.execShlA c d a b s
  | .cmpA c bu cond cmb pd pc a b => Sys2Proof.Machine.execCmpA c bu cond cmb pd pc a b s
  | .movA c d a => Sys2Proof.Machine.execMovA c d a s
  | .rampA c d a b => Sys2Proof.Machine.execRampA c d a b s
  | .spread c w64 d a => Sys2Proof.Machine.execSpread c w64 d a s
  | .mat c w64 d a => Sys2Proof.Machine.execMat c w64 d a s
  | .agree c w64 d a p => Sys2Proof.Machine.execAgree c w64 d a p s
  | .firstLane c w64 d a => Sys2Proof.Machine.execFirstLane c w64 d a s
  | .addVF c t sat r d a b => Sys2Proof.Machine.execAddVF c t sat r d a b s
  | .subVF c t sat r d a b => Sys2Proof.Machine.execSubVF c t sat r d a b s
  | .mulVF c t sat r d a b => Sys2Proof.Machine.execMulVF c t sat r d a b s
  | .fmaV c t sat r d a b e => Sys2Proof.Machine.execFmaV c t sat r d a b e s
  | .minVF c t d a b => Sys2Proof.Machine.execMinVF c t d a b s
  | .maxVF c t d a b => Sys2Proof.Machine.execMaxVF c t d a b s
  | .minnumV c t d a b => Sys2Proof.Machine.execMinnumV c t d a b s
  | .maxnumV c t d a b => Sys2Proof.Machine.execMaxnumV c t d a b s
  | .cmpVF c ty cond cmb pd pc a b => Sys2Proof.Machine.execCmpVF c ty cond cmb pd pc a b s
  | .cmpVF16 c ty cond cmb pd pc a b => Sys2Proof.Machine.execCmpVF16 c ty cond cmb pd pc a b s
  | .rndV c t r d a => Sys2Proof.Machine.execRndV c t r d a s
  | .rcpV c t r d a => Sys2Proof.Machine.execRcpV c t r d a s
  | .sqrtV c t r d a => Sys2Proof.Machine.execSqrtV c t r d a s
  | .divVF c t r d a b => Sys2Proof.Machine.execDivVF c t r d a b s
  | .ex2 c half d a => Sys2Proof.Machine.execEx2 c half d a s
  | .lg2 c half d a => Sys2Proof.Machine.execLg2 c half d a s
  | .sinpi c half d a => Sys2Proof.Machine.execSinpi c half d a s
  | .cospi c half d a => Sys2Proof.Machine.execCospi c half d a s
  | .dotV c bf r d a b e => Sys2Proof.Machine.execDotV c bf r d a b e s
  | .absVF c t d a => Sys2Proof.Machine.execAbsVF c t d a s
  | .negVF c t d a => Sys2Proof.Machine.execNegVF c t d a s
  | .copysignV c t d a b => Sys2Proof.Machine.execCopysignV c t d a b s
  | .classV c t p a k => Sys2Proof.Machine.execClassV c t p a k s
  | .addVQ c sat fm d a b => Sys2Proof.Machine.execAddVQ c sat fm d a b s
  | .subVQ c sat fm d a b => Sys2Proof.Machine.execSubVQ c sat fm d a b s
  | .mulVQ c sat fm d a b => Sys2Proof.Machine.execMulVQ c sat fm d a b s
  | .fmaVQ c sat fm d a b e => Sys2Proof.Machine.execFmaVQ c sat fm d a b e s
  | .minVQ c fm d a b => Sys2Proof.Machine.execMinVQ c fm d a b s
  | .maxVQ c fm d a b => Sys2Proof.Machine.execMaxVQ c fm d a b s
  | .dotVQ c fm d a b e => Sys2Proof.Machine.execDotVQ c fm d a b e s
  | .absVQ c fm d a => Sys2Proof.Machine.execAbsVQ c fm d a s
  | .negVQ c fm d a => Sys2Proof.Machine.execNegVQ c fm d a s
  | .cvtFloatFloat c dt st r d a => Sys2Proof.Machine.execCvtFloatFloat c dt st r d a s
  | .cvtFloatInt c dt st r d a => Sys2Proof.Machine.execCvtFloatInt c dt st r d a s
  | .cvtIntFloat c dt st r d a => Sys2Proof.Machine.execCvtIntFloat c dt st r d a s
  | .cvtQFloat c st fm idx d a e => Sys2Proof.Machine.execCvtQFloat c st fm idx d a e s
  | .cvtFloatQ c dt fm idx d a => Sys2Proof.Machine.execCvtFloatQ c dt fm idx d a s
  | .cvtNarrow c sat un dt d a => Sys2Proof.Machine.execCvtNarrow c sat un dt d a s
  | .addSF c t sat r d a b => Sys2Proof.Machine.execAddSF c t sat r d a b s
  | .subSF c t sat r d a b => Sys2Proof.Machine.execSubSF c t sat r d a b s
  | .mulSF c t sat r d a b => Sys2Proof.Machine.execMulSF c t sat r d a b s
  | .fmaS c t sat r d a b e => Sys2Proof.Machine.execFmaS c t sat r d a b e s
  | .minSF c t d a b => Sys2Proof.Machine.execMinSF c t d a b s
  | .maxSF c t d a b => Sys2Proof.Machine.execMaxSF c t d a b s
  | .minnumS c t d a b => Sys2Proof.Machine.execMinnumS c t d a b s
  | .maxnumS c t d a b => Sys2Proof.Machine.execMaxnumS c t d a b s
  | .cmpSF c ty cond cmb pd pc a b => Sys2Proof.Machine.execCmpSF c ty cond cmb pd pc a b s
  | .rcpS c t r d a => Sys2Proof.Machine.execRcpS c t r d a s
  | .sqrtS c t r d a => Sys2Proof.Machine.execSqrtS c t r d a s
  | .divSF c t r d a b => Sys2Proof.Machine.execDivSF c t r d a b s
  | .absSF c t d a => Sys2Proof.Machine.execAbsSF c t d a s
  | .negSF c t d a => Sys2Proof.Machine.execNegSF c t d a s
  | .copysignS c t d a b => Sys2Proof.Machine.execCopysignS c t d a b s
  | .shfl c w64 md d a b => Sys2Proof.Machine.execShfl c w64 md d a b s
  | .voteAll c pd pa => Sys2Proof.Machine.execVoteAll c pd pa s
  | .voteAny c pd pa => Sys2Proof.Machine.execVoteAny c pd pa s
  | .voteEq c pd pa => Sys2Proof.Machine.execVoteEq c pd pa s
  | .voteBallot c d pa => Sys2Proof.Machine.execVoteBallot c d pa s
  | .reduceInt c op d a => Sys2Proof.Machine.execReduceInt c op d a s
  | .reduceFloat c f64 op d a => Sys2Proof.Machine.execReduceFloat c f64 op d a s
  | .scanInt c excl op d a => Sys2Proof.Machine.execScanInt c excl op d a s
  | .scanFloat c excl f64 op d a => Sys2Proof.Machine.execScanFloat c excl f64 op d a s
  | .matchLanes c ty d a => Sys2Proof.Machine.execMatchLanes c ty d a s
  | .ldgV c fl ac m d a => Sys2Proof.Machine.execLdgV c fl ac m d a s
  | .ldgS c fl m d a => Sys2Proof.Machine.execLdgS c fl m d a s
  | .stgV c fl ac m a b => Sys2Proof.Machine.execStgV c fl ac m a b s
  | .stgS c fl ac m a b => Sys2Proof.Machine.execStgS c fl ac m a b s
  | .ldtmV c fl ac m d a => Sys2Proof.Machine.execLdtmV c fl ac m d a s
  | .ldtmS c fl m d a => Sys2Proof.Machine.execLdtmS c fl m d a s
  | .sttmV c fl ac m a b => Sys2Proof.Machine.execSttmV c fl ac m a b s
  | .sttmS c fl ac m a b => Sys2Proof.Machine.execSttmS c fl ac m a b s
  | .ldcV c fl ac m d a => Sys2Proof.Machine.execLdcV c fl ac m d a s
  | .ldcS c fl m d a => Sys2Proof.Machine.execLdcS c fl m d a s
  | .stmsk c fl ac m a b e => Sys2Proof.Machine.execStmsk c fl ac m a b e s
  | .atom c fl op m d a b e => Sys2Proof.Machine.execAtom c fl op m d a b e s
  | .red c fl op m a b => Sys2Proof.Machine.execRed c fl op m a b s
  | .atomtm c fl op m d a b e => Sys2Proof.Machine.execAtomtm c fl op m d a b e s
  | .publish c sc => Sys2Proof.Machine.execPublish c sc s
  | .adopt c sc => Sys2Proof.Machine.execAdopt c sc s
  | .fence c sc => Sys2Proof.Machine.execFence c sc s
  | .pinLines c fl d a b => Sys2Proof.Machine.execPinLines c fl d a b s
  | .unpinLines c fl d a b => Sys2Proof.Machine.execUnpinLines c fl d a b s
  | .barInit c a b => Sys2Proof.Machine.execBarInit c a b s
  | .barArrive c sc a => Sys2Proof.Machine.execBarArrive c sc a s
  | .barExpect c a b => Sys2Proof.Machine.execBarExpect c a b s
  | .barWait c sc a => Sys2Proof.Machine.execBarWait c sc a s
  | .barTest c sc p a => Sys2Proof.Machine.execBarTest c sc p a s
  | .chinit c ch a b => Sys2Proof.Machine.execChinit c ch a b s
  | .chres c ch d => Sys2Proof.Machine.execChres c ch d s
  | .chcommit c sc ch => Sys2Proof.Machine.execChcommit c sc ch s
  | .chtake c sc ch d => Sys2Proof.Machine.execChtake c sc ch d s
  | .chfree c ch => Sys2Proof.Machine.execChfree c ch s
  | .cpyG2t c a b e bar => Sys2Proof.Machine.execCpyG2t c a b e bar s
  | .cpyT2g c a b e bar => Sys2Proof.Machine.execCpyT2g c a b e bar s
  | .cpyG2g c a b e bar => Sys2Proof.Machine.execCpyG2g c a b e bar s
  | .cpyT2t c a b e bar => Sys2Proof.Machine.execCpyT2t c a b e bar s
  | .vgrow c a => Sys2Proof.Machine.execVgrow c a s
  | .vshrink c a => Sys2Proof.Machine.execVshrink c a s
  | .obres c o a => Sys2Proof.Machine.execObres c o a s
  | .obrel c o => Sys2Proof.Machine.execObrel c o s
  | .obldG c o a bar => Sys2Proof.Machine.execObldG c o a bar s
  | .obldTm c o a bar => Sys2Proof.Machine.execObldTm c o a bar s
  | .ldfrag c fl un tr cnt pitch off d a => Sys2Proof.Machine.execLdfrag c fl un tr cnt pitch off d a s
  | .mma c fl int k nz ga gb x oa ob => Sys2Proof.Machine.execMma c fl int k nz ga gb x oa ob s
  | .drainF64 c fl pitch x b => Sys2Proof.Machine.execDrainF64 c fl pitch x b s
  | .drainQ c fl fm pitch ltv obn ltn x b => Sys2Proof.Machine.execDrainQ c fl fm pitch ltv obn ltn x b s
  | .drainI64 c fl pitch x b => Sys2Proof.Machine.execDrainI64 c fl pitch x b s
  | .xzero c x => Sys2Proof.Machine.execXzero c x s
  | .xstatNan c d x => Sys2Proof.Machine.execXstatNan c d x s
  | .xstatOvf c d x => Sys2Proof.Machine.execXstatOvf c d x s
  | .xget c fl d x b => Sys2Proof.Machine.execXget c fl d x b s
  | .xput c x a b => Sys2Proof.Machine.execXput c x a b s
  | .ccall c ch b => Sys2Proof.Machine.execCcall c ch b s
  | .crecv c fl d ch => Sys2Proof.Machine.execCrecv c fl d ch s
  | .tokWait c a => Sys2Proof.Machine.execTokWait c a s
  | .tokRead c d => Sys2Proof.Machine.execTokRead c d s
  | .tokResume c d a b => Sys2Proof.Machine.execTokResume c d a b s
  | .cbarArrive c sc a => Sys2Proof.Machine.execCbarArrive c sc a s
  | .cbarWait c sc a => Sys2Proof.Machine.execCbarWait c sc a s
  | .enq c fl d a b => Sys2Proof.Machine.execEnq c fl d a b s
  | .launchGrid c fl d a b => Sys2Proof.Machine.execLaunchGrid c fl d a b s
  | .waitv c cond p a b e => Sys2Proof.Machine.execWaitv c cond p a b e s
  | .setdl c a => Sys2Proof.Machine.execSetdl c a s
  | .getsr c d n => Sys2Proof.Machine.execGetsr c d n s
  | .setsr c n a => Sys2Proof.Machine.execSetsr c n a s
  | .tlbinvAsid c a => Sys2Proof.Machine.execTlbinvAsid c a s
  | .tlbinvPage c a b => Sys2Proof.Machine.execTlbinvPage c a b s
  | .tlbinvSlice c a => Sys2Proof.Machine.execTlbinvSlice c a s
  | .xlat c fl d a b => Sys2Proof.Machine.execXlat c fl d a b s
  | .dbgStop c d a => Sys2Proof.Machine.execDbgStop c d a s
  | .dbgResume c d a => Sys2Proof.Machine.execDbgResume c d a s
  | .dbgRd c file r d a => Sys2Proof.Machine.execDbgRd c file r d a s
  | .dbgWr c file r d a b => Sys2Proof.Machine.execDbgWr c file r d a b s
  | .dbgWrForce c file r d a b => Sys2Proof.Machine.execDbgWrForce c file r d a b s
  | .dbgActResume c d a b => Sys2Proof.Machine.execDbgActResume c d a b s
  | .dbgActExit c d a b => Sys2Proof.Machine.execDbgActExit c d a b s
  | .endgrid c d a b => Sys2Proof.Machine.execEndgrid c d a b s
  | .collAllreduce c fl d a => Sys2Proof.Machine.execCollAllreduce c fl d a s
  | .collAllgather c fl d a => Sys2Proof.Machine.execCollAllgather c fl d a s
  | .collRedscat c fl d a => Sys2Proof.Machine.execCollRedscat c fl d a s
  | .collBcast c fl d a => Sys2Proof.Machine.execCollBcast c fl d a s
  | .clauseStart t g m => Sys2Proof.Machine.execClauseStart t g m s
  | .rejoinRelease t g j => Sys2Proof.Machine.execRejoinRelease t g j s
  | .rejoinTimeout t g => Sys2Proof.Machine.execRejoinTimeout t g s
  | .rejoinDeadlock t g => Sys2Proof.Machine.execRejoinDeadlock t g s
  | .barWaitComplete t g h => Sys2Proof.Machine.execBarWaitComplete t g h s
  | .chresGrant t g h => Sys2Proof.Machine.execChresGrant t g h s
  | .chtakeGrant t g h => Sys2Proof.Machine.execChtakeGrant t g h s
  | .engineByteCount op off n => Sys2Proof.Machine.execEngineByteCount op off n s
  | .accessCheck op => Sys2Proof.Machine.execAccessCheck op s
  | .lateFaultPark t g => Sys2Proof.Machine.execLateFaultPark t g s
  | .poisonFound op => Sys2Proof.Machine.execPoisonFound op s
  | .poisonPark t g => Sys2Proof.Machine.execPoisonPark t g s
  | .loadCompletion op asOf => Sys2Proof.Machine.execLoadCompletion op asOf s
  | .storeCompletion op => Sys2Proof.Machine.execStoreCompletion op s
  | .atomicCompletion op => Sys2Proof.Machine.execAtomicCompletion op s
  | .reductionCompletion op => Sys2Proof.Machine.execReductionCompletion op s
  | .pinCompletion op => Sys2Proof.Machine.execPinCompletion op s
  | .mmaAccumulate op => Sys2Proof.Machine.execMmaAccumulate op s
  | .drainCompletion op => Sys2Proof.Machine.execDrainCompletion op s
  | .routerDispatch t ch => Sys2Proof.Machine.execRouterDispatch t ch s
  | .crecvTake op => Sys2Proof.Machine.execCrecvTake op s
  | .tokWaitDrained t g h => Sys2Proof.Machine.execTokWaitDrained t g h s
  | .cbarWaitComplete t g h => Sys2Proof.Machine.execCbarWaitComplete t g h s
  | .queueDepthExchange cl => Sys2Proof.Machine.execQueueDepthExchange cl s
  | .binnerCall call => Sys2Proof.Machine.execBinnerCall call s
  | .rasteriserCall call => Sys2Proof.Machine.execRasteriserCall call s
  | .streamBind call => Sys2Proof.Machine.execStreamBind call s
  | .streamClear call => Sys2Proof.Machine.execStreamClear call s
  | .depthStencilCommit call => Sys2Proof.Machine.execDepthStencilCommit call s
  | .blendCommit call => Sys2Proof.Machine.execBlendCommit call s
  | .tessellatorCall call => Sys2Proof.Machine.execTessellatorCall call s
  | .textureCall call => Sys2Proof.Machine.execTextureCall call s
  | .traceRays call => Sys2Proof.Machine.execTraceRays call s
  | .verdict call => Sys2Proof.Machine.execVerdict call s
  | .encoderConfig call => Sys2Proof.Machine.execEncoderConfig call s
  | .encoderEncode call => Sys2Proof.Machine.execEncoderEncode call s
  | .waitvTest t g h => Sys2Proof.Machine.execWaitvTest t g h s
  | .waitvTimeout t g h => Sys2Proof.Machine.execWaitvTimeout t g h s
  | .queueTake sl qid => Sys2Proof.Machine.execQueueTake sl qid s
  | .bestEffortFill sl die => Sys2Proof.Machine.execBestEffortFill sl die s
  | .teamAdmit sl die => Sys2Proof.Machine.execTeamAdmit sl die s
  | .teamPreempt sl die => Sys2Proof.Machine.execTeamPreempt sl die s
  | .registerCacheAllocate core t line => Sys2Proof.Machine.execRegisterCacheAllocate core t line s
  | .displayTrigger gr => Sys2Proof.Machine.execDisplayTrigger gr s
  | .idleSwap t => Sys2Proof.Machine.execIdleSwap t s
  | .teamWake t => Sys2Proof.Machine.execTeamWake t s
  | .faultRecordDelivery sl die kind src => Sys2Proof.Machine.execFaultRecordDelivery sl die kind src s
  | .collectiveCompletion op => Sys2Proof.Machine.execCollectiveCompletion op s
  | .remoteRequest id => Sys2Proof.Machine.execRemoteRequest id s
  | .remoteTimeout op => Sys2Proof.Machine.execRemoteTimeout op s
  | .flitCrcFail port => Sys2Proof.Machine.execFlitCrcFail port s
  | .portLaneLoss port lanes => Sys2Proof.Machine.execPortLaneLoss port lanes s
  | .portUpChange port up lanes peer => Sys2Proof.Machine.execPortUpChange port up lanes peer s
  | .cmdTail sl v => Sys2Proof.Machine.execCmdTail sl v s
  | .launchCmd sl => Sys2Proof.Machine.execLaunchCmd sl s
  | .write32 sl => Sys2Proof.Machine.execWrite32 sl s
  | .wait32 sl => Sys2Proof.Machine.execWait32 sl s
  | .wait32Satisfied sl n => Sys2Proof.Machine.execWait32Satisfied sl n s
  | .nopCmd sl => Sys2Proof.Machine.execNopCmd sl s
  | .bindQueue => Sys2Proof.Machine.execBindQueue s
  | .unbindQueue => Sys2Proof.Machine.execUnbindQueue s
  | .reshape => Sys2Proof.Machine.execReshape s
  | .lease => Sys2Proof.Machine.execLease s
  | .leaseEnd => Sys2Proof.Machine.execLeaseEnd s
  | .leaseTermExpiry core => Sys2Proof.Machine.execLeaseTermExpiry core s
  | .collgrp => Sys2Proof.Machine.execCollgrp s
  | .remap => Sys2Proof.Machine.execRemap s
  | .unremap => Sys2Proof.Machine.execUnremap s
  | .sliceReset sl => Sys2Proof.Machine.execSliceReset sl s
  | .sliceResetDone sl => Sys2Proof.Machine.execSliceResetDone sl s
  | .sliceFreeze sl => Sys2Proof.Machine.execSliceFreeze sl s
  | .freezeComplete sl => Sys2Proof.Machine.execFreezeComplete sl s
  | .sliceThaw sl => Sys2Proof.Machine.execSliceThaw sl s
  | .vfFlr sl => Sys2Proof.Machine.execVfFlr sl s
  | .pfFlr => Sys2Proof.Machine.execPfFlr s
  | .deviceReset => Sys2Proof.Machine.execDeviceReset s
  | .getVersion req => Sys2Proof.Machine.execGetVersion req s
  | .getCapabilities req => Sys2Proof.Machine.execGetCapabilities req s
  | .negotiateAlgorithms req => Sys2Proof.Machine.execNegotiateAlgorithms req s
  | .getDigests req => Sys2Proof.Machine.execGetDigests req s
  | .getCertificate req => Sys2Proof.Machine.execGetCertificate req s
  | .challenge req => Sys2Proof.Machine.execChallenge req s
  | .getMeasurements blocks => Sys2Proof.Machine.execGetMeasurements blocks s
  | .unsupportedRequest req => Sys2Proof.Machine.execUnsupportedRequest req s
  | .mrExtend ix => Sys2Proof.Machine.execMrExtend ix s
  | .mrExtendDone => Sys2Proof.Machine.execMrExtendDone s
  | .memCrcError ch retries => Sys2Proof.Machine.execMemCrcError ch retries s
  | .channelRetrain ch ok => Sys2Proof.Machine.execChannelRetrain ch ok s
  | .correctedError ch => Sys2Proof.Machine.execCorrectedError ch s
  | .uncorrectableError pa => Sys2Proof.Machine.execUncorrectableError pa s
  | .patrolScrub ch ce ue => Sys2Proof.Machine.execPatrolScrub ch ce ue s
  | .powerWindow watts => Sys2Proof.Machine.execPowerWindow watts s
  | .droopStretch cl => Sys2Proof.Machine.execDroopStretch cl s
  | .droopRelease cl => Sys2Proof.Machine.execDroopRelease cl s
  | .fmtWrite n v => Sys2Proof.Machine.execFmtWrite n v s
  | .fpCtlWrite v => Sys2Proof.Machine.execFpCtlWrite v s
  | .fpStatusClear v => Sys2Proof.Machine.execFpStatusClear v s
  | .pinQuotaWrite sl cl v => Sys2Proof.Machine.execPinQuotaWrite sl cl v s
  | .clReorderWrite sl cl v => Sys2Proof.Machine.execClReorderWrite sl cl v s
  | .clWaysWrite sl cl v => Sys2Proof.Machine.execClWaysWrite sl cl v s
  | .frHeadWrite sl die v => Sys2Proof.Machine.execFrHeadWrite sl die v s
  | .frBaseWrite sl die hi v => Sys2Proof.Machine.execFrBaseWrite sl die hi v s
  | .frTailRead d => Sys2Proof.Machine.execFrTailRead d s
  | .cmdCtlWrite sl v => Sys2Proof.Machine.execCmdCtlWrite sl v s
  | .memStatClear v => Sys2Proof.Machine.execMemStatClear v s
  | .pwrCapWrite v => Sys2Proof.Machine.execPwrCapWrite v s
  | .domCtlWrite v => Sys2Proof.Machine.execDomCtlWrite v s
  | .domExpcntWrite v => Sys2Proof.Machine.execDomExpcntWrite v s
  | .memSelWrite v => Sys2Proof.Machine.execMemSelWrite v s
  | .registerWrite x priv n v => Sys2Proof.Machine.execRegisterWrite x priv n v s
  | .enqCompletion op => Sys2Proof.Machine.execEnqCompletion op s
  | .launchCompletion op => Sys2Proof.Machine.execLaunchCompletion op s
  | .xlatCompletion op => Sys2Proof.Machine.execXlatCompletion op s
  | .transitEntryReceived gr k => Sys2Proof.Machine.execTransitEntryReceived gr k s

end Sys2Proof.Machine
end

