-- ==== Sys2Proof/Machine/Cycle.lean ====
section
/-!
DEFINITION. What one step of the machine consists of: running the path that a cursor names (spec/01 R14, R28, R29), choosing
groups (spec/07 R174, spec/08 R197), the rows that are due, the tape of inputs.
-/
namespace Sys2Proof.Machine

/-! ## Running a path -/

/-- A word that is no instruction (R28, order 2). -/
def State.illegal (s : State) (w : BitVec 96) : State :=
  match ctxOf s (Fields.ofBits w).c with
  | some x => parkPath x .illegalOp
  | none => s
/-- The path of a cursor issues: its word is fetched, decoded and executed. -/
def State.run (s : State) (c : Cursor) : Host.Outcome State Fault Refusal :=
  let s := { s with cur := some c }
  match s.cursorWord c with
  | none => .fault .noIssuingPath
  | some (.error e) => .next (s.fetchFault c e)
  | some (.ok w) => match decode w with
    | .ok i => exec i s
    | .error _ => .next (s.illegal w)

/-! ## Issuing (R174, R197) -/

/-- What the path of a cursor would issue. -/
def State.cursorAt (s : State) (c : Cursor) : Option (Ctx × Instr) :=
  match s.cursorWord c with
  | some (.ok w) => match decode w with
    | .ok i => ((ctlOf i).bind (ctxOf { s with cur := some c })).map fun x => (x, i)
    | .error _ => none
  | _ => none
/-- A path that can issue: nothing holds its instruction, and no channel its words. -/
def State.ready (s : State) (c : Cursor) : Bool :=
  !s.reaches (fun s => s.run c) && match s.cursorWord c with
  | some (.ok w) => match decode w with
    | .ok _ => match s.cursorAt c with
      | some (x, i) => !mustHold x i
      | none => false
    | .error _ => true
  | some (.error _) => true
  | none => false
/-- A path that has come to an instruction listed in R401 which it may not perform yet keeps its place (R173, R287, R291). -/
def State.settlePlaces (s : State) (t gi : Nat) : State :=
  match s.group? t gi with
  | none => s
  | some g =>
    g.inClause.foldl (fun s m =>
      if (s.cursorAt (g.cursor t gi m)).any fun p => waitsHere p.1 p.2 then
        s.updGroup t gi fun g => g.updLanes m fun _ y => { y with fresh := none }
      else s) s
def State.readyPaths (s : State) (t gi : Nat) (g : Group) : List Cursor := (g.inClause.map (g.cursor t gi)).filter s.ready
/-- The two streams of a group's cycle: the state in which stream 0 runs, and its cursor (DEDUCED, log 4). -/
def State.streams? (s : State) (t gi : Nat) : Option (State × Cursor) := do
  let g ← s.group? t gi
  match s.readyPaths t gi g with
  | [] => none
  | [a] => some (s, a)
  | a :: b :: _ => some ({ s with stream1 := some b, snap := some g, snapSr := some (s.snapRegs t) }, a)
/-- A group's cycle: its places are filled and its first stream issues. Where no path can issue, the cycle counts only if a path parked at its
clause's check, has come to hold a place, or was passed over after a `yield`. -/
def State.groupCycle (s : State) (t gi : Nat) : Option (Host.Outcome State Fault Refusal) := do
  let g ← s.group? t gi
  let a := (s.arbitrate t gi g).settlePlaces t gi
  match a.streams? t gi with
  | some p => some (p.1.run p.2)
  | none =>
    let b := a.endCycle t gi
    if b.group? t gi = some g then none else some (.next { b with ended := some (t, gi) })
def State.groupActs (s : State) (t gi : Nat) : Bool :=
  match s.group? t gi with
  | none => false
  | some g =>
    let a := (s.arbitrate t gi g).settlePlaces t gi
    (a.streams? t gi).isSome || decide ((a.endCycle t gi).group? t gi ≠ some g)

/-- The order of a core's roles: copy, matrix, epilogue, general. -/
def roleRank (k : Nat) : Nat := match k with | 1 => 0 | 2 => 1 | 3 => 2 | _ => 3
/-- Groups that may issue: team, group, and the place and key by which their scheduler chooses. -/
def State.actors (s : State) : List (Nat × Nat × List Nat × List Nat) :=
  s.teams.flatMap fun p =>
    if p.2.st == .resident && !p.2.stopped && !p.2.ending then
      (p.2.groups.filter fun q => s.groupActs p.1 q.1).map fun q =>
        (p.1, q.1, [p.2.coreId, q.2.sched], [roleRank q.2.role, match q.2.lastIssue with | none => 0 | some n => n + 1, q.2.slot])
    else []
/-- The groups that their schedulers choose (R197). -/
def chosen (as : List (Nat × Nat × List Nat × List Nat)) : List (Nat × Nat × List Nat × List Nat) :=
  as.filter fun a => as.all fun b => b.2.2.1 != a.2.2.1 || (b.1 == a.1 && b.2.1 == a.2.1) || !lexLt b.2.2.2 a.2.2.2
/-- Of several schedulers, the one whose group issued least recently goes first (DESIGN CHOICE, log 3, DESIGN CHOICE, log 7). -/
def State.nextActor (s : State) : Option (Nat × Nat) :=
  let age := fun (a : Nat × Nat × List Nat × List Nat) => a.2.2.2.drop 1
  ((chosen s.actors).foldl (fun (m : Option (Nat × Nat × List Nat × List Nat)) a => match m with
    | none => some a
    | some b => if lexLt (age a) (age b) then some a else some b) none).map fun a => (a.1, a.2.1)

/-! ## Rows that are due -/

/-- A team that a claimed break has stopped (R423) (DEDUCED, log 24). -/
def stopRow (t : Nat) : Row := rowOf fun s => do
  let x ← s.team? t
  if x.st == .resident && x.stopped then some (s.stopTeam t) else none
/-- What the end of a group's cycle decides (R174): releases, timeouts, deadlock. -/
def groupEnd (t gi : Nat) : List Row :=
  (List.range 8).map (execRejoinRelease t gi) ++ [execRejoinTimeout t gi, execRejoinDeadlock t gi, stopRow t]
/-- The waiting groups whose scheduler has served another group in the cycle that has just closed. -/
def State.passedOver (s : State) (t gi : Nat) : List (Nat × Nat) :=
  match s.team? t, s.group? t gi with
  | some x, some g => (s.waiters x.die).filter fun q => q != (t, gi) && match s.team? q.1, s.group? q.1 q.2 with
    | some y, some h => y.coreId == x.coreId && h.sched == g.sched
    | _, _ => false
  | _, _ => []
/-- The end of the cycle that has just closed: of its group, and of the others of its scheduler. -/
def endRows (s : State) : List Row :=
  match s.ended with
  | some (t, gi) => groupEnd t gi ++ (s.passedOver t gi).map fun q => execRejoinTimeout q.1 q.2
  | none => []
/-- The end of a cycle in which a group issues nothing, since none of its paths can (R174, R181, R183). -/
def idleRows (s : State) : List Row :=
  (s.teams.filter fun p => p.2.st == .resident).flatMap fun p =>
    ((p.2.groups.filter fun q => q.2.lanes.any fun y => y.st == .waiting).filter fun q => !s.groupActs p.1 q.1).flatMap (fun q => groupEnd p.1 q.1)
    ++ [stopRow p.1]

/-- DESIGN CHOICE, log 3, DESIGN CHOICE, log 7. -/
def State.dueRows (s : State) : List Row := idleRows s ++ s.agentRows

/-! ## The tape -/

def okOf (r : Host.Outcome State Fault Refusal) : Option State := match r with | .next s => some s | _ => none
/-- A transition takes place, unless a channel holds it (R449). -/
def State.unheld (s : State) (r : Row) : Option State := if s.reaches r then none else okOf (r s)
/-- An input takes place, where it can (DESIGN CHOICE, log 3, DESIGN CHOICE, log 6, DESIGN CHOICE, log 8). -/
def State.perform (s : State) : Input → Option State
  | .event i => s.unheld (exec i)
  | .issue t g => if (chosen s.actors).any fun a => a.1 == t && a.2.1 == g then (s.groupCycle t g).bind okOf else none
  | .tick d n => some (s.tickDie d n)
  | .fillT1 sl d asid va => s.unheld fun s => .next (s.fillT1 sl d asid va)
  | .fillT2 sl d ipa => s.unheld fun s => .next (s.fillT2 sl d ipa)
  | .dropT1 k => some { s with tlb1 := s.tlb1.eraseIdx k }
  | .dropT2 k => some { s with tlb2 := s.tlb2.eraseIdx k }
  | .request r => if s.requests.any fun q => q.id == r.id then none else s.unheld fun s => .next (s.arrive r)
  | .answer id part v => if v = 1 ∨ v = 2 then some { s with verdicts := s.verdicts.set (partKey id part) v } else none
  | .block op part data tag => s.takeBlock op part data tag
  | .farStore p sl a m v => s.farStore p sl a m v
  | .farPublish p sl => s.farPublish p sl
  | .remap base size new => s.forward base size new
  | .unremap base => some (s.unforward base)
  | .remapAck ok => some { s with remapAck := some ok }
  | .contribute c => s.contribute c
  | .adoptBack t g n => some { s with adoptBack := s.adoptBack.set (agentOf t g) n }
  | .cpContext sl d => if (s.clustersOf sl d).isEmpty then none else some { s with cps := s.cps.set sl { s.cps.get sl with die := d } }
  | .firmware sl die asid image => s.unheld (rowOf fun s => s.startFirmware sl die asid image)
  | .barRead fn off => some { s with barReads := s.barReads ++ [s.barRead fn off] }
  | .barWrite fn off v => some (s.barWrite fn off v)
  | .route p k up => some { s with routes := if up then ((p, k) :: s.routes).eraseDups else s.routes.filter fun q => q != (p, k) }
  | .msixSent fn vec => some { s with msix := s.msix.set fn (s.msix.get fn &&& (2 ^ 64 - 1 - 2 ^ vec)) }
/-- The next input; one that cannot take place is passed over (DESIGN CHOICE, log 3). -/
def State.nextInput (s : State) (i : Input) (rest : List Input) : State :=
  let s := { s with agenda := rest }
  (s.perform i).getD s
/-- Time passes on every die (DESIGN CHOICE, log 3, DESIGN CHOICE, log 6). -/
def State.idle (s : State) : State := (List.range 4).foldl (fun s d => s.tickDie d 1) s

/-- The second stream's group still stands. -/
def State.streamStands (s : State) (c : Cursor) : Bool :=
  (s.team? c.team).any (fun x => x.st == .resident && !x.stopped && !x.ending) && (s.group? c.team c.grp).isSome
/-- Images receive what was delivered to their suspended teams, but for the lines that cores hold (R208) (DEDUCED, log 35). -/
def State.deliver (old s : State) : State :=
  s.teams.foldl (fun s p => if p.2.st == .resident then s else
    match old.team? p.1 with
    | some x => if x.st != .resident && x != p.2 then s.mirror p.1 x p.2 (old.matrixBusy p.1) else s
    | none => s) s

end Sys2Proof.Machine
end

