-- ==== Sys2Proof/Machine/Step.lean ====
section
/-!
DEFINITION. One step of the machine, and the placing of one instruction where the next step fetches. A step is the issue of one
stream of one group's cycle, the start of its clauses, a transition of another agent, or the passing of time; the order in which they
come where the spec leaves it open is the tape's.
-/
namespace Sys2Proof.Machine

/-- What a step's state delivers into images at STATUS 1. -/
def delivered (s : State) : Host.Outcome State Fault Refusal → Host.Outcome State Fault Refusal
  | .next t => .next (State.deliver s t)
  | o => o

/-- Which transition comes next: the cycle's second stream; what its end decides; the tape's next input; a row that is due; the group that
its scheduler chooses; else time passes (DESIGN CHOICE, log 3, DEDUCED, log 4, DESIGN CHOICE, log 7). -/
def step (s : State) : Host.Outcome State Fault Refusal :=
  match s.stream1 with
  | some c =>
    if s.streamStands c then delivered s (({ s with stream1 := none } : State).run c)
    else .next { s.endCycle c.team c.grp with stream1 := none, snap := none, snapSr := none, ended := some (c.team, c.grp) }
  | none =>
    match firstNext s (endRows s) with
    | some t => delivered s (.next t)
    | none =>
      let s := { s with ended := none }
      match s.agenda with
      | i :: rest => delivered s (.next (s.nextInput i rest))
      | [] =>
        match firstNext s s.dueRows with
        | some t => delivered s (.next t)
        | none =>
          match s.nextActor.bind fun a => s.groupCycle a.1 a.2 with
          | some o => delivered s o
          | none => .next s.idle

/-! ## Placing an instruction -/

/-- IMM of a header of one instruction whose slots name flags 0 and 1. -/
def probeHeader : Word := 0x00630000#32
/-- The placed team's number: above every team's. -/
def State.freeTeam (s : State) : Nat := s.teams.foldl (fun m p => max m (p.1 + 1)) 0
/-- The slice that holds channel 0. -/
def State.owner0 (s : State) : Nat := (((s.slices.find? 0).bind fun x => if x.chans.contains 0 then some 0 else none).orElse fun _ =>
  (List.find? (fun (p : Nat × SliceSt) => p.2.chans.contains 0) s.slices).map (·.1)).getD 192

/-- A privileged team of one group on core 0 of die 0, all lanes in a clause at address 0, before its instruction at address 12 (DESIGN CHOICE, log 3). -/
def probeTeam (sl : Nat) : Team :=
  { slice := sl, priv := true, aregs := 64, sregs := 128, tiles := 8, tmemSize := 262144, obufSize := 196608, image := 2 ^ 20,
    groups := [(0, { lanes := List.replicate 32 { st := .running, pc := 12#64, off := 1, hdr := some probeHeader }, recs := [(0, { fmt := launchFmts })],
                     vcur := 256, vmax := 256 })] }
def probeCursor (t : Nat) : Cursor := { team := t, grp := 0, rc := 0, m := 0xFFFFFFFF#32, pc := 12#64, pos := 1, hdr := probeHeader }

/-- The state with one instruction placed as the one its next step issues: a loaded kernel's team stands in the middle of a clause whose
word is the instruction, in memory that its slice owns and its die translates (DESIGN CHOICE, log 3). -/
def State.withFetchWord (s : State) (nbits w : Nat) : State :=
  let t := s.freeTeam
  let sl := s.owner0
  let header : BitVec 96 := 0x001F0000#32 ++ 0#32 ++ probeHeader
  { s with
    mem := s.mem.setRun 0 (wordBytes header ++ wordBytes (BitVec.ofNat 96 (w % 2 ^ nbits))), poison := s.poison.erase 0,
    chans := s.chans.set 0 { s.chans.get 0 with failed := false },
    tlb1 := { slice := sl, die := 0, asid := 0, va := 0, bits := 14, ipa := 0, perm := 15#4 } :: s.tlb1,
    tlb2 := { slice := sl, die := 0, ipa := 0, bits := 14, pa := 0, perm := 7#4 } :: s.tlb2,
    teams := s.teams.put t (probeTeam sl), stream1 := some (probeCursor t), snap := none, snapSr := none, ended := none, cur := none }

end Sys2Proof.Machine
end

