-- ==== Sys2Proof/Safety.lean ====
section
/-!
DEFINITION. What counts as a safe step, the invariants that statements use, and what they say of a step: which path issues, what is seen of
a state, and what an instruction leaves as it was.
-/
namespace Sys2Proof.Machine

/-- A step is safe when it neither faults nor is refused. -/
def stepSafe (s : State) : Prop := ∃ t, step s = .next t

/-- Memory holds its canonical form: addresses strictly rising, no entry equal to what an unlisted address reads as. -/
abbrev Memory.wf (m : SMap Byte) : Bool := m.wf
def State.memOk (s : State) : Prop := Memory.wf s.mem = true

/-- No path issues between steps, but for the second stream of a cycle that is under way. -/
def State.between (s : State) : Prop := s.cur = none

/-! ## The issuing path -/

/-- The lanes of the path run in one state, at one PC, in the clause whose header is in force (R68, R174). -/
def Ctx.onPath (x : Ctx) : Prop :=
  ∀ l, l < 32 → x.cur.m.getLsbD l = true → x.g.runs l = true ∧ (x.g.lane l).rc = x.cur.rc ∧ (x.g.lane l).pc = x.cur.pc
    ∧ (x.g.lane l).off = x.cur.pos ∧ (x.g.lane l).hdr = some x.cur.hdr

/-- The instruction `i` is due on the path that `x` describes in `s`: its group and state are there. -/
structure Due (i : Instr) (s : State) (x : Ctx) : Prop where
  ctx : (ctlOf i).bind (ctxOf s) = some x
  path : x.onPath

/-- The instruction issues and reaches its own effect: nothing holds it (R173), some lane is in its effective mask (R18), and no fault of
orders 2 to 5 is found (R28, R71, R75). -/
structure Issues (i : Instr) (s : State) (x : Ctx) : Prop extends Due i s x where
  free : mustHold x i = false
  precise : preciseFault x i = none
  lanes : x.e ≠ 0#32
  budget : regBudget x i = false
  whole : partialWrite x i = false

/-! ## What is seen of a state -/

/-- The state record of a lane. -/
def Group.recOf (g : Group) (l : Nat) : StRec := g.getRec (g.lane l).rc
/-- A state record but for its mode: the end of a cycle may make a resumed sub-group the main state (R78). -/
def StRec.core (r : StRec) : StRec := { r with mode := .main }
/-- A lane but for the number of its record, which the end of a cycle may change (R200), and where it stands at the end of a cycle in which its path was
chosen and has issued nothing (R173). -/
def Lane.core (y : Lane) : Lane := { y.unstart with rc := 0 }
/-- A group but for what Eff names below, and the marks of its issue: flags, VCUR, its place, holds, faults found and not yet taken, and
its views of memory. -/
def Group.rest (g : Group) : Group :=
  { g with lanes := [], recs := [], preds := [], v := [], jm := [], fpStatus := 0#32, fpRaised := 0#32, lastIssue := none,
           holds := g.holds.map fun h => { h with rc := 0 } }
/-- Everything but one group and the marks of its issue: memory, teams, other groups, operations in flight, and every register that is no
group's. -/
def State.rest (s : State) (t gi : Nat) : State :=
  { (s.updTeam t fun x => { x with groups := x.groups.erase gi, lastTick := 0 }) with
    ops := s.ops.map fun o => if o.team = t ∧ o.grp = gi then { o with rc := 0 } else o, stamp := 0, cur := none, snap := none, snapSr := none,
    ended := none }

/-! ## Effects on the register files -/

/-- The result of an instruction by destination. -/
structure Eff where
  /-- width in registers, destination, and the result of each lane -/
  v : Option (Nat × Dst × (Nat → Nat)) := none
  u : Option (Nat × Dst × Nat) := none
  a : Option (Dst × Aff) := none
  /-- predicates and their values by lane, in order -/
  p : List (Nat × (Nat → Bool)) := []
  j : Option (Nat × Word) := none
  /-- exceptions raised -/
  fp : FpExc := 0#5
  /-- where each lane of the effective mask goes -/
  go : Nat → Nxt := fun _ => .seq
  /-- the path ranks last in its next arbitration (R178) -/
  yld : Bool := false
  /-- the path holds at the instruction (R173), and whether it held before its issue: nothing then is issued -/
  stay : Bool := false
  idle : Bool := false
  /-- what becomes of the state's record beside its s and a registers -/
  r : StRec → StRec := fun r => r

/-- A pair of registers holds a 64-bit result, its low half first (R48); a discarded result is written nowhere (R16). -/
def regAfter (k : Nat) (d : Dst) (val n : Nat) (old : Word) : Word :=
  match d with
  | .discard => old
  | .reg r => if n = r then BitVec.ofNat 32 val else if k = 2 ∧ n = r + 1 then BitVec.ofNat 32 (val / 2 ^ 32) else old
def Eff.vAfter (E : Eff) (e : Mask) (n l : Nat) (old : Word) : Word :=
  match E.v with
  | some (k, d, f) => if e.getLsbD l then regAfter k d (f l) n old else old
  | none => old
def Eff.sAfter (E : Eff) (n : Nat) (old : Word) : Word :=
  match E.u with
  | some (k, d, val) => regAfter k d val n old
  | none => old
def Eff.aAfter (E : Eff) (n : Nat) (old : Aff) : Aff :=
  match E.a with
  | some (.reg r, val) => if n = r then val else old
  | _ => old
/-- p15 ignores writes (R79). -/
def Eff.pAfter (E : Eff) (e : Mask) (n l : Nat) (old : Bool) : Bool :=
  E.p.foldl (fun o q => if q.1 = n ∧ n ≠ 15 ∧ e.getLsbD l = true then q.2 l else o) old
def Eff.jAfter (E : Eff) (n : Nat) (old : Word) : Word :=
  match E.j with
  | some (j, w) => if n = j then w else old
  | none => old

/-- A lane of the path as the instruction leaves it, before it goes on. -/
def Eff.laneOf (E : Eff) (x : Ctx) (l : Nat) : Lane := if E.yld then { x.g.lane l with yld := true } else x.g.lane l

/-- `t` is what the instruction of path `x` leaves: its results stand in the registers that Eff names, and its lanes go on; every other
register and lane is as it was; its group's other parts are those of `g`; memory, teams, other groups, operations and all else are
those of `b`. -/
structure Leaves (x : Ctx) (E : Eff) (b : State) (g : Group) (t : State) (y : Group) : Prop where
  group : t.group? x.cur.team x.cur.grp = some y
  outside : t.rest x.cur.team x.cur.grp = b.rest x.cur.team x.cur.grp
  shared : y.rest = g.rest
  lane : ∀ l, l < 32 → (y.lane l).core =
    (if x.cur.m.getLsbD l = true ∧ E.idle = false then
      if E.stay then { x.g.lane l with fresh := none } else (E.laneOf x l).go x.c (if x.e.getLsbD l then E.go l else .seq)
    else x.g.lane l).core
  v : ∀ n l, l < 32 → y.getV n l = E.vAfter x.e n l (x.g.getV n l)
  p : ∀ n l, l < 32 → y.getP n l = E.pAfter x.e n l (x.g.getP n l)
  j : ∀ n, y.getJ n = E.jAfter n (x.g.getJ n)
  fp : y.fpStatus = x.g.fpStatus ||| E.fp.setWidth 32
  own : ∀ l, l < 32 → (y.lane l).st ≠ .exited → (x.g.lane l).rc = x.cur.rc →
    (∀ n, (y.recOf l).getS n = E.sAfter n (x.st.getS n)) ∧ (∀ n, (y.recOf l).getA n = E.aAfter n (x.st.getA n))
    ∧ ({ y.recOf l with s := [], a := [] } : StRec).core = ({ E.r x.st with s := [], a := [] } : StRec).core
  others : ∀ l, l < 32 → (y.lane l).st ≠ .exited → (x.g.lane l).rc ≠ x.cur.rc → (y.recOf l).core = (x.g.recOf l).core
/-- Nothing but registers of the group changes: no byte of memory, no operation, no other group. -/
abbrev Did (x : Ctx) (E : Eff) (t : State) (y : Group) : Prop := Leaves x E x.s x.g t y

/-! ## Taking a fault or trap (R77, R90, R184, R185) -/

/-- The sub-group is held: its team names no handler, or a debugger has claimed the break. -/
def Ctx.holds (x : Ctx) (f : Flt) : Bool := f.claimed || x.tm.handler.isNone
/-- Where the lanes resume (R184): at the instruction; after a trap, at the next one, which stands in the next clause when END is set. -/
def Ctx.resumePc (x : Ctx) (f : Flt) : Dword := if f.after then x.cur.pc + 12#64 else x.cur.pc
def Ctx.resumeOff (x : Ctx) (f : Flt) : Nat := if f.after then (if x.c.fin then 0 else x.cur.pos + 1) else x.cur.pos
/-- The fault record of a held sub-group, for the slice firmware (R185, R419, R423). -/
def Ctx.report (x : Ctx) (f : Flt) (s : State) : State :=
  if x.holds f then
    s.raise x.tm.slice x.tm.die
      { kind := 0, src := x.tm.coreId, cls := f.cls.code, addr := f.addr, image := x.tm.image, pc := (x.resumePc f).toNat, lanes := f.lanes,
        grp := x.cur.grp, state := x.cur.rc, event := if f.claimed then 5 else 0, detail := f.detail }
  else s

/-- The lanes of the fault `f` have left the path of `x` for one new sub-group; the path's other lanes go on; registers, other lanes,
other states and all else are as in `b`. -/
structure Parks (x : Ctx) (f : Flt) (b t : State) (y : Group) : Prop where
  group : t.group? x.cur.team x.cur.grp = some y
  outside : t.rest x.cur.team x.cur.grp = (x.report f b).rest x.cur.team x.cur.grp
  shared : y.rest = x.g.rest
  regs : y.v = x.g.v ∧ y.preds = x.g.preds ∧ y.jm = x.g.jm ∧ y.fpStatus = x.g.fpStatus
  /-- in the handler's clause, or held at the place recorded -/
  lane : ∀ l, l < 32 → f.lanes.getLsbD l = true → (y.lane l).core =
    { (x.g.lane l).core with st := .running, hdr := none, wdl := none, yld := false, pc := if x.holds f then x.resumePc f else x.tm.handler.getD 0#64,
                             off := if x.holds f then x.resumeOff f else 0 }
  one : ∀ l k, l < 32 → k < 32 → f.lanes.getLsbD l = true → f.lanes.getLsbD k = true → (y.lane l).rc = (y.lane k).rc
  /-- a copy of the state's s, a, fmt and FP_CTL, with its resume record and PARK_INFO -/
  copy : ∀ l, l < 32 → f.lanes.getLsbD l = true → y.recOf l =
    { x.st with mode := if x.holds f then .held else .handling, hasRec := true, pc := x.resumePc f, off := x.resumeOff f, cls := f.cls.code,
                skid := 0, code := f.code, hasReplay := false, replay := { faddr := BitVec.ofNat 64 f.addr }, rpend := 0#32, dbgImg := 0#64, dbgStat := 0#32, claimed := f.claimed }
  onward : ∀ l, l < 32 → f.lanes.getLsbD l = false → (y.lane l).core = (if x.cur.m.getLsbD l then (x.g.lane l).advance x.c else x.g.lane l).core
  /-- a group with a record to spare: the sub-group stands in it, beside the states of the other lanes -/
  others : (∃ n, n < 32 ∧ x.g.recs.find? n = none) → ∀ l, l < 32 → f.lanes.getLsbD l = false → (y.lane l).st ≠ .exited →
    x.g.recs.find? (x.g.lane l).rc ≠ none →
    (y.recOf l).core = (x.g.recOf l).core ∧ ∀ k, k < 32 → f.lanes.getLsbD k = true → (y.lane k).rc ≠ (y.lane l).rc

/-- Every byte of memory reads as before: memory is outside the group. -/
def State.sameMem (s t : State) : Prop := ∀ a, t.byte a = s.byte a

end Sys2Proof.Machine
end

