-- ==== Sys2Proof/Safety/Engines.lean ====
section
/-!
DEFINITION. What the rules say of the results of atomics (spec/09 R240, R242), of the matrix engine (spec/10 R268, R277-R282), of its drains with the
quantising store (spec/10 R284, R285, spec/04 R105-R116), and of collectives (spec/20 R468, R469), in the rules' own terms.
-/
namespace Sys2Proof.Machine

/-! ## Atomics (R240, R242) -/

/-- The new value; none where a compare fails. -/
def ruleAtom {w : Nat} (op : AtomOp) (old b c : BitVec w) : Option (BitVec w) :=
  match op with
  | .add => some (old + b)
  | .minI => some (if old.slt b then old else b)
  | .maxI => some (if b.slt old then old else b)
  | .minN => some (if old.ult b then old else b)
  | .maxN => some (if b.ult old then old else b)
  | .and => some (old &&& b)
  | .or => some (old ||| b)
  | .xor => some (old ^^^ b)
  | .exch => some b
  | .cas => if old = c then some b else none
  | .addF => none
def atomFT (w64 : Bool) : FT := if w64 then .f64 else .f32
structure AtomicRules : Prop where
  op : ∀ (w64 : Bool) (op : AtomOp) (old b c : BitVec (wOf w64)), op ≠ .addF →
    atomNew op w64 (atomFAdd w64) old.toNat b.toNat c.toNat = (ruleAtom op old b c).map BitVec.toNat
  /-- a float sum is rounded once, to nearest; its NaNs and zeros are those of `add` (R97, R150) -/
  floatAdd : ∀ (w64 : Bool) (old b c : Nat), atomNew .addF w64 (atomFAdd w64) old b c =
    some ((fmtT (atomFT w64)).arith .rne false (fAdd .rne ((fmtT (atomFT w64)).read old) ((fmtT (atomFT w64)).read b))).v
  /-- old: the bytes at the lane's address, the lowest first -/
  reads : ∀ (s : State) (it : Item), ∀ p ∈ it.bytes, BitVec.ofNat 8 (s.readItem it / 2 ^ (8 * p.1)) = s.byte p.2
  /-- one lane: new is stored unless a compare fails, and no other byte changes -/
  stores : ∀ (s : State) (o : Op) op w64 ret (it : Item),
    let new := atomNew op w64 (atomFAdd w64) (s.readItem it) it.data it.cmp
    let t := s.atomicItem o op w64 ret it
    (∀ a, new = none ∨ (∀ p ∈ it.bytes, p.2 ≠ a) → t.byte a = s.byte a)
    ∧ ∀ v, new = some v → (it.bytes.map (·.2)).Nodup → ∀ p ∈ it.bytes, t.byte p.2 = BitVec.ofNat 8 (v / 2 ^ (8 * p.1))
  /-- and d[L] takes old, where the instruction has a destination -/
  writes : ∀ (s : State) (o : Op) op w64 (it : Item) (g : Group) (d : DstRun), s.group? o.team o.grp = some g → o.dst = some d → d.uni = false → o.skip = [] →
    it.lane < 32 → (g.lane it.lane).st ≠ .exited →
    ∃ y, (s.atomicItem o op w64 true it).group? o.team o.grp = some y ∧ ∀ n l, l < 32 →
      y.getV n l = if l = it.lane then regAfter (if w64 then 2 else 1) (.reg d.n) (s.readItem it) n (g.getV n l) else g.getV n l
  /-- the lanes one after another, each on what those before it have left; then the adopt of an acquiring one -/
  lanes : ∀ (s : State) (o : Op) op w64 sc ord ret,
    let all := o.items.foldl (fun s it => s.atomicItem o op w64 ret it) s
    (ord = .rlx ∨ ord = .rel → s.performAtomic o op w64 sc ord ret = all)
    ∧ (ord = .acq ∨ ord = .ar → s.performAtomic o op w64 sc ord ret = all.adoptAt o.team o.grp sc [] o.id)
  /-- `atomtm`: the same on team memory, in its order T -/
  team : ∀ (x : Team) op w64 (it : Item) its, ∃ k r, popcN 32 it.mask = k ∧ r = x.tread it.addr k
    ∧ (∀ v, atomNew op w64 (atomFAdd w64) r it.data it.cmp = some v →
      performItems (.tatomic op w64) x (it :: its) =
        ((performItems (.tatomic op w64) (x.twrite it.addr k v).settleBars its).1,
         { it with res := r } :: (performItems (.tatomic op w64) (x.twrite it.addr k v).settleBars its).2))
    ∧ (atomNew op w64 (atomFAdd w64) r it.data it.cmp = none →
      performItems (.tatomic op w64) x (it :: its) =
        ((performItems (.tatomic op w64) x its).1, { it with res := r } :: (performItems (.tatomic op w64) x its).2))

/-! ## Blocks and operands (R104-R110, R267, R268, R277) -/

/-- The float format of an element (R105). -/
def elemFmt (w lt : Nat) : Fmt :=
  if w = 8 then (if lt = 0 then { e := 4, m := 3, bias := 7, spec := .fn } else { e := 5, m := 2, bias := 15, spec := .ieee })
  else if w = 6 then (if lt = 0 then { e := 2, m := 3, bias := 1, spec := .fn } else { e := 3, m := 2, bias := 3, spec := .fn })
  else { e := 2, m := 1, bias := 1, spec := .blk }
/-- SpecialMag, in quarters (R110). -/
def specialQuarters (ix : Nat) : Nat := [1, 3, 5, 7, 10, 14, 18, 20].getD ix 0
/-- The value of code c under header h (R107). -/
def ruleElem (w : Nat) (h : BitVec 16) (level : Nat → Nat → Nat) (c : Nat) : FVal :=
  let scale := (h.extractLsb' 8 8).toNat
  let lt := (h.extractLsb' 0 2).toNat
  let sc : Int := (scale : Int) - 127
  if scale = 255 then .dnan
  else match (h.extractLsb' 6 2).toNat with
    | 0 => (ofInt (signedN w c)).scale sc
    | 1 => if w = 4 ∧ c = 8 then .num (h.getLsbD 5) (specialQuarters (h.extractLsb' 2 3).toNat) (sc - 2) false else ((elemFmt w lt).read c).scale sc
    | _ => (ofInt (signedN 8 (level lt c))).scale sc
/-- A malformed header, beside NLT bound tables (R106, R268). -/
def ruleMalformed (w nlt : Nat) (h : BitVec 16) : Prop :=
  let sel := (h.extractLsb' 6 2).toNat
  let lt := (h.extractLsb' 0 2).toNat
  sel = 3 ∨ sel = 1 ∧ (2 ≤ lt ∨ w = 4 ∧ lt = 1) ∨ sel = 0 ∧ lt ≠ 0 ∨ h.extractLsb' 2 4 ≠ 0#4 ∧ ¬ (sel = 1 ∧ w = 4)
  ∨ h.extractLsb' 8 8 = 0xFF#8 ∧ h.extractLsb' 0 8 ≠ 0#8 ∨ sel = 2 ∧ nlt ≤ lt

/-- A reservation record's fields (R267), in bytes where it counts units. -/
structure Operand where
  base : Nat
  fk : Nat
  nlt : Nat
  hoff : Nat
def operandOf (v : Dword) : Operand :=
  { base := 1024 * (v.extractLsb' 0 8).toNat, fk := (v.extractLsb' 16 3).toNat, nlt := (v.extractLsb' 19 3).toNat, hoff := 256 * (v.extractLsb' 22 10).toNat }
/-- w and UB by kind (R268). -/
def Operand.width (r : Operand) : Nat := [16, 16, 8, 6, 4, 8, 6, 4].getD r.fk 0
def Operand.unit (r : Operand) : Nat := [64, 64, 32, 28, 16, 32, 28, 16].getD r.fk 0
def Operand.blocks (r : Operand) : Bool := r.fk == 2 || r.fk == 3 || r.fk == 4
/-- The code of element t of line l in K-group g: bits of its unit, five 6-bit codes to a 32-bit word (R101, R108, R268). -/
def Operand.codeAt (r : Operand) (x : Team) (g l t : Nat) : Nat :=
  let start := r.base + (if r.blocks then 256 * r.nlt else 0) + (64 * g + l) * r.unit
  let lo := if r.width = 6 then 32 * (t / 5) + 6 * (t % 5) else r.width * t
  ((List.range r.width).map fun b => if (x.obuf.get (start + (lo + b) / 8)).getLsbD ((lo + b) % 8) then 2 ^ b else 0).sum
/-- The offset of a unit's header within the operand buffer, and the header. -/
def Operand.headerAt (r : Operand) (g l : Nat) : Nat := r.base + r.hoff + 2 * (64 * g + l)
def Operand.headerOf (r : Operand) (x : Team) (g l : Nat) : BitVec 16 := x.obuf.get (r.headerAt g l + 1) ++ x.obuf.get (r.headerAt g l)
/-- Element t of line l in K-group g (R277). -/
def Operand.valueAt (r : Operand) (x : Team) (g l t : Nat) : FVal :=
  let c := r.codeAt x g l t
  if r.fk = 0 then (fmtT .f16).read c
  else if r.fk = 1 then (fmtT .bf16).read c
  else if r.blocks then ruleElem r.width (r.headerOf x g l) (fun m c => (x.obuf.get (r.base + 256 * m + c)).toNat) c
  else ofInt (signedN r.width c)

/-! ## Multiply-accumulate (R278-R280, R282) -/

/-- X + S for one K-group's 32 pairs, rounded once; and whether zero-count mode has written +0 for a NaN (R278, R279). -/
def accRule (nz : Bool) (old : Dword) (ps : List (FVal × FVal)) : Dword × Bool :=
  let x := (fmtT .f64).read old.toNat
  let vs := x :: ps.map fun p => (fMul p.1 p.2).v
  let undefined := ps.any fun p => p.1.isNaN || p.2.isNaN || (p.1.isZero && p.2.isInf) || (p.1.isInf && p.2.isZero)
  if x.isNaN || undefined || (vs.contains (.inf false) && vs.contains (.inf true)) then
    if nz then (0#64, true) else if x.isNaN then (old, false) else (0x7FF8000000000000#64, false)
  else if vs.contains (.inf false) then (0x7FF0000000000000#64, false)
  else if vs.contains (.inf true) then (0xFFF0000000000000#64, false)
  else (BitVec.ofNat 64 ((fmtT .f64).write .rne false (sumNum .rne vs)).v, false)
/-- What an `mma` reads: G K-groups of each operand, from ga and from gb on. -/
structure Product where
  x : Team
  nz : Bool
  G : Nat
  ga : Nat
  gb : Nat
  a : Operand
  b : Operand
/-- In zero-count mode a NaN element is taken as +0 (R279). -/
def Product.elem (p : Product) (v : FVal) : FVal := if p.nz && v.isNaN then .num false 0 0 false else v
def Product.pairs (p : Product) (g i j : Nat) : List (FVal × FVal) :=
  (List.range 32).map fun t => (p.elem (p.a.valueAt p.x (p.ga + g) i t), p.elem (p.b.valueAt p.x (p.gb + g) j t))
/-- X[i][j] before K-group g, in float mode. -/
def Product.floatAt (p : Product) (old : Dword) (i j g : Nat) : Dword := (List.range g).foldl (fun y k => (accRule p.nz y (p.pairs k i j)).1) old
/-- The exact sum of a K-group's products of integer codes. -/
def Product.intSum (p : Product) (g i j : Nat) : Int :=
  ((List.range 32).map fun t => signedN p.a.width (p.a.codeAt p.x (p.ga + g) i t) * signedN p.b.width (p.b.codeAt p.x (p.gb + g) j t)).sum
def Product.intAt (p : Product) (old : Dword) (i j g : Nat) : Dword := (List.range g).foldl (fun y k => BitVec.ofInt 64 (y.toInt + p.intSum k i j)) old
/-- NaN elements that an operand shows in the K-groups read. -/
def Operand.nans (r : Operand) (x : Team) (g0 G : Nat) : Nat :=
  ((List.range G).flatMap fun g => (List.range 64).flatMap fun l => (List.range 32).map fun t => (g, l, t)).countP
    fun q => (r.valueAt x (g0 + q.1) q.2.1 q.2.2).isNaN
/-- Elements of the tile at which zero-count mode writes +0 for a NaN. -/
def Product.zeroed (p : Product) (n : Nat) : Nat :=
  ((List.range p.G).flatMap fun g => (List.range 64).flatMap fun i => (List.range 64).map fun j => (g, i, j)).countP
    fun q => (accRule p.nz (p.floatAt (p.x.elem n q.2.1 q.2.2) q.2.1 q.2.2 q.1) (p.pairs q.1 q.2.1 q.2.2)).2
structure MmaRules : Prop where
  /-- R278: K-groups in ascending order, one rounding for each -/
  float : ∀ (p : Product) (va vb : Dword) n i j, p.a = operandOf va → p.b = operandOf vb → i < 64 → j < 64 →
    (p.x.accumulate false p.nz p.G p.ga p.gb n (resvOf va) (resvOf vb)).elem n i j = p.floatAt (p.x.elem n i j) i j p.G
  /-- R280 -/
  int : ∀ (p : Product) (va vb : Dword) n i j, p.a = operandOf va → p.b = operandOf vb → 5 ≤ p.a.fk → 5 ≤ p.b.fk → p.nz = false → i < 64 → j < 64 →
    (p.x.accumulate true false p.G p.ga p.gb n (resvOf va) (resvOf vb)).elem n i j = p.intAt (p.x.elem n i j) i j p.G
  /-- the status word: OVF, IMODE, FIXED, and NAN, which saturates (R276, R279, R280) -/
  status : ∀ (p : Product) (va vb : Dword) n int, p.a = operandOf va → p.b = operandOf vb → (int = true → 5 ≤ p.a.fk ∧ 5 ≤ p.b.fk ∧ p.nz = false) →
    let old := p.x.xstat.get n
    let w := (p.x.accumulate int p.nz p.G p.ga p.gb n (resvOf va) (resvOf vb)).xstat.get n
    let beyond := ∃ g < p.G, ∃ i < 64, ∃ j < 64, let t := (p.intAt (p.x.elem n i j) i j g).toInt + p.intSum g i j
      t < -2 ^ 63 ∨ 2 ^ 63 - 1 < t
    let nans := if p.nz then p.a.nans p.x p.ga p.G + p.b.nans p.x p.gb p.G + p.zeroed n else 0
    (w.getLsbD 31 = true ↔ old.getLsbD 31 = true ∨ int = true ∧ beyond) ∧ w.getLsbD 30 = (if old.getLsbD 29 then old.getLsbD 30 else int)
    ∧ w.getLsbD 29 = true ∧ (w.extractLsb' 0 29).toNat = min (2 ^ 29 - 1) ((old.extractLsb' 0 29).toNat + nans)
  /-- nothing else of the team changes -/
  frame : ∀ (x : Team) int nz G ga gb n a b, let t := x.accumulate int nz G ga gb n a b
    t = { x with tile := t.tile, xstat := t.xstat } ∧ ∀ m, m ≠ n → t.xstat.get m = x.xstat.get m ∧ ∀ i j, i < 64 → j < 64 → t.elem m i j = x.elem m i j
  /-- R282: the first malformed header, lowest K-group first, then A before B, then the lowest line -/
  headers : ∀ (x : Team) (va vb : Dword) ga gb G,
    let r := fun (side : Nat) => if side = 0 then operandOf va else operandOf vb
    let k := fun side g => if side = 0 then ga + g else gb + g
    let bad := fun (g side l : Nat) => (r side).blocks = true ∧ ruleMalformed (r side).width (r side).nlt ((r side).headerOf x (k side g) l)
    (badHeader x (resvOf va) (resvOf vb) ga gb G = none ↔ ∀ g < G, ∀ side < 2, ∀ l < 64, ¬ bad g side l)
    ∧ ∀ a, badHeader x (resvOf va) (resvOf vb) ga gb G = some a ↔ ∃ g < G, ∃ side < 2, ∃ l < 64, bad g side l ∧ a = (r side).headerAt (k side g) l
      ∧ ∀ g' < G, ∀ side' < 2, ∀ l' < 64, bad g' side' l' → g < g' ∨ g = g' ∧ (side < side' ∨ side = side' ∧ l ≤ l')

/-! ## The quantising store (R111-R116), in units of 2^-1300 -/

/-- One block to be written: the width, the float variant, the bound level table with its number, and the 32 values. -/
structure Quant where
  w : Nat
  variant : Nat
  levels : Option (Nat × List Nat)
  xs : List FVal
/-- A candidate as the store tries it: its selector and special code, its scale, and the codes. -/
structure Try where
  sel : Nat
  sp : Nat
  s : Int
  codes : List Nat
/-- The value of a code in a candidate's set V, in units of 2^-16 (R112). -/
def Quant.inV (q : Quant) (sel sp c : Nat) : Option Int :=
  if 2 ^ q.w ≤ c then none
  else match sel with
    | 0 => if c = 2 ^ (q.w - 1) then none else some (2 ^ 16 * signedN q.w c)
    | 1 => if q.w = 4 ∧ c = 8 then some ((if 8 ≤ sp then -1 else 1) * (2 ^ 14 * specialQuarters (sp % 8) : Nat))
      else match (elemFmt q.w q.variant).read c with
        | .num n m e st => some (scaled (-16) (.num n m e st))
        | _ => none
    | _ => (q.levels.bind fun t => t.2[c]?).map fun v => 2 ^ 16 * signedN 8 v
/-- G of R112, in units of 2^-16. -/
def Quant.top (q : Quant) (sel : Nat) : Nat :=
  match sel with
  | 0 => 2 ^ 16 * (2 ^ (q.w - 1) - 1)
  | 1 => if q.w = 4 then 2 ^ 16 * 6 else if q.w = 6 then (if q.variant = 0 then 2 ^ 15 * 15 else 2 ^ 16 * 28)
    else if q.variant = 0 then 2 ^ 16 * 448 else 2 ^ 16 * 57344
  | _ => ((q.levels.map fun t => t.2.map fun v => 2 ^ 16 * (signedN 8 v).natAbs).getD []).foldl max 0
/-- The candidates in their order: integer, float with every special code where w is 4, levels where a table is bound (R113). -/
def Quant.tried (q : Quant) (sel sp : Nat) : Prop :=
  sel = 0 ∧ sp = 0 ∨ sel = 1 ∧ (sp = 0 ∨ q.w = 4 ∧ sp < 16) ∨ sel = 2 ∧ sp = 0 ∧ q.levels.isSome = true
/-- A number of units at a scale: 2^-16 times 2^s is 2^(s + 1284) units. -/
def atScale (s : Int) (v : Int) : Int := v * 2 ^ (s + 1284).toNat
def Quant.x (q : Quant) (i : Nat) : Int := scaled (-1300) (q.xs.getD i (.num false 0 0 false))
def Quant.most (q : Quant) : Nat := ((List.range 32).map fun i => (q.x i).natAbs).foldl max 0
/-- TowardZero (R114): the code c for y, where `val` gives each code's value. -/
def towardZeroRule (val : Nat → Option Int) (y : Int) (c : Nat) : Prop :=
  ∃ v, val c = some v ∧ (∀ d, val d = some v → c ≤ d) ∧
    let fits := fun (u : Int) => (u = 0 ∨ 0 < u ∧ 0 < y ∨ u < 0 ∧ y < 0) ∧ u.natAbs ≤ y.natAbs
    ((∃ d u, val d = some u ∧ fits u) → fits v ∧ ∀ d u, val d = some u → fits u → u.natAbs ≤ v.natAbs)
    ∧ (¬ (∃ d u, val d = some u ∧ fits u) → ∀ d u, val d = some u → (v - y).natAbs ≤ (u - y).natAbs
      ∧ ((v - y).natAbs = (u - y).natAbs → u ≠ v → (0 ≤ y → 0 < v) ∧ (y < 0 → v < 0)))
/-- What R113 computes for a candidate: its scale, and the code of each element. -/
def Quant.tries (q : Quant) (t : Try) : Prop :=
  q.tried t.sel t.sp ∧ -127 ≤ t.s ∧ t.s ≤ 127
  ∧ (∀ r : Int, -127 ≤ r → r < t.s → ¬ (q.most : Int) ≤ atScale r (q.top t.sel)) ∧ ((q.most : Int) ≤ atScale t.s (q.top t.sel) ∨ t.s = 127)
  ∧ t.codes.length = 32 ∧ ∀ i < 32, towardZeroRule (fun c => (q.inV t.sel t.sp c).map (atScale t.s)) (q.x i) (t.codes.getD i 0)
/-- RoundTZ to binary64: 53 bits, nothing below 2^-1074, which is 2^226 units, and at most the largest finite number (R99). -/
def truncUnits (n : Nat) : Nat := min ((2 ^ 53 - 1) * 2 ^ 2271) (n / 2 ^ max (Nat.log2 n - 52) 226 * 2 ^ max (Nat.log2 n - 52) 226)
def Quant.err (q : Quant) (t : Try) : Nat :=
  (List.range 32).foldl (fun e i => truncUnits (e + truncUnits (q.x i - atScale t.s ((q.inV t.sel t.sp (t.codes.getD i 0)).getD 0)).natAbs)) 0
structure BlockRules : Prop where
  nan : ∀ w lt levels (xs : List FVal), (∃ v ∈ xs, v.isNaN = true ∨ v.isInf = true) → quantise w lt levels xs = (0xFF00, List.replicate 32 0)
  /-- the least error wins, the candidate tried first among equals -/
  best : ∀ (q : Quant) (cs : List Nat), q.w ∈ [4, 6, 8] → q.variant < 2 → (q.w = 4 → q.variant = 0) →
    (∀ t, q.levels = some t → t.1 < 4 ∧ t.2.length = 2 ^ q.w ∧ ∀ v ∈ t.2, v < 256) → cs.length = 32 → q.xs = cs.map (fmtT .f64).read →
    (∀ v ∈ q.xs, v.isNaN = false ∧ v.isInf = false) →
    ∃ t : Try, q.tries t ∧ (∀ u : Try, q.tries u → q.err t < q.err u ∨ q.err t = q.err u ∧ (t.sel < u.sel ∨ t.sel = u.sel ∧ t.sp ≤ u.sp))
      ∧ quantise q.w q.variant q.levels q.xs =
        ((t.s + 127).toNat * 256 + t.sel * 64 + t.sp * 4 + (if t.sel = 1 then q.variant else if t.sel = 2 then (q.levels.map (·.1)).getD 0 else 0), t.codes)

/-! ## Drains (R283-R285) -/

/-- Bit p of a block's data (R101, R108). -/
def dataBit (w : Nat) (cs : List Nat) (p : Nat) : Bool :=
  if w = 6 then decide (p % 32 < 30) && (cs.getD (5 * (p / 32) + p % 32 / 6) 0).testBit (p % 32 % 6) else (cs.getD (p / w) 0).testBit (p % w)
structure DrainRules : Prop where
  /-- R284: element (i, j) at D0 + i P + 8 j -/
  raw : ∀ (x : Team) kind fw lt n base pitch a (b : Byte), kind ≠ .q →
    ((a, b) ∈ drainData x kind fw lt n base pitch ↔ ∃ i < 64, ∃ j < 64, ∃ k < 8, a = base + i * pitch + 8 * j + k ∧ b = (x.elem n i j).extractLsb' (8 * k) 8)
  /-- R285: the data of block (i, h) at D0 + i P + h DB, its header at D0 + 64 P + 4 i + 2 h -/
  blocks : ∀ (x : Team) (fw : Word) (lt : Option (Dword × Nat)) n base pitch w variant a (b : Byte), drainFmt fw = some (w, variant) → w ∈ [4, 6, 8] →
    let db := if w = 8 then 32 else if w = 6 then 28 else 16
    let levels := lt.map fun q => (q.2, (List.range (2 ^ w)).map fun c => (x.obuf.get ((operandOf q.1).base + 256 * q.2 + c)).toNat)
    let block := fun i h => quantise w variant levels ((List.range 32).map fun t => (fmtT .f64).read (x.elem n i (32 * h + t)).toNat)
    ((a, b) ∈ drainData x .q fw lt n base pitch ↔ ∃ i < 64, ∃ h < 2,
      (∃ k < db, a = base + i * pitch + h * db + k ∧ ∀ j < 8, b.getLsbD j = dataBit w (block i h).2 (8 * k + j))
      ∨ ∃ k < 2, a = base + 64 * pitch + 4 * i + 2 * h + k ∧ b = BitVec.ofNat 8 ((block i h).1 / 2 ^ (8 * k)))

/-! ## Collectives (R468, R469) -/

/-- Element size in bytes, and whether minimum and maximum compare signed values. -/
def collSize (type : Nat) : Nat := [4, 4, 4, 8, 8, 8, 4, 8].getD type 0
def collSigned (type : Nat) : Bool := type == 0 || type == 4
/-- An integer value as its type orders it. -/
def collKey (type v : Nat) : Int := if collSigned type then (BitVec.ofNat (8 * collSize type) v).toInt else v
/-- Element i of some data. -/
def collAt (type d i : Nat) : Nat := d / 2 ^ (8 * collSize type * i) % 2 ^ (8 * collSize type)
def collFT (type : Nat) : FT := if type = 2 then .f32 else .f64
structure CollRules : Prop where
  add : ∀ type (vs : List Nat), type ∈ [0, 1, 4, 5] → collReduce type 0 vs = vs.sum % 2 ^ (8 * collSize type)
  min : ∀ type (vs : List Nat), type ∈ [0, 1, 4, 5] → vs ≠ [] → (∀ v ∈ vs, v < 2 ^ (8 * collSize type)) →
    collReduce type 1 vs ∈ vs ∧ ∀ v ∈ vs, collKey type (collReduce type 1 vs) ≤ collKey type v
  max : ∀ type (vs : List Nat), type ∈ [0, 1, 4, 5] → vs ≠ [] → (∀ v ∈ vs, v < 2 ^ (8 * collSize type)) →
    collReduce type 2 vs ∈ vs ∧ ∀ v ∈ vs, collKey type v ≤ collKey type (collReduce type 2 vs)
  bits : ∀ type (vs : List Nat) i, type ∈ [6, 7] → i < 8 * collSize type →
    ((collReduce type 3 vs).testBit i = true ↔ ∀ v ∈ vs, v.testBit i = true) ∧ ((collReduce type 4 vs).testBit i = true ↔ ∃ v ∈ vs, v.testBit i = true)
    ∧ ((collReduce type 5 vs).testBit i = true ↔ (vs.countP fun v => v.testBit i) % 2 = 1)
  /-- floats, as R192 has it: the first NaN, made quiet -/
  nan : ∀ type op (vs : List Nat) v, type ∈ [2, 3] → op < 3 → (∀ u ∈ vs, u < 2 ^ (8 * collSize type)) →
    vs.find? (fun u => ((fmtT (collFT type)).read u).isNaN) = some v → collReduce type op vs = v ||| 2 ^ (if type = 2 then 22 else 51)
  /-- the least or greatest source, -0 below +0 -/
  least : ∀ type (vs : List Nat), type ∈ [2, 3] → vs ≠ [] → (∀ v ∈ vs, ((fmtT (collFT type)).read v).isNaN = false) →
    let rd := (fmtT (collFT type)).read
    (collReduce type 1 vs ∈ vs ∧ ∀ v ∈ vs, fLe (rd (collReduce type 1 vs)) (rd v) = true)
    ∧ collReduce type 2 vs ∈ vs ∧ ∀ v ∈ vs, fLe (rd v) (rd (collReduce type 2 vs)) = true
  /-- infinities; else one rounding of the exact sum, -0 only where every source is -0 -/
  sum : ∀ type (vs : List Nat), type ∈ [2, 3] → (∀ v ∈ vs, ((fmtT (collFT type)).read v).isNaN = false) →
    let fs := vs.map (fmtT (collFT type)).read
    let inf := if type = 2 then 0x7F800000 else 0x7FF0000000000000
    (.inf false ∈ fs → .inf true ∈ fs → collReduce type 0 vs = inf + 2 ^ (if type = 2 then 22 else 51))
    ∧ (.inf false ∈ fs → .inf true ∉ fs → collReduce type 0 vs = inf) ∧ (.inf true ∈ fs → .inf false ∉ fs → collReduce type 0 vs = inf + 2 ^ (8 * collSize type - 1))
    ∧ (.inf false ∉ fs → .inf true ∉ fs → collReduce type 0 vs = ((fmtT (collFT type)).write .rne false (sumNum .rne fs)).v)
  /-- what DST of a rank receives (R468) -/
  allreduce : ∀ type op count root dst rank (data : List Nat) i, type < 8 → data ≠ [] → i < count →
    collAt type (collResult [0, type, op, count, root, dst] rank data) i = collReduce type op (data.map fun d => collAt type d i)
  redscat : ∀ type op count root dst rank (data : List Nat) i, type < 8 → data ≠ [] → i < count →
    collAt type (collResult [2, type, op, count, root, dst] rank data) i = collReduce type op (data.map fun d => collAt type d (rank * count + i))
  allgather : ∀ type op count root dst rank (data : List Nat) k, type < 8 → k < data.length →
    let block := 8 * collSize type * count
    collResult [1, type, op, count, root, dst] rank data / 2 ^ (block * k) % 2 ^ block = data.getD k 0 % 2 ^ block
  bcast : ∀ type op count root dst rank (data : List Nat), collResult [3, type, op, count, root, dst] rank data = data.getD root 0

end Sys2Proof.Machine
end

