-- ==== Sys2Proof/Safety/Fields.lean ====
section
/-!
DEFINITION. The fields that the rules fix when an entry is appended to a queue, a queue's head is taken, a task and its core are chosen, a team is suspended,
and a slice is reshaped, reset or frozen (spec/16 R391, R393, R396-R398, R401, spec/08 R196, R206, spec/18 R437, R438, R442, R444).
-/
namespace Sys2Proof.Machine

/-- R393: an append looks for the queue, the entry's form and room, in that order; where the slot of TAIL can be written, it receives the entry, TAIL
advances and the status is the old TAIL; where it cannot, TAIL stays. The queue's header is compared first (R436), and the device's new TAIL and the entry
of the privileged queue table are written after (R389, R434). -/
def Appends : Prop := ∀ (s : State) sl (qid : Option Nat) e,
  ((∀ n, qid = some n → s.queue? sl n = none) → s.append sl qid e = (s, 0x80000002))
  ∧ ∀ n q, qid = some n → s.queue? sl n = some q → q.head < 2 ^ 32 → q.tail < 2 ^ 32 → q.size < 2 ^ 32 →
    (entryOk e = false → s.append sl qid e = (s, 0x80000003))
    ∧ (entryOk e = true → BitVec.ofNat 32 q.tail - BitVec.ofNat 32 q.head = BitVec.ofNat 32 q.size → s.append sl qid e = (s, 0x80000001))
    ∧ (entryOk e = true → BitVec.ofNat 32 q.tail - BitVec.ofNat 32 q.head ≠ BitVec.ofNat 32 q.size →
      let b := (s.checkHeader sl n q).1
      let slot := b.vwrite (q.space sl) (schedAgent sl q.die) (q.ring + 64 * (q.tail % q.size)) e 64
      let t := (s.append sl qid e).1
      let status := (s.append sl qid e).2
      ∃ r, t.queue? sl n = some r ∧ r.head = q.head ∧ r.ring = q.ring ∧ r.size = q.size ∧ r.hdr = q.hdr ∧ r.cls = q.cls ∧ r.die = q.die ∧ r.asid = q.asid
        ∧ r.waitTh = q.waitTh ∧ r.launches = q.launches ∧ (∀ m, (m ≠ n ∧ m < 4096 ∧ n < 4096) → t.queue? sl m = s.queue? sl m) ∧ t.grids = s.grids
        ∧ (∀ x, slot = .error x → status = 0x80000004 ∧ r.tail = q.tail ∧ r.appended = q.appended ∧ t = b.setQueue sl n r)
        ∧ ∀ w, slot = .ok w → status = q.tail % 2 ^ 31 ∧ r.tail = (q.tail + 1) % 2 ^ 32 ∧ r.appended = q.appended ++ [s.dieCount q.die]
          ∧ t = (w.setQueue sl n r).headerWord sl r 0x10 r.tail)

/-- R391: HEAD advances and the entry's grid is pending with all of its teams unstarted; an entry that cannot be read, or is not well formed, starts
none and is reported with its address. The entry is read once the header has been compared (R436). -/
def TakesHead : Prop := ∀ (s : State) sl qid q, s.queue? sl qid = some q →
  let b := (s.checkHeader sl qid q).1
  let t := s.takeHead sl qid q
  let va := q.ring + 64 * (q.head % q.size)
  let entry := b.vread (q.space sl) va 64
  (∃ n, t.queue? sl qid = some n ∧ n.head = (q.head + 1) % 2 ^ 32 ∧ n.tail = q.tail ∧ n.ring = q.ring ∧ n.size = q.size ∧ n.cls = q.cls ∧ n.die = q.die
    ∧ n.asid = q.asid ∧ n.waitTh = q.waitTh)
  ∧ (∀ e, entry = .ok e → entryOk e = true → ∃ n g, t.grids = s.grids.put n g ∧ g.slice = sl ∧ g.die = q.die ∧ g.asid = q.asid ∧ g.priv = (sl == 192)
    ∧ g.cls = q.cls ∧ g.qid = qid ∧ g.taken = true ∧ g.image = recFld e 0 8 ∧ g.done = recFld e 16 8 ∧ g.doneval = recFld e 24 4
    ∧ g.teams = recFld e 28 4 ∧ g.stride = recFld e 32 4 ∧ g.left = [(0, recFld e 28 4)] ∧ g.listed = 0 ∧ g.running = 0 ∧ g.failed = false
    ∧ (q.cls = 0 → g.deadline = BitVec.allOnes 64) ∧ (q.cls ≠ 0 → g.deadline = BitVec.ofNat 64 (recFld e 8 8)))
  ∧ ((∀ e, entry = .ok e → entryOk e = false) → t.grids = s.grids ∧ ∃ r, (t.sliceDieOf sl q.die).held = (s.sliceDieOf sl q.die).held ++ [r]
    ∧ r.kind = 1 ∧ r.event = 4 ∧ r.addr = va ∧ r.src = qid)

/-! ## The choice of a task and of its core (R396-R398) -/

/-- What ranks a waiting task: fallback, deadline or best effort; the deadline; CLASS; whether it is unstarted; when its grid was taken; its index. -/
structure TaskKey where
  tier : Nat
  deadline : Nat
  cls : Nat
  fresh : Bool
  take : Nat
  idx : Nat
def keyOf (s : State) : Task → Option TaskKey
  | .fresh g k => (s.grid? g).map fun x =>
    { tier := if x.fallback then 0 else if x.cls = 0 then 2 else 1, deadline := x.deadline.toNat, cls := if x.fallback then 0 else x.cls, fresh := true
      take := x.take, idx := k }
  | .team t => match s.team? t with
    | some y => (s.grid? y.grid).map fun x =>
      { tier := if x.fallback then 0 else if x.cls = 0 then 2 else 1, deadline := y.deadline.toNat, cls := if x.fallback then 0 else x.cls, fresh := false
        take := x.take, idx := y.idx }
    | none => none
/-- Fallback tasks first, then tasks of CLASS 1 and 2, then best effort; in the first two the earlier deadline, then the lower CLASS, then a suspended team
before an unstarted task, then the earlier take, then the lower index (R396). Best-effort tasks have no order of this kind. -/
def TaskKey.before (a b : TaskKey) : Prop :=
  a.tier < b.tier ∨ a.tier = b.tier ∧ a.tier ≠ 2 ∧ (a.deadline < b.deadline ∨ a.deadline = b.deadline ∧ (a.cls < b.cls ∨ a.cls = b.cls ∧
    (a.fresh = false ∧ b.fresh = true ∨ a.fresh = b.fresh ∧ (a.take < b.take ∨ a.take = b.take ∧ a.idx < b.idx))))
/-- Room beside the teams of a core (R196): 64 group slots, 262,144 bytes of team memory, 196,608 of operand buffer and 8 tiles. -/
def hasRoom (s : State) (x : Team) (die cl core : Nat) : Prop :=
  let ys := (s.residents die cl core).map (·.2) ++ s.lingering die cl core
  x.ngroups + (ys.map Team.slotsHeld).sum ≤ 64 ∧ x.tmemSize + (ys.map (·.tmemSize)).sum ≤ 262144 ∧ x.obufSize + (ys.map (·.obufSize)).sum ≤ 196608
  ∧ x.tiles + (ys.map (·.tiles)).sum ≤ 8
structure Chooses : Prop where
  /-- every waiting task takes part, and no task stands behind one that it ranks before -/
  member : ∀ (s : State) sl die t only, (∃ r, (r, t, only) ∈ s.ranked sl die) ↔ (t, only) ∈ s.waiting sl die ∧ (keyOf s t).isSome = true
  order : ∀ (s : State) sl die, (s.ranked sl die).Pairwise fun p q => ∀ a b, keyOf s p.2.1 = some a → keyOf s q.2.1 = some b → ¬ b.before a
  /-- the entries of a cluster's list stand in its order -/
  lists : ∀ (s : State) sl die, ((s.ranked sl die).map (·.2)).filter (fun t => (keyOf s t.1).any fun k => k.tier == 2)
    = (s.waiting sl die).filter fun t => (keyOf s t.1).any fun k => k.tier == 2
  /-- what waits: suspended teams and unstarted teams of grids with a deadline or of a fallback, and the entries of the cluster lists, each for the cores of
  its cluster; an image that a debugger has stopped is withheld (R423) -/
  waits : ∀ (s : State) sl die t only, (t, only) ∈ s.waiting sl die ↔
    (only = none ∧ ∃ n x, (n, x) ∈ s.teams ∧ t = .team n ∧ x.slice = sl ∧ x.die = die ∧ x.st ≠ .resident ∧ x.asleep = none ∧ x.stopped = false
      ∧ x.ending = false ∧ ∃ g, s.grid? x.grid = some g ∧ (g.fallback = true ∨ g.cls ≠ 0))
    ∨ (only = none ∧ ∃ n g k, (n, g) ∈ s.grids ∧ t = .fresh n k ∧ g.slice = sl ∧ g.die = die ∧ (g.fallback = true ∨ g.cls ≠ 0)
      ∧ (∃ r ∈ g.left, r.1 ≤ k ∧ k < r.1 + r.2) ∧ s.withheld (g.team n k) = false)
    ∨ ∃ cl < 12, only = some cl ∧ t ∈ s.lists.get (64 * sl + 12 * die + cl) ∧ s.taskWithheld t = false
  /-- R398: of the slice's cores that have room, the one with the fewest resident groups, then the lower cluster, then the lower core -/
  core : ∀ (s : State) (x : Team) sl die only cl k,
    let takes := fun cl k => cl < 12 ∧ k < 8 ∧ s.ownsPair sl (pairOf die cl k) = true ∧ (only = none ∨ only = some cl) ∧ hasRoom s x die cl k
    let busy := fun cl k => ((s.residents die cl k).map fun p => p.2.slotsHeld).sum
    s.coreFor x sl die only = some (cl, k) ↔ takes cl k ∧ ∀ cl' k', takes cl' k' →
      busy cl k < busy cl' k' ∨ busy cl k = busy cl' k' ∧ (cl < cl' ∨ cl = cl' ∧ k ≤ k')
  noCore : ∀ (s : State) (x : Team) sl die only, s.coreFor x sl die only = none ↔
    ∀ cl < 12, ∀ k < 8, s.ownsPair sl (pairOf die cl k) = true → only = none ∨ only = some cl → ¬ hasRoom s x die cl k
  /-- the owner of a pair is the slice whose shape holds it; those of no slice are the physical function's (log 1) -/
  owns : ∀ (s : State) sl p, (sl ≠ 192 → (s.ownsPair sl p = true ↔ p ∈ (s.slices.get sl).pairs))
    ∧ (s.ownsPair 192 p = true ↔ ∀ q ∈ s.slices, p ∉ q.2.pairs)

/-- R401, R206: a resident team that is suspended has no path in a started clause and none that holds; its registers stand, a path that had not
issued stands at its clause's header, and a `waitv` keeps the ticks that remain; STATUS 4 is written, or 1 where no core holds a line of its image or uses one
for its matrix operations (R289). -/
def Suspends : Prop := ∀ (s : State) t x, s.team? t = some x → x.st = .resident →
  ∃ y, (s.suspend t).team? t = some y ∧ (∀ u, u ≠ t → (s.suspend t).team? u = s.team? u)
    ∧ (y.lines = [] → s.matrixBusy t = false → y.st = .written ∧ s.suspend t = (s.setTeam t y).writeStatus y 1)
    ∧ (y.lines ≠ [] ∨ s.matrixBusy t = true → y.st = .suspended ∧ s.suspend t = (s.setTeam t y).writeStatus y 4)
    ∧ y.tmem = x.tmem ∧ y.lastTick = x.lastTick ∧ y.deadline = x.deadline
    ∧ ∀ gi g, x.group? gi = some g → ∃ h, y.group? gi = some h ∧ h.holds = [] ∧ h.v = g.v ∧ h.preds = g.preds ∧ h.jm = g.jm ∧ h.recs = g.recs
      ∧ h.flags = g.flags ∧ h.lb = g.lb
      ∧ ∀ l, l < 32 → (h.lane l).st = (g.lane l).st ∧ (h.lane l).rc = (g.lane l).rc ∧ (h.lane l).hdr = none
        ∧ (h.lane l).pc = (g.lane l).unstart.pc ∧ (h.lane l).off = (g.lane l).unstart.off

/-- R437, R438: the slice has the new sets and no other slice's change; ACTIVE follows them; no team stays on a core that is taken away; channels taken
away and added are zeroed; a cluster without a pair keeps no way. -/
def Reshapes : Prop := ∀ (s : State) sl v (new : SliceSt),
  let t := s.reshapeTo sl v new
  let old := s.slices.get sl
  t.slices.get sl = new ∧ (∀ k, k ≠ sl → t.slices.get k = s.slices.get k)
  ∧ (new.pairs ≠ [] → new.chans ≠ [] → (t.sreg sl 0x502).getLsbD 0 = true) ∧ (new.pairs = [] → new.chans = [] → (t.sreg sl 0x502).getLsbD 0 = false)
  ∧ (∀ u y, t.team? u = some y → y.slice = sl → y.cluster ≠ 12 → y.st = .resident →
    pairOf y.die y.cluster y.core ∈ old.pairs → pairOf y.die y.cluster y.core ∈ new.pairs)
  ∧ (∀ ch, (ch ∈ old.chans ∧ ch ∉ new.chans) ∨ (ch ∈ new.chans ∧ ch ∉ old.chans) → ∀ a, a / 2 ^ 30 = ch → t.byte a = 0#8)
  ∧ ∀ cl, cl < 48 → (∀ p ∈ new.pairs, p / 4 ≠ cl) → t.cluReg sl cl 0x203 = 0#32

/-- R442: RESETTING is set and FROZEN is not; ACTIVE and SCRUB keep their values; nothing of the slice is left of teams, operations, calls, streams, grids,
entries, pins, queues and commands; its registers read 0. -/
def Resets : Prop := ∀ (s : State) sl,
  let t := s.beginReset sl
  (t.sreg sl 0x502).getLsbD 1 = true ∧ (t.sreg sl 0x502).getLsbD 2 = false ∧ (t.sreg sl 0x502).getLsbD 0 = (s.sreg sl 0x502).getLsbD 0
  ∧ t.sreg sl 0x501 = s.sreg sl 0x501 &&& 4#32 ∧ (∀ n ∈ [0x504, 0x505, 0x506, 0x507, 0x508, 0x509, 0x50C, 0x50D, 0x50E, 0x50F], t.sreg sl n = 0#32)
  ∧ (∀ die < 4, t.dieCount die = s.dieCount die ∧ (t.sliceDieOf sl die).copies = 0 ∧ ∀ n ∈ [0x30A, 0x30B, 0x30C, 0x423, 0x424], t.sdReg sl die n = 0#32)
  ∧ (∀ p ∈ t.teams, p.2.slice = sl → p.2.cluster = 12) ∧ (∀ p ∈ t.grids, p.2.slice ≠ sl) ∧ (∀ p ∈ t.lists, p.1 / 64 ≠ sl) ∧ (∀ e ∈ t.transit, e.slice ≠ sl)
  ∧ (∀ o ∈ t.ops, ∀ x, s.team? o.team = some x → x.slice = sl → x.cluster = 12) ∧ (∀ c ∈ t.calls, c.slice ≠ sl)
  ∧ (∀ p ∈ t.streams, p.1 / 16 % 256 ≠ sl) ∧ (∀ k ∈ t.pinned, k / 2 ^ 56 ≠ sl) ∧ (∀ p ∈ t.queues, p.1 / 4096 ≠ sl) ∧ t.cmds.find? sl = none
  ∧ sl ∉ t.ringDue

/-- R444: FREEZE is set, and no team of the slice is on a core. -/
def Freezes : Prop := ∀ (s : State) sl,
  (s.freeze sl).sreg sl 0x501 = s.sreg sl 0x501 ||| 2#32
  ∧ ∀ u y, (s.freeze sl).team? u = some y → y.slice = sl → y.cluster ≠ 12 → y.st ≠ .resident

/-- R460: a request is judged when it arrives, by the entries of the export table; with DOM_CTL.EN clear it is lost (R471). -/
def Judged (admits : State → Request → Prop) : Prop := ∀ (s : State) (r : Request), ∃ b,
  (s.arrive r).requests = (if (s.pkg 0x701).getLsbD 31 then s.requests ++ [{ r with adm := b }] else s.requests)
  ∧ ((s.pkg 0x701).getLsbD 31 = true → (b = true ↔ admits s { r with adm := false }))

end Sys2Proof.Machine
end

