-- ==== Sys2Proof/Safety/Results.lean ====
section
/-!
DEFINITION. What the rules give as the result of each instruction that writes registers of its group alone: integers in the words of
bit vectors (R118-R141), floats as one rounding of an exact result (R142-R172), and the cross-lane instructions (R188-R194).
-/
namespace Sys2Proof.Machine

/-! ## Integers as bit vectors -/

def bvN (w : Nat) (f : BitVec w → BitVec w) (a : Nat) : Nat := (f (BitVec.ofNat w a)).toNat
def bvN2 (w : Nat) (f : BitVec w → BitVec w → BitVec w) (a b : Nat) : Nat := (f (BitVec.ofNat w a) (BitVec.ofNat w b)).toNat
/-- sa or ua of a pattern, by type (R118). -/
def readI (t : IT) (a : Nat) : Int := if t.signed then (BitVec.ofNat (IT.w t) a).toInt else (BitVec.ofNat (IT.w t) a).toNat
/-- The pattern of an exact result: wrapped, or clamped first (R122). -/
def wrapI (t : IT) (x : Int) : Nat := (BitVec.ofInt (IT.w t) x).toNat
def satI (t : IT) (x : Int) : Int :=
  if t.signed then min (max x (-2 ^ (IT.w t - 1))) (2 ^ (IT.w t - 1) - 1) else min (max x 0) (2 ^ IT.w t - 1)
/-- The sum leaves the type's range (R125). -/
def outsideI (t : IT) (x : Int) : Bool :=
  if t.signed then decide (x < -2 ^ (IT.w t - 1)) || decide (2 ^ (IT.w t - 1) - 1 < x) else decide (x < 0) || decide (2 ^ IT.w t ≤ x)

/-- R130: 64 bits, the high word B and the low word A. -/
def ruleShf (right clamp : Bool) (a b c : Nat) : Nat :=
  let x : BitVec 64 := BitVec.ofNat 32 b ++ BitVec.ofNat 32 a
  let n := if clamp then min c 32 else c % 32
  if right then (x >>> n).toNat % 2 ^ 32 else (x <<< n).toNat / 2 ^ 32
/-- R131: a field of C bits (at most 32) from bit B of A. -/
def ruleBfe (sg : Bool) (a b c : Nat) : Nat :=
  let x := BitVec.ofNat 32 a
  if sg then (((x.sshiftRight b).setWidth (min c 32)).signExtend 32).toNat else ((x >>> b).setWidth (min c 32)).toNat
/-- R131: the bits of the field, from position c[7:0], take those of A; the others those of B. -/
def ruleBfi (a b c : Nat) (i : Nat) : Bool :=
  let pos := c % 256
  let len := c / 256 % 256
  if pos ≤ i ∧ i < pos + len then a.testBit (i - pos) else b.testBit i
/-- R133: one byte, by a selector. -/
def ruleByte (x : BitVec 64) (sel : BitVec 8) : BitVec 8 :=
  let y := x.extractLsb' (8 * (sel.extractLsb' 0 3).toNat) 8
  if sel.getLsbD 4 then (if sel.getLsbD 3 then 0xFF#8 else 0#8) else if sel.getLsbD 3 then y.reverse else y
def ruleBgat (a b c : Nat) : Nat :=
  let x : BitVec 64 := BitVec.ofNat 32 b ++ BitVec.ofNat 32 a
  let s := fun k => (BitVec.ofNat 32 c).extractLsb' (8 * k) 8
  (ruleByte x (s 3) ++ ruleByte x (s 2) ++ ruleByte x (s 1) ++ ruleByte x (s 0)).toNat
/-- R132: 1 bits; 0 bits above the highest 1 bit; 0 bits below the lowest. -/
def rulePopc (w a : Nat) : Nat := (List.range w).countP fun i => a.testBit i
def ruleClz (w a : Nat) : Nat := ((List.range w).takeWhile fun i => !a.testBit (w - 1 - i)).length
def ruleCtz (w a : Nat) : Nat := ((List.range w).takeWhile fun i => !a.testBit i).length
/-- R172: read by the source's type, clamped where asked, cut to k bits and extended. -/
def ruleNarrow (sat un : Bool) (t : NT) (a : Nat) : Nat :=
  let v : Int := if un then (BitVec.ofNat 32 a).toNat else (BitVec.ofNat 32 a).toInt
  match t with
  | .i16 => ((BitVec.ofInt 16 (if sat then min (max v (-2 ^ 15)) (2 ^ 15 - 1) else v)).signExtend 32).toNat
  | .n16 => (BitVec.ofInt 16 (if sat then min (max v 0) (2 ^ 16 - 1) else v)).toNat
  | .i8 => ((BitVec.ofInt 8 (if sat then min (max v (-2 ^ 7)) (2 ^ 7 - 1) else v)).signExtend 32).toNat
  | .n8 => (BitVec.ofInt 8 (if sat then min (max v 0) (2 ^ 8 - 1) else v)).toNat
/-- R134: a condition between two patterns. -/
def ruleCond (w : Nat) (cond : ICond) (a b : Nat) : Bool :=
  let x := BitVec.ofNat w a
  let y := BitVec.ofNat w b
  match cond with
  | .eq => x == y
  | .ne => x != y
  | .ilt => x.slt y
  | .ile => x.sle y
  | .igt => y.slt x
  | .ige => y.sle x
  | .nlt => x.ult y
  | .nle => x.ule y
  | .ngt => y.ult x
  | .nge => y.ule x

/-! ## One result from its sources -/

/-- A result: uniform or by lane, its run and destination, its sources with their runs and the form of their immediates (R17, R48). -/
structure Calc where
  uni : Bool
  k : Nat
  d : Dst
  srcs : List (Nat × ImmKind × Src)
  f : List Nat → Nat

def Calc.eff (o : Calc) (x : Ctx) : Eff :=
  if o.uni then { u := some (o.k, o.d, o.f (o.srcs.map fun q => x.rdU q.1 q.2.1 q.2.2)) }
  else { v := some (o.k, o.d, fun l => o.f (o.srcs.map fun q => x.rdV q.1 q.2.1 q.2.2 l)) }

def calc1 (uni : Bool) (k ka : Nat) (ik : ImmKind) (d : Dst) (a : Src) (f : Nat → Nat) : Option Calc :=
  some { uni, k, d, srcs := [(ka, ik, a)], f := fun v => match v with | [p] => f p | _ => 0 }
def calc2 (uni : Bool) (k kb : Nat) (ik : ImmKind) (d : Dst) (a b : Src) (f : Nat → Nat → Nat) : Option Calc :=
  some { uni, k, d, srcs := [(k, ik, a), (kb, ik, b)], f := fun v => match v with | [p, q] => f p q | _ => 0 }
def calc3 (uni : Bool) (k : Nat) (ik : ImmKind) (d : Dst) (a b e : Src) (f : Nat → Nat → Nat → Nat) : Option Calc :=
  some { uni, k, d, srcs := [(k, ik, a), (k, ik, b), (k, ik, e)], f := fun v => match v with | [p, q, r] => f p q r | _ => 0 }
def typed2 (uni : Bool) (t : IT) (d : Dst) (a b : Src) (f : Nat → Nat → Nat) : Option Calc := calc2 uni t.k t.k (ITimm t) d a b f
def bits1 (uni w64 : Bool) (ik : ImmKind) (d : Dst) (a : Src) (f : BitVec (wOf w64) → BitVec (wOf w64)) : Option Calc :=
  calc1 uni (kOf w64) (kOf w64) ik d a (bvN (wOf w64) f)
def bits2 (uni w64 : Bool) (d : Dst) (a b : Src) (f : BitVec (wOf w64) → BitVec (wOf w64) → BitVec (wOf w64)) : Option Calc :=
  calc2 uni (kOf w64) (kOf w64) .zx d a b (bvN2 (wOf w64) f)
/-- A shift: the count is a single register, taken in full (R129). -/
def shift2 (uni w64 : Bool) (d : Dst) (a b : Src) (f : BitVec (wOf w64) → Nat → BitVec (wOf w64)) : Option Calc :=
  calc2 uni (kOf w64) 1 .zx d a b fun p n => (f (BitVec.ofNat (wOf w64) p) n).toNat

/-- Add, subtract, multiply, divide, minimum, maximum (R122-R124, R126, R127). -/
def arithCalc : Instr → Option Calc
  | .addV _ t sat d a b => typed2 false t d a b fun p q => wrapI t (if sat then satI t (readI t p + readI t q) else readI t p + readI t q)
  | .addS _ t sat d a b => typed2 true t d a b fun p q => wrapI t (if sat then satI t (readI t p + readI t q) else readI t p + readI t q)
  | .subV _ t sat d a b => typed2 false t d a b fun p q => wrapI t (if sat then satI t (readI t p - readI t q) else readI t p - readI t q)
  | .subS _ t sat d a b => typed2 true t d a b fun p q => wrapI t (if sat then satI t (readI t p - readI t q) else readI t p - readI t q)
  | .mulV _ t hi d a b => typed2 false t d a b fun p q => wrapI t (if hi then readI t p * readI t q / 2 ^ IT.w t else readI t p * readI t q)
  | .mulS _ t hi d a b => typed2 true t d a b fun p q => wrapI t (if hi then readI t p * readI t q / 2 ^ IT.w t else readI t p * readI t q)
  | .madV _ t d a b e => calc3 false t.k (ITimm t) d a b e fun p q r => wrapI t (readI t p * readI t q + readI t r)
  | .madS _ t d a b e => calc3 true t.k (ITimm t) d a b e fun p q r => wrapI t (readI t p * readI t q + readI t r)
  | .divV _ t d a b => typed2 false t d a b fun p q => if readI t q = 0 then 2 ^ IT.w t - 1 else wrapI t ((readI t p).tdiv (readI t q))
  | .divS _ t d a b => typed2 true t d a b fun p q => if readI t q = 0 then 2 ^ IT.w t - 1 else wrapI t ((readI t p).tdiv (readI t q))
  | .remV _ t d a b => typed2 false t d a b fun p q => if readI t q = 0 then p else wrapI t ((readI t p).tmod (readI t q))
  | .remS _ t d a b => typed2 true t d a b fun p q => if readI t q = 0 then p else wrapI t ((readI t p).tmod (readI t q))
  | .minV _ t d a b => typed2 false t d a b fun p q => if readI t p ≤ readI t q then p else q
  | .minS _ t d a b => typed2 true t d a b fun p q => if readI t p ≤ readI t q then p else q
  | .maxV _ t d a b => typed2 false t d a b fun p q => if readI t p ≤ readI t q then q else p
  | .maxS _ t d a b => typed2 true t d a b fun p q => if readI t p ≤ readI t q then q else p
  | .absV _ w d a => bits1 false w .sx d a fun p => BitVec.ofInt _ p.toInt.natAbs
  | .absS _ w d a => bits1 true w .sx d a fun p => BitVec.ofInt _ p.toInt.natAbs
  | .negV _ w d a => bits1 false w .sx d a fun p => -p
  | .negS _ w d a => bits1 true w .sx d a fun p => -p
  | _ => none

/-- Bits and bytes, moves (R128-R133, R136, R172). -/
def bitsCalc : Instr → Option Calc
  | .andV _ w d a b => bits2 false w d a b fun p q => p &&& q
  | .andS _ w d a b => bits2 true w d a b fun p q => p &&& q
  | .orV _ w d a b => bits2 false w d a b fun p q => p ||| q
  | .orS _ w d a b => bits2 true w d a b fun p q => p ||| q
  | .xorV _ w d a b => bits2 false w d a b fun p q => p ^^^ q
  | .xorS _ w d a b => bits2 true w d a b fun p q => p ^^^ q
  | .andnV _ w d a b => bits2 false w d a b fun p q => p &&& ~~~q
  | .andnS _ w d a b => bits2 true w d a b fun p q => p &&& ~~~q
  | .ornV _ w d a b => bits2 false w d a b fun p q => p ||| ~~~q
  | .ornS _ w d a b => bits2 true w d a b fun p q => p ||| ~~~q
  | .xnorV _ w d a b => bits2 false w d a b fun p q => ~~~(p ^^^ q)
  | .xnorS _ w d a b => bits2 true w d a b fun p q => ~~~(p ^^^ q)
  | .notV _ w d a => bits1 false w .zx d a fun p => ~~~p
  | .notS _ w d a => bits1 true w .zx d a fun p => ~~~p
  | .movV _ w d a => bits1 false w .zx d a fun p => p
  | .movS _ w d a => bits1 true w .zx d a fun p => p
  | .shlV _ w d a b => shift2 false w d a b fun p n => p <<< n
  | .shlS _ w d a b => shift2 true w d a b fun p n => p <<< n
  | .shrV _ w d a b => shift2 false w d a b fun p n => p >>> n
  | .shrS _ w d a b => shift2 true w d a b fun p n => p >>> n
  | .sarV _ w d a b => shift2 false w d a b fun p n => p.sshiftRight n
  | .sarS _ w d a b => shift2 true w d a b fun p n => p.sshiftRight n
  | .shfV _ right clamp d a b e => calc3 false 1 .zx d a b e (ruleShf right clamp)
  | .shfS _ right clamp d a b e => calc3 true 1 .zx d a b e (ruleShf right clamp)
  | .bfeV _ sg d a b e => calc3 false 1 .zx d a b e (ruleBfe sg)
  | .bfeS _ sg d a b e => calc3 true 1 .zx d a b e (ruleBfe sg)
  | .bfiV _ d a b e => calc3 false 1 .zx d a b e fun p q r => (maskOf (ruleBfi p q r)).toNat
  | .bfiS _ d a b e => calc3 true 1 .zx d a b e fun p q r => (maskOf (ruleBfi p q r)).toNat
  | .brevV _ d a => calc1 false 1 1 .zx d a (bvN 32 fun p => p.reverse)
  | .brevS _ d a => calc1 true 1 1 .zx d a (bvN 32 fun p => p.reverse)
  | .bgatV _ d a b e => calc3 false 1 .zx d a b e ruleBgat
  | .bgatS _ d a b e => calc3 true 1 .zx d a b e ruleBgat
  | .popcV _ w d a => calc1 false 1 (kOf w) .zx d a (rulePopc (wOf w))
  | .popcS _ w d a => calc1 true 1 (kOf w) .zx d a (rulePopc (wOf w))
  | .clzV _ w d a => calc1 false 1 (kOf w) .zx d a (ruleClz (wOf w))
  | .clzS _ w d a => calc1 true 1 (kOf w) .zx d a (ruleClz (wOf w))
  | .ctzV _ w d a => calc1 false 1 (kOf w) .zx d a (ruleCtz (wOf w))
  | .ctzS _ w d a => calc1 true 1 (kOf w) .zx d a (ruleCtz (wOf w))
  | .cvtNarrow _ sat un t d a => calc1 false 1 1 .zx d a (ruleNarrow sat un t)
  | _ => none

/-! ## Predicates, selections, promotions -/

/-- A compare's two predicates, each from the values both had before (R135). -/
def cmpEff (x : Ctx) (cmb : Cmb) (pd pc : Nat) (r : Nat → Bool) : Eff :=
  { p := [(pd, fun l => (combine cmb (x.g.getP pd l) (x.g.getP pc l) (r l)).1),
          (pc, fun l => (combine cmb (x.g.getP pd l) (x.g.getP pc l) (r l)).2)] }
/-- The participating lanes whose predicate is 1 (R190). -/
def Ctx.votes (x : Ctx) (pa : Nat) : Mask := x.e &&& maskOf (x.g.getP pa)
/-- Every two lanes of the mask hold one value. -/
def Ctx.agreeing (x : Ctx) (f : Nat → Nat) : Bool := (laneList x.e).all fun l => (laneList x.e).all fun k => f l == f k

/-- Carries, compares, selection, votes, and the promotions that cannot overflow (R125, R134-R136, R138-R141, R156, R179, R190). -/
def predEff (x : Ctx) : Instr → Option Eff
  | .addcV _ t d a b p =>
    let sum := fun l => readI t (x.rdV t.k (ITimm t) a l) + readI t (x.rdV t.k (ITimm t) b l) + (if x.g.getP p l then 1 else 0)
    some { v := some (t.k, d, fun l => wrapI t (sum l)), p := [(p, fun l => outsideI t (sum l))] }
  | .subcV _ t d a b p =>
    let diff := fun l => readI t (x.rdV t.k (ITimm t) a l) - readI t (x.rdV t.k (ITimm t) b l) - (if x.g.getP p l then 1 else 0)
    some { v := some (t.k, d, fun l => wrapI t (diff l)), p := [(p, fun l => outsideI t (diff l))] }
  | .cmpV _ w cond cmb pd pc a b =>
    some (cmpEff x cmb pd pc fun l => ruleCond (wOf w) cond (x.rdV (kOf w) (condImm cond) a l) (x.rdV (kOf w) (condImm cond) b l))
  | .cmpS _ w cond cmb pd pc a b =>
    some (cmpEff x cmb pd pc fun _ => ruleCond (wOf w) cond (x.rdU (kOf w) (condImm cond) a) (x.rdU (kOf w) (condImm cond) b))
  | .cmpA _ bu cond cmb pd pc a b =>
    some (cmpEff x cmb pd pc fun l => ruleCond 64 cond ((x.rdA (condImm cond) a).value l)
      (if bu then x.rdUx (condImm cond) b else (x.rdA (condImm cond) b).value l))
  | .classV _ t p a k => some { p := [(p, fun l => k.getLsbD ((fmtT t).classOf (x.fV t a l)))] }
  | .selV _ w d a b p => some { v := some (kOf w, d, fun l => x.rdV (kOf w) .zx (if x.g.getP p l then a else b) l) }
  | .spread _ w d a => some { v := some (kOf w, d, fun _ => x.rdU (kOf w) .zx a) }
  | .mat _ w d a => some { v := some (kOf w, d, fun l => (x.rdA .zx a).value l) }
  | .rampA _ d a b => some { a := some (d, { base := BitVec.ofNat 64 (x.rdU 2 .sx a), stride := BitVec.ofNat 32 (x.rdU 1 .sx b) }) }
  | .agree _ w d a p =>
    some { u := some (kOf w, d, x.rdV (kOf w) .zx a (lowestLane x.e)), p := [(p, fun _ => x.agreeing (x.rdV (kOf w) .zx a))] }
  | .firstLane _ w d a => some { u := some (kOf w, d, x.rdV (kOf w) .zx a (lowestLane x.e)) }
  | .voteAll _ pd pa => some { p := [(pd, fun _ => (laneList x.e).all fun k => x.g.getP pa k)] }
  | .voteAny _ pd pa => some { p := [(pd, fun _ => (laneList x.e).any fun k => x.g.getP pa k)] }
  | .voteEq _ pd pa => some { p := [(pd, fun _ => ((laneList x.e).all fun k => x.g.getP pa k) || (laneList x.e).all fun k => !x.g.getP pa k)] }
  | .voteBallot _ d pa => some { u := some (1, d, (x.votes pa).toNat) }
  | .nop _ => some {}
  | .jset _ j => some { j := some (j, x.e) }
  | .jadd _ j => some { j := some (j, x.g.getJ j ||| x.e) }
  | .jsub _ j => some { j := some (j, x.g.getJ j &&& ~~~x.e) }
  | .jget _ d j => some { u := some (1, d, (x.g0.getJ j).toNat) }
  | .jput _ j a => some { j := some (j, BitVec.ofNat 32 (x.rdU 1 .zx a)) }
  | _ => none

/-- The exact base and stride of the affine forms (R137). -/
def affCalc (x : Ctx) : Instr → Option (Dst × Int × Int)
  | .addA _ sg bu d a b =>
    some (d, (x.rdA (affImm sg) a).b + (x.rdB sg bu b).1, (x.rdA (affImm sg) a).st + (x.rdB sg bu b).2)
  | .subA _ sg bu d a b =>
    some (d, (x.rdA (affImm sg) a).b - (x.rdB sg bu b).1, (x.rdA (affImm sg) a).st - (x.rdB sg bu b).2)
  | .mulA _ sg d a b => some (d, (x.rdA (affImm sg) a).b * x.ext sg b, (x.rdA (affImm sg) a).st * x.ext sg b)
  | .madA _ sg d a b e =>
    some (d, (x.rdA (affImm sg) a).b * x.ext sg b + (x.rdA (affImm sg) e).b, (x.rdA (affImm sg) a).st * x.ext sg b + (x.rdA (affImm sg) e).st)
  | .shlA _ d a b => some (d, (x.rdA .zx a).b * 2 ^ x.rdUx .zx b, (x.rdA .zx a).st * 2 ^ x.rdUx .zx b)
  | .movA _ d a => some (d, (x.rdA .zx a).b, (x.rdA .zx a).st)
  | _ => none
/-- A stride of R74. -/
def strideFits (n : Int) : Prop := -2 ^ 31 ≤ n ∧ n ≤ 2 ^ 31 - 1

/-- Integer cross-lane results (R189, R191, R193, R194): only participating lanes are read. -/
def crossEff (x : Ctx) : Instr → Option Eff
  | .shfl _ w md d a b =>
    let pickLane := fun (l : Nat) =>
      let n : Int := x.rdV 1 .zx b l
      let k : Int := match md with
        | .idx => n % 32
        | .up => l - n
        | .down => l + n
        | .bfly => ((l ^^^ (n % 32).toNat : Nat) : Int)
      if 0 ≤ k ∧ k ≤ 31 ∧ x.e.getLsbD k.toNat = true then k.toNat else l
    some { v := some (kOf w, d, fun l => x.rdV (kOf w) .zx a (pickLane l)) }
  | .reduceInt _ op d a => some { u := some (1, d, combineInt op ((laneList x.e).map fun l => x.rdV 1 .zx a l)) }
  | .scanInt _ excl op d a =>
    some { v := some (1, d, fun l => combineInt op (((laneList x.e).filter fun k => if excl then decide (k < l) else decide (k ≤ l)).map fun k => x.rdV 1 .zx a k)) }
  | .matchLanes _ ty d a =>
    let key := fun l => x.rdV (matchK ty) (matchImm ty) a l
    some { v := some (1, d, fun l => (x.e &&& maskOf fun k => decide (k = l) || keyMatch ty (key l) (key k)).toNat) }
  | _ => none

/-! ## Control flow -/

/-- Targets held in registers (R176). -/
def targetOf (x : Ctx) : Instr → Option (Nat → Nat)
  | .brxV _ a | .callIndirect _ _ a | .ret _ a => some (x.rdV 2 .zx a)
  | .brxS _ a => some fun _ => x.rdU 2 .zx a
  | _ => none
/-- Every lane's target is a multiple of 4 (R175). -/
def aligned (x : Ctx) (i : Instr) : Prop := ∀ f, targetOf x i = some f → ∀ l, x.e.getLsbD l = true → f l % 4 = 0

/-- Transfers, exits, waits and yields (R175-R178, R180, R181). -/
def goEff (x : Ctx) : Instr → Option Eff
  | .bra _ imm => some { go := fun _ => .goto (x.cur.pc + imm.signExtend 64) }
  | .call _ d imm => some { v := some (2, d, fun _ => (x.cur.pc + 12#64).toNat), go := fun _ => .goto (x.cur.pc + imm.signExtend 64) }
  | .brxV _ a | .ret _ a => some { go := fun l => .goto (BitVec.ofNat 64 (x.rdV 2 .zx a l)) }
  | .brxS _ a => some { go := fun _ => .goto (BitVec.ofNat 64 (x.rdU 2 .zx a)) }
  | .callIndirect _ d a =>
    some { v := some (2, d, fun _ => (x.cur.pc + 12#64).toNat), go := fun l => .goto (BitVec.ofNat 64 (x.rdV 2 .zx a l)) }
  | .exit _ => some { go := fun _ => .exit }
  | .yieldPath _ => some { yld := true }
  | .rejoin _ j => some { go := fun l => if (x.g0.getJ j).getLsbD l then .wait j none 15 else .seq }
  | .rejoinTmo _ p j b =>
    some { p := [(p, fun l => (x.g0.getJ j).getLsbD l && x.g.getP p l)],
           go := fun l => if (x.g0.getJ j).getLsbD l then .wait j (some (x.s.dieCount x.tm.die + x.rdU 1 .zx b)) p else .seq }
  | _ => none

/-! ## Floats: each result with its exceptions -/

structure FCalc where
  uni : Bool
  k : Nat
  d : Dst
  /-- the result of a lane; of the state, for a uniform one -/
  f : Nat → FRes

def FCalc.eff (o : FCalc) (x : Ctx) : Eff :=
  if o.uni then { u := some (o.k, o.d, (o.f 0).v), fp := (o.f 0).x }
  else { v := some (o.k, o.d, fun l => (o.f l).v), fp := excAll ((laneList x.e).map fun l => (l, o.f l)) }
/-- FP_CTL enables none of the exceptions raised (R148). -/
def FCalc.quiet (o : FCalc) (x : Ctx) : Prop :=
  if o.uni then trapped x (o.f 0).x = false else ∀ l, x.e.getLsbD l = true → trapped x (o.f l).x = false

/-- A source as a value: by lane or uniform. -/
def Ctx.val (x : Ctx) (uni : Bool) (t : FT) (a : Src) (l : Nat) : FVal := rdF t (if uni then x.fU t a else x.fV t a l)
def Ctx.codeOf (x : Ctx) (uni : Bool) (t : FT) (a : Src) (l : Nat) : Nat := if uni then x.fU t a else x.fV t a l

/-- Addition, subtraction, multiplication and fused multiply-add: exact, rounded once, then `.sat` (R150, R151, R162). -/
def arithF (x : Ctx) : Instr → Option FCalc
  | .addVF _ t sat r d a b => some ⟨false, t.k, d, fun l => (fmtT t).arith r sat (fAdd r (x.val false t a l) (x.val false t b l))⟩
  | .addSF _ t sat r d a b => some ⟨true, t.k, d, fun l => (fmtT t).arith r sat (fAdd r (x.val true t a l) (x.val true t b l))⟩
  | .subVF _ t sat r d a b => some ⟨false, t.k, d, fun l => (fmtT t).arith r sat (fSub r (x.val false t a l) (x.val false t b l))⟩
  | .subSF _ t sat r d a b => some ⟨true, t.k, d, fun l => (fmtT t).arith r sat (fSub r (x.val true t a l) (x.val true t b l))⟩
  | .mulVF _ t sat r d a b => some ⟨false, t.k, d, fun l => (fmtT t).arith r sat (fMul (x.val false t a l) (x.val false t b l))⟩
  | .mulSF _ t sat r d a b => some ⟨true, t.k, d, fun l => (fmtT t).arith r sat (fMul (x.val true t a l) (x.val true t b l))⟩
  | .fmaV _ t sat r d a b e =>
    some ⟨false, t.k, d, fun l => (fmtT t).arith r sat (fFma r (x.val false t a l) (x.val false t b l) (x.val false t e l))⟩
  | .fmaS _ t sat r d a b e =>
    some ⟨true, t.k, d, fun l => (fmtT t).arith r sat (fFma r (x.val true t a l) (x.val true t b l) (x.val true t e l))⟩
  | .divVF _ t r d a b => some ⟨false, t.k, d, fun l => (fmtT t).done r (fDiv (x.val false t a l) (x.val false t b l))⟩
  | .divSF _ t r d a b => some ⟨true, t.k, d, fun l => (fmtT t).done r (fDiv (x.val true t a l) (x.val true t b l))⟩
  | .rcpV _ t r d a => some ⟨false, t.k, d, fun l => (fmtT t).done r (fRcp (x.val false t a l))⟩
  | .rcpS _ t r d a => some ⟨true, t.k, d, fun l => (fmtT t).done r (fRcp (x.val true t a l))⟩
  | .sqrtV _ t r d a => some ⟨false, t.k, d, fun l => (fmtT t).done r (fSqrt (x.val false t a l))⟩
  | .sqrtS _ t r d a => some ⟨true, t.k, d, fun l => (fmtT t).done r (fSqrt (x.val true t a l))⟩
  | .rndV _ t r d a => some ⟨false, t.k, d, fun l => (fmtT t).done r (fRnd r (x.val false t a l))⟩
  | .ex2 _ h d a => some ⟨false, (halfT h).k, d, fun l => (fmtT (halfT h)).done .rne (fEx2 (x.val false (halfT h) a l))⟩
  | .lg2 _ h d a => some ⟨false, (halfT h).k, d, fun l => (fmtT (halfT h)).done .rne (fLg2 (x.val false (halfT h) a l))⟩
  | .sinpi _ h d a => some ⟨false, (halfT h).k, d, fun l => (fmtT (halfT h)).done .rne (fSinpi (x.val false (halfT h) a l))⟩
  | .cospi _ h d a => some ⟨false, (halfT h).k, d, fun l => (fmtT (halfT h)).done .rne (fCospi (x.val false (halfT h) a l))⟩
  | .dotV _ bf r d a b e => some ⟨false, 1, d, fun l => cDot bf r (x.fV .f32 a l) (x.fV .f32 b l) (x.fV .f32 e l)⟩
  | _ => none

/-- Minimum, maximum and the operations on the sign bit (R152, R153, R162). -/
def signF (x : Ctx) : Instr → Option FCalc
  | .minVF _ t d a b => some ⟨false, t.k, d, fun l => (fmtT t).pick false false (x.codeOf false t a l) (x.codeOf false t b l)⟩
  | .minSF _ t d a b => some ⟨true, t.k, d, fun l => (fmtT t).pick false false (x.codeOf true t a l) (x.codeOf true t b l)⟩
  | .maxVF _ t d a b => some ⟨false, t.k, d, fun l => (fmtT t).pick true false (x.codeOf false t a l) (x.codeOf false t b l)⟩
  | .maxSF _ t d a b => some ⟨true, t.k, d, fun l => (fmtT t).pick true false (x.codeOf true t a l) (x.codeOf true t b l)⟩
  | .minnumV _ t d a b => some ⟨false, t.k, d, fun l => (fmtT t).pick false true (x.codeOf false t a l) (x.codeOf false t b l)⟩
  | .minnumS _ t d a b => some ⟨true, t.k, d, fun l => (fmtT t).pick false true (x.codeOf true t a l) (x.codeOf true t b l)⟩
  | .maxnumV _ t d a b => some ⟨false, t.k, d, fun l => (fmtT t).pick true true (x.codeOf false t a l) (x.codeOf false t b l)⟩
  | .maxnumS _ t d a b => some ⟨true, t.k, d, fun l => (fmtT t).pick true true (x.codeOf true t a l) (x.codeOf true t b l)⟩
  | .absVF _ t d a => some ⟨false, t.k, d, fun l => { v := (fmtT t).absCode (x.codeOf false t a l) }⟩
  | .absSF _ t d a => some ⟨true, t.k, d, fun l => { v := (fmtT t).absCode (x.codeOf true t a l) }⟩
  | .negVF _ t d a => some ⟨false, t.k, d, fun l => { v := (fmtT t).negCode (x.codeOf false t a l) }⟩
  | .negSF _ t d a => some ⟨true, t.k, d, fun l => { v := (fmtT t).negCode (x.codeOf true t a l) }⟩
  | .copysignV _ t d a b => some ⟨false, t.k, d, fun l => { v := (fmtT t).copySign (x.codeOf false t a l) (x.codeOf false t b l) }⟩
  | .copysignS _ t d a b => some ⟨true, t.k, d, fun l => { v := (fmtT t).copySign (x.codeOf true t a l) (x.codeOf true t b l) }⟩
  | _ => none

/-- Float compares: the type, the condition, and whether the sources are uniform (R154, R162). -/
def cmpF : Instr → Option (Bool × FT × FCond × Cmb × Nat × Nat × Src × Src)
  | .cmpVF _ ty cond cmb pd pc a b => some (false, if ty then .f64 else .f32, cond, cmb, pd, pc, a, b)
  | .cmpVF16 _ ty cond cmb pd pc a b => some (false, if ty then .bf16 else .f16, cond, cmb, pd, pc, a, b)
  | .cmpSF _ ty cond cmb pd pc a b => some (true, if ty then .f64 else .f32, cond, cmb, pd, pc, a, b)
  | _ => none

/-- Conversions between wide types, and the float cross-lane results (R167-R169, R192, R193). -/
def convF (x : Ctx) : Instr → Option FCalc
  | .cvtFloatFloat _ dt st r d a => some ⟨false, dt.k, d, fun l => (fmtT dt).done r (withNaN [x.val false st a l] { v := x.val false st a l })⟩
  | .cvtFloatInt _ dt st r d a => some ⟨false, dt.k, d, fun l => toIntType dt r (x.val false st a l)⟩
  | .cvtIntFloat _ dt st r d a =>
    some ⟨false, dt.k, d, fun l => (fmtT dt).write r false (ofInt (readI st (x.rdV st.k (ITimm st) a l)))⟩
  | .reduceFloat _ f64 op d a => some ⟨true, (redT f64).k, d, fun _ => combineFloat (redT f64) op ((laneList x.e).map fun l => x.fV (redT f64) a l)⟩
  | .scanFloat _ excl f64 op d a =>
    some ⟨false, (redT f64).k, d, fun l =>
      match (laneList x.e).filter fun k => if excl then decide (k < l) else decide (k ≤ l) with
      | [] => { v := floatId (redT f64) op }
      | ls => combineFloat (redT f64) op (ls.map fun k => x.fV (redT f64) a k)⟩
  | _ => none

/-- Instructions on packed words, under the format `f` of their format register (R163-R166, R170, R171). -/
def packF (x : Ctx) (f : Fmt) : Instr → Option FCalc
  | .addVQ _ sat _ d a b => some ⟨false, 1, d, fun l => qAdd f sat (x.rdV 1 .zx a l) (x.rdV 1 .zx b l)⟩
  | .subVQ _ sat _ d a b => some ⟨false, 1, d, fun l => qSub f sat (x.rdV 1 .zx a l) (x.rdV 1 .zx b l)⟩
  | .mulVQ _ sat _ d a b => some ⟨false, 1, d, fun l => qMul f sat (x.rdV 1 .zx a l) (x.rdV 1 .zx b l)⟩
  | .fmaVQ _ sat _ d a b e => some ⟨false, 1, d, fun l => qFma f sat (x.rdV 1 .zx a l) (x.rdV 1 .zx b l) (x.rdV 1 .zx e l)⟩
  | .minVQ _ _ d a b => some ⟨false, 1, d, fun l => qPick f false (x.rdV 1 .zx a l) (x.rdV 1 .zx b l)⟩
  | .maxVQ _ _ d a b => some ⟨false, 1, d, fun l => qPick f true (x.rdV 1 .zx a l) (x.rdV 1 .zx b l)⟩
  | .dotVQ _ _ d a b e => some ⟨false, 1, d, fun l => qDot f (x.rdV 1 .zx a l) (x.rdV 1 .zx b l) (x.rdV 1 .zx e l)⟩
  | .absVQ _ _ d a => some ⟨false, 1, d, fun l => qAbs f (x.rdV 1 .zx a l)⟩
  | .negVQ _ _ d a => some ⟨false, 1, d, fun l => qNeg f (x.rdV 1 .zx a l)⟩
  | .cvtQFloat _ st _ idx d a e =>
    if idx.toNat < f.count then some ⟨false, 1, d, fun l => qInsert f (x.val false st a l) (x.rdV 1 .zx e l) idx.toNat⟩ else none
  | .cvtFloatQ _ dt _ idx d a =>
    if idx.toNat < f.count then some ⟨false, dt.k, d, fun l => qExtract f (fmtT dt) (x.rdV 1 .zx a l) idx.toNat⟩ else none
  | _ => none
/-- The format register an instruction names. -/
def fmtNo : Instr → Option (BitVec 2)
  | .addVQ _ _ fm .. | .subVQ _ _ fm .. | .mulVQ _ _ fm .. | .fmaVQ _ _ fm .. | .minVQ _ fm .. | .maxVQ _ fm .. | .dotVQ _ fm ..
  | .absVQ _ fm .. | .negVQ _ fm .. | .cvtQFloat _ _ fm .. | .cvtFloatQ _ _ fm .. => some fm
  | _ => none

end Sys2Proof.Machine
end

