-- ==== Sys2Proof/Safety/Works.lean ====
section
/-!
DEFINITION. What the rules give to each instruction that does more than write registers of its group: what it puts in flight, publishes,
holds at or changes in its team (spec/08 to 10, 12, 16, 17, 20), as a state beside the effect on registers; and the faults of its lanes.
-/
namespace Sys2Proof.Machine

/-- One way an instruction completes: when, its effect on the group's registers and path, and the state it leaves beside them. -/
structure Work where
  ok : Prop
  eff : Eff := {}
  s : State
/-- One way all lanes of an instruction fault: when, with what class, the state beside the group that it leaves (none: as it was), and what its fault
record tells of a failed access. -/
structure Fail where
  ok : Prop
  cls : FClass
  s : Option State := none
  addr : Nat := 0
  detail : Nat := 0

/-- The instruction completes: its effect, and the rule's state around the group. -/
def Completes (i : Instr) (s : State) (x : Ctx) (w : Work) : Prop :=
  ∃ t y g, exec i s = .next t ∧ w.s.group? x.cur.team x.cur.grp = some g ∧ Leaves x w.eff w.s g t y
/-- The path's group stands as `g` when its lanes go on. -/
def Ctx.from (x : Ctx) (g : Group) : Ctx := { x with g }
/-- The whole effective mask parks with the class, in the state `b`. -/
def FaultsIn (i : Instr) (s : State) (x : Ctx) (c : FClass) (b : State) : Prop :=
  ∃ t y, exec i s = .next t ∧ Parks x { cls := c, lanes := x.e } b t y
/-- The whole effective mask parks as `f` says. -/
def Fail.Parks (f : Fail) (i : Instr) (s : State) (x : Ctx) : Prop :=
  ∃ t y g, exec i s = .next t ∧ (f.s.getD x.s).group? x.cur.team x.cur.grp = some g
    ∧ Machine.Parks (x.from g) { cls := f.cls, lanes := x.e, addr := f.addr, detail := f.detail } (f.s.getD x.s) t y

/-- The team of the path in a state. -/
def Ctx.teamIn (x : Ctx) (b : State) : Team := (b.team? x.cur.team).getD x.tm
def Ctx.inTeam (x : Ctx) (b : State) (f : Team → Team) : State := b.updTeam x.cur.team f
def Ctx.inGroup (x : Ctx) (b : State) (f : Group → Group) : State := b.updGroup x.cur.team x.cur.grp f
/-- Every older team-memory access of the group has its place in T (R226). -/
def Ctx.synced (x : Ctx) : State := x.s.flushTeam x.cur.team x.cur.grp
/-- A publication of the group after its older accesses (R219, R223). -/
def Ctx.published (x : Ctx) (sc : Scope) (tag : PubTag) : State := x.synced.publish x.cur.team x.cur.grp sc tag
/-- A path that holds keeps its place and waits (R173, R246). -/
def Ctx.held (x : Ctx) (b : State) (k : HoldKind) : Work :=
  { ok := True, eff := { stay := true },
    s := x.inGroup b fun g => { g with holds := g.holds ++ [{ id := x.s.stamp, rc := x.cur.rc, lanes := x.cur.m, e := x.e, fin := x.c.fin, kind := k }] } }

/-! ## Operations in flight (R25, R81, R233) -/

structure Flight where
  fl : Flg := .none
  uni : Bool := false
  /-- no late check is to come -/
  chk : Bool := false
  dst : Option DstRun := none
  /-- the copy count (R465) -/
  ver : Nat := 0
  items : List Item
  kind : OpKind
/-- The operation, of the lanes given, in the state `b`: it enters behind all others and its flag rises. -/
def Flight.into (F : Flight) (x : Ctx) (b : State) (lanes : Mask) : State :=
  let o : Op := { id := x.s.stamp, team := x.cur.team, grp := x.cur.grp, rc := x.cur.rc, rc0 := x.cur.rc, lanes, uni := F.uni, flag := x.flagOf F.fl,
                  hdr := x.cur.pc.toNat - 12 * x.cur.pos, pos := x.cur.pos, chk := F.chk, dst := F.dst, ver := F.ver, lb := x.g.lb,
                  rets := if F.uni then forLanes x.e [] fun l m => m.set l (x.g.lane l).ret else [], items := F.items, kind := F.kind }
  let b := { b with ops := b.ops ++ [o] }
  match x.flagOf F.fl with
  | some n => x.inGroup b fun g => { g with flags := g.flags.set n (g.flags.get n + 1) }
  | none => b
/-- One mark for each lane, for an operation that is no lane's own access. -/
def Ctx.laneMarks (x : Ctx) : List Item := (laneList x.e).map fun l => { lane := l, addr := 0, mask := 0, ret := (x.g.lane l).ret }

/-! ## Accesses (R230-R242, R253) -/

structure Access where
  fl : Flg
  /-- of team memory, else global -/
  team : Bool
  /-- one access for the state -/
  uni : Bool
  size : Nat
  dst : Option DstRun := none
  addr : Nat → Int
  data : Nat → Nat := fun _ => 0
  cmp : Nat → Nat := fun _ => 0
  kind : OpKind
  /-- an atomic that is ordered has an adopt, a publication or both, before which older accesses have their places in T (R223, R226) -/
  ord : MemOrd := .rlx
  sc : Scope := .grp
def Access.lanes (A : Access) (x : Ctx) : List Nat := if A.uni then [lowestLane x.e] else laneList x.e
def Access.aligned (A : Access) (l : Nat) : Prop := A.addr l % A.size = 0
def Access.inside (A : Access) (x : Ctx) (l : Nat) : Prop := 0 ≤ A.addr l ∧ A.addr l + A.size ≤ (if A.team then (x.tm.tmemSize : Int) else 2 ^ 58)
def Access.item (A : Access) (x : Ctx) (l : Nat) : Item :=
  { lane := l, addr := (A.addr l).toNat, mask := 2 ^ A.size - 1, data := A.data l, cmp := A.cmp l, ret := (x.g.lane l).ret }
def Access.flight (A : Access) (x : Ctx) (ls : List Nat) : Flight :=
  { fl := A.fl, uni := A.uni, dst := A.dst, items := ls.map (A.item x), kind := A.kind }
/-- REL and AR publish before the first lane's atomic (R223). -/
def Access.ordered (A : Access) (x : Ctx) (b : State) : State :=
  match A.ord with
  | .rlx => b
  | .acq => b.flushTeam x.cur.team x.cur.grp
  | _ => (b.flushTeam x.cur.team x.cur.grp).publish x.cur.team x.cur.grp A.sc .plain
/-- Every lane's access is in flight; a releasing atomic has published. -/
def Access.after (A : Access) (x : Ctx) : State := A.ordered x ((A.flight x (A.lanes x)).into x x.s x.e)
/-- The lanes whose access breaks no rule, and those that are misaligned or out of range (R231, R255). -/
def Access.good (A : Access) (x : Ctx) : Mask :=
  maskOf fun l => x.e.getLsbD l && A.addr l % A.size == 0 && decide (0 ≤ A.addr l) && decide (A.addr l + A.size ≤ (if A.team then (x.tm.tmemSize : Int) else 2 ^ 58))
def Access.misaligned (A : Access) (x : Ctx) : Mask := maskOf fun l => x.e.getLsbD l && A.addr l % A.size != 0
/-- Where some lanes fault, the others' accesses are in flight (R255). -/
def Access.afterSome (A : Access) (x : Ctx) : State := A.ordered x ((A.flight x (laneList (A.good x))).into x x.s (A.good x))

/-- A global address: 64 bits (R231). -/
def Ctx.globalAddr (x : Ctx) (ac : AC) (a : Src) (off : BitVec 24) (l : Nat) : Int := ((x.base ac 2 a l : Int) + off.toInt) % 2 ^ 64
/-- A team-memory address: exact. -/
def Ctx.teamAddr (x : Ctx) (ac : AC) (a : Src) (off : BitVec 24) (l : Nat) : Int := (x.base ac 1 a l : Int) + off.toInt
def runV (x : Ctx) (m : MemOp) (b : Src) (l : Nat) : Nat := runBytes m.ty (fun j => x.elemV (elemRegs m.ty) b j l) m.cnt.num
def runU (x : Ctx) (m : MemOp) (b : Src) : Nat := runBytes m.ty (fun j => x.elemU (elemRegs m.ty) b j) m.cnt.num

def accessOf (x : Ctx) : Instr → Option Access
  | .ldgV _ f ac m d a => some { fl := f, team := false, uni := false, size := mtySize m.ty * m.cnt.num, dst := dstRun d false m.run,
                                 addr := x.globalAddr ac a m.off, kind := .load false m.ty m.cnt }
  | .ldcV _ f ac m d a => some { fl := f, team := false, uni := false, size := mtySize m.ty * m.cnt.num, dst := dstRun d false m.run,
                                 addr := x.globalAddr ac a m.off, kind := .load true m.ty m.cnt }
  | .ldgS _ f m d a => some { fl := f, team := false, uni := true, size := mtySize m.ty * m.cnt.num, dst := dstRun d true m.run,
                              addr := x.globalAddr .uni a m.off, kind := .load false m.ty m.cnt }
  | .ldcS _ f m d a => some { fl := f, team := false, uni := true, size := mtySize m.ty * m.cnt.num, dst := dstRun d true m.run,
                              addr := x.globalAddr .uni a m.off, kind := .load true m.ty m.cnt }
  | .stgV _ f ac m a b => some { fl := f, team := false, uni := false, size := mtySize m.ty * m.cnt.num, addr := x.globalAddr ac a m.off,
                                 data := runV x m b, kind := .store }
  | .stgS _ f ac m a b => some { fl := f, team := false, uni := ac == .uni, size := mtySize m.ty * m.cnt.num, addr := x.globalAddr ac a m.off,
                                 data := fun _ => runU x m b, kind := .store }
  | .ldtmV _ f ac m d a => some { fl := f, team := true, uni := false, size := mtySize m.ty * m.cnt.num, dst := dstRun d false m.run,
                                  addr := x.teamAddr ac a m.off, kind := .tload m.ty m.cnt }
  | .ldtmS _ f m d a => some { fl := f, team := true, uni := true, size := mtySize m.ty * m.cnt.num, dst := dstRun d true m.run,
                               addr := x.teamAddr .uni a m.off, kind := .tload m.ty m.cnt }
  | .sttmV _ f ac m a b => some { fl := f, team := true, uni := false, size := mtySize m.ty * m.cnt.num, addr := x.teamAddr ac a m.off,
                                  data := runV x m b, kind := .tstore }
  | .sttmS _ f ac m a b => some { fl := f, team := true, uni := ac == .uni, size := mtySize m.ty * m.cnt.num, addr := x.teamAddr ac a m.off,
                                  data := fun _ => runU x m b, kind := .tstore }
  | .atom _ f op m d a b e =>
    some { fl := f, team := false, uni := false, size := if m.w64 then 8 else 4, dst := dstRun d false (kOf m.w64), addr := x.globalAddr m.ac a m.off,
           data := x.rdV (kOf m.w64) .zx b, cmp := casArg op m.w64 e x, kind := .atomic op m.w64 m.sc m.ord true, ord := m.ord, sc := m.sc }
  | .red _ f op m a b =>
    some { fl := f, team := false, uni := false, size := if m.w64 then 8 else 4, addr := x.globalAddr m.ac a m.off, data := x.rdV (kOf m.w64) .zx b,
           kind := .atomic op m.w64 m.sc m.ord false, ord := m.ord, sc := m.sc }
  | .atomtm _ f op m d a b e =>
    some { fl := f, team := true, uni := false, size := if m.w64 then 8 else 4, dst := dstRun d false (kOf m.w64), addr := x.teamAddr m.ac a m.off,
           data := x.rdV (kOf m.w64) .zx b, cmp := casArg op m.w64 e x, kind := .tatomic op m.w64 }
  | _ => none

/-- A byte-masked store: the bytes that a lane selects (R239). -/
def maskBytes (x : Ctx) (e : Src) (l : Nat) : Nat := x.rdV 1 .zx e l % 16
def pinFlight (x : Ctx) (un : Bool) (f : Flg) (d : Dst) (a b : Src) : Flight :=
  { fl := f, uni := true, dst := dstRun d true 1, kind := .pin un,
    items := [{ lane := lowestLane x.e, addr := x.rdU 2 .zx a, mask := 0, data := x.rdU 1 .zx b, ret := (x.g.lane (lowestLane x.e)).ret }] }
def pinOk (x : Ctx) (a b : Src) : Prop := x.rdU 2 .zx a % 128 = 0 ∧ x.rdU 1 .zx b ≤ 4096
/-- A selected byte of a masked store is out of range (R239). -/
def maskOut (x : Ctx) (ac : AC) (m : MemOp) (a e : Src) (l : Nat) : Prop :=
  ∃ k, k < 4 ∧ (maskBytes x e l).testBit k = true ∧ 2 ^ 58 ≤ (x.globalAddr ac a m.off l + k) % 2 ^ 64

/-- Global and team memory. -/
def memWorks (x : Ctx) : Instr → List Work
  | .stmsk _ f ac m a b e =>
    let ls := (laneList x.e).filter fun l => maskBytes x e l != 0
    [{ ok := ∀ l ∈ laneList x.e, ¬maskOut x ac m a e l
       s := if ls = [] then x.s
         else ({ fl := f, kind := .store, items := ls.map fun l =>
             { lane := l, addr := (x.globalAddr ac a m.off l).toNat, mask := maskBytes x e l, data := x.rdV 1 .zx b l, ret := (x.g.lane l).ret, apart := true } } :
             Flight).into x x.s (maskOf ls.contains) }]
  | .pinLines _ f d a b => [{ ok := pinOk x a b, s := (pinFlight x false f d a b).into x x.s x.e }]
  | .unpinLines _ f d a b => [{ ok := pinOk x a b, s := (pinFlight x true f d a b).into x x.s x.e }]
  | i => match accessOf x i with
    | some A => [{ ok := ∀ l ∈ A.lanes x, A.aligned l ∧ A.inside x l, s := A.after x }]
    | none => []
/-- An access that no lane may make: misaligned, else out of range (R231, R236, R253). -/
def memFails (x : Ctx) : Instr → List Fail
  | .pinLines _ _ _ a b | .unpinLines _ _ _ a b =>
    [{ ok := ¬pinOk x a b, cls := .memAlign }]
  | .stmsk _ _ ac m a _ e => [{ ok := ∀ l ∈ laneList x.e, maskOut x ac m a e l, cls := .memXlate }]
  | i => match accessOf x i with
    | some A => [{ ok := ∀ l ∈ A.lanes x, ¬A.aligned l, cls := .memAlign }, { ok := ∀ l ∈ A.lanes x, A.aligned l ∧ ¬A.inside x l, cls := .memXlate }]
    | none => []

/-! ## Publish, adopt, fence (R243) -/

/-- An older operation of the group for which `p` holds is in flight. -/
def olderOut (x : Ctx) (p : Op → Prop) : Prop :=
  ∃ o ∈ x.synced.ops, o.team = x.cur.team ∧ o.grp = x.cur.grp ∧ o.id < x.s.stamp ∧ p o
/-- None waits (R243): each completes in its issue cycle. Its publication, then its adopt, take their places at once; or, while older accesses of the
group that they come after are in flight, as an operation of their own behind those (log 13). -/
def orderWorks (x : Ctx) (i : Instr) : List Work :=
  let later := fun (pub adp : Option Scope) =>
    ({ uni := true, chk := true, items := [], kind := .order pub adp } : Flight).into x x.synced x.e
  let load := fun (o : Op) => o.kind.reads = true ∨ o.kind.isOrder = true
  let any := fun (o : Op) => load o ∨ o.kind = .store ∧ o.chk = false
  match i with
  | .publish _ sc =>
    [{ ok := ¬olderOut x any, s := x.published sc .plain }, { ok := olderOut x any, s := later (some sc) none }]
  | .adopt _ sc =>
    [{ ok := ¬olderOut x load, s := x.synced.adopt x.cur.team x.cur.grp sc [] }, { ok := olderOut x load, s := later none (some sc) }]
  | .fence _ sc =>
    [{ ok := ¬olderOut x any, s := (x.published sc .plain).adopt x.cur.team x.cur.grp sc [] }, { ok := olderOut x any, s := later (some sc) (some sc) }]
  | _ => []

/-- One in flight takes its place once no older read, adopt or publication of its group is in flight, and for a publication no store that has not entered
co(x) (R220, R221). -/
def OrderTakesPlace : Prop := ∀ (s : State) id o pub adp, s.op? id = some o → o.kind = .order pub adp →
  let before := ∃ p ∈ s.ops, p.team = o.team ∧ p.grp = o.grp ∧ p.id < o.id
    ∧ (p.kind.reads = true ∨ p.kind.isOrder = true ∨ pub ≠ none ∧ p.kind = .store ∧ p.chk = false)
  let a := match pub with | some sc => s.publishAt o.team o.grp sc .plain o.id | none => s
  let b := match adp with | some sc => a.adoptAt o.team o.grp sc [] o.id | none => a
  (before → s.orderDone id = none) ∧ (¬ before → s.orderDone id = some (b.endOp o))

/-! ## Barrier objects (R244-R246) -/

/-- The object stands in team memory. -/
def barPlaced (x : Ctx) (a : Src) : Prop := x.rdU 1 .zx a % 2 ^ 31 % 16 = 0 ∧ x.rdU 1 .zx a % 2 ^ 31 + 16 ≤ x.tm.tmemSize
/-- The older accesses of the group have their places, and the bytes named are known as a barrier object (R245; log 15). -/
def barKnown (x : Ctx) (a : Src) : State := x.inTeam x.synced fun tm => tm.nameBar (x.rdU 1 .zx a % 2 ^ 31)
/-- The object then. -/
def barNow (x : Ctx) (a : Src) : Bar := (x.teamIn (barKnown x a)).bar (x.rdU 1 .zx a % 2 ^ 31)
/-- STAT bit 0: the object is valid. -/
def barValid (x : Ctx) (a : Src) : Prop := ((x.teamIn x.synced).bar (x.rdU 1 .zx a % 2 ^ 31)).stat % 2 = 1
/-- The phase's parity differs from the one awaited. -/
def barPassed (x : Ctx) (a : Src) : Prop := (barNow x a).phase % 2 ≠ x.rdU 1 .zx a / 2 ^ 31 % 2
def barPar (x : Ctx) (a : Src) : Bool := x.rdU 1 .zx a / 2 ^ 31 % 2 == 1
def barObs (x : Ctx) (sc : Scope) (a : Src) : State := (barKnown x a).observe x.cur.team x.cur.grp sc (x.rdU 1 .zx a % 2 ^ 31)
def Work.when (w : Work) (p : Prop) : Work := { w with ok := p }

def barWorks (x : Ctx) : Instr → List Work
  | .barInit _ a b =>
    let t := x.rdU 1 .zx a % 2 ^ 31
    [{ ok := barPlaced x a ∧ 1 ≤ x.rdU 1 .zx b ∧ x.rdU 1 .zx b ≤ 65535
       s := x.inTeam x.synced fun tm =>
         { (tm.setBar t { phase := 0, init := x.rdU 1 .zx b, left := x.rdU 1 .zx b, bytes := 0, stat := 1 }) with
           bars := (t :: tm.bars).eraseDups, barPubs := tm.barPubs.filter (fun p => p.1 != t), barStores := tm.barStores.filter fun p => p.1 != t } }]
  | .barArrive _ sc a =>
    let t := x.rdU 1 .zx a % 2 ^ 31
    let b := (barKnown x a).publish x.cur.team x.cur.grp sc (.barrier x.cur.team t (barNow x a).phase)
    let r := arriveLanes t (b.pubs.length - 1) (x.teamIn b) (laneList x.e)
    -- no lane finds every arrival of the phase made
    [{ ok := barPlaced x a ∧ barValid x a ∧ r.2 = 0#32, s := b.setTeam x.cur.team r.1 }]
  | .barExpect _ a b =>
    let n := (barNow x a).bytes + x.rdU 1 .zx b
    [{ ok := barPlaced x a ∧ barValid x a ∧ -2 ^ 31 ≤ n ∧ n < 2 ^ 31
       s := x.inTeam (barKnown x a) fun tm => tm.setBar (x.rdU 1 .zx a % 2 ^ 31) ({ barNow x a with bytes := n } : Bar).settle }]
  | .barWait _ sc a =>
    [{ ok := barPlaced x a ∧ barValid x a ∧ barPassed x a, s := barObs x sc a },
     (x.held (barKnown x a) (.barWait (x.rdU 1 .zx a % 2 ^ 31) (barPar x a) sc)).when (barPlaced x a ∧ barValid x a ∧ ¬barPassed x a)]
  | .barTest _ sc p a =>
    [{ ok := barPlaced x a ∧ barValid x a ∧ barPassed x a, eff := { p := [(p, fun _ => true)] }, s := barObs x sc a },
     { ok := barPlaced x a ∧ barValid x a ∧ ¬barPassed x a, eff := { p := [(p, fun _ => false)] }, s := barKnown x a }]
  | _ => []

/-! ## Channels (R248, R249) -/

/-- The state word of a channel, once the older accesses have their places. -/
def chNow (x : Ctx) (ch : Nat) : Chan := (x.teamIn x.synced).chan ch
def chinitOk (x : Ctx) (base v : Nat) : Prop :=
  base % 256 = 0 ∧ v % 65536 % 16 = 0 ∧ 16 ≤ v % 65536 ∧ v % 65536 ≤ 32768 ∧ 1 ≤ v / 65536 % 128 ∧ v / 65536 % 128 ≤ 64 ∧ v / 2 ^ 23 = 0
  ∧ base + v / 65536 % 128 * (v % 65536) ≤ x.tm.tmemSize

def chanWorks (x : Ctx) : Instr → List Work
  | .chinit _ ch a b =>
    let v := x.rdU 1 .zx b
    [{ ok := chinitOk x (x.rdU 1 .zx a) v
       s := x.inTeam x.synced fun tm =>
         { tm with chst := tm.chst.set ch ({ valid := true, ridx := 0, nr := 0, nf := 0, nt := 0, count := v / 65536 % 128, slot := v % 65536,
                                              base := x.rdU 1 .zx a } : Chan).word
                   slotPubs := tm.slotPubs.clearRange (64 * ch) (64 * ch + 64), handed := tm.handed.filter fun h => h.ch != ch
                   returned := tm.returned.filter fun r => r.1 != ch } }]
  | .chres _ ch d =>
    let c := chNow x ch
    [{ ok := c.valid = true ∧ c.nr + c.nf + c.nt < c.count ∧ (x.teamIn x.synced).reservers ch = []
       eff := { u := some (1, d, c.base + c.slot * c.ridx) }
       s := x.inTeam x.synced fun tm => { tm with chst := tm.chst.set ch ({ c with ridx := (c.ridx + 1) % c.count, nr := c.nr + 1 } : Chan).word } },
     (x.held x.synced (.chres ch d)).when (c.valid = true ∧ (c.count ≤ c.nr + c.nf + c.nt ∨ (x.teamIn x.synced).reservers ch ≠ []))]
  | .chcommit _ sc ch =>
    let c := chNow x ch
    let i := (c.ridx + 64 * c.count - c.nr) % c.count
    let b := x.published sc (.slot x.cur.team ch i)
    [{ ok := c.valid = true ∧ 1 ≤ c.nr
       s := x.inTeam b fun tm => { tm with chst := tm.chst.set ch ({ c with nr := c.nr - 1, nf := c.nf + 1 } : Chan).word
                                           slotPubs := tm.slotPubs.set (64 * ch + i) b.pubs.length } }]
  | .chtake _ sc ch d =>
    let c := chNow x ch
    let i := (c.ridx + 64 * c.count - (c.nr + c.nf)) % c.count
    let none' := x.synced.takers x.cur.team ch (x.teamIn x.synced) = []
    [{ ok := c.valid = true ∧ 1 ≤ c.nf ∧ none'
       eff := { u := some (1, d, c.base + c.slot * i) }
       s := ((x.inTeam x.synced fun tm => { tm with chst := tm.chst.set ch ({ c with nf := c.nf - 1, nt := c.nt + 1 } : Chan).word }).flushTeam
         x.cur.team x.cur.grp).adopt x.cur.team x.cur.grp sc ((x.teamIn x.synced).slotPub ch i) },
     (x.held x.synced (.chtake sc ch d)).when (c.valid = true ∧ (c.nf = 0 ∨ ¬none'))]
  | .chfree _ ch =>
    let c := chNow x ch
    [{ ok := c.valid = true ∧ 1 ≤ c.nt, s := x.inTeam x.synced fun tm => { tm with chst := tm.chst.set ch ({ c with nt := c.nt - 1 } : Chan).word } }]
  | _ => []

/-! ## Copies and the operand buffer (R250, R269, R271) -/

/-- Destination, source, length and barrier of a copy. -/
def copyOf (x : Ctx) : Instr → Option (Range × Range × Nat × Nat)
  | .cpyG2t _ a b e bar => some (⟨.team, x.rdU 1 .zx a⟩, ⟨.glob, x.rdU 2 .zx b⟩, x.rdU 1 .zx e, bar.toNat)
  | .cpyT2g _ a b e bar => some (⟨.glob, x.rdU 2 .zx a⟩, ⟨.team, x.rdU 1 .zx b⟩, x.rdU 1 .zx e, bar.toNat)
  | .cpyG2g _ a b e bar => some (⟨.glob, x.rdU 2 .zx a⟩, ⟨.glob, x.rdU 2 .zx b⟩, x.rdU 1 .zx e, bar.toNat)
  | .cpyT2t _ a b e bar => some (⟨.team, x.rdU 1 .zx a⟩, ⟨.team, x.rdU 1 .zx b⟩, x.rdU 1 .zx e, bar.toNat)
  | .obldG _ o a bar => let r := resvOf (x.tm.obres.get o); if r.valid then some (⟨.obuf, r.base⟩, ⟨.glob, x.rdU 2 .zx a⟩, r.size, bar.toNat) else none
  | .obldTm _ o a bar => let r := resvOf (x.tm.obres.get o); if r.valid then some (⟨.obuf, r.base⟩, ⟨.team, x.rdU 1 .zx a⟩, r.size, bar.toNat) else none
  | _ => none
def copyAligned (dst src : Range) (len bar : Nat) : Prop := len % 16 = 0 ∧ len ≤ 2 ^ 24 ∧ dst.base % 16 = 0 ∧ src.base % 16 = 0 ∧ bar % 16 = 0
def rangeInside (x : Ctx) (r : Range) (len : Nat) : Prop :=
  match r.spc with
  | .glob => r.base + len ≤ 2 ^ 58
  | .team => r.base + len ≤ x.tm.tmemSize
  | .obuf => True
/-- The copy count of the team's slice on its die (R465). -/
def Ctx.copies (x : Ctx) (b : State) : Nat := (b.sliceDieOf x.tm.slice x.tm.die).copies
def copyWorks (x : Ctx) (i : Instr) : List Work :=
  match copyOf x i with
  | none => []
  | some (dst, src, len, bar) =>
    let ok := copyAligned dst src len bar ∧ rangeInside x dst len ∧ rangeInside x src len ∧ bar + 16 ≤ x.tm.tmemSize
      ∧ ((x.teamIn x.synced).bar bar).stat % 2 = 1
    -- the barrier object named is known as one (R245; log 15)
    let b := x.inTeam x.synced fun tm => tm.nameBar bar
    let far := b.namesRemote (x.teamIn b) dst len || b.namesRemote (x.teamIn b) src len
    let b' := if far then b.countCopy (x.teamIn b) else b
    [{ ok := ok ∧ len = 0, s := b },
     { ok := ok ∧ len ≠ 0
       s := ({ chk := dst.spc != .glob && src.spc != .glob, ver := if far then x.copies b' else 0, items := x.laneMarks, kind := .copy dst src len bar [] [] [] } : Flight).into x b' x.e }]
def copyFails (x : Ctx) (i : Instr) : List Fail :=
  match copyOf x i with
  | none => []
  | some (dst, src, len, bar) =>
    let inside := rangeInside x dst len ∧ rangeInside x src len ∧ bar + 16 ≤ x.tm.tmemSize
    [{ ok := ¬copyAligned dst src len bar, cls := .memAlign },
     { ok := copyAligned dst src len bar ∧ ¬inside, cls := .memXlate },
     { ok := copyAligned dst src len bar ∧ inside ∧ ((x.teamIn x.synced).bar bar).stat % 2 = 0, cls := .channel, s := some x.synced }]

/-- The registers of R268 are in range. -/
def resvOk (x : Ctx) (v : Nat) : Prop :=
  let size := 1024 * (v / 2 ^ 8 % 256)
  let fk := v / 2 ^ 16 % 8
  let nlt := v / 2 ^ 19 % 8
  let hoff := 256 * (v / 2 ^ 22 % 1024)
  1024 ≤ size ∧ 1024 * (v % 256) + size ≤ x.tm.obufSize
  ∧ (if 2 ≤ fk ∧ fk ≤ 4 then nlt ≤ 4 ∧ 256 * nlt ≤ hoff ∧ hoff < size else nlt = 0 ∧ hoff = 0)

/-! ## Tiles (R264-R288) -/

/-- Neither reservation of an `mma` forbids it, nor the tile's mode (R276). -/
def mmaOk (x : Ctx) (int : Bool) (n ga gb xd : Nat) (va vb : Dword) : Prop :=
  let a := resvOf va
  let b := resvOf vb
  let m := x.s.tileMode x.cur.team xd x.tm
  a.valid = true ∧ b.valid = true ∧ (if int then 5 ≤ a.fk ∧ 5 ≤ b.fk else a.fk ≤ 4 ∧ b.fk ≤ 4) ∧ operandOk a ga n = true ∧ operandOk b gb n = true
  ∧ (m.1 = true → m.2 = int)
structure Drain where
  fl : Flg
  kind : DrainKind
  fw : Word := 0#32
  lt : Option (Dword × Nat) := none
  x : Nat
  base : Nat
  pitch : Nat
def drainOf (x : Ctx) : Instr → Option Drain
  | .drainF64 _ f p n b => some { fl := f, kind := .f64, fw := x.st.getFmt 0, x := n, base := x.rdU 2 .zx b, pitch := p.toNat }
  | .drainI64 _ f p n b => some { fl := f, kind := .i64, fw := x.st.getFmt 0, x := n, base := x.rdU 2 .zx b, pitch := p.toNat }
  | .drainQ _ f fm p ltv o k n b =>
    some { fl := f, kind := .q, fw := x.st.getFmt fm.toNat, lt := if ltv then some (x.tm.obres.get o.toNat, k.toNat) else none, x := n,
           base := x.rdU 2 .zx b, pitch := p.toNat }
  | _ => none
/-- The bytes of a row's data; the pitch in force; the end of what is written (R283-R285). -/
def Drain.row (D : Drain) : Nat := match D.kind with | .q => 2 * blockBytes ((drainFmt D.fw).getD (8, 0)).1 | _ => 512
def Drain.step (D : Drain) : Nat := if D.pitch = 0 then D.row else D.pitch
def Drain.top (D : Drain) : Nat := match D.kind with | .q => max (63 * D.step + D.row) (64 * D.step + 256) | _ => 63 * D.step + 512
def Drain.formOk (x : Ctx) (D : Drain) : Prop :=
  let m := x.s.tileMode x.cur.team D.x x.tm
  (m.1 = true → m.2 = (D.kind == .i64)) ∧ (D.pitch = 0 ∨ D.row ≤ D.pitch)
  ∧ (D.kind = .q → (drainFmt D.fw).isSome = true ∧ ∀ q, D.lt = some q →
      let r := resvOf q.1
      r.valid = true ∧ r.block = true ∧ r.w = ((drainFmt D.fw).getD (0, 0)).1 ∧ q.2 < r.nlt)
def Drain.aligned (D : Drain) : Prop := let n := if D.kind = .q then 4 else 8; D.base % n = 0 ∧ D.pitch % n = 0
/-- A drain to another package's memory counts as a copy (R465). -/
def Drain.far (D : Drain) (x : Ctx) : Bool :=
  let db := match D.kind with | .q => blockBytes ((drainFmt D.fw).getD (8, 0)).1 | _ => 8
  (drainBlocks D.kind db D.base D.step).any fun bl => x.s.namesPkg x.tm bl.1 || x.s.namesPkg x.tm (bl.1 + bl.2 - 1)
def Drain.from (D : Drain) (x : Ctx) : State := if D.far x then x.s.countCopy x.tm else x.s

/-- The rows that a fragment load reads (R273). -/
def rowsOf (x : Ctx) (un : Bool) (f pitch off : Nat) (a : Src) : List Nat :=
  (List.range f).flatMap fun k => (List.range 8).map fun r =>
    if un then x.rdU 1 .zx a + off + 16 * k + 16 * pitch * r else (x.rdA .zx a).value (8 * k + r) + off
/-- An operation on a tile without engine time: it waits behind the tile's earlier ones, else it takes place (R266). -/
def tileWork (x : Ctx) (items : List Item) (kind : OpKind) : State := (({ chk := true, items, kind } : Flight).into x x.s x.e).tileSettle

def matrixWorks (x : Ctx) : Instr → List Work
  | .obres _ o a =>
    [{ ok := resvOk x (x.rdU 1 .zx a)
       s := x.inTeam x.s fun tm => { tm with obres := tm.obres.set o (BitVec.ofNat 64 (2 ^ 63 + x.rdU 1 .zx a)) } }]
  | .obrel _ o => [{ ok := True, s := x.inTeam x.s fun tm => { tm with obres := tm.obres.set o (tm.obres.get o &&& 0x7FFFFFFFFFFFFFFF#64) } }]
  | .ldfrag _ f un tr cnt pitch off d a =>
    let rows := rowsOf x un cnt.num pitch.toNat off.toNat a
    [{ ok := ∀ t ∈ rows, t % 16 = 0 ∧ t + 16 ≤ x.tm.tmemSize
       s := ({ fl := f, dst := dstRun d false cnt.num, kind := .frag tr cnt.num,
               items := rows.map fun t => { lane := lowestLane x.e, addr := t, mask := 2 ^ 16 - 1 } } : Flight).into x x.s x.e }]
  | .mma _ f int k nz ga gb xd oa ob =>
    let va := x.tm.obres.get oa
    let vb := x.tm.obres.get ob
    [{ ok := mmaOk x int (2 ^ k.toNat) ga.toNat gb.toNat xd va vb
       s := ({ fl := f, items := x.laneMarks, kind := .mma int nz (2 ^ k.toNat) ga.toNat gb.toNat xd va vb } : Flight).into x x.s x.e }]
  | .xzero _ n => [{ ok := True, s := tileWork x [] (.xzero n) }]
  | .xput _ n a b =>
    [{ ok := x.rdU 1 .zx b < 128
       s := tileWork x ((laneList x.e).map fun l => { lane := l, addr := 0, mask := 0, data := x.rdV 2 .zx a l, ret := (x.g.lane l).ret })
         (.xput n (x.rdU 1 .zx b)) }]
  | .xget _ f d n b =>
    [{ ok := x.rdU 1 .zx b < 128
       s := ({ fl := f, chk := true, dst := dstRun d false 2, items := x.laneMarks, kind := .xget n (x.rdU 1 .zx b) } : Flight).into x x.s x.e }]
  | .xstatNan _ d n =>
    [{ ok := True, eff := { u := some (1, d, (x.tm.xstat.get n).toNat % 2 ^ 29) }, s := x.s }]
  | .xstatOvf _ d n =>
    [{ ok := True, eff := { u := some (1, d, (x.tm.xstat.get n).toNat / 2 ^ 31) }, s := x.s }]
  | i => match drainOf x i with
    | some D =>
      [{ ok := D.formOk x ∧ D.aligned ∧ D.base + D.top ≤ 2 ^ 58
         s := ({ fl := D.fl, ver := if D.far x then x.copies (D.from x) else 0, items := x.laneMarks, kind := .drain D.kind D.fw D.lt D.x D.base D.step [] } : Flight).into x (D.from x) x.e }]
    | none => []
def matrixFails (x : Ctx) : Instr → List Fail
  | .obres _ _ a => [{ ok := ¬resvOk x (x.rdU 1 .zx a), cls := .illegalOp }]
  | .ldfrag _ _ un _ cnt pitch off _ a =>
    let rows := rowsOf x un cnt.num pitch.toNat off.toNat a
    [{ ok := ∃ t ∈ rows, t % 16 ≠ 0, cls := .memAlign }, { ok := (∀ t ∈ rows, t % 16 = 0) ∧ ∃ t ∈ rows, x.tm.tmemSize < t + 16, cls := .memXlate }]
  | .mma _ _ int k _ ga gb xd oa ob =>
    [{ ok := ¬mmaOk x int (2 ^ k.toNat) ga.toNat gb.toNat xd (x.tm.obres.get oa) (x.tm.obres.get ob), cls := .illegalOp }]
  | .xput _ _ _ b | .xget _ _ _ _ b => [{ ok := 128 ≤ x.rdU 1 .zx b, cls := .illegalOp }]
  | .obldG _ o _ _ | .obldTm _ o _ _ => [{ ok := (resvOf (x.tm.obres.get o)).valid = false, cls := .illegalOp }]
  | i => match drainOf x i with
    | some D => [{ ok := ¬D.formOk x, cls := .illegalOp }, { ok := D.formOk x ∧ ¬D.aligned, cls := .memAlign },
                 { ok := D.formOk x ∧ D.aligned ∧ 2 ^ 58 < D.base + D.top, cls := .memXlate }]
    | none => []

/-! ## Calls, tokens, cluster barriers (R304, R308, R319-R322) -/

/-- A cluster barrier's address can be used: its place is right; what its translation, and the package that holds it, say. -/
def cbarVa (x : Ctx) (a : Src) : Nat := x.rdU 2 .zx a % 2 ^ 63
def cbarPlaced (x : Ctx) (a : Src) : Prop := cbarVa x a % 16 = 0 ∧ cbarVa x a < 2 ^ 58
def cbarSays (x : Ctx) (a : Src) (pa : Nat) : Option (Except (Nat × XErr) (List Nat)) := x.s.wordSays x.cur.team x.cur.grp (cbarVa x a) pa
def cbarAt (x : Ctx) (a : Src) (pa : Nat) : Prop :=
  cbarPlaced x a ∧ x.s.teamXlat x.tm needRW (cbarVa x a) = .ok pa ∧ ∃ l, cbarSays x a pa = some (.ok l)
def cbarPassed (x : Ctx) (a : Src) (pa : Nat) : Prop := (x.s.cbar pa).phase % 2 ≠ x.rdU 2 .zx a / 2 ^ 63 % 2
def tokStalled (x : Ctx) (sl type cl st : Nat) : Bool := (x.s.stream type cl sl st).stalled
/-- The faulting record of each named stream is to be performed again (R320). -/
def State.unstall (s : State) (type cl sl st : Nat) : State :=
  let k := streamKey type cl sl st
  { s with streams := s.streams.set k { s.streams.get k with stalled := false }
           calls := s.calls.map fun c => if c.key = k ∧ c.type = type ∧ hdrOrd c.hdr = true ∧ c.mode = .stalled then { c with mode := .ready } else c }

/-- The limits of the operands of `tok.resume` (R320). -/
def resumeOk (va vb : Nat) : Prop :=
  va < 2 ^ 24 ∧ va / 65536 % 256 < 192 ∧ vb < 1024 ∧ vb / 16 % 16 < 12 ∧ (vb % 16 = 3 ∨ vb % 16 = 4)
def callWorks (x : Ctx) : Instr → List Work
  | .ccall _ ch b =>
    let n := x.rdU 1 .zx b
    let c := chNow x ch
    let slot := fun h => ((c.ridx + 64 * c.count - c.nr) % c.count + h) % c.count
    [{ ok := n = 0, s := x.s },
     { ok := c.valid = true ∧ n ≠ 0 ∧ c.nf = 0 ∧ n ≤ c.nr
         ∧ ∀ h < n, (x.teamIn x.synced).callHdrOk ((x.teamIn x.synced).tread (c.base + c.slot * slot h) 8) = true
       s := x.inTeam (x.published .clu .plain) fun tm =>
         { tm with chst := tm.chst.set ch ({ c with nr := c.nr - n, nt := c.nt + n } : Chan).word
                   handed := tm.handed ++ (List.range n).map fun h => { ch, slot := slot h, grp := x.cur.grp, rc := x.cur.rc, stamp := x.cycleStamp } } }]
  | .crecv _ f d ch =>
    [{ ok := (chNow x ch).valid = true
       s := ({ fl := f, dst := dstRun d true 1, items := x.laneMarks, kind := .crecv ch } : Flight).into x x.synced x.e }]
  | .tokWait _ a =>
    let m := x.rdU 1 .zx a
    [{ ok := m < 65536 ∧ ∀ st < 16, m.testBit st = true → x.s.drained x.tm.slice x.tm.cluIx st = true, s := x.s.tokAdopt x.cur.team x.cur.grp m },
     (x.held x.s (.tokWait m)).when (m < 65536 ∧ ∃ st < 16, m.testBit st = true ∧ x.s.drained x.tm.slice x.tm.cluIx st = false)]
  | .tokRead _ d =>
    let bits := fun (f : Nat → Bool) => ((List.range 16).filter f).foldl (fun v st => v + 2 ^ st) 0
    [{ ok := True, s := x.s
       eff := { u := some (1, d, bits (fun st => x.s.drained x.tm.slice x.tm.cluIx st)
                  + 65536 * bits fun st => tokStalled x x.tm.slice 3 x.tm.cluIx st || tokStalled x x.tm.slice 4 x.tm.cluIx st) } }]
  | .tokResume _ d a b =>
    let va := x.rdU 1 .zx a
    let vb := x.rdU 1 .zx b
    let type := vb % 16
    let cl := 12 * (vb / 256 % 4) + vb / 16 % 16
    let sl := va / 65536 % 256
    let ss := (List.range 16).filter fun st => va.testBit st && tokStalled x sl type cl st
    [{ ok := resumeOk va vb
       eff := { u := some (1, d, ss.foldl (fun v st => v + 2 ^ st) 0) }
       s := ss.foldl (fun s st => s.unstall type cl sl st) x.s }]
  | _ => []
def cbarWorks (x : Ctx) (pa : Nat) : Instr → List Work
  | .cbarArrive _ sc a =>
    let c := x.s.cbar pa
    let b := x.published sc (.atomicAt pa)
    [{ ok := cbarAt x a pa ∧ c.stat % 2 = 1 ∧ 1 ≤ c.left
       -- an atomic of the group: it has read the object's bytes, and its own store is among those that it publishes next (R220, R221)
       s := ((({ b with cbarPubs := (pa, c.phase, b.pubs.length - 1) :: b.cbarPubs } : State).seeBytes x.cur.team x.cur.grp x.s.stamp pa 16).setCbar
         (agentOf x.cur.team x.cur.grp) (storeStamp x.s.stamp) pa ({ c with left := c.left - 1 } : Bar).settle).seeBytes x.cur.team x.cur.grp x.s.stamp pa 16 }]
  | .cbarWait _ sc a =>
    [{ ok := cbarAt x a pa ∧ cbarPassed x a pa, s := x.s.cobserve x.cur.team x.cur.grp sc pa },
     (x.held x.s (.cbarWait sc (cbarVa x a) (x.rdU 2 .zx a / 2 ^ 63 % 2 == 1))).when (cbarAt x a pa ∧ ¬cbarPassed x a pa)]
  | _ => []

/-- Faults found once the older accesses of the group have their places, and after a publication that stands before the test (R245, R249, R304). -/
def syncFails (x : Ctx) : Instr → List Fail
  | .barInit _ a b => [{ ok := barPlaced x a ∧ (x.rdU 1 .zx b = 0 ∨ 65535 < x.rdU 1 .zx b), cls := .channel, s := some x.synced }]
  | .barArrive _ _ a | .barWait _ _ a | .barTest _ _ _ a => [{ ok := barPlaced x a ∧ ¬barValid x a, cls := .channel, s := some x.synced }]
  | .barExpect _ a b =>
    let n := (barNow x a).bytes + x.rdU 1 .zx b
    [{ ok := barPlaced x a ∧ ¬barValid x a, cls := .channel, s := some x.synced },
     { ok := barPlaced x a ∧ barValid x a ∧ (n < -2 ^ 31 ∨ 2 ^ 31 ≤ n), cls := .channel, s := some (barKnown x a) }]
  | .chinit _ _ a b => [{ ok := ¬chinitOk x (x.rdU 1 .zx a) (x.rdU 1 .zx b), cls := .channel, s := some x.synced }]
  | .chres _ ch _ | .chtake _ _ ch _ | .crecv _ _ _ ch => [{ ok := (chNow x ch).valid = false, cls := .channel, s := some x.synced }]
  | .chcommit _ sc ch =>
    let c := chNow x ch
    [{ ok := c.valid = false, cls := .channel, s := some x.synced },
     { ok := c.valid = true ∧ c.nr = 0, cls := .channel, s := some (x.published sc (.slot x.cur.team ch ((c.ridx + 64 * c.count) % c.count))) }]
  | .chfree _ ch =>
    [{ ok := (chNow x ch).valid = false, cls := .channel, s := some x.synced },
     { ok := (chNow x ch).valid = true ∧ (chNow x ch).nt = 0, cls := .channel, s := some x.synced }]
  | .ccall _ ch b =>
    let n := x.rdU 1 .zx b
    let c := chNow x ch
    [{ ok := n ≠ 0 ∧ c.valid = false, cls := .channel, s := some x.synced },
     { ok := n ≠ 0 ∧ c.valid = true ∧ (c.nf ≠ 0 ∨ c.nr < n), cls := .channel, s := some x.synced },
     { ok := n ≠ 0 ∧ c.valid = true ∧ c.nf = 0 ∧ n ≤ c.nr ∧ ∃ h < n, (x.teamIn x.synced).callHdrOk
         ((x.teamIn x.synced).tread (c.base + c.slot * (((c.ridx + 64 * c.count - c.nr) % c.count + h) % c.count)) 8) = false
       cls := .callFault, s := some x.synced }]
  | _ => []
/-- Faults found before anything is done: where a barrier object stands, what a translation says of it, and whether it is valid (R246, R321, R322). -/
def placeFails (x : Ctx) : Instr → List Fail
  | .barInit _ a _ | .barArrive _ _ a | .barExpect _ a _ | .barWait _ _ a | .barTest _ _ _ a =>
    let t := x.rdU 1 .zx a % 2 ^ 31
    [{ ok := t % 16 ≠ 0, cls := .memAlign }, { ok := t % 16 = 0 ∧ x.tm.tmemSize < t + 16, cls := .memXlate }]
  | .cbarArrive _ _ a => cbarFails a ++ match x.s.teamXlat x.tm needRW (cbarVa x a) with
    | .ok pa => [{ ok := cbarAt x a pa ∧ ((x.s.cbar pa).stat % 2 = 0 ∨ (x.s.cbar pa).left = 0), cls := .channel }]
    | .error _ => []
  | .cbarWait _ _ a => cbarFails a
  | _ => []
where cbarFails (a : Src) : List Fail :=
  let va := cbarVa x a
  [{ ok := va % 16 ≠ 0, cls := .memAlign }, { ok := va % 16 = 0 ∧ 2 ^ 58 ≤ va, cls := .memXlate, addr := va, detail := 32 }]
  ++ match x.s.teamXlat x.tm needRW va with
    | .error e => [{ ok := cbarPlaced x a, cls := e.cls, addr := va, detail := e.detail }]
    | .ok pa => match cbarSays x a pa with
      | some (.error e) => [{ ok := cbarPlaced x a, cls := e.2.cls, addr := va, detail := e.2.detail }]
      | _ => []

/-! ## Queues, waits, deadlines, collectives (R393, R394, R405, R406, R403, R467) -/

def collNo : Instr → Option (Nat × Flg × Dst × Src)
  | .collAllreduce _ f d a => some (0, f, d, a)
  | .collAllgather _ f d a => some (1, f, d, a)
  | .collRedscat _ f d a => some (2, f, d, a)
  | .collBcast _ f d a => some (3, f, d, a)
  | _ => none
def waitDeadline (x : Ctx) (e : Src) : Option Nat :=
  match (x.g.lane (lowestLane x.cur.m)).wdl with
  | some d => some d
  | none => if x.rdU 1 .zx e = 2 ^ 32 - 1 then none else some (x.s.dieCount x.tm.die + x.rdU 1 .zx e)
def schedWorks (x : Ctx) : Instr → List Work
  | .enq _ f d a b =>
    [{ ok := x.rdU 2 .zx a % 64 = 0 ∧ x.rdU 2 .zx b % 64 = 0 ∧ x.rdU 2 .zx a < 2 ^ 58 ∧ x.rdU 2 .zx b < 2 ^ 58
       s := ({ fl := f, uni := true, dst := dstRun d true 1, items := x.laneMarks, kind := .enq (x.rdU 2 .zx a) (x.rdU 2 .zx b) } : Flight).into x
         (x.published .slc .plain) x.e }]
  | .launchGrid _ f d a b =>
    [{ ok := True
       s := ({ fl := f, uni := true, dst := dstRun d true 1, items := x.laneMarks, kind := .launch (x.rdU 2 .zx a) (x.rdU 1 .zx b) } : Flight).into x
         (x.published .slc .plain) x.e }]
  | .waitv _ cond p a b e =>
    let ok := x.rdU 2 .zx a % 4 = 0 ∧ x.rdU 2 .zx a < 2 ^ 58 ∧ x.s.wordAnswer x (x.rdU 2 .zx a) = none
    match x.s.waitWord x.tm (x.rdU 2 .zx a) with
    | .ok (pa, v) =>
      [{ (x.held x.s (.waitv cond p (x.rdU 2 .zx a) (BitVec.ofNat 32 (x.rdU 1 .zx b)) (waitDeadline x e))) with
         ok := ok ∧ waitCond cond v (x.rdU 1 .zx b) = false },
       { ok := ok ∧ waitCond cond v (x.rdU 1 .zx b) = true, eff := { p := [(p, fun _ => false)] }, s := x.s.waitAdopt x.cur.team x.cur.grp x.s.stamp pa }]
    | .error _ => []
  | .setdl _ a =>
    [{ ok := x.tm.cls = 0, s := x.s },
     { ok := x.tm.cls ≠ 0, s := x.inTeam x.s fun tm => { tm with deadline := BitVec.ofNat 64 (x.rdU 2 .zx a) } }]
  | i => match collNo i with
    | some (k, f, d, a) =>
      [{ ok := x.rdU 2 .zx a % 64 = 0 ∧ x.rdU 2 .zx a < 2 ^ 58
         s := ({ fl := f, uni := true, dst := dstRun d true 1, items := x.laneMarks, kind := .coll k (x.rdU 2 .zx a) } : Flight).into x
           (x.published .dom .plain) x.e }]
    | none => []
def schedFails (x : Ctx) : Instr → List Fail
  | .enq _ _ _ a b =>
    [{ ok := x.rdU 2 .zx a % 64 ≠ 0 ∨ x.rdU 2 .zx b % 64 ≠ 0 ∨ 2 ^ 58 ≤ x.rdU 2 .zx a ∨ 2 ^ 58 ≤ x.rdU 2 .zx b, cls := .memAlign }]
  | .waitv _ _ _ a _ _ =>
    let va := x.rdU 2 .zx a
    [{ ok := va % 4 ≠ 0, cls := .memAlign }, { ok := va % 4 = 0 ∧ 2 ^ 58 ≤ va, cls := .memXlate, addr := va, detail := 32 }]
    ++ match x.s.wordAnswer x va, x.s.waitWord x.tm va with
      | some e, _ | none, .error e => [{ ok := va % 4 = 0 ∧ va < 2 ^ 58, cls := e.cls, addr := va, detail := e.detail }]
      | none, .ok _ => []
  | i => match collNo i with
    | some (_, _, _, a) =>
      [{ ok := x.rdU 2 .zx a % 64 ≠ 0, cls := .memAlign }, { ok := x.rdU 2 .zx a % 64 = 0 ∧ 2 ^ 58 ≤ x.rdU 2 .zx a, cls := .memXlate }]
    | none => []

/-! ## Translations (R416, R417) -/

def tlbWorks (x : Ctx) : Instr → List Work
  | .tlbinvAsid _ a =>
    let t := x.rdU 1 .zx a
    [{ ok := t / 2 ^ 16 % 256 ≤ 192 ∧ t / 2 ^ 24 = 0
       s := { x.published .dom .plain with
              tlb1 := (x.published .dom .plain).tlb1.filter fun e => !(e.slice == t / 2 ^ 16 % 256 && e.asid == t % 2 ^ 16) } }]
  | .tlbinvPage _ a b =>
    let t := x.rdU 1 .zx b
    let addr := x.rdU 2 .zx a / 2 ^ 14 * 2 ^ 14
    let sl := t / 2 ^ 16 % 256
    [{ ok := sl ≤ 192 ∧ t / 2 ^ 24 = 0
       s := { x.published .dom .plain with
              tlb1 := (x.published .dom .plain).tlb1.filter fun e =>
                !(e.slice == sl && e.asid == t % 2 ^ 16 && e.va == addr / 2 ^ e.bits * 2 ^ e.bits) } },
     { ok := sl ≤ 192 ∧ t / 2 ^ 24 = 128 ∧ t % 2 ^ 16 = 0
       s := { x.published .dom .plain with
              tlb1 := (x.published .dom .plain).tlb1.filter fun e => !(e.slice == sl)
              tlb2 := (x.published .dom .plain).tlb2.filter fun e => !(e.slice == sl && e.ipa == addr / 2 ^ e.bits * 2 ^ e.bits) } }]
  | .tlbinvSlice _ a =>
    let sl := x.rdU 1 .zx a / 2 ^ 16 % 256
    [{ ok := sl ≤ 192 ∧ x.rdU 1 .zx a / 2 ^ 24 = 0
       s := { x.published .dom .plain with
              tlb1 := (x.published .dom .plain).tlb1.filter fun e => !(e.slice == sl)
              tlb2 := (x.published .dom .plain).tlb2.filter fun e => !(e.slice == sl) } }]
  | .xlat _ f d a b =>
    let t := x.rdU 1 .zx b
    [{ ok := t / 2 ^ 16 % 256 ≤ 192 ∧ t / 2 ^ 24 % 128 = 0
       s := ({ fl := f, uni := true, chk := true, dst := dstRun d true 2, items := x.laneMarks, kind := .xlat (x.rdU 2 .zx a) t } : Flight).into x x.s x.e }]
  | _ => []
def tlbFails (x : Ctx) : Instr → List Fail
  | .tlbinvAsid _ a | .tlbinvSlice _ a => [{ ok := 192 < x.rdU 1 .zx a / 2 ^ 16 % 256 ∨ x.rdU 1 .zx a / 2 ^ 24 ≠ 0, cls := .illegalOp }]
  | .tlbinvPage _ _ b =>
    let t := x.rdU 1 .zx b
    [{ ok := 192 < t / 2 ^ 16 % 256 ∨ t / 2 ^ 24 % 128 ≠ 0 ∨ (2 ^ 31 ≤ t ∧ t % 2 ^ 16 ≠ 0), cls := .illegalOp }]
  | .xlat _ _ _ _ b => [{ ok := 192 < x.rdU 1 .zx b / 2 ^ 16 % 256 ∨ x.rdU 1 .zx b / 2 ^ 24 % 128 ≠ 0, cls := .illegalOp }]
  | .tokWait _ a => [{ ok := 65536 ≤ x.rdU 1 .zx a, cls := .illegalOp }]
  | .tokResume _ _ a b => [{ ok := ¬resumeOk (x.rdU 1 .zx a) (x.rdU 1 .zx b), cls := .illegalOp }]
  | _ => []

/-! ## Debug access (R422-R425) -/

/-- The action's status stands in DBG_STAT, and `val` in S[d]; a path of another group acts on the state `b`. -/
def dbgEff (d : Dst) (val status : Nat) : Eff := { u := some (1, d, val), r := fun r => { r with dbgStat := BitVec.ofNat 32 status } }
/-- An action leaves the issuing group as it is. -/
def Ctx.aside (x : Ctx) (b : State) : Prop := b.group? x.cur.team x.cur.grp = some x.g
/-- The action ends with a status and nothing else is done. -/
def Ctx.dbgRefused (x : Ctx) (d : Dst) (n : Nat) (ok : Prop) : Work := { ok, eff := dbgEff d n n, s := x.s }

/-- A team that has not started yet stands in its image alone: what changes in it is written there. -/
def Ctx.toImage (x : Ctx) (t : Nat) (z : Team) (b : State) : State :=
  if x.s.team? t = none then match b.team? t with | some y => b.mirror t z y false | none => b else b
/-- `dbg.act` on sub-group `rc` of group `gi` of team `t`, in a state `b` in which the team stands as its image does. -/
def resumeWorks (x : Ctx) (d : Dst) (t : Nat) (b : State) (z : Team) (v : Nat) : List Work :=
  let waits := Team.heldWaits b t z [(selGroup v, selRec v)]
  let r := x.toImage t z (x.resumeHeld b t (selGroup v) (selRec v))
  [{ ok := waits = true, eff := { stay := true }, s := x.s }, { ok := x.aside r ∧ waits = false, eff := dbgEff d 0 0, s := r }]
def exitWorks (x : Ctx) (d : Dst) (t : Nat) (b : State) (z : Team) (v : Nat) : List Work :=
  let r := x.toImage t z (x.settle (b.updGroup t (selGroup v) fun g => g.updLanes (g.live (selRec v)) fun _ l =>
    { l with st := .exited, off := 0, hdr := none, fresh := none }) t (selGroup v))
  [{ ok := x.aside r, eff := dbgEff d 0 0, s := r }]
/-- The selected sub-group of an image: its state record, if it is held. -/
def heldRec (z : Team) (v : Nat) : Prop := v < 2 ^ 14 ∧ ∃ g r, z.group? (selGroup v) = some g ∧ g.recs.find? (selRec v) = some r ∧ r.mode = .held
def endgridWorks (x : Ctx) (d : Dst) : List Work :=
  match x.dbgGrid with
  | none => [x.dbgRefused d 3 True]
  | some g =>
    let e := (x.s.stopGrid g).finishGrid g
    [x.dbgRefused d 3 (x.s.grid? g = none),
     { ok := x.s.grid? g ≠ none ∧ x.aside e ∧ e.grid? g = none, eff := dbgEff d 0 0, s := e },
     (x.held e (.endgrid g d)).when (x.s.grid? g ≠ none ∧ x.aside e ∧ e.grid? g ≠ none ∧ x.tm.grid ≠ g)]
def dbgActWorks (x : Ctx) (d : Dst) (a b : Src) : List Work :=
  let v := x.rdU 1 .zx a
  match x.rdU 1 .zx b with
  | 2 => endgridWorks x d
  | n => if 2 < n then [x.dbgRefused d 3 True]
    else match x.dbgFind with
    | none => [x.dbgRefused d 3 True]
    | some (b, t, y) => match b.asImage y with
      | none => [x.dbgRefused d 3 True]
      | some z => x.dbgRefused d 3 (¬heldRec z v)
          :: (if n = 0 then resumeWorks x d t (b.setTeam t z) z v else exitWorks x d t (b.setTeam t z) z v).map fun w => { w with ok := heldRec z v ∧ w.ok }

def dbgWorks (x : Ctx) : Instr → List Work
  | .dbgStop _ d a =>
    let m := x.rdU 1 .zx a
    match x.dbgFind with
    | none => [x.dbgRefused d 3 True]
    | some (b, t, y) =>
      let bad := 2 ≤ m ∨ y.ending = true ∨ b.asImage y = none
      let b := (b.stopTeam t).updTeam t fun y => { y with claimed := m == 1 }
      x.dbgRefused d 3 bad :: match b.team? t with
        | none => []
        | some z =>
          let ok := ¬bad ∧ t ≠ x.cur.team ∧ x.aside b
          [{ ok := ok ∧ z.ending = true, eff := dbgEff d 3 3, s := b },
           { ok := ok ∧ z.ending = false ∧ z.st = .written, eff := dbgEff d 0 0, s := b },
           (x.held b (.stopped t d)).when (ok ∧ z.ending = false ∧ z.st ≠ .written)]
  | .dbgResume _ d a =>
    let m := x.rdU 1 .zx a
    match x.dbgFind with
    | none => [x.dbgRefused d 3 True]
    | some (b, t, y) =>
      [x.dbgRefused d 3 (2 ≤ m), x.dbgRefused d 2 (m < 2 ∧ y.stopped = false)] ++ match b.asImage y with
        | none => [x.dbgRefused d 3 (m < 2 ∧ y.stopped = true)]
        | some z =>
          let b := b.setTeam t z
          let r := ((z.claimedHeld.foldl (fun s r => x.resumeHeld s t r.1 r.2) b).updTeam t fun y => { y with stopped := false, claimed := m == 1 }).requeue t
          [{ ok := m < 2 ∧ y.stopped = true ∧ Team.heldWaits b t z z.claimedHeld = true, eff := { stay := true }, s := x.s },
           { ok := m < 2 ∧ y.stopped = true ∧ Team.heldWaits b t z z.claimedHeld = false ∧ x.aside r, eff := dbgEff d 0 0, s := r }]
  | .dbgRd _ file r d a =>
    let v := x.rdU 1 .zx a
    -- with BAD_ARG the value is a free one
    let bad : Work := { ok := True, eff := dbgEff d x.s.freeBits.1 3, s := x.s.freeBits.2 }
    match x.dbgWord file.toNat r.toNat v with
    | .ok (t, z, o, n) => match x.s.imgLE z o n with
      | .ok w =>
        [{ ok := x.s.pendingOn t file.toNat r.toNat v = none, eff := dbgEff d w 0, s := x.s },
         { ok := x.s.pendingOn t file.toNat r.toNat v ≠ none, eff := dbgEff d w 1, s := x.s }]
      | .error _ => [bad]
    | .error 2 => [{ ok := True, eff := dbgEff d 0 2, s := x.s }]
    | .error n => if n = 3 then [bad] else []
  | .dbgWr _ file r d a b =>
    let v := x.rdU 1 .zx a
    match x.dbgWord file.toNat r.toNat v with
    | .ok (t, z, o, n) =>
      let put := x.s.dbgPut t z o n file.toNat r.toNat v (BitVec.ofNat 32 (x.rdU 1 .zx b))
      [{ ok := x.s.pendingOn t file.toNat r.toNat v = none ∧ x.aside put, eff := dbgEff d 0 0, s := put },
       x.dbgRefused d 1 (x.s.pendingOn t file.toNat r.toNat v ≠ none)]
    | .error n => [x.dbgRefused d n True]
  | .dbgWrForce _ file r d a b =>
    let v := x.rdU 1 .zx a
    match x.dbgWord file.toNat r.toNat v with
    | .ok (t, z, o, n) =>
      let put := fun (s : State) => s.dbgPut t z o n file.toNat r.toNat v (BitVec.ofNat 32 (x.rdU 1 .zx b))
      match x.s.pendingOn t file.toNat r.toNat v with
      | none => [{ ok := x.aside (put x.s), eff := dbgEff d 0 0, s := put x.s }]
      | some q =>
        -- whether a checked reply has come to be in delivery is open
        let wins := q.chk = true ∧ x.s.freeBits.1 % 2 = 1
        let r' := (put x.s.freeBits.2).setOp { q with skip := skipKey (file == 1#4) r.toNat (selLane v) :: q.skip }
        [x.dbgRefused d 4 (q.dlv = true),
         { ok := q.dlv = false ∧ wins, eff := dbgEff d 4 4, s := x.s.freeBits.2.setOp { q with dlv := true } },
         { ok := q.dlv = false ∧ ¬wins ∧ x.aside r', eff := dbgEff d 5 5, s := r' }]
    | .error n => [x.dbgRefused d n True]
  | .dbgActResume _ d a b | .dbgActExit _ d a b | .endgrid _ d a b => dbgActWorks x d a b
  | _ => []

/-! ## Instructions of which some lanes fault (R246, R255) -/

/-- The faults of some lanes, in their order, and the state of the other lanes' part. -/
structure Split where
  ok : Prop
  s : State
  flts : List (FClass × Mask)
/-- What is left: the other lanes go on; those that fault park with their class at the instruction; registers, memory, operations and all else are those of
the state beside the group. -/
structure Splits (x : Ctx) (w : Split) (g : Group) (t : State) (y : Group) : Prop where
  group : t.group? x.cur.team x.cur.grp = some y
  outside : t.rest x.cur.team x.cur.grp
    = (w.flts.foldl (fun b f => if f.2 = 0#32 then b else x.report { cls := f.1, lanes := f.2 } b) w.s).rest x.cur.team x.cur.grp
  shared : y.rest = g.rest
  regs : y.v = g.v ∧ y.preds = g.preds ∧ y.jm = g.jm ∧ y.fpStatus = g.fpStatus
  parked : ∀ f ∈ w.flts, ∀ l, l < 32 → f.2.getLsbD l = true →
    (y.recOf l).hasRec = true ∧ (y.recOf l).cls = f.1.code ∧ (y.recOf l).pc = x.cur.pc ∧ (y.recOf l).off = x.cur.pos
  onward : ∀ l, l < 32 → (∀ f ∈ w.flts, f.2.getLsbD l = false) →
    (y.lane l).core = (if x.cur.m.getLsbD l then (x.g.lane l).advance x.c else x.g.lane l).core

/-- Accesses of which some lanes are misaligned or out of range, and arrivals of which some find every arrival of the phase made. -/
def splits (x : Ctx) : Instr → List Split
  | .stmsk _ f ac m a b e =>
    let bad := (laneList x.e).filter fun l => (bytesOf (maskBytes x e l)).any fun k => decide (2 ^ 58 ≤ (x.gaddr ac a m.off l + k) % 2 ^ 64)
    let ls := (laneList x.e).filter fun l => maskBytes x e l != 0 && !bad.contains l
    [{ ok := True
       s := if ls = [] then x.s
         else ({ fl := f, kind := .store, items := ls.map fun l =>
           { lane := l, addr := (x.globalAddr ac a m.off l).toNat, mask := maskBytes x e l, data := x.rdV 1 .zx b l, ret := (x.g.lane l).ret, apart := true } } :
           Flight).into x x.s (maskOf ls.contains)
       flts := [(.memXlate, maskOf bad.contains)] }]
  | .barArrive _ sc a =>
    let t := x.rdU 1 .zx a % 2 ^ 31
    let b := (barKnown x a).publish x.cur.team x.cur.grp sc (.barrier x.cur.team t (barNow x a).phase)
    let r := arriveLanes t (b.pubs.length - 1) (x.teamIn b) (laneList x.e)
    [{ ok := barPlaced x a ∧ barValid x a, s := b.setTeam x.cur.team r.1, flts := [(.channel, r.2)] }]
  | i => match accessOf x i with
    | some A =>
      [{ ok := A.uni = false, s := if A.good x = 0#32 then x.s else A.afterSome x
         flts := [(.memAlign, A.misaligned x), (.memXlate, x.e &&& ~~~A.misaligned x &&& ~~~A.good x)] }]
    | none => []

end Sys2Proof.Machine
end

