-- ==== Sys2Proof/Safety/Own.lean ====
section
/-!
DEFINITION. Instructions whose effect on their own group has a form of its own: floats with an enabled exception (spec/06 R148), register
budgets (spec/09 R254), the return from a handler (spec/07 R186), writes of FP_STATUS (R149); and the faults of results (R74, R84, R163).
-/
namespace Sys2Proof.Machine

/-! ## Enabled exceptions (R148) -/

/-- The lanes whose exceptions FP_CTL enables; a uniform result's trap names the whole effective mask. -/
def FCalc.bad (o : FCalc) (x : Ctx) : Mask :=
  if o.uni then (if trapped x (o.f 0).x then x.e else 0#32) else maskOf fun l => x.e.getLsbD l && trapped x (o.f l).x
/-- The varying registers after the instruction: a lane that traps writes nothing. -/
def FCalc.writes (o : FCalc) (x : Ctx) (vs : SMap Word) : Prop :=
  ∀ n l, l < 32 → ({ x.g with v := vs } : Group).getV n l = if (o.bad x).getLsbD l = true then x.g.getV n l else (o.eff x).vAfter x.e n l (x.g.getV n l)
/-- The lanes that trap park with FP_TRAP at the instruction; the exceptions of every lane stand in FP_STATUS. -/
def FCalc.Traps (o : FCalc) (i : Instr) (s : State) (x : Ctx) : Prop :=
  ∃ t y vs, exec i s = .next t ∧ o.writes x vs
    ∧ Parks (x.from { x.g with v := vs, fpStatus := x.g.fpStatus ||| (o.eff x).fp.setWidth 32 }) { cls := .fpTrap, lanes := o.bad x } x.s t y

/-- A compare's lanes: what each finds, and its exceptions. -/
structure FComp where
  cmb : Cmb
  pd : Nat
  pc : Nat
  f : Nat → Bool × FpExc
def compOf (x : Ctx) : Bool × FT × FCond × Cmb × Nat × Nat × Src × Src → FComp
  | (uni, t, cond, cmb, pd, pc, a, b) => ⟨cmb, pd, pc, fun l => cCmp t cond (x.codeOf uni t a l) (x.codeOf uni t b l)⟩
def FComp.bad (o : FComp) (x : Ctx) : Mask := maskOf fun l => x.e.getLsbD l && trapped x (o.f l).2
def FComp.fp (o : FComp) (x : Ctx) : FpExc := (laneList x.e).foldl (fun e l => e ||| (o.f l).2) 0#5
def FComp.Traps (o : FComp) (i : Instr) (s : State) (x : Ctx) : Prop :=
  ∃ t y ps, exec i s = .next t
    ∧ (∀ n l, l < 32 → ({ x.g with preds := ps } : Group).getP n l
        = (cmpEff x o.cmb o.pd o.pc fun l => (o.f l).1).pAfter (x.e &&& ~~~o.bad x) n l (x.g.getP n l))
    ∧ Parks (x.from { x.g with preds := ps, fpStatus := x.g.fpStatus ||| (o.fp x).setWidth 32 }) { cls := .fpTrap, lanes := o.bad x } x.s t y

/-! ## Issue and memory -/

/-- Instructions whose issue is no store and begins none: all but an arrival at a cluster barrier, `setsr`, `hret` and debug access. -/
def quietAtIssue (i : Instr) : Bool :=
  (ctlOf i).isSome && match i with
  | .cbarArrive .. | .setsr .. | .hret .. | .dbgStop .. | .dbgResume .. | .dbgRd .. | .dbgWr .. | .dbgWrForce .. | .dbgActResume .. | .dbgActExit ..
  | .endgrid .. => false
  | _ => true

/-! ## Register budgets (R254) -/

/-- VCUR becomes `n`; the registers from `lo` up to `hi` (none, for `vshrink`) read 0 in every lane; the others keep what they held. -/
def Budget (i : Instr) (s : State) (x : Ctx) (n lo hi : Nat) : Prop :=
  ∃ t y vs, exec i s = .next t
    ∧ (∀ k l, l < 32 → ({ x.g with v := vs } : Group).getV k l = if lo ≤ k ∧ k < hi then 0#32 else x.g.getV k l)
    ∧ Leaves (x.from { x.g with v := vs, vcur := n }) {} x.s { x.g with vcur := n } t y

/-! ## Return from a handler (R186) -/

/-- The lanes of E stand where their state's record says; their replays are no longer due. -/
def Ctx.returned (x : Ctx) : Group :=
  (x.g.setRec x.cur.rc { x.st with rpend := x.st.rpend &&& ~~~x.e, claimed := false }).updLanes x.e
    fun _ y => { y with st := .running, pc := x.st.pc, off := x.st.off, hdr := none, fresh := none }
/-- Before the lanes resume: the replays that are due have been performed. -/
def Ctx.replayed (x : Ctx) : State :=
  if x.st.due x.e = 0#32 then x.s else x.s.replay x.cur.team x.cur.grp x.cur.rc (x.st.due x.e) x.st.replay
/-- A replay puts accesses in flight: it changes no register and no lane of the group. -/
def sameRegs (g h : Group) : Prop :=
  h.lanes = g.lanes ∧ h.recs = g.recs ∧ h.v = g.v ∧ h.preds = g.preds ∧ h.jm = g.jm ∧ h.fpStatus = g.fpStatus

/-- The element that a packed conversion names (R170, R171). -/
def elemNo : Instr → Option Nat
  | .cvtQFloat _ _ _ idx .. | .cvtFloatQ _ _ _ idx .. => some idx.toNat
  | _ => none

end Sys2Proof.Machine
end

