-- ==== Sys2Proof/Safety/Turns.lean ====
section
/-!
DEFINITION. When each row of another agent takes place, and the state it leaves: clause starts and rejoins (spec/01, 07), waits that end
(09, 12, 16), operations that complete (09, 10, 17, 20), schedulers and slices (16, 18), the host link and power (19), register writes.
-/
namespace Sys2Proof.Machine

/-- One way a row takes place: when, and the state it leaves. -/
structure Turn where
  ok : Prop
  s : State
/-- Every one of the turns takes place. -/
def TakesPlace (turns : State → Instr → List Turn) : Prop := ∀ (i : Instr) (s : State), ∀ r ∈ turns s i, r.ok → exec i s = .next r.s

/-! ## Paths (R25, R26, R180-R182) -/

def pathTurns (s : State) : Instr → List Turn
  | .clauseStart t g m =>
    match s.team? t, s.group? t g with
    | some x, some y =>
      match pathAt y m with
      | some (rc, pc, k) =>
        let h := (pc - BitVec.ofNat 64 (12 * k)).toNat
        let fault := fun (c : FClass) => s.park t g rc m { cls := c.code, pc, off := k }
        match formCheck s x h with
        | .ok imm =>
          let holds := clauseHolds256 s x h imm
          [{ ok := k = 0 ∧ waitClear y imm = true ∧ (holds = true → unchecked s t g m = false) ∧ (∀ o ∈ s.ops, o.re = true → o.unchecked t g m = false)
               ∧ lateParks y m imm holds = false ∧ poisonParks y m imm (clauseHoldsExit s x h imm) = false
             s := s.updGroup t g fun gr => gr.updLanes m fun _ l => { l with pc := pc + 12#64, off := 1, hdr := some imm, fresh := some 0 } },
           { ok := 0 < k ∧ k ≤ hdrLen imm, s := s.updGroup t g fun gr => gr.updLanes m fun _ l => { l with hdr := some imm, fresh := some k } },
           -- an offset beyond LEN is the model's choice (log 45)
           { ok := 0 < k ∧ hdrLen imm < k, s := fault .clauseFmt }]
        | .broken => [{ ok := True, s := fault .clauseFmt }]
        | .noFetch e a => [{ ok := True, s := s.park t g rc m { cls := e.cls.code, pc, off := k, addr := a, detail := e.detail } }]
      | none => []
    | _, _ => []
  | .rejoinRelease t g j =>
    match s.group? t g with
    | some y =>
      let m := y.waitsOn j
      [{ ok := subMask (y.getJ j) (y.exited ||| m) = true ∧ m ≠ 0#32
         s := (s.updGroup t g fun y' => (y'.unwait m false).updLanes m fun _ l => { l with rc := y.mergeRc m }).endCycle t g }]
    | none => []
  | .rejoinTimeout t g =>
    match s.team? t, s.group? t g with
    | some x, some y => [{ ok := y.timedOut (s.dieCount x.die) ≠ 0#32, s := s.updGroup t g fun y' => y'.unwait (y.timedOut (s.dieCount x.die)) true }]
    | _, _ => []
  | .rejoinDeadlock t g =>
    match s.group? t g with
    | some y =>
      [{ ok := y.deadlocked = true
         s := (y.waitSites.foldl (fun s p => s.park t g p.1 (maskOf fun l => (y.lane l).st == .waiting && (y.lane l).rc == p.1 && (y.lane l).pc == p.2.1)
           { cls := FClass.rejoinDeadlock.code, pc := p.2.1, off := p.2.2 }) s).endCycle t g }]
    | none => []
  | _ => []

/-! ## Waits that end (R246, R249, R319, R322, R405, R406) -/

/-- The hold that a row names. -/
def holdAt (s : State) (t g id : Nat) : Option (Team × Hold) := do
  let x ← s.team? t
  let y ← x.group? g
  let h ← y.hold? id
  pure (x, h)
def waitTurns (s : State) : Instr → List Turn
  | .barWaitComplete t g id => match holdAt s t g id with
    | some (x, h) => match h.kind with
      | .barWait a par sc => [{ ok := (x.bar a).passed par = true ∧ s.readsOut t g = false, s := (s.observe t g sc a).endHold t g h }]
      | _ => []
    | none => []
  | .chresGrant t g id => match holdAt s t g id with
    | some (x, h) => match h.kind with
      | .chres ch d =>
        let c := x.chan ch
        [{ ok := c.valid = true ∧ c.nr + c.nf + c.nt < c.count ∧ firstOf (x.reservers ch) id = true
           s := ((s.setTeam t { x with chst := x.chst.set ch ({ c with ridx := (c.ridx + 1) % c.count, nr := c.nr + 1 } : Chan).word }).holdWrite t g h d
             (c.base + c.slot * c.ridx)).endHold t g h }]
      | _ => []
    | none => []
  | .chtakeGrant t g id => match holdAt s t g id with
    | some (x, h) => match h.kind with
      | .chtake sc ch d =>
        let r := s.chTake t g ch sc
        [{ ok := (x.chan ch).valid = true ∧ 1 ≤ (x.chan ch).nf ∧ firstOf (s.takers t ch x) id = true ∧ s.readsOut t g = false
           s := (r.1.holdWrite t g h d r.2).endHold t g h }]
      | _ => []
    | none => []
  | .tokWaitDrained t g id => match holdAt s t g id with
    | some (x, h) => match h.kind with
      | .tokWait m => [{ ok := s.drainedAll x.slice x.cluIx m = true ∧ s.readsOut t g = false, s := (s.tokAdopt t g m).endHold t g h }]
      | _ => []
    | none => []
  | .cbarWaitComplete t g id => match holdAt s t g id with
    | some (x, h) => match h.kind with
      | .cbarWait sc va par => match s.teamXlat x needRW va with
        | .ok pa => [{ ok := (s.cbar pa).passed par = true ∧ s.readsOut t g = false, s := (s.cobserve t g sc pa).endHold t g h }]
        | .error _ => []
      | _ => []
    | none => []
  | .waitvTest t g id => match holdAt s t g id with
    | some (x, h) => match h.kind with
      | .waitv cond p va w _ => match s.waitWord x va with
        | .ok (pa, v) =>
          [{ ok := waitCond cond v w.toNat = true ∧ s.readsOut t g = false
             s := ((s.waitAdopt t g s.stamp pa).updGroup t g fun y => y.setP p h.e fun _ => false).endHold t g h }]
        | .error _ => []
      | _ => []
    | none => []
  | .waitvTimeout t g id => match holdAt s t g id with
    | some (x, h) => match h.kind with
      | .waitv cond p va w (some d) => match s.waitWord x va with
        | .ok (pa, v) =>
          [{ ok := d ≤ s.dieCount x.die ∧ waitCond cond v w.toNat = false ∧ s.readsOut t g = false
             s := ((s.waitAdopt t g s.stamp pa).updGroup t g fun y => y.setP p h.e fun _ => true).endHold t g h }]
        -- a word that can no longer be read: the wait ends with its adopt all the same (R405)
        | .error _ =>
          [{ ok := d ≤ s.dieCount x.die ∧ s.readsOut t g = false
             s := (((s.flushTeam t g).adopt t g .dom []).updGroup t g fun y => y.setP p h.e fun _ => true).endHold t g h }]
      | _ => []
    | none => []
  | _ => []
/-- Each wait ends, in a step of its own, once what it waits for holds and every read of the group that its adopt must follow has completed. -/
structure WaitsEnd : Prop where
  bar : ∀ s t g id x h a par sc, holdAt s t g id = some (x, h) → h.kind = .barWait a par sc → (x.bar a).passed par = true → s.readsOut t g = false →
    exec (.barWaitComplete t g id) s = .next ((s.observe t g sc a).endHold t g h)
  chres : ∀ s t g id x h ch d, holdAt s t g id = some (x, h) → h.kind = .chres ch d → (x.chan ch).valid = true →
    (x.chan ch).nr + (x.chan ch).nf + (x.chan ch).nt < (x.chan ch).count → (∀ n ∈ x.reservers ch, id ≤ n) →
    let c : Chan := { x.chan ch with ridx := ((x.chan ch).ridx + 1) % (x.chan ch).count, nr := (x.chan ch).nr + 1 }
    exec (.chresGrant t g id) s = .next (((s.setTeam t { x with chst := x.chst.set ch c.word }).holdWrite t g h d
      ((x.chan ch).base + (x.chan ch).slot * (x.chan ch).ridx)).endHold t g h)
  chtake : ∀ s t g id x h ch d sc, holdAt s t g id = some (x, h) → h.kind = .chtake sc ch d → (x.chan ch).valid = true → 1 ≤ (x.chan ch).nf →
    (∀ n ∈ s.takers t ch x, id ≤ n) → s.readsOut t g = false →
    exec (.chtakeGrant t g id) s = .next (((s.chTake t g ch sc).1.holdWrite t g h d (s.chTake t g ch sc).2).endHold t g h)
  tok : ∀ s t g id x h m, holdAt s t g id = some (x, h) → h.kind = .tokWait m → s.drainedAll x.slice x.cluIx m = true → s.readsOut t g = false →
    exec (.tokWaitDrained t g id) s = .next ((s.tokAdopt t g m).endHold t g h)
  cbar : ∀ s t g id x h sc va par pa, holdAt s t g id = some (x, h) → h.kind = .cbarWait sc va par → s.teamXlat x needRW va = .ok pa →
    (s.cbar pa).passed par = true → s.readsOut t g = false → exec (.cbarWaitComplete t g id) s = .next ((s.cobserve t g sc pa).endHold t g h)
  test : ∀ s t g id x h cond p va w d pa v, holdAt s t g id = some (x, h) → h.kind = .waitv cond p va w d → s.waitWord x va = .ok (pa, v) →
    waitCond cond v w.toNat = true → s.readsOut t g = false →
    exec (.waitvTest t g id) s = .next (((s.waitAdopt t g s.stamp pa).updGroup t g fun y => y.setP p h.e fun _ => false).endHold t g h)
  timeout : ∀ s t g id x h cond p va w d pa v, holdAt s t g id = some (x, h) → h.kind = .waitv cond p va w (some d) → s.waitWord x va = .ok (pa, v) →
    waitCond cond v w.toNat = false → d ≤ s.dieCount x.die → s.readsOut t g = false →
    exec (.waitvTimeout t g id) s = .next (((s.waitAdopt t g s.stamp pa).updGroup t g fun y => y.setP p h.e fun _ => true).endHold t g h)

/-! ## Operations (R233, R251, R256-R263, R278-R288, R308, R393, R394, R417) -/

/-- A drain. -/
def drainTurn (s : State) (id : Nat) : List Turn :=
  match s.op? id with
  | some o => match s.team? o.team with
    | some x => match o.kind with
      | .drain kind fw lt n base pitch pgs =>
        let bytes := drainData x kind fw lt n base pitch
        let w := { o with id := s.stamp }
        -- the bytes of a lost block are poisoned (R463)
        let s1 := bytes.foldl (fun s' p =>
          if o.lost.contains (p.1 / 256) then (s'.opStore w (blockByte pgs p.1) 0#8).nextPos.poisonAt x o (blockByte pgs p.1) p.1
          else (s'.opStore w (blockByte pgs p.1) p.2).nextPos) s
        [{ ok := o.chk = true ∧ s.tileOps o.team n o.id = []
             ∧ s.chanHeld ((bytes.filter fun p => !o.lost.contains (p.1 / 256)).map fun p => blockByte pgs p.1) = false
           s := (({ s1 with stamp := s1.stamp + 1 } : State).endOp o).tileSettle.metered x none }]
      | _ => []
    | none => []
  | none => []
/-- What an instruction's operation leaves where it has passed all that it waits for. -/
def opTurns (s : State) : Instr → List Turn
  | .accessCheck id => match s.op? id with
    | some o => match s.team? o.team, s.group? o.team o.grp with
      | some x, some g =>
        let access := fun (k : List Item → Op → State → State) => match s.checkItems x g o with
          | some (ok, bad) =>
            let o' := { o with items := ok, chk := true, lanes := o.lanes &&& ~~~(maskOf fun l => bad.any fun f => f.lane == l) }
            let s' := s.addLate o.team o.grp bad
            [{ ok := o.chk = false ∧ s.checkTurn o = true ∧ ok ≠ [] ∧ (o.kind = .store → s.storeWaits o ok = false), s := k ok o' (s'.setOp o') },
             { ok := o.chk = false ∧ s.checkTurn o = true ∧ ok = [] ∧ (o.kind = .store → s.storeWaits o ok = false), s := s'.endOp o' }]
          | none => []
        -- a copy or drain goes on for the lanes from which it is not withheld (R258), and ends where there is none
        let o' := o.others g
        let s' := s.withhold g o
        let turnNone := fun (o' : Op) (ends : State) => [({ ok := o.chk = false ∧ s.checkTurn o = true ∧ o'.items = [], s := ends } : Turn)]
        let turn := fun (o' : Op) (t ends : State) =>
          turnNone o' ends ++ [({ ok := o.chk = false ∧ s.checkTurn o = true ∧ o'.items ≠ [], s := t } : Turn)]
        match o.kind with
        | .load .. | .atomic .. => access fun _ _ s => s
        | .store => access fun ok o s => ok.foldl (fun s it => s.storeItem o it) s
        | .pin _ =>
          -- an access of a lane that an earlier fault of the clause withholds (R258)
          let free := ∀ l ∈ laneList o.lanes, withheld g o l o.spans = false
          let held := fun (it : Item) => ({ ok := o.chk = false ∧ s.checkTurn o = true ∧ ¬free
                                            s := s.dropOp o ((laneList o.lanes).map fun l => o.lateOn g l (o.retOf it l) 0 it.addr 0) } : Turn)
          match o.items with
          | [it] => match (List.range it.data).mapM fun i => match s.teamXlat x needR (it.addr + 128 * i) with
              | .ok pa => Except.ok pa
              | .error e => .error (it.addr + 128 * i, e) with
            | .ok pas => [held it, { ok := o.chk = false ∧ s.checkTurn o = true ∧ free, s := s.setOp { o with chk := true, items := [{ it with pa := pas }] } }]
            | .error (a, e) =>
              [held it, { ok := o.chk = false ∧ s.checkTurn o = true ∧ free
                          s := s.dropOp o ((laneList o.lanes).map fun l => o.lateOn g l (o.retOf it l) e.cls.code a e.detail) }]
          | _ => []
        | .copy dst src len bar done _ _ =>
          let pages := fun need (r : Range) => if r.spc = .glob then s'.checkRange x o' need r.base len else some (.ok [])
          match pages needR src, pages needW dst with
          | some (.error (a, e)), _ => turn o' (s'.dropOp o' (o'.lateAll g e.cls.code a e.detail)) (s'.endOp o')
          | some (.ok _), some (.error (a, e)) => turn o' (s'.dropOp o' (o'.lateAll g e.cls.code a e.detail)) (s'.endOp o')
          | some (.ok sp), some (.ok dp) => turn o' (s'.setOp { o' with chk := true, kind := .copy dst src len bar done dp sp }) (s'.endOp o')
          | _, _ => turnNone o' (s'.endOp o')
        | .drain kind fw lt n base pitch _ =>
          match s'.xlatBlocks x o' (drainBlocks kind (drainDB kind fw) base pitch) with
          | some (.error (a, e)) => turn o' (s'.dropOp o' (o'.lateAll g e.cls.code a e.detail)).tileSettle (s'.endOp o').tileSettle
          | some (.ok pgs) => turn o' (s'.setOp { o' with chk := true, kind := .drain kind fw lt n base pitch pgs }) (s'.endOp o').tileSettle
          | none => turnNone o' (s'.endOp o').tileSettle
        | _ => []
      | _, _ => []
    | none => []
  | .loadCompletion id asOf => match s.op? id with
    | some o => match s.team? o.team with
      | some x => match o.kind with
        | .load const ty cnt => match o.items.mapM fun it => (s.loadItem o const x.launchSeq asOf it).map fun r => (it, r) with
          | some rs =>
            let s1 := rs.foldl (fun s p => s.writeDst o p.1.lane (runWords ty cnt.num p.2.1)) s
            let s2 := if const then s1
              else (rs.flatMap fun p => p.2.2).foldl (fun s p => s.seen o.team o.grp o.id p.1 p.2.1 p.2.2.1 p.2.2.2) s1
            [{ ok := o.chk = true ∧ s.loadWaits o = false ∧ o.items.any s.itemPoisoned = false, s := s2.endOp o }]
          | none => []
        | .tload ty cnt => match (s.performTeam o).op? id with
          | some o' =>
            [{ ok := s.teamWaits o = false
               s := (o'.items.foldl (fun s it => s.writeDst o' it.lane (runWords ty cnt.num it.res)) (s.performTeam o)).endOp o' }]
          | none => []
        | .frag tr f => match (s.performTeam o).op? id with
          | some o' =>
            -- element (r, c) of matrix k, a row to each item; a transposed load exchanges row and column (R274)
            let el := fun (k r c : Nat) => ((o'.items[8 * k + r]?).map (·.res)).getD 0 / 2 ^ (16 * c) % 65536
            let pair := fun (k l : Nat) =>
              let q := l / 4
              let c := 2 * (l % 4)
              if tr then el k c q + 65536 * el k (c + 1) q else el k q c + 65536 * el k q (c + 1)
            [{ ok := s.teamWaits o = false
               s := ((laneList o'.lanes).foldl (fun s l => s.writeDst o' l ((List.range f).map fun k => pair k l)) (s.performTeam o)).endOp o' }]
          | none => []
        | .xget n row =>
          let s1 := o.items.foldl (fun s it =>
            let v := (x.elem n (row % 64) (32 * (row / 64) + it.lane)).toNat
            s.writeDst o it.lane [v % 2 ^ 32, v / 2 ^ 32]) s
          [{ ok := s.tileOps o.team n o.id = [], s := (s1.endOp o).tileSettle.metered x none }]
        | _ => []
      | none => []
    | none => []
  | .storeCompletion id => match s.op? id with
    | some o =>
      [{ ok := o.kind = .store ∧ o.chk = true, s := s.endOp o },
       { ok := o.kind = .tstore ∧ s.teamWaits o = false, s := (s.performTeam o).endOp o }]
    | none => []
  | .atomicCompletion id => match s.op? id with
    | some o => match o.kind with
      | .atomic op w64 sc ord true =>
        [{ ok := o.chk = true ∧ s.loadWaits o = false ∧ s.acquireWaits o = false ∧ o.items.any s.itemPoisoned = false, s := (s.performAtomic o op w64 sc ord true).endOp o }]
      | .tatomic _ w64 => match (s.performTeam o).op? id with
        | some o' =>
          [{ ok := s.teamWaits o = false
             s := (o'.items.foldl (fun s it => s.writeDst o' it.lane (if w64 then [it.res % 2 ^ 32, it.res / 2 ^ 32] else [it.res])) (s.performTeam o)).endOp o' }]
        | none => []
      | _ => []
    | none => []
  | .reductionCompletion id => match s.op? id with
    | some o => match o.kind with
      | .atomic op w64 sc ord false =>
        [{ ok := o.chk = true ∧ s.loadWaits o = false ∧ s.acquireWaits o = false ∧ o.items.any s.itemPoisoned = false, s := (s.performAtomic o op w64 sc ord false).endOp o }]
      | _ => []
    | none => []
  | .pinCompletion id => match s.op? id with
    | some o => match s.team? o.team with
      | some x => match o.kind, o.items with
        | .pin true, [it] =>
          let used := s.pinsOf x.slice x.cluIx
          let gone := (it.pa.map (· / 128)).eraseDups.filter used.contains
          let pins := (used.filter fun l => !gone.contains l).map (pinKey x.slice x.cluIx)
          [{ ok := o.chk = true
             s := (({ s with pinned := pins ++ s.pinned.filter fun k => k / 2 ^ 48 != x.slice * 2 ^ 8 + x.cluIx } : State).writeDst o it.lane [gone.length]).endOp o }]
        | .pin false, [it] =>
          let r := pinStep s x.slice x.cluIx it.pa (s.pinsOf x.slice x.cluIx) 0
          [{ ok := o.chk = true
             s := (({ s with pinned := r.1.map (pinKey x.slice x.cluIx) ++ s.pinned.filter fun k => k / 2 ^ 48 != x.slice * 2 ^ 8 + x.cluIx } :
               State).writeDst o it.lane [r.2]).endOp o }]
        | _, _ => []
      | none => []
    | none => []
  | .engineByteCount id off n => match s.op? id with
    | some o => match s.team? o.team with
      | some x => match o.kind with
        | .copy dst src len bar done dpg spg =>
          let ks := (List.range n).map (· + off)
          let s0 := ks.foldl (fun s' k => s'.putCopy x o dst dpg k (s.copyByte x src spg k).1 (s.copyByte x src spg k).2) s
          -- a poisoned byte of the source is reported
          let s1 := match ks.find? fun k => (s.copyByte x src spg k).2 with
            | some k => s0.poisonRecord x o (src.base + k) o.lanes
            | none => s0
          let view := if dst.spc = .glob then ks.foldl (fun (m : SMap Nat) k => let pa := pageByte dst.base dpg k; m.set pa (s1.lastSeq pa)) [] else []
          let s2 := s1.updTeam o.team fun x => x.countBytes bar n view
          [{ ok := o.chk = true ∧ n ≠ 0 ∧ off + n ≤ len ∧ (∀ d ∈ done, off + n ≤ d.1 ∨ d.1 + d.2 ≤ off)
               ∧ (src.spc = .glob → s.readWaits o (ks.map (pageByte src.base spg)) = false)
               ∧ (dst.spc = .glob → s.chanHeld (ks.map (pageByte dst.base dpg)) = false)
             s := if n + (done.map (·.2)).sum = len then s2.endOp o else s2.setOp { o with kind := .copy dst src len bar ((off, n) :: done) dpg spg } }]
        | _ => []
      | none => []
    | none => []
  | .mmaAccumulate id => match s.op? id with
    | some o => match s.team? o.team, s.group? o.team o.grp with
      | some x, some g => match o.kind with
        | .mma int nz n ga gb k va vb =>
          match badHeader x (resvOf va) (resvOf vb) ga gb n with
          | none =>
            [{ ok := s.tileOps o.team k o.id = []
               s := ((s.setTeam o.team (x.accumulate int nz n ga gb k (resvOf va) (resvOf vb))).endOp o).tileSettle.metered x
                 (some (mmaCycles (resvOf va) (resvOf vb) n)) }]
          | some a =>
            [{ ok := s.tileOps o.team k o.id = []
               s := (s.dropOp o (o.items.map fun it => { o.late g it.lane it.ret FClass.selector.code a 0 0 0 with lo := 0 })).tileSettle.metered x none }]
        | _ => []
      | _, _ => []
    | none => []
  | .drainCompletion id => drainTurn s id
  | .xlatCompletion id => match s.op? id with
    | some o => match s.team? o.team with
      | some x => match o.kind with
        | .xlat a t =>
          let v := s.probe x.die a t
          [{ ok := True, s := (s.writeDst o (lowestLane o.lanes) [v % 2 ^ 32, v / 2 ^ 32]).endOp o }]
        | _ => []
      | none => []
    | none => []
  | .crecvTake id => match s.op? id with
    | some o => match s.team? o.team with
      | some x => match o.kind with
        | .crecv ch =>
          let r := s.chTake o.team o.grp ch .clu
          [{ ok := (x.chan ch).valid = true ∧ 1 ≤ (x.chan ch).nf ∧ firstOf (s.takers o.team ch x) id = true
               ∧ s.readsOut o.team o.grp = false
             s := ((r.1.writeDst o (lowestLane o.lanes) [r.2]).returnFaults o r.2).endOp o }]
        | _ => []
      | none => []
    | none => []
  | .poisonFound id => match s.op? id with
    | some o => match s.team? o.team with
      | some x =>
        let bad := o.items.filter s.itemPoisoned
        let s1 := bad.foldl (fun s it => s.poisonItem x o it) s
        let o' := { o with items := o.items.filter fun it => !s1.itemPoisoned it
                           lanes := if o.uni then o.lanes else o.lanes &&& ~~~(maskOf fun l => bad.any fun it => it.lane == l) }
        [{ ok := o.chk = true ∧ bad ≠ [] ∧ s.loadWaits o = false ∧ (match o.kind with | .load .. | .atomic .. => True | _ => False)
           s := if o'.items = [] then s1.endOp o' else s1.setOp o' }]
      | none => []
    | none => []
  | .enqCompletion id => match s.op? id with
    | some o => match s.team? o.team, s.group? o.team o.grp with
      | some x, some gr => match o.kind with
        | .enq h e => match s.opRead? o x e 64 with
          | some (.ok (v, s1)) =>
            let r := s1.append x.slice (s1.queueAt x.slice x.asid h) v
            [{ ok := s.checkTurn o = true, s := (r.1.writeDst o (lowestLane o.lanes) [r.2]).endOp o }]
          | some (.error e) => [{ ok := s.checkTurn o = true, s := s.opFail o x gr e }]
          | none => []
        | _ => []
      | _, _ => []
    | none => []
  | .launchCompletion id => match s.op? id with
    | some o => match s.team? o.team, s.group? o.team o.grp with
      | some x, some gr => match o.kind with
        | .launch image teams =>
          let placed := image % 4096 = 0 ∧ image < 2 ^ 58
          let good := 1 ≤ teams ∧ teams ≤ 2 ^ 20
          let bad := fun (s : State) => (s.writeDst o (lowestLane o.lanes) [0x80000003]).endOp o
          { ok := s.checkTurn o = true ∧ ¬ placed, s := bad s } :: match s.opRead? o x image 512 with
          | some (.ok (v, s1)) =>
            let g : Grid := { slice := x.slice, die := x.die, asid := x.asid, priv := x.priv, cls := x.cls, qid := x.qid, deadline := x.deadline, done := 0,
                              doneval := 0, teams, image, stride := roundUp (recFld v 0xA0 8) 4096, take := s1.stamp, launchSeq := s1.coNext - 1,
                              taken := false, left := [(0, teams)] }
            let ok := s.checkTurn o = true ∧ placed ∧ good
            [{ ok := s.checkTurn o = true ∧ placed ∧ ¬ good, s := bad s1 },
             { ok := ok ∧ s1.pending x.slice x.die < 1024, s := ((s1.addGrid g).writeDst o (lowestLane o.lanes) [0]).endOp o },
             { ok := ok ∧ 1024 ≤ s1.pending x.slice x.die, s := (s1.writeDst o (lowestLane o.lanes) [0x80000001]).endOp o }]
          | some (.error e) => [{ ok := s.checkTurn o = true ∧ placed, s := s.opFail o x gr e }]
          | none => []
        | _ => []
      | _, _ => []
    | none => []
  | .collectiveCompletion id => match s.op? id with
    | some o => match s.team? o.team, s.contribs.find? fun c => c.op == some id && !c.done with
      | some x, some c =>
        let same := s.contribs.filter fun k => k.members == c.members && k.group == c.group && k.seq == c.seq
        match (List.range c.members.length).mapM fun r => same.find? fun k => k.rank == r with
        | some parts =>
          let cs := s.contribs.map fun k => if k = c then { k with done := true } else k
          let mine := fun (k : Contrib) => k.members == c.members && k.group == c.group && k.seq == c.seq
          let ended := cs.all fun k => !mine k || k.op.isNone || k.done
          let ready := s.readsOut o.team o.grp = false
          let differ := parts.any fun k => !k.lost && k.form.take 5 != c.form.take 5
          let lost := parts.any (·.lost)
          let bad := parts.any fun k => !k.bad.isEmpty
          let keep := fun (s : State) => ({ s with contribs := if ended then cs.filter fun k => !mine k else cs } : State)
          -- what a lost rank would have brought is open (R470)
          let r := collResult c.form c.rank (parts.map fun k => if k.lost then Config.freeValue s.fresh / 2 ^ (2 ^ 32 * k.rank) else k.data)
          let bytes := collDstBytes (c.form.getD 0 0) (c.form.getD 3 0) (collElem (c.form.getD 1 0)) c.members.length
          let dst := c.form.getD 5 0
          -- a block that failed its guard check is poisoned (R466); where the call failed, which bytes keep their old value is open
          let put := fun (whole : Bool) => (leBytes r bytes).zipIdx.foldl (fun (s' : State) p => match s'.teamXlat x needW (dst + p.2) with
            | .ok pa =>
              if parts.any fun k => k.bad.contains (p.2 / 256) then s'.poisonByte x o pa (dst + p.2)
              else if !whole && (Config.freeValue (s.fresh + 1)).testBit p.2 then s' else s'.storeByte (engineAgent o.id) (storeStamp o.id) pa p.1
            | .error _ => s') { s with fresh := s.fresh + 2 }
          -- the ranks disagree about the call: no byte is written (R468)
          [{ ok := ready ∧ differ = true, s := (keep { s with fresh := s.fresh + 2 }).collEnd o 0x80000003 },
           -- a rank is lost; a block failed its guard check
           { ok := ready ∧ differ = false ∧ lost = true, s := (keep (put false)).collEnd o 0x80000004 },
           { ok := ready ∧ differ = false ∧ lost = false ∧ bad = true, s := (keep (put false)).collEnd o 0x80000005 },
           -- all took part: DST is written, every rank's publication is adopted
           { ok := ready ∧ differ = false ∧ lost = false ∧ bad = false
             s := (keep (((put true).adopt o.team o.grp .dom (parts.filterMap (·.pub))).updGroup o.team o.grp fun g =>
               { g with lb := joinView g.lb ((put true).storesOf (engineAgent o.id)) })).collEnd o 0 }]
        | none => []
      | _, _ => []
    | none => []
  | _ => []

/-! ## Late faults and poison park (R259, R260, R263) -/

def parkTurns (s : State) : Instr → List Turn
  | .lateFaultPark t gi => match s.team? t, s.group? t gi with
    | some x, some g => match s.lateDue x t gi g with
      | l0 :: rest =>
        let y := g.lane l0
        let ls := (l0 :: rest).filter fun l => (g.lane l).rc == y.rc && (g.lane l).pc == y.pc && replayPos g l == replayPos g l0 && soleCall g l == soleCall g l0
        match firstFault g ls with
        | some f =>
          let replay : Option Replay := match soleCall g l0 with
            | some sl => some { hdr := BitVec.ofNat 64 f.hdr, kind := 2, slot := sl, faddr := BitVec.ofNat 64 f.addr, fpos := f.pos, flane := l0 }
            | none => if replayPos g l0 = 0#24 then none
              else some { hdr := BitVec.ofNat 64 f.hdr, pos := replayPos g l0, kind := 1, faddr := BitVec.ofNat 64 f.addr, fpos := f.pos, flane := f.lane }
          [{ ok := True
             s := ((s.updGroup t gi fun g => { g with late := g.late.filter fun f => !ls.contains f.lane }).park t gi y.rc (maskOf ls.contains)
               { cls := f.cls, pc := y.pc, off := 0, skid := f.skid, replay, addr := f.addr, detail := f.detail, state := some f.rc0 }).endCycle t gi }]
        | none => []
      | [] => []
    | _, _ => []
  | .poisonPark t gi => match s.team? t, s.group? t gi with
    | some x, some g => match s.poisonDue x g with
      | l0 :: rest =>
        let y := g.lane l0
        let ls := (l0 :: rest).filter fun l => (g.lane l).rc == y.rc && (g.lane l).pc == y.pc
        match g.marks.find? fun m => m.lane == l0 with
        | some m =>
          [{ ok := True
             s := ((s.updGroup t gi fun g => { g with marks := g.marks.filter fun m => !ls.contains m.lane }).park t gi y.rc (maskOf ls.contains)
               { cls := FClass.memPoison.code, pc := y.pc, off := 0, skid := m.skid, addr := m.addr, state := some m.rc0 }).endCycle t gi }]
        | none => []
      | [] => []
    | _, _ => []
  | _ => []

/-! ## Units (R305, R330-R381, R439) -/

/-- A call of a unit that keeps no order. -/
def plainCall (s : State) (id type : Nat) (ok : Call → Prop) (f : Call → State) : List Turn :=
  match s.call? id with
  | some c => [{ ok := c.type = type ∧ hdrOrd c.hdr = false ∧ c.mode = .plain ∧ s.unitHeld c = false ∧ ok c, s := f c }]
  | none => []
def unitTurns (s : State) : Instr → List Turn
  | .binnerCall id => match s.call? id with
    | some c => plainCall s id 1 (fun c => binnerOk c = false) (fun c => s.unitReturn c 4 0 0 0) ++ match binnerWork s c with
      | .ok (s1, st, f) => plainCall s id 1 (fun c => binnerOk c = true) fun c => s1.unitReturn c st 0 0 f
      | .error e => plainCall s id 1 (fun c => binnerOk c = true ∧ e.2 ≠ stillOut) fun c => s.unitReturn c (statusOf e.2) (hdrLanes c.hdr) e.1 0
    | none => []
  | .rasteriserCall id =>
    plainCall s id 2 (fun c => rasterOk s c = false) (fun c => s.unitReturn c 4 0 0 0)
    ++ plainCall s id 2 (fun c => rasterOk s c = true) fun c =>
      let v := fun (k : Nat) => (⟨c.i32 (8 + 8 * k), c.i32 (12 + 8 * k), c.fld (32 + 4 * k) 4⟩ : Vtx)
      let area := triArea (v 0) (v 1) (v 2)
      -- vertices 1 and 2 change places where the winding is negative
      let b := if area < 0 then v 2 else v 1
      let d := if area < 0 then v 1 else v 2
      let pat := (samplePattern (c.fld 52 1)).getD []
      let bytes := regionPixels.map fun p => if area = 0 then 0 else coverByte (v 0) b d pat (c.i16 44 + p.1) (c.i16 46 + p.2)
      let g := depthPlane (v 0) b d
      (s.updTeam c.team fun x => Team.settleBars { x with tmem := x.tmem.setRun (c.fld 48 4) (bytes.map (BitVec.ofNat 8)) }).unitReturn c 0 0 0
        ((bytes.map fun m => popcN 8 m).sum + 2 ^ 32 * g.1 + 2 ^ 64 * g.2 + (if area < 0 then 2 ^ 96 else 0))
  | .streamBind id => match s.call? id with
    | some c =>
      let st : Stream := {
        bound := true, asid := c.asid, priv := c.priv, samples := c.fld 10 1, fmt := c.fld 11 1, tiles := c.fld 12 4, state := c.fld 16 8, base := c.fld 24 8,
        pitch := c.fld 32 4, sbase := c.fld 36 8, spitch := c.fld 44 4, width := c.fld 48 2, height := c.fld 50 2, const := c.fld 52 4 }
      let s1 := s.clearChain c st
      let due := (c.type = 3 ∨ c.type = 4) ∧ hdrOrd c.hdr = false ∧ c.mode = .plain ∧ s.unitHeld c = false ∧ c.fld 8 1 ≠ 2
      -- a value that cannot stand; a stream that is not drained; BIND
      [{ ok := due ∧ bindOk c = false, s := s.unitReturn c 4 0 0 0 },
       { ok := due ∧ bindOk c = true ∧ s.drained c.slice c.clu (c.fld 9 1) = false, s := s.unitReturn c 18 0 0 0 },
       { ok := due ∧ bindOk c = true
           ∧ s.drained c.slice c.clu (c.fld 9 1) = true ∧ s.cpages c needRW (c.fld 16 8) (4 * c.fld 12 4) = none
         s := ({ s1 with streams := s1.streams.set c.opKey st } : State).unitReturn c 0 0 0 0 }]
    | none => []
  | .streamClear id => match s.call? id with
    | some c =>
      let st := s.streams.get c.opKey
      let s1 := s.clearChain c st
      let due := (c.type = 3 ∨ c.type = 4) ∧ hdrOrd c.hdr = false ∧ c.mode = .plain ∧ s.unitHeld c = false ∧ c.fld 8 1 = 2
      let good := c.fld 9 1 < 16 ∧ c.fld 10 54 = 0
      [{ ok := due ∧ ¬ good, s := s.unitReturn c 4 0 0 0 },
       { ok := due ∧ good ∧ s.drained c.slice c.clu (c.fld 9 1) = false, s := s.unitReturn c 18 0 0 0 },
       { ok := due ∧ good ∧ s.drained c.slice c.clu (c.fld 9 1) = true
           ∧ (st.bound = true → s.cpages { c with asid := st.asid, priv := st.priv } needRW st.state (4 * st.tiles) = none)
         s := ({ s1 with streams := s1.streams.set c.opKey { st with chain := [] } } : State).unitReturn c 0 0 0 0 }]
    | none => []
  | .depthStencilCommit id => match s.call? id with
    | some c => match c.mode with
      | .err n => [{ ok := c.type = 3 ∧ hdrOrd c.hdr = true ∧ s.unitHeld c = false, s := s.unitReturn c n 0 0 0 }]
      | _ => [{ ok := c.type = 3 ∧ hdrOrd c.hdr = true ∧ s.unitHeld c = false ∧ canCommit s c = true ∧ (s.commitChain depthWork c 1025).call? c.id ≠ some c
                s := s.commitChain depthWork c 1025 }]
    | none => []
  | .blendCommit id => match s.call? id with
    | some c => match c.mode with
      | .err n => [{ ok := c.type = 4 ∧ hdrOrd c.hdr = true ∧ s.unitHeld c = false, s := s.unitReturn c n 0 0 0 }]
      | _ => [{ ok := c.type = 4 ∧ hdrOrd c.hdr = true ∧ s.unitHeld c = false ∧ canCommit s c = true ∧ (s.commitChain blendWork c 1025).call? c.id ≠ some c
                s := s.commitChain blendWork c 1025 }]
    | none => []
  | .tessellatorCall id => match s.call? id with
    | some c =>
      let iso := c.fld 8 1 == 1
      let good := c.fld 8 1 ≤ 1 ∧ c.fld 9 3 = 0 ∧ c.fld 36 8 % 8 = 0 ∧ c.fld 48 8 % 2 = 0 ∧ c.fld 60 4 = 0
      let f := fun k => c.fld (12 + 4 * k) 4
      let culled := ∃ k < (if iso then 2 else 4), cullsPatch (f k) = true
      let p := if iso then isolinePatch f else quadPatch f (c.fld 28 4) (c.fld 32 4)
      let np := p.points.length
      let ni := p.prims.length
      let w := if iso then 4 else 6
      let out := np + 2 ^ 32 * ni
      let room := 8 * np ≤ c.fld 44 4 ∧ w * ni ≤ c.fld 56 4
      let put := fun (s : State) => p.prims.zipIdx.foldl (fun s q =>
        s.cwrite c (c.fld 48 8 + w * q.2) (q.1.zipIdx.foldl (fun v k => v + k.1 * 2 ^ (16 * k.2)) 0) w)
        (p.points.zipIdx.foldl (fun s q => s.cwrite c (c.fld 36 8 + 8 * q.2) (q.1.1 + 2 ^ 32 * q.1.2) 8) s)
      plainCall s id 5 (fun _ => ¬ good) (fun c => s.unitReturn c 4 0 0 0)
      ++ plainCall s id 5 (fun _ => good ∧ culled) (fun c => s.unitReturn c 0 0 0 (2 ^ 64))
      ++ plainCall s id 5 (fun _ => good ∧ ¬ culled ∧ ¬ room) (fun c => s.unitReturn c 19 0 0 out)
      ++ plainCall s id 5 (fun c => good ∧ ¬ culled ∧ room ∧ s.cpages c needW (c.fld 36 8) (8 * np) = none ∧ s.cpages c needW (c.fld 48 8) (w * ni) = none)
        fun c => (put s).unitReturn c 0 0 0 out
    | none => []
  | .textureCall id => match s.call? id with
    | some c => plainCall s id 6 (fun c => textureOk s c = false) (fun c => s.unitReturn c 4 0 0 0) ++ match s.cread c (c.fld 8 8) 32 with
      | .ok b => match texDesc b with
        | some d =>
          let answered := ∀ l ∈ laneList c.lanes, ∀ e, s.texLane c d l = .error e → e.2 ≠ stillOut
          plainCall s id 6 (fun c => textureOk s c = true ∧ answered) fun c =>
          s.laneReturn c ((laneList c.lanes).map fun l => (l, s.texLane c d l)) fun s l v =>
            v.zipIdx.foldl (fun s p => s.ctwrite c (c.fld 20 4 + 16 * l + 4 * p.2) 4 p.1) s
        | none => plainCall s id 6 (fun c => textureOk s c = true) fun c => s.unitReturn c 4 0 0 0
      | .error e => plainCall s id 6 (fun c => textureOk s c = true ∧ e.2 ≠ stillOut) fun c => s.unitReturn c (statusOf e.2) (hdrLanes c.hdr) e.1 0
    | none => []
  | .traceRays id => plainCall s id 7 (fun c => c.fld 8 1 ≠ 1 ∧ (rayRun s c).call? c.id ≠ some c) fun c => rayRun s c
  | .verdict id => plainCall s id 7 (fun c => c.fld 8 1 = 1 ∧ (rayRun s c).call? c.id ≠ some c) fun c => rayRun s c
  | .encoderConfig id =>
    plainCall s id 8 (fun c => c.fld 8 1 = 0 ∧ s.hasLane c = false) (fun c => s.unitReturn c 6 0 0 0)
    ++ plainCall s id 8 (fun c => c.fld 8 1 = 0 ∧ s.hasLane c = true ∧ c.fld 9 1 < 4 ∧ configOk c = true ∧ s.cpages c needW (c.fld 24 8) (c.fld 32 4) = none)
      fun c =>
        let v := Config.freshSession (configSession c)
        ((s.cwrite c (c.fld 24 8) v (c.fld 32 4)).putSession v (configSession c)).unitReturn c 0 0 0 0
  | .encoderEncode id => match s.call? id with
    | some c =>
      let good := c.fld 8 1 = 1 ∧ s.hasLane c = true ∧ c.fld 9 1 < 4 ∧ encodeForm c = true
      plainCall s id 8 (fun c => c.fld 8 1 ≠ 0 ∧ s.hasLane c = false) (fun c => s.unitReturn c 6 0 0 0)
      ++ match s.cread c (c.fld 56 8) 65536 with
      | .error e => plainCall s id 8 (fun _ => good ∧ e.2 ≠ stillOut) fun c => s.unitReturn c (statusOf e.2) (hdrLanes c.hdr) e.1 0
      | .ok hd => match s.sessionAt hd with
        | none => plainCall s id 8 (fun _ => good) fun c =>
          (s.raise c.slice c.die { kind := 3, src := c.clu / 12 * 256 + c.clu % 12 * 16 + c.fld 9 1 % 4, image := c.image, lanes := c.lanes, grp := c.grp,
                                   state := c.rc, event := 6 }).unitReturn c 4 0 0 0
        | some x =>
          let w := x.width * sampleBytes x.depth
          match s.cread c (c.fld 56 8) x.bytes, s.planeRows c (c.fld 16 8) (c.fld 32 4) w x.height,
              s.planeRows c (c.fld 24 8) (c.fld 32 4) w (x.height / 2), s.encodeBar c with
          | .ok st, .ok luma, .ok uv, .ok bar =>
            let src := keepSamples x.depth (luma + 2 ^ (8 * w * x.height) * uv) (x.width * x.height * 2)
            let r := Config.encodeFrame st src (c.rcd / 2 ^ 96) (c.fld 36 4)
            let tail := 2 ^ 32 * (x.frames % 2 ^ 32) + 2 ^ 64 * (if x.due = true ∨ (c.fld 12 1).testBit 0 = true then 1 else 0)
            let reach := good ∧ encodeFits c x = true ∧ s.cpages c needRW (c.fld 56 8) x.bytes = none
              ∧ s.planePages c (c.fld 16 8) (c.fld 32 4) w x.height = none ∧ s.planePages c (c.fld 24 8) (c.fld 32 4) w (x.height / 2) = none
              ∧ s.cpages c needW (c.fld 40 8) (c.fld 36 4) = none
            plainCall s id 8 (fun c => reach ∧ r.1 ≤ c.fld 36 4) (fun c => (s.putFrame c x r.1 r.2.1 r.2.2 bar).unitReturn c 0 0 0 (r.1 + tail))
            ++ plainCall s id 8 (fun c => reach ∧ c.fld 36 4 < r.1) fun c => s.unitReturn c 20 0 0 tail
          | _, _, _, _ => []
    | none => []
  | .routerDispatch t ch => match s.team? t with
    | some x => match x.handed.find? fun h => h.ch == ch with
      | some h =>
        let r := x.handedRec h
        let y := x.routerFree h
        let c := y.chan (hdrRch r)
        -- a header that cannot stand is reported and its slot freed
        { ok := x.callHdrOk r = false
          s := (s.setTeam t y).raise x.slice x.die
            { kind := 2, src := x.cluIx / 12 * 256 + x.cluIx % 12 * 16, cls := FClass.callFault.code, image := x.image
              lanes := BitVec.ofNat 32 (hdrLanes r), grp := h.grp, state := h.rc, event := 7, detail := (x.chan h.ch).addr h.slot } }
        :: match headReady s x h with
        | some mode =>
          let call := fun ret => ({ id := s.stamp, team := t, grp := h.grp, rc := h.rc, slice := x.slice, die := x.die, clu := x.cluIx, asid := x.asid,
                                    priv := x.priv, image := x.image, rcd := r, ret, replay := none, mode } : Call)
          let go := fun y ret => { (s.setTeam t y) with calls := s.calls ++ [call ret], stamp := s.stamp + 1
                                                        served := s.served.set (servedKey x.cluIx (recUnit r)) (x.slice + 1) }
          let ok := x.callHdrOk r = true ∧ isChosen s x h = true
          [{ ok := ok ∧ hdrNoret r = true, s := go y none },
           { ok := ok ∧ hdrNoret r = false
             s := go { y with chst := y.chst.set (hdrRch r) ({ c with ridx := (c.ridx + 1) % c.count, nr := c.nr + 1 } : Chan).word }
               (some (hdrRch r, c.ridx, c.base + c.slot * c.ridx)) }]
        | none => []
      | none => []
    | none => []
  | _ => []

/-! ## Schedulers (R323, R391-R407, R209, R420) -/

def schedTurns (s : State) : Instr → List Turn
  | .queueTake sl qid => match s.queue? sl qid with
    | some q => [{ ok := q.cls ≠ 0 ∧ q.tail ≠ q.head ∧ s.halted sl = false ∧ s.pending sl q.die < 1024, s := s.takeHead sl qid q }]
    | none => []
  | .bestEffortFill sl die =>
    let due := s.grids.any fun p => p.2.slice == sl && p.2.die == die && p.2.cls == 0 && !p.2.fallback && !p.2.left.isEmpty
    let entries := ((List.range 12).map fun cl => s.depth sl (12 * die + cl)).sum
    { ok := s.halted sl = false ∧ due = true ∧ (s.placeTasks sl die 12288).lists ≠ s.lists, s := s.placeTasks sl die 12288 }
      :: match s.fillQueue sl die with
        | some q => [{ ok := s.halted sl = false ∧ due = false ∧ entries < 4 * (s.coresOf sl die).length ∧ s.pending sl die < 1024
                       s := (s.takeHead sl q.1 q.2).placeTasks sl die 12288 }]
        | none => []
  | .teamAdmit sl die =>
    -- the best task that some core can hold: none can hold one ranked before it
    (s.ranked sl die).zipIdx.flatMap fun c =>
      let t := c.1.2.1
      let only := c.1.2.2
      let ok := s.halted sl = false ∧ ∀ d ∈ (s.ranked sl die).take c.2, ∃ y, (s.fetchTask d.2.1).2 = .ok y ∧ (s.fetchTask d.2.1).1.coreFor y sl die d.2.2 = none
      match s.fetchTask t with
      | (s1, .error e) => [{ ok, s := s1.refuse t only e }]
      | (s1, .ok x) => match s1.coreFor x sl die only with
        | some (cl, core) => [{ ok, s := s1.start t x only cl core }]
        | none => []
  | .teamPreempt sl die => match s.ranked sl die with
    | (r, t, only) :: _ => match (s.fetchTask t).2 with
      | .ok x =>
        -- on each core: the worst victim, and the fewest whose leaving makes room
        let cands := (s.coresOf sl die).filterMap fun c => match s.victims die c.1 c.2 sl r with
          | v :: vs => (enough x (s.residents die c.1 c.2) (v :: vs)).bind fun out => if out = [] then none else some (v, out)
          | [] => none
        -- the worst such victim, then the latest restored, then the lower core
        cands.zipIdx.map fun c =>
          { ok := r.headD 2 ≠ 2 ∧ s.halted sl = false ∧ s.coreFor x sl die only = none
              ∧ ∀ d ∈ cands.zipIdx, d.2 ≠ c.2 → let u := d.1.1
                let v := c.1.1
                lexLt u.1 v.1 = true ∨ u.1 = v.1 ∧ (u.2.2.restored < v.2.2.restored ∨ u.2.2.restored = v.2.2.restored ∧ c.2 < d.2)
            s := c.1.2.foldl (fun s v => (s.suspend v).requeue v) s }
      | .error _ => []
    | [] => []
  | .registerCacheAllocate core t line => match s.team? t with
    | some x =>
      let on := s.teams.flatMap fun p => (p.2.lines.filter fun l => l.1 == core && p.2.regLine l.2).map fun l => (p.1, p.2, l)
      let due := x.st = .resident ∧ x.coreId = core ∧ x.regLine line = true ∧ (core, line) ∉ x.lines
      let add := fun (s : State) => s.updTeam t fun x => { x with lines := (core, line) :: x.lines }
      { ok := due ∧ on.length < 2048, s := add s }
      -- the 2,049th line takes the place of one of a suspended team, or, with none, of the team with the latest deadline, then the latest restored
      :: on.map fun v =>
        { ok := due ∧ 2048 ≤ on.length
            ∧ (v.2.1.st ≠ .resident ∧ (∀ w ∈ on, w ≠ v → w.2.1.st = .resident)
              ∨ (∀ w ∈ on, w.2.1.st = .resident) ∧ ∀ w ∈ on, w ≠ v → w.2.1.deadline.toNat < v.2.1.deadline.toNat
                  ∨ w.2.1.deadline = v.2.1.deadline ∧ w.2.1.restored < v.2.1.restored)
          s := add (s.evict v.1 v.2.2) }
    | none => []
  | .displayTrigger gr => match s.grid? gr with
    | some g =>
      let st := (s.sdReg g.slice g.die 0x30C).toNat
      let skips := fun k => BitVec.ofNat 32 ((st % 65536 + 1) % 65536 + 65536 * k)
      let s1 := s.updGrid gr fun g => { g with triggered := true }
      let s2 := (s1.setSdReg g.slice g.die 0x30C (skips (st / 65536 % 256))).signalVf g.slice 4
      let fb := (s2.sdReg g.slice g.die 0x30A).toNat + 2 ^ 32 * (s2.sdReg g.slice g.die 0x30B).toNat
      let due := g.cls = 1 ∧ g.taken = true ∧ g.triggered = false
        ∧ g.deadline.toNat ≤ s.dieCount g.die + 256 * ((s.sdReg g.slice g.die 0x308).toNat / 65536)
      let runs : Prop := ∃ p ∈ s2.grids, p.2.slice = g.slice ∧ p.2.die = g.die ∧ p.2.fallback = true
      let bad := fun cls detail => s2.raise g.slice g.die { kind := 1, src := g.qid, cls, detail, addr := fb, event := 4 }
      { ok := due ∧ fb = 0, s := s2 }
      :: match s2.vread (devSpace g.slice g.die g.asid) fb 64 with
      | .error e => [{ ok := due ∧ fb ≠ 0, s := bad e.2.cls.code e.2.detail }]
      | .ok e =>
        [{ ok := due ∧ fb ≠ 0 ∧ ¬ runs ∧ entryOk e = true
           s := s2.addGrid { gridOf s2 g.slice g.die g.asid g.priv g.cls g.qid e with deadline := g.deadline, taken := false, fallback := true } },
         { ok := due ∧ fb ≠ 0 ∧ runs ∧ entryOk e = true
           s := s2.setSdReg g.slice g.die 0x30C (skips ((st / 65536 % 256 + 1) % 256)) },
         { ok := due ∧ fb ≠ 0 ∧ entryOk e = false, s := bad 0 0 }]
    | none => []
  | .idleSwap t => match s.team? t with
    | some x => match s.queue? x.slice x.qid with
      | some q =>
        let nap : Asleep := { tick := s.dieCount x.die, coNext := s.coNext, work := s.workOf t, tmem := x.tmem, lines := s.waitLines x, due := x.earliest }
        [{ ok := x.st = .resident ∧ x.cluster ≠ 12 ∧ q.waitTh ≠ 0 ∧ q.waitTh ≤ s.dieCount x.die - x.lastTick ∧ (∀ p ∈ x.groups, Group.stuck s t x p.2 = true) ∧ s.stream1 = none
           s := (s.setTeam t { x with asleep := some nap }).suspend t }]
      | none => []
    | none => []
  | .teamWake t => match s.team? t with
    | some x => match x.asleep with
      | some n =>
        [{ ok := (∃ e ∈ s.co, n.coNext ≤ e.seq ∧ e.addr / 128 ∈ n.lines) ∨ s.workOf t < n.work ∨ x.tmem ≠ n.tmem ∨ (∃ d, n.due = some d ∧ d ≤ s.dieCount x.die)
             ∨ n.tick + 16 * ((s.queue? x.slice x.qid).map (·.waitTh)).getD 0 ≤ s.dieCount x.die
           s := (s.setTeam t { x with asleep := none }).requeue t }]
      | none => []
    | none => []
  | .queueDepthExchange cl => [{ ok := cl < 48, s := (List.range 193).foldl (fun s sl => s.exchange sl cl) s }]
  | .transitEntryReceived gr k => match s.transit.find? fun t => t.task.named s gr k with
    | some e =>
      let key := listKey e.slice e.dst
      [{ ok := True, s := { s with transit := s.transit.erase e, lists := s.lists.set key (insertAge s e.task (s.lists.get key)) } }]
    | none => []
  | .faultRecordDelivery sl die kind src =>
    let y := s.sliceDieOf sl die
    match y.held.find? fun r => r.kind == kind && r.src == src with
    | some r =>
      let key := kind * 65536 + src
      let tail := s.sdReg sl die 0x423
      let n := (s.sdReg sl die 0x422).toNat % 16
      let base := (s.sdReg sl die 0x420).toNat + 2 ^ 32 * (s.sdReg sl die 0x421).toNat
      let s1 := s.vwriteOr (devSpace sl die 0) (schedAgent sl die) (base + 64 * (tail.toNat % 2 ^ n)) (r.bytes die (y.seq.get key)) 64
      let s2 := { s1.publishAs (fwPlace sl die) (schedAgent sl die) .slc .plain (s1.storesOf (schedAgent sl die)) with stamp := s1.stamp + 1 }
      [{ ok := base ≠ 0 ∧ (tail - s.sdReg sl die 0x424).toNat < 2 ^ n
         s := (s2.setSliceDie sl die { y with held := y.held.erase r, seq := y.seq.set key ((y.seq.get key + 1) % 2 ^ 16), frPubs := s1.pubs.length :: y.frPubs
                                              reg := y.reg.set 0x423 (tail + 1#32) }).signal 192 3 }]
    | none => []
  | _ => []

end Sys2Proof.Machine
end

