-- ==== Sys2Proof/Safety/Places.lean ====
section
/-!
DEFINITION. When each row of a ring, a slice, the host link, power and the fabric takes place, and the state it leaves (spec/18, 19, 20); the
values that writes from outside leave in registers (spec/03, 06, 08, 12, 17, 19, 20).
-/
namespace Sys2Proof.Machine

/-! ## Commands (R432, R433, R435-R441, R470, R472) -/

/-- A command of a type at the head of a ring: it waits for the earlier ones where its trailer says so; a reserved value refuses it. -/
def ringTurn (s : State) (sl type : Nat) (used : List (Nat × Nat)) (f : Nat → Nat → List Turn) : List Turn :=
  match s.headSlot sl with
  | some (n, v) =>
    let due := cmdType v = type ∧ (cmdSerial v = true → s.cmds.get sl = [])
    { ok := due ∧ cmdForm v used = false, s := s.refuseCmd sl n v 0x40000002 }
      :: (f n v).map fun r => { r with ok := due ∧ cmdForm v used = true ∧ r.ok }
  | none => []

/-- WRITE32 and WAIT32 name an aligned word of an ASID's range. -/
def wordNamed (s : State) (sl v : Nat) : Prop :=
  recFld v 0 8 % 4 = 0 ∧ recFld v 0 8 < 2 ^ 58 ∧ ∃ k, s.asTable sl (s.cpDie sl) (recFld v 12 2) = .ok k

def ringTurns (s : State) : Instr → List Turn
  | .launchCmd sl => ringTurn s sl 1 [(0, 66)] fun n v =>
    let qid := recFld v 64 2
    let r := s.append sl (if qid < 4096 then some qid else none) (recFld v 0 64)
    let tail := ((s.queue? sl qid).map (·.tail)).getD 0
    let s1 := match r.1.queue? sl qid with
      | some q => { r.1 with queues := r.1.queues.put (queueKey sl qid) { q with launches := q.launches ++ [(tail, n)] } }
      | none => r.1
    -- it waits while the queue is full; a write that cannot be made, an entry that cannot stand; else it starts
    [{ ok := r.2 = 0x80000004, s := r.1.refuseCmd sl n v 0x40000004 },
     { ok := r.2 ≠ 0x80000001 ∧ r.2 ≠ 0x80000004 ∧ 2 ^ 31 ≤ r.2, s := r.1.doneCmd sl n v r.2 },
     { ok := r.2 < 2 ^ 31, s := s1.startCmd sl n v r.2 }]
  | .write32 sl => ringTurn s sl 2 [(0, 14)] fun n v =>
    let s1 := s.startCmd sl n v 0x40000000
    { ok := ¬ wordNamed s sl v, s := s.refuseCmd sl n v 0x40000002 }
      :: match s1.vwrite (devSpace sl (s1.cpDie sl) (recFld v 12 2)) (cpAgent sl) (recFld v 0 8) (recFld v 8 4) 4 with
        | .ok s2 => [{ ok := wordNamed s sl v, s := (s2.putResult sl n 0).completeCmd sl n }]
        | .error _ => [{ ok := wordNamed s sl v, s := ((s1.putResult sl n 0x40000004).countBad sl n).completeCmd sl n }]
  | .wait32 sl => ringTurn s sl 3 [(0, 15)] fun n v =>
    let s1 := s.startCmd sl n v 0x40000000
    match condOf (recFld v 14 1) with
    | none => [{ ok := True, s := s.refuseCmd sl n v 0x40000002 }]
    | some c =>
      [{ ok := ¬ wordNamed s sl v, s := s.refuseCmd sl n v 0x40000002 },
       { ok := wordNamed s sl v
         s := { s1 with cmds := s1.cmds.set sl ((s1.cmds.get sl).map fun k =>
           if k.n = n then { k with wait := some (recFld v 0 8, recFld v 12 2, recFld v 8 4, c) } else k) } }]
  | .wait32Satisfied sl n => match (s.cmds.get sl).find? fun c => c.n == n with
    | some c => match c.wait with
      | some (va, asid, val, cond) => match s.vread (devSpace sl c.die asid) va 4 with
        | .ok w =>
          -- the word is read, and an adopt at `.dom` follows it (R433)
          let pas := (List.range 4).filterMap fun k => (s.teamXlat (devSpace sl c.die asid) needR (va + k)).toOption
          [{ ok := s.halted sl = false ∧ waitCond cond w val = true
             s := (((s.cpSees sl (pas.map fun pa => (pa, s.lastSeq pa))).cpAdopt sl c.die .dom).putResult sl n 0).completeCmd sl n }]
        | .error _ => [{ ok := s.halted sl = false, s := ((s.putResult sl n 0x40000004).countBad sl n).completeCmd sl n }]
      | none => []
    | none => []
  | .nopCmd sl =>
    ringTurn s sl 4 [] (fun n v => [{ ok := True, s := s.doneCmd sl n v 0 }])
    ++ match s.headSlot sl with
      -- a type that the ring does not have
      | some (n, v) => [{ ok := cmdType v ∉ [1, 2, 3, 4] ∧ (sl = 192 → cmdType v < 0x10 ∨ 0x17 < cmdType v) ∧ (cmdSerial v = true → s.cmds.get sl = [])
                          s := s.refuseCmd sl n v 0x40000001 }]
      | none => []
  | .bindQueue => ringTurn s 192 0x10 [(0, 6), (8, 22), (32, 12)] fun n v =>
    let sl := recFld v 0 1
    let qid := recFld v 2 2
    let restore := (recFld v 1 1).testBit 0
    let busy := ∃ q, s.queue? sl qid = some q ∧ (s.queueRuns sl qid = true ∨ restore = false ∧ q.head ≠ q.tail)
    let q0 : Queue := {
      hdr := recFld v 8 8, ring := recFld v 16 8, size := recFld v 24 4, cls := recFld v 28 1, die := recFld v 29 1, asid := recFld v 4 2
      waitTh := if (recFld v 1 1).testBit 1 then 20000 else recFld v 32 4
      head := if restore then recFld v 36 4 else 0, tail := if restore then recFld v 40 4 else 0
      launches := if restore then ((s.queue? sl qid).map (·.launches)).getD [] else [] }
    let q := { q0 with appended := List.replicate ((q0.tail + 2 ^ 32 - q0.head) % 2 ^ 32) (s.dieCount q0.die) }
    let s1 := s.setQueue sl qid q
    let ag := schedAgent sl q.die
    -- the header: the ring's place and size, then TAIL, HEAD, class, die, queue number and wait threshold
    let s2 := s1.vwriteOr (q.space sl) ag q.hdr (q.ring + 2 ^ 64 * q.size) 12
    let s3 := s2.vwriteOr (q.space sl) ag (q.hdr + 16)
      (q.tail + 2 ^ 32 * q.head + 2 ^ 64 * q.cls + 2 ^ 72 * q.die + 2 ^ 80 * qid + 2 ^ 96 * q.waitTh) 16
    [{ ok := s.bindOk v = false, s := s.refuseCmd 192 n v 0x40000002 },
     { ok := s.bindOk v = true ∧ busy, s := s.doneCmd 192 n v 0x40000003 },
     { ok := s.bindOk v = true ∧ ¬ busy, s := (s3.publishAs (fwPlace sl q.die) ag .slc .plain (s3.storesOf ag)).doneCmd 192 n v 0 }]
  | .unbindQueue => ringTurn s 192 0x11 [(0, 1), (2, 2)] fun n v =>
    let sl := recFld v 0 1
    let qid := recFld v 2 2
    let named := sl ≤ 192 ∧ qid < 4096
    { ok := ¬ named, s := s.refuseCmd 192 n v 0x40000002 } :: { ok := named ∧ s.queueRuns sl qid = true, s := s.doneCmd 192 n v 0x40000003 }
      :: match s.queue? sl qid with
        | some q => [{ ok := named ∧ s.queueRuns sl qid = false
                       s := (({ s with queues := s.queues.erase (queueKey sl qid) } : State).pqtStore sl qid q false).doneCmd 192 n v 0 }]
        | none => [{ ok := named ∧ s.queueRuns sl qid = false, s := s.doneCmd 192 n v 0 }]
  | .reshape => ringTurn s 192 0x12 [(0, 1), (8, 88)] fun n v =>
    let sl := recFld v 0 1
    let new : SliceSt := { pairs := bitList (recFld v 8 24) 192, chans := bitList (recFld v 32 24) 192, encs := bitList (recFld v 56 24) 192 }
    let old := (s.slices.get sl).chans
    -- the channels that are taken away, and those that are added: nothing checked or admitted is still to be performed there
    let moved := (old.filter fun c => !new.chans.contains c) ++ new.chans.filter fun c => !old.contains c
    let clear := (∀ o ∈ s.ops, o.usesChan moved = false) ∧ ∀ r ∈ s.requests, r.adm = true → r.addr % 256 = 0 → r.addr / 2 ^ 30 ∉ moved
    [{ ok := clear ∧ s.reshapeOk sl v new = true, s := (s.reshapeTo sl v new).doneCmd 192 n v 0 },
     { ok := clear ∧ s.reshapeOk sl v new = false, s := s.refuseCmd 192 n v 0x40000002 }]
  | .lease => ringTurn s 192 0x13 [(0, 4), (8, 8)] fun n v =>
    let a := recFld v 0 2
    let b := recFld v 2 2
    let good := a < 384 ∧ b < 384 ∧ a / 8 = b / 8 ∧ ∃ p q, s.ownerOf a = some p ∧ s.ownerOf b = some q ∧ p ≠ q
    let taken := ∃ l ∈ s.leases, l.lender ∈ [a, b] ∨ l.borrower ∈ [a, b]
    let l : Lease := { lender := a, borrower := b, start := s.dieCount (a / 96), term := recFld v 8 8 }
    -- the lender's matrix lines are written back (R291)
    let s1 := ((s.flushMatrix (coreIdOf a)).setLeaseReg a (256 * (b % 8) + 2)).setLeaseReg b (256 * (a % 8) + 1)
    [{ ok := ¬ good, s := s.refuseCmd 192 n v 0x40000002 },
     { ok := good ∧ taken, s := s.doneCmd 192 n v 0x40000003 },
     { ok := good ∧ ¬ taken ∧ s.engineBusy a = false, s := ({ s1.signalOwners l with leases := s1.leases ++ [l] } : State).doneCmd 192 n v 0 }]
  | .leaseEnd => ringTurn s 192 0x14 [(0, 2)] fun n v =>
    match s.leases.find? fun l => l.lender == recFld v 0 2 with
    | some l => [{ ok := True, s := (s.endLease l).doneCmd 192 n v 0 }]
    | none => [{ ok := True, s := s.refuseCmd 192 n v 0x40000002 }]
  | .collgrp => ringTurn s 192 0x15 [(0, 1), (2, 14)] fun n v =>
    let sl := recFld v 0 1
    let grp := recFld v 2 2
    let nr := recFld v 4 2
    let die := s.cpDie 192
    let good := sl ≤ 192 ∧ grp < 4096 ∧ 0 < nr ∧ nr ≤ 256 ∧ ∃ k, s.asTable 192 die (recFld v 6 2) = .ok k
    match s.vread (devSpace 192 die (recFld v 6 2)) (recFld v 8 8) (2 * nr) with
    | .ok l =>
      [{ ok := good, s := ({ s with collgrps := s.collgrps.set (4096 * sl + grp) ((List.range nr).map fun k => recFld l (2 * k) 2) } : State).doneCmd 192 n v 0 },
       { ok := ¬ good, s := s.refuseCmd 192 n v 0x40000002 }]
    | .error _ => [{ ok := True, s := s.refuseCmd 192 n v 0x40000002 }]
  | .remap => ringTurn s 192 0x16 [(0, 24)] fun n v =>
    let base := recFld v 0 8
    let size := recFld v 8 8
    let new := recFld v 16 8
    let good := isDomain base = true ∧ isDomain new = true ∧ size % 2 ^ 14 = 0
    -- every other member of the domain has acknowledged
    { ok := ¬ good, s := s.refuseCmd 192 n v 0x40000002 } :: match (if s.hasPeers then s.remapAck else some true) with
      | some ack =>
        [{ ok := good ∧ (ack = false ∨ 64 ≤ s.fwd.length), s := ({ s with remapAck := none } : State).doneCmd 192 n v 0x40000003 },
         -- what is in flight follows the new entry
         { ok := good ∧ ack = true ∧ s.fwd.length < 64
           s := (let s1 : State := { s with remapAck := none, fwd := s.fwd ++ [(base, size, new)] }
             ({ s1 with ops := s1.ops.map s1.rehomeOp } : State).doneCmd 192 n v 0) }]
      | none => []
  | .unremap => ringTurn s 192 0x17 [(0, 8)] fun n v =>
    [{ ok := True, s := ({ s with fwd := s.fwd.filter fun f => f.1 != recFld v 0 8 } : State).doneCmd 192 n v 0 }]
  | _ => []

/-! ## Slices (R432, R442, R444, R447), leases that run out (R441) -/

/-- No team of the slice is on a core or in flight, no call, and no operation but a `crecv` that waits. -/
def stoodStill (s : State) (sl : Nat) : Prop :=
  (∀ p ∈ s.teams, p.2.slice = sl → p.2.cluster ≠ 12 → p.2.st = .written) ∧ (∀ c ∈ s.calls, c.slice ≠ sl)
  ∧ ∀ o ∈ s.ops, (∃ ch, o.kind = .crecv ch) ∨ ∀ x, s.team? o.team = some x → x.slice = sl → x.cluster = 12
def sliceTurns (s : State) : Instr → List Turn
  | .cmdTail sl v => [{ ok := True, s := { s.setSreg sl 0x507 v with ringDue := (sl :: s.ringDue).eraseDups } }]
  | .cmdCtlWrite sl v =>
    let s1 := s.setSreg sl 0x506 (v &&& 0x8000001F#32)
    [{ ok := v.getLsbD 31 = true, s := s1.setSreg sl 0x508 0#32 }, { ok := v.getLsbD 31 = false, s := s1 }]
  | .sliceReset sl => [{ ok := s.resetting sl = true, s := s }, { ok := s.resetting sl = false, s := s.beginReset sl }]
  | .vfFlr sl => [{ ok := s.resetting sl = true, s := s }, { ok := s.resetting sl = false, s := s.beginReset sl }]
  | .sliceResetDone sl =>
    let s1 := if (s.sreg sl 0x501).getLsbD 2 then (s.slices.get sl).chans.foldl State.scrubChan s else s
    [{ ok := s.resetting sl = true, s := (s1.setSreg sl 0x502 (s.sreg sl 0x502 &&& ~~~2#32)).signalVf sl 2 }]
  | .sliceFreeze sl =>
    [{ ok := (s.sreg sl 0x501).getLsbD 1 = true, s := s }, { ok := (s.sreg sl 0x501).getLsbD 1 = false, s := s.freeze sl }]
  | .freezeComplete sl =>
    [{ ok := (s.sreg sl 0x501).getLsbD 1 = true ∧ (s.sreg sl 0x502).getLsbD 2 = false ∧ stoodStill s sl
       s := (s.setSreg sl 0x502 (s.sreg sl 0x502 ||| 4#32)).signalVf sl 3 }]
  | .sliceThaw sl =>
    let s1 := (s.setSreg sl 0x501 (s.sreg sl 0x501 &&& ~~~2#32)).setSreg sl 0x502 (s.sreg sl 0x502 &&& ~~~4#32)
    let s2 := if (s.sreg sl 0x502).getLsbD 2 then s1.signalVf sl 3 else s1
    [{ ok := (s.sreg sl 0x501).getLsbD 1 = false, s := s },
     { ok := (s.sreg sl 0x501).getLsbD 1 = true, s := { s2 with ringDue := (sl :: s2.ringDue).eraseDups } }]
  | .leaseTermExpiry core => match s.leases.find? fun l => l.lender == core with
    | some l => [{ ok := l.term ≠ 0 ∧ l.start + l.term < s.dieCount (core / 96), s := s.endLease l }]
    | none => []
  | _ => []

/-! ## Channels, power, ports (R449, R450, R455-R458) -/

def linkTurns (s : State) : Instr → List Turn
  | .memCrcError ch retries =>
    [{ ok := retries ≤ 8, s := s }, { ok := 8 < retries, s := s.updChan ch fun c => { c with training := true } }]
  | .channelRetrain ch ok =>
    let n := (s.chans.get ch).fails
    [{ ok := ok = true, s := s.updChan ch fun c => { c with training := false, fails := 0 } },
     { ok := ok = false ∧ n < 2, s := s.updChan ch fun c => { c with fails := n + 1 } },
     { ok := ok = false ∧ 2 ≤ n, s := (s.updChan ch fun c => { c with training := false, fails := n + 1, failed := true }).signal 192 4 }]
  | .correctedError ch => [{ ok := True, s := s.updChan ch fun c => { c with ce := min 65535 (c.ce + 1) } }]
  | .uncorrectableError a =>
    let counted := fun (s : State) => (s.updChan (a / 2 ^ 30) fun c => { c with ue := (c.ue + 1) % 2 ^ 32 }).signal 192 4
    [{ ok := s.poisonRoom a = true, s := counted (s.setPoison a 0xFFFFFFFF#32) }, { ok := s.poisonRoom a = false, s := counted (s.poisonRead a) }]
  | .patrolScrub ch ce ue =>
    let bad := fun (s : State) a => ((s.setPoison a 0xFFFFFFFF#32).updChan (a / 2 ^ 30) fun c => { c with ue := (c.ue + 1) % 2 ^ 32 }).signal 192 4
    [{ ok := ∀ a ∈ ue, a / 2 ^ 30 = ch, s := ue.foldl bad (s.updChan ch fun c => { c with ce := min 65535 (c.ce + ce) }) }]
  | .powerWindow w =>
    let cap := (s.pkg 0x620).toNat % 65536
    let note := fun (s : State) mhz => s.setPkg 0x621 (BitVec.ofNat 32 (w % 65536 * 65536 + mhz))
    -- above the cap the clock falls by 100 MHz to 1,200; then the issue rate halves; below 95% of the cap the clock rises by 100 MHz to 3,600
    [{ ok := cap < w ∧ s.mhz ≠ 1200, s := note { s with mhz := max 1200 (s.mhz - 100) } (max 1200 (s.mhz - 100)) },
     { ok := cap < w ∧ s.mhz = 1200 ∧ s.halfRate = true, s := note s 1200 },
     { ok := cap < w ∧ s.mhz = 1200 ∧ s.halfRate = false, s := (note { s with halfRate := true } 1200).signal 192 7 },
     { ok := w = cap, s := note s s.mhz },
     { ok := w < cap ∧ 95 * cap ≤ 100 * w, s := note { s with halfRate := false } s.mhz },
     { ok := 100 * w < 95 * cap, s := note { s with halfRate := false, mhz := min 3600 (s.mhz + 100) } (min 3600 (s.mhz + 100)) }]
  | .droopStretch cl => [{ ok := True, s := { s.setPkg 0x622 (s.pkg 0x622 + 1#32) with droop := (cl :: s.droop).eraseDups } }]
  | .droopRelease cl => [{ ok := True, s := { s with droop := s.droop.filter fun k => k != cl } }]
  | .flitCrcFail _ => [{ ok := True, s := s }]
  | .portLaneLoss port lanes =>
    [{ ok := port < 16 ∧ lanes ≤ 4
       s := s.setPkg (0x710 + port) ((s.pkg (0x710 + port) &&& 0x8000FF00#32) ||| BitVec.ofNat 32 (lanes * 2 ^ 28)) }]
  | .portUpChange port up lanes peer =>
    let old := s.pkg (0x710 + port)
    let s1 := s.setPkg (0x710 + port) (BitVec.ofNat 32 ((if up then 2 ^ 31 else 0) + lanes * 2 ^ 28 + peer * 2 ^ 8))
    let sig := fun (s : State) => if old.getLsbD 31 = up then s else s.signal 192 6
    let named := port < 16 ∧ lanes ≤ 4 ∧ peer < 256
    [{ ok := named, s := sig s1 }]
  | _ => []

/-! ## Reset, measurement and attestation (R447, R451-R454) -/

/-- The state in which boot begins: every register at its reset value; memory, the poison of other packages' memory, flash and fuses stay, and what
the model counts with. -/
def State.restarted (s : State) : State :=
  { State.reset with mem := s.mem, poison := s.poison.filter fun p => decide (2 ^ 46 ≤ p.1), flash := s.flash, fuseSvn := s.fuseSvn, agenda := s.agenda, stamp := s.stamp, fresh := s.fresh }
/-- MR n := SHA-256(MR n, digest). -/
def State.extended (s : State) (n : Nat) (d : List Byte) : State := { s with mr := s.mr.set n (Config.sha256 (bytesOf256 (s.mr.get n) ++ d)) }
/-- The stages of a copy below `k` are measured in turn, by their headers and by their digests. -/
def State.measured (s : State) (copy k : Nat) : State :=
  ((List.range (k - 1)).map (· + 1)).foldl (fun s n => (s.extended n (bytesOf256 (Config.sha256 (s.flashBytes (stageBase copy n) 64)))).extended n
    (s.flashBytes (stageBase copy n + 0x10) 32)) s
/-- A request with its row's code: the answer, or in recovery ERROR where only a device key or certificate could answer (R451, R454). -/
def spdmTurns (s : State) (code : Nat) (key : Bool) (q : List Byte) : List Turn :=
  let due := (q.getD 1 0#8).toNat = code
  let dead := key = true ∧ (s.pkg 0x600).getLsbD 30 = true
  [{ ok := due ∧ ¬ dead, s := { s with doe := s.doe ++ [Config.spdmReply q ((List.range 8).map s.mr.get)] } },
   { ok := due ∧ dead, s := { s with doe := s.doe ++ [[q.getD 0 0#8, 0x7F#8, 0x07#8, q.getD 1 0#8]] } }]
def hostTurns (s : State) : Instr → List Turn
  | .deviceReset =>
    let s1 := (s.restarted.extended 0 (bytesOf256 Config.romDigest)).extended 0 (bytesOf256 Config.fuseDigest)
    let up := fun (s2 : State) copy fail =>
      let s3 := s2.extended 4 (BitVec.ofNat 8 copy :: List.replicate 31 0#8)
      let h := stageBase copy 1
      let svn := if (s3.flashLE (h + 5) 1).testBit 0 then max s3.fuseSvn (s3.flashLE (h + 8) 4) else s3.fuseSvn
      (({ s3 with fuseSvn := svn } : State).setPkg 0x600 (BitVec.ofNat 32 (2 ^ 31 + 65536 * fail))).signal 192 2
    let good := fun copy => ∀ n ∈ [1, 2, 3], s.stageOk copy n = true
    let stops := fun copy k => s.stageOk copy k = false ∧ ∀ n, 1 ≤ n → n < k → s.stageOk copy n = true
    { ok := good 0, s := up (s1.measured 0 4) 0 0 }
      -- copy A fails at its stage k: copy B; if that fails too, FAIL
      :: [1, 2, 3].flatMap fun k =>
        { ok := stops 0 k ∧ good 1, s := up ((s1.measured 0 k).measured 1 4) 1 k }
          :: [1, 2, 3].map fun n =>
            { ok := stops 0 k ∧ stops 1 n
              s := ((((s1.measured 0 k).measured 1 n).setPkg 0x600 (BitVec.ofNat 32 (2 ^ 30 + 65536 * k))).signal 192 2) }
  | .pfFlr =>
    -- each slice: reset with its channels zeroed; then what of the package is not boot's, measurement's or firmware's
    let one := fun (s : State) sl =>
      let s1 := (if s.resetting sl then s else s.beginReset sl).setSreg sl 0x501 4#32
      (s1.endReset sl).setSreg sl 0x501 (s.sreg sl 0x501 &&& 4#32)
    let s0 := (List.range 192).foldl one s
    let s1 := (if (List.range 16).any fun k => (s0.pkg (0x710 + k)).getLsbD 31 then s0.signal 192 6 else s0).finishExtend
    let zero := [0x608, 0x609, 0x60A, 0x60B, 0x60C, 0x60D, 0x60E, 0x60F, 0x618, 0x621, 0x622, 0x705] ++ (List.range 16).map (0x710 + ·) ++ [0x610]
    -- ports that were up go down (R448)
    let s2 := zero.foldl (fun (s : State) n => s.setPkg n 0#32) s1
    let s3 := s2.setPkg 0x701 (s2.pkg 0x701 &&& 0x7FFFFFFF#32)
    [{ ok := True
       s := { s3 with requests := [], chans := s3.chans.foldl (fun (m : SMap ChanSt) (p : Nat × ChanSt) => m.set p.1 { p.2 with failed := false, ce := 0, ue := 0 }) [] } }]
  | .mrExtend ix =>
    let s1 := s.finishExtend
    [{ ok := ix.toNat < 5, s := s1.setPkg 0x610 0x40000000#32 },
     { ok := 5 ≤ ix.toNat, s := { s1.setPkg 0x610 0x80000000#32 with extend := some ix.toNat } }]
  | .mrExtendDone => match s.extend with
    | some n =>
      let s1 := s.extended n ((List.range 8).flatMap fun k => leBytes (s.pkg (0x608 + k)).toNat 4)
      [{ ok := True, s := { s1.setPkg 0x610 (s1.pkg 0x610 &&& 0x7FFFFFFF#32) with extend := none } }]
    | none => []
  | .getVersion q => spdmTurns s 0x84 false q
  | .getCapabilities q => spdmTurns s 0xE1 false q
  | .negotiateAlgorithms q => spdmTurns s 0xE3 false q
  | .getDigests q => spdmTurns s 0x81 true q
  | .getCertificate q => spdmTurns s 0x82 true q
  | .challenge q => spdmTurns s 0x83 true q
  | .getMeasurements bs =>
    let r := (bs.filter fun b => decide (1 ≤ b) && decide (b ≤ 8)).flatMap fun b => Config.blockHeader b ++ bytesOf256 (s.mr.get (b - 1))
    [{ ok := True, s := { s with doe := s.doe ++ [Config.measureHead bs r.length ++ r ++ Config.measureTail (s.mr.get 1) r] } }]
  | .unsupportedRequest q => [{ ok := (q.getD 1 0#8).toNat ∉ [0x81, 0x82, 0x83, 0x84, 0xE0, 0xE1, 0xE3], s := { s with doe := s.doe ++ [[q.getD 0 0#8, 0x7F#8, 0x07#8, q.getD 1 0#8]] } }]
  | _ => []

/-! ## Requests of other packages and lost ones (R460-R466) -/

/-- The request finds some entry of the export table that admits it. -/
def Admitted (s : State) (r : Request) : Prop :=
  ∃ k < min 4096 (s.pkg 0x704).toNat, ∃ e,
    s.vread (devSpace 192 0 0) ((s.pkg 0x702).toNat + 2 ^ 32 * (s.pkg 0x703).toNat + 32 * k) 32 = .ok e ∧ s.exportAdmits r (reqNeed r.kind) e = true
def fabricTurns (s : State) : Instr → List Turn
  | .remoteRequest id => match s.requests.find? fun r => r.id == id with
    | some r =>
      let dom := 2 ^ 51 + (s.pkg 0x700).toNat % 256 * 2 ^ 40 + r.addr
      let due := (s.pkg 0x701).getLsbD 31 = true ∧ r.addr % 256 = 0
      let free := due ∧ r.adm = true ∧ s.reqReset r = false ∧ s.chanHeld [r.addr] = false
      let moved := ∃ f ∈ s.fwd, f.1 ≤ dom ∧ dom < f.1 + f.2.1
      let guarded := r.kind = .load ∨ r.tag = guardTag (if r.kind = .copied then r.ver else 0) dom r.mask r.data
      -- refused; sent back, since a frozen slice's memory moves; dropped with its bytes poisoned; performed
      [{ ok := due ∧ r.adm = false, s := s.reply r 1 0 0 },
       { ok := free ∧ s.reqFrozen r = true ∧ moved, s := s.reply r 2 0 0 },
       { ok := free ∧ s.reqFrozen r = false ∧ ¬ guarded
         s := { (s.countDom true).blockPoison (farAgent r.pkg r.slice) r.addr r.mask with requests := s.requests.filter fun k => k.id != r.id } },
       { ok := free ∧ s.reqFrozen r = false ∧ guarded, s := s.performReq r }]
    | none => []
  | .remoteTimeout key =>
    let id := keyId key
    let part := keyPart key
    let lost := s.countDom false
    -- a page that an owner is asked for, whoever asks; else a part of an operation
    { ok := s.pageAsked id part = true, s := { lost with verdicts := s.verdicts.set (partKey id part) 3 } } :: match s.op? id with
      | some o => match s.team? o.team with
        | some x =>
          let due := s.pageAsked id part = false
          match o.kind with
          | .load .. | .store | .atomic .. => match o.items.find? fun it => it.lane == part && s.itemRemote x o it with
            | some it =>
              let s1 := lost.loseItem x o it
              let o' := { o with items := o.items.filter fun k => k.lane != part }
              [{ ok := due, s := if o'.items = [] then s1.endOp o' else s1.setOp o' }]
            | none => []
          | .coll .. => match s.contribs.find? fun c => c.op == some id && !c.done with
            | some c =>
              let here := ∃ k ∈ s.contribs, k.members = c.members ∧ k.group = c.group ∧ k.seq = c.seq ∧ k.rank = part
              [{ ok := due ∧ part < c.members.length ∧ ¬ here
                 s := { lost with contribs := lost.contribs ++ [{ members := c.members, group := c.group, seq := c.seq, rank := part, form := c.form, lost := true }] } }]
            | none => []
          | .copy dst src len bar done dpg spg =>
            let left := fun (k : Nat) => !done.any fun d => decide (d.1 ≤ k) && decide (k < d.1 + d.2)
            -- the remote bytes of the destination's block that are not written yet
            let block := fun dpg spg => (blockRange dst len part).filter fun k => (rangeByte dst dpg k || rangeByte src spg k) && left k
            { ok := due ∧ o.chk = true ∧ block dpg spg ≠ [], s := lost.loseCopy x o dst src len bar done dpg spg (block dpg spg) }
            :: match (if dst.spc = .glob then s.xlatPages x needW dst.base (pageCount dst.base len) else .ok dpg),
                (if src.spc = .glob then s.xlatPages x needR src.base (pageCount src.base len) else .ok spg) with
              | .ok dpg, .ok spg =>
                -- before the check: with the block, every byte on its pages whose owners have not answered
                let pageOf := fun (r : Range) (pg : List Nat) (k : Nat) =>
                  if rangeByte r pg k = true ∧ s.verdict id ((r.base + k) / 2 ^ 14) = none then [(r.base + k) / 2 ^ 14] else ([] : List Nat)
                let asked := fun k => pageOf dst dpg k ++ pageOf src spg k
                let ps := ((block dpg spg).flatMap asked).eraseDups
                let ks := (List.range len).filter fun k => left k && (asked k).any ps.contains
                [{ ok := due ∧ o.chk = false ∧ block dpg spg ≠ [] ∧ ps = [], s := lost.loseCopy x o dst src len bar done dpg spg (block dpg spg) },
                 { ok := due ∧ o.chk = false ∧ ps ≠ [], s := (lost.unaskPages id ps).loseCopy x o dst src len bar done dpg spg ks }]
              | _, _ => []
          | .drain kind fw _ _ base pitch pgs =>
            let blocks := blocksOf (drainBlocks kind (drainDB kind fw) base pitch)
            let named := due ∧ part ∉ o.lost ∧ part ∈ blocks
            [{ ok := named ∧ o.chk = true ∧ ∃ p ∈ pgs, p.1 = part / 64 ∧ isRemote p.2 = true, s := lost.setOp { o with lost := part :: o.lost } },
             { ok := named ∧ o.chk = false ∧ s.pageWaits x needW id (part / 64) = true
               s := (lost.unaskPages id [part / 64]).setOp { o with lost := (blocks.filter fun b => b / 64 == part / 64) ++ o.lost } }]
          | _ => []
        | none => []
      | none => []
  | _ => []

/-! ## Writes from outside (R83, R146, R149, R216, R324, R420, R421, R445, R473) -/

/-- The bits of a word at and above `lo`, `n` of them. -/
def fieldOf (v : Word) (lo n : Nat) : Word := v &&& BitVec.ofNat 32 ((2 ^ n - 1) * 2 ^ lo)
/-- The registers of a slice on a die that take writes (R409, R421). -/
def dieRegs : List Nat := [0x308, 0x30A, 0x30B, 0x401, 0x402, 0x403, 0x404, 0x405, 0x420, 0x421, 0x422, 0x424]
/-- The fields that a write sets, as the tables of R324, R409, R421, R429, R445 and R473 give them: highest and lowest bit. PIN_QUOTA, CL_REORDER, CL_WAYS,
SLICE_CTL, CMD_CTL, CMD_TAIL, MR_DATA, MR_EXTEND, MEM_SEL, MEM_STAT, PWR_CAP, DOM_CTL and DOM_EXPCNT are written as their own rules say. -/
def rwFields (n : Nat) (priv : Bool) : List (Nat × Nat) :=
  match n, priv with
  | 0x200, true => [(31, 31), (23, 16), (15, 0)]
  | 0x308, true | 0x424, true => [(31, 0)]
  | 0x30A, _ => [(31, 6)]
  | 0x30B, _ => [(25, 0)]
  | 0x401, true => [(31, 4)]
  | 0x402, true | 0x405, true => [(19, 0)]
  | 0x403, true => [(16, 0)]
  | 0x404, true | 0x504, _ => [(31, 8)]
  | 0x410, true => [(31, 12)]
  | 0x411, true | 0x421, true | 0x511, true | 0x703, true => [(25, 0)]
  | 0x420, true | 0x510, true => [(31, 6)]
  | 0x422, true => [(3, 0)]
  | 0x505, _ => [(19, 0)]
  | 0x700, true => [(7, 0)]
  | 0x702, true => [(31, 5)]
  | _, _ => []
/-- The register after a write: the fields written take the bits of the value, all others stay (R9). -/
def written (n : Nat) (priv : Bool) (old v : Word) : Word :=
  maskOf fun j => if (rwFields n priv).any fun f => decide (f.2 ≤ j) && decide (j ≤ f.1) then v.getLsbD j else old.getLsbD j
/-- A write of PIN_QUOTA. -/
def pinQuotaWriteTurns (s : State) (sl : Nat) (cl : Nat) (v : Word) : List Turn :=
  [{ ok := (s.cluReg sl cl 0x121).toNat < 2 ^ 16
     s := s.setCluReg sl cl 0x121 (BitVec.ofNat 32 (min (v.toNat % 65536) (4096 * (popcN 16 (s.cluReg sl cl 0x203).toNat - 1)))) }]
/-- A write of CL_REORDER. -/
def clReorderWriteTurns (s : State) (sl : Nat) (cl : Nat) (v : Word) : List Turn :=
  let others := (((List.range 193).filter fun k => k != sl).map fun k => (s.cluReg k cl 0x202).toNat).sum
  [{ ok := (s.cluReg sl cl 0x202).toNat < 2 ^ 11, s := s.setCluReg sl cl 0x202 (BitVec.ofNat 32 (min (v.toNat % 2048) (1024 - others))) }]
/-- A write of CL_WAYS. -/
def clWaysWriteTurns (s : State) (sl : Nat) (cl : Nat) (v : Word) : List Turn :=
  let old := s.cluReg sl cl 0x203
  let gone := old &&& ~~~fieldOf v 0 16 ≠ 0#32
  let pinned := popcN 16 (old &&& fieldOf v 0 16).toNat < s.pinDepth sl cl
  -- at least 2 ways where the slice holds a pair, and 16 in all (R427)
  let n := popcN 16 (fieldOf v 0 16).toNat
  let others := (((List.range 193).filter fun k => k != sl).map fun k => popcN 16 (s.cluReg k cl 0x203).toNat).sum
  let allowed := (2 ≤ n ∨ ∀ p ∈ (s.slices.get sl).pairs, p / 4 ≠ cl) ∧ n + others ≤ 16
  [{ ok := old.toNat < 2 ^ 16 ∧ (¬ allowed ∨ gone ∧ pinned), s := s },
   { ok := old.toNat < 2 ^ 16 ∧ allowed ∧ ¬ (gone ∧ pinned), s := s.setCluReg sl cl 0x203 (fieldOf v 0 16) }]
/-- A write of FR_HEAD. -/
def frHeadWriteTurns (s : State) (sl : Nat) (die : Nat) (v : Word) : List Turn :=
  let head := s.sdReg sl die 0x424
  let beyond := (s.sdReg sl die 0x423 - head).toNat < (v - head).toNat
  [{ ok := beyond, s := s }, { ok := ¬ beyond, s := s.setSdReg sl die 0x424 v }]
/-- A write of FR_BASE. -/
def frBaseWriteTurns (s : State) (sl : Nat) (die : Nat) (hi : Bool) (v : Word) : List Turn :=
  [{ ok := hi = false ∧ (s.sdReg sl die 0x420).toNat % 64 = 0, s := s.setSdReg sl die 0x420 (fieldOf v 6 26) },
   { ok := hi = true ∧ (s.sdReg sl die 0x421).toNat < 2 ^ 26, s := s.setSdReg sl die 0x421 (fieldOf v 0 26) }]
/-- A write of MEM_STAT. -/
def memStatClearTurns (s : State) (v : Word) : List Turn :=
  [{ ok := True, s := s.updChan (s.pkg 0x618).toNat fun c => { c with ce := (BitVec.ofNat 32 c.ce &&& ~~~v).toNat } }]
/-- A write of PWR_CAP. -/
def pwrCapWriteTurns (s : State) (v : Word) : List Turn :=
  let w := v.toNat % 65536
  [{ ok := (s.pkg 0x620).toNat < 65536, s := s.setPkg 0x620 (BitVec.ofNat 32 (if w < 300 then 300 else if 1800 < w then 1800 else w)) }]
/-- A write of DOM_CTL. -/
def domCtlWriteTurns (s : State) (v : Word) : List Turn :=
  let w := v &&& 0x8000FFFF#32
  [{ ok := s.pkg 0x701 &&& 0x7FFF0000#32 = 0#32, s := s.setPkg 0x701 (if fieldOf v 0 16 = 0#32 then w ||| 1#32 else w) }]
/-- A write of DOM_EXPCNT. -/
def domExpcntWriteTurns (s : State) (v : Word) : List Turn :=
  [{ ok := (s.pkg 0x704).toNat < 2 ^ 13, s := s.setPkg 0x704 (BitVec.ofNat 32 (min (v.toNat % 2 ^ 13) 4096)) }]
/-- A write of MEM_SEL. -/
def memSelWriteTurns (s : State) (v : Word) : List Turn :=
  [{ ok := (s.pkg 0x618).toNat < 2 ^ 8, s := s.setPkg 0x618 (BitVec.ofNat 32 (min (v.toNat % 2 ^ 8) 191)) }]
/-- A write of SLICE_CTL: SCRUB, then FREEZE where it changes (R444), then RESET, which a reset in progress ignores (R442). -/
def sliceCtlWritten (s : State) (sl : Nat) (v : Word) : State :=
  let a := s.setSreg sl 0x501 ((s.sreg sl 0x501 &&& 0xFFFFFFFB#32) ||| (v &&& 4#32))
  let b := match (s.sreg sl 0x501).getLsbD 1, v.getLsbD 1 with
    | false, true => a.freeze sl
    | true, false => a.thaw sl
    | _, _ => a
  if v.getLsbD 0 = true ∧ (b.sreg sl 0x502).getLsbD 1 = false then b.beginReset sl else b
/-- Rows that write one register of a slice or of the package. -/
def rowTurns (s : State) : Instr → List Turn
  | .pinQuotaWrite sl cl v => pinQuotaWriteTurns s sl cl v
  | .clReorderWrite sl cl v => clReorderWriteTurns s sl cl v
  | .clWaysWrite sl cl v => clWaysWriteTurns s sl cl v
  | .frHeadWrite sl die v => frHeadWriteTurns s sl die v
  | .frBaseWrite sl die hi v => frBaseWriteTurns s sl die hi v
  | .memStatClear v => memStatClearTurns s v
  | .domExpcntWrite v => domExpcntWriteTurns s v
  | .memSelWrite v => memSelWriteTurns s v
  | .pwrCapWrite v => pwrCapWriteTurns s v
  | .domCtlWrite v => domCtlWriteTurns s v
  | _ => []
/-- A register with a row of its own is written in its place as that row writes it. -/
def sameAs (b : Bool) (l : List Turn) : List Turn := if b then l else []
/-- A write of register n of a place (R429). -/
def placeTurns (s : State) (priv : Bool) (n : BitVec 12) (v : Word) : RegPlace → List Turn
  | .slice sl =>
    [{ ok := n = 0x506#12 ∧ v.getLsbD 31 = true, s := (s.setSreg sl 0x506 (v &&& 0x8000001F#32)).setSreg sl 0x508 0#32 },
     { ok := n = 0x506#12 ∧ v.getLsbD 31 = false, s := s.setSreg sl 0x506 (v &&& 0x8000001F#32) },
     { ok := n = 0x507#12, s := { s.setSreg sl 0x507 v with ringDue := (sl :: s.ringDue).eraseDups } },
     { ok := n = 0x501#12 ∧ priv = false, s := s }, { ok := n = 0x501#12 ∧ priv = true, s := sliceCtlWritten s sl v },
     -- a number that names no register of the slice
     { ok := sliceNumber sl n.toNat = false, s := s },
     { ok := n.toNat ∉ [0x501, 0x506, 0x507] ∧ sliceNumber sl n.toNat = true
       s := s.setSreg sl n.toNat (written n.toNat priv (s.sreg sl n.toNat) v) }]
  | .sliceDie sl die =>
    { ok := n.toNat ∉ dieRegs, s := s }
      :: { ok := n.toNat ∈ dieRegs ∧ n ≠ 0x424#12, s := s.setSdReg sl die n.toNat (written n.toNat priv (s.sdReg sl die n.toNat) v) }
      :: sameAs (priv && n == 0x424#12) (frHeadWriteTurns s sl die v)
  | .sliceCluster sl cl =>
    [{ ok := priv = false, s := s },
     { ok := priv = true ∧ n.toNat ∉ [0x121, 0x200, 0x202, 0x203], s := s },
     { ok := priv = true ∧ n = 0x200#12, s := s.setCluReg sl cl 0x200 (written 0x200 true (s.cluReg sl cl 0x200) v) }]
    ++ sameAs (priv && n == 0x121#12) (pinQuotaWriteTurns s sl cl v) ++ sameAs (priv && n == 0x202#12) (clReorderWriteTurns s sl cl v)
    ++ sameAs (priv && n == 0x203#12) (clWaysWriteTurns s sl cl v)
  | .package =>
    [{ ok := priv = false, s := s },
     { ok := priv = true ∧ 0x608 ≤ n.toNat ∧ n.toNat ≤ 0x60F ∧ s.extend = none, s := s.setPkg n.toNat v },
     { ok := priv = true ∧ 0x608 ≤ n.toNat ∧ n.toNat ≤ 0x60F ∧ s.extend ≠ none, s := s },
     { ok := priv = true ∧ (n.toNat < 0x608 ∨ 0x60F < n.toNat) ∧ n.toNat ∉ [0x610, 0x618, 0x619, 0x620, 0x700, 0x701, 0x702, 0x703, 0x704], s := s },
     { ok := priv = true ∧ n.toNat ∈ [0x700, 0x702, 0x703]
       s := s.setPkg n.toNat (written n.toNat true (s.pkg n.toNat) v) },
     { ok := priv = true ∧ n = 0x610#12 ∧ v.toNat % 8 < 5, s := s.finishExtend.setPkg 0x610 0x40000000#32 },
     { ok := priv = true ∧ n = 0x610#12 ∧ 5 ≤ v.toNat % 8, s := { s.finishExtend.setPkg 0x610 0x80000000#32 with extend := some (v.toNat % 8) } }]
    ++ sameAs (priv && n == 0x618#12) (memSelWriteTurns s v) ++ sameAs (priv && n == 0x619#12) (memStatClearTurns s v)
    ++ sameAs (priv && n == 0x620#12) (pwrCapWriteTurns s v) ++ sameAs (priv && n == 0x701#12) (domCtlWriteTurns s v)
    ++ sameAs (priv && n == 0x704#12) (domExpcntWriteTurns s v)
def writeTurns (s : State) : Instr → List Turn
  | .registerWrite p priv n v => placeTurns s priv n v p
  | i => rowTurns s i

/-- A row in which the issuing path writes its own registers: the path, its lanes, and whether R75 stops it. -/
def ownTurns (s : State) : Instr → List Turn
  | i =>
    match ctxOf s { gp := 15#4, gn := false, fin := false, yld := false, rua := false, rub := false, stall := 0#3 } with
    | none => []
    | some x =>
      let whole := subMask (x.g0.live x.cur.rc) x.e = true
      let part : Turn :=
        { ok := ¬ whole, s := s.park x.cur.team x.cur.grp x.cur.rc x.e { cls := 4, pc := x.cur.pc, off := x.cur.pos } }
      let put := fun r => x.withGroup (x.g.setRec x.cur.rc r)
      match i with
      | .fmtWrite n v =>
        let e := v.toNat % 16
        let m := v.toNat / 16 % 16
        [part, { ok := whole
                 s := put { x.st with fmt := x.st.fmt.set n.toNat (BitVec.ofNat 32 (v.toNat % 2 ^ 10 + v.toNat / 2 ^ 16 % 256 * 2 ^ 16 + (1 + e + m) * 2 ^ 24
                        + (if fmtValid e m (v.toNat / 2 ^ 8 % 4) = true then 2 ^ 31 else 0))) } }]
      | .fpCtlWrite v => [part, { ok := whole ∧ x.st.fpCtl.toNat < 32, s := put { x.st with fpCtl := fieldOf v 0 5 } }]
      | .fpStatusClear v => [{ ok := True, s := x.withGroup { x.g with fpStatus := (x.g.fpStatus &&& ~~~v) ||| x.g.fpRaised } }]
      | .frTailRead d =>
        let s1 := (x.s.flushTeam x.cur.team x.cur.grp).adopt x.cur.team x.cur.grp .slc (x.s.sliceDieOf x.tm.slice x.tm.die).frPubs
        -- its fields have no U-view (R28, R421)
        [{ ok := x.tm.priv = false, s := s.park x.cur.team x.cur.grp x.cur.rc x.cur.m { cls := 2, pc := x.cur.pc, off := x.cur.pos } },
         { part with ok := x.tm.priv = true ∧ ¬ whole },
         { ok := x.tm.priv = true ∧ whole
           s := s1.updGroup x.cur.team x.cur.grp fun g => g.setRec x.cur.rc (putS x.st 1 d ((x.sr.sliceDie.get (4 * x.tm.slice + x.tm.die)).reg.get 0x423).toNat) }]
      | _ => []

end Sys2Proof.Machine
end

