-- ==== Sys2Proof/Safety/Registers.lean ====
section
/-!
DEFINITION. What `getsr` reads and what `setsr` leaves, register by register, field by field (spec/03 R83-R90, spec/06 R146, spec/08 R216,
spec/10 R290, spec/12 R324, spec/16 R408, R409, spec/17 R421, spec/18 R429, spec/19 R445, spec/20 R473).
-/
namespace Sys2Proof.Machine

/-! ## Reads -/

/-- A field of a register: its highest and lowest bit, whether the P-view alone reads it, and its value. -/
structure RegField where
  hi : Nat
  lo : Nat
  privOnly : Bool := false
  val : Nat
/-- A read puts together the fields that its view shows; all other bits read 0 (R9, R408). -/
def readWord (priv : Bool) (fs : List RegField) : Word :=
  maskOf fun j => fs.any fun f => decide (f.lo ≤ j) && decide (j ≤ f.hi) && (priv || !f.privOnly) && f.val.testBit (j - f.lo)
/-- A register of one field. -/
def whole (v : Nat) : List RegField := [{ hi := 31, lo := 0, val := v }]
/-- Fields of a register that holds them where they are read. -/
def fieldsOf (privOnly : Bool) (v : Word) (bs : List (Nat × Nat)) : List RegField :=
  bs.map fun b => { hi := b.1, lo := b.2, privOnly, val := v.toNat / 2 ^ b.2 }

/-- The group's registers (R87-R90, R146). -/
def groupFields (x : Ctx) (n : Nat) : List RegField :=
  let g := x.g0
  let r := g.getRec x.cur.rc
  let lanes := fun (p : Lane → Bool) => whole (maskOf fun l => p (g.lane l)).toNat
  let parked := fun (y : Lane) => match g.recs.find? y.rc with | some r => r.mode != .main | none => false
  match n with
  | 0x000 => [{ hi := 21, lo := 16, privOnly := true, val := g.slot }, { hi := 15, lo := 14, privOnly := true, val := g.sched },
              { hi := 9, lo := 8, val := g.role }, { hi := 3, lo := 0, val := x.cur.grp }]
  | 0x001 => whole x.tm.idx
  | 0x002 => whole x.tm.count
  | 0x004 => lanes fun y => y.st != .exited && y.rc == x.cur.rc
  | 0x005 => whole x.cur.m.toNat
  | 0x006 => lanes fun y => y.st == .exited
  | 0x007 => lanes fun y => y.st != .exited && parked y
  | 0x008 => (List.range 12).map fun k => { hi := k, lo := k, val := if g.flags.get k = 0 then 0 else 1 }
  | 0x00C => [{ hi := 24, lo := 16, val := g.vmax }, { hi := 8, lo := 0, val := g.vcur }]
  | 0x00D => [{ hi := 14, lo := 8, val := x.tm.aregs }, { hi := 7, lo := 0, val := x.tm.sregs }]
  | 0x010 | 0x011 | 0x012 | 0x013 => fieldsOf false (r.getFmt (n - 0x010)) [(31, 31), (28, 24), (23, 16), (9, 8), (7, 4), (3, 0)]
  -- PARK_INFO and PARK_PC read 0 in the main state
  | 0x020 => if r.mode = .main then [] else
      [{ hi := 31, lo := 27, val := r.off }, { hi := 26, lo := 21, val := r.skid }, { hi := 20, lo := 16, val := r.cls }, { hi := 15, lo := 0, val := r.code.toNat }]
  | 0x021 => if r.mode = .main then [] else whole r.pc.toNat
  | 0x022 => if r.mode = .main then [] else [{ hi := 25, lo := 0, val := r.pc.toNat / 2 ^ 32 }]
  | 0x100 => fieldsOf false r.fpCtl [(4, 0)]
  | 0x101 => fieldsOf false g.fpStatus [(4, 0)]
  | 0x410 => fieldsOf true (r.dbgImg.setWidth 32) [(31, 12)]
  | 0x411 => [{ hi := 25, lo := 0, privOnly := true, val := r.dbgImg.toNat / 2 ^ 32 }]
  | 0x412 => fieldsOf true r.dbgStat [(2, 0)]
  | _ => []
/-- The core's, the team's and the die counter's registers (R216, R290, R409, R421). -/
def teamFields (x : Ctx) (n : Nat) : List RegField :=
  let ticks := x.s.dieCount x.tm.die
  match n with
  | 0x120 => [{ hi := 9, lo := 8, privOnly := true, val := x.tm.die }, { hi := 7, lo := 4, privOnly := true, val := x.tm.cluster },
              { hi := 2, lo := 0, privOnly := true, val := x.tm.core }]
  -- the lines that the slice has pinned on the cluster
  | 0x122 => [{ hi := 15, lo := 0, val := x.s.pinned.countP fun k => k / 2 ^ 48 == x.tm.slice * 2 ^ 8 + x.tm.cluIx }]
  | 0x128 => let v := (x.s.coreReg.get x.tm.coreId).get 0x128
             fieldsOf true v [(10, 8)] ++ fieldsOf false v [(1, 1), (0, 0)]
  | 0x300 => whole ticks
  | 0x301 => whole (ticks / 2 ^ 32)
  | 0x302 => whole x.sr.deadline.toNat
  | 0x303 => whole (x.sr.deadline.toNat / 2 ^ 32)
  | 0x304 => [{ hi := 31, lo := 31, val := if x.tm.priv then 1 else 0 }, { hi := 13, lo := 12, val := x.tm.cls }, { hi := 11, lo := 0, val := x.tm.qid }]
  | 0x400 => [{ hi := 15, lo := 0, val := x.tm.asid }]
  | _ => []
/-- The registers of the team's slice, by cluster and by die, as they stand before the cycle (R216, R324, R408, R409, R421, R429). -/
def sliceFields (x : Ctx) (n : Nat) : List RegField :=
  let clu := (x.sr.sliceClu.get (64 * x.tm.slice + x.tm.cluIx)).get n
  let die := (x.sr.sliceDie.get (4 * x.tm.slice + x.tm.die)).reg.get n
  let sl := (x.sr.sliceReg.get x.tm.slice).get n
  match n with
  | 0x121 | 0x203 => fieldsOf false clu [(15, 0)]
  | 0x200 => fieldsOf false clu [(31, 31), (23, 16), (15, 0)]
  -- entries in transit count with their sender (R323)
  | 0x201 => [{ hi := 15, lo := 0, val := (x.s.lists.get (64 * x.tm.slice + x.tm.cluIx)).length
                  + x.s.transit.countP fun e => e.slice == x.tm.slice && e.src == x.tm.cluIx }]
  | 0x202 => fieldsOf false clu [(10, 0)]
  | 0x308 => fieldsOf false die [(31, 0)]
  | 0x30A => fieldsOf false die [(31, 6)]
  | 0x30B => fieldsOf false die [(25, 0)]
  | 0x30C => fieldsOf false die [(23, 16), (15, 0)]
  | 0x401 => fieldsOf true die [(31, 4)]
  | 0x402 | 0x405 => fieldsOf true die [(19, 0)]
  | 0x403 => fieldsOf true die [(16, 0)]
  | 0x404 => fieldsOf true die [(31, 8)]
  | 0x420 => fieldsOf true die [(31, 6)]
  | 0x421 => fieldsOf true die [(25, 0)]
  | 0x422 => fieldsOf true die [(3, 0)]
  | 0x423 | 0x424 => fieldsOf true die [(31, 0)]
  | 0x500 => [{ hi := 7, lo := 0, val := x.tm.slice }]
  -- RESET is write-only
  | 0x501 => fieldsOf true sl [(2, 2), (1, 1)]
  | 0x502 => fieldsOf false sl [(31, 16), (2, 2), (1, 1), (0, 0)]
  | 0x504 => fieldsOf false sl [(31, 8)]
  | 0x505 => fieldsOf false sl [(19, 0)]
  | 0x506 => fieldsOf false sl [(31, 31), (4, 0)]
  | 0x507 | 0x508 | 0x50C | 0x50D | 0x50E | 0x50F => fieldsOf false sl [(31, 0)]
  | 0x509 => fieldsOf false sl [(31, 16), (15, 0)]
  -- PQT is the physical function's alone
  | 0x510 => if x.tm.slice = 192 then fieldsOf true sl [(31, 6)] else []
  | 0x511 => if x.tm.slice = 192 then fieldsOf true sl [(25, 0)] else []
  | _ => []
/-- The package's registers, as they stand before the cycle; MR_DATA and INDEX are write-only (R445, R473). -/
def packageFields (x : Ctx) (n : Nat) : List RegField :=
  let v := x.sr.pkgReg.get n
  let ch := x.sr.chans.get ((x.sr.pkgReg.get 0x618).toNat % 256)
  match n with
  | 0x600 => { hi := 15, lo := 0, privOnly := true, val := x.s.fuseSvn } :: fieldsOf true v [(31, 31), (30, 30), (23, 16)]
  | 0x610 => fieldsOf true v [(31, 31), (30, 30)]
  | 0x618 => fieldsOf true v [(7, 0)]
  | 0x619 => [{ hi := 31, lo := 31, privOnly := true, val := if ch.failed then 1 else 0 }, { hi := 15, lo := 0, privOnly := true, val := ch.ce }]
  | 0x61A => [{ hi := 31, lo := 0, privOnly := true, val := ch.ue }]
  | 0x620 => fieldsOf true v [(15, 0)]
  | 0x621 => fieldsOf true v [(31, 16), (15, 0)]
  | 0x622 => fieldsOf true v [(31, 0)]
  | 0x700 => fieldsOf false v [(7, 0)]
  | 0x701 => fieldsOf true v [(31, 31), (15, 0)]
  | 0x702 => fieldsOf true v [(31, 5)]
  | 0x703 => fieldsOf true v [(25, 0)]
  | 0x704 => fieldsOf true v [(12, 0)]
  | 0x705 => fieldsOf true v [(31, 16), (15, 0)]
  | n => if 0x710 ≤ n ∧ n ≤ 0x71F then fieldsOf true v [(31, 31), (30, 28), (15, 8)] else []
/-- The value that `getsr` reads from register n. -/
def readRule (x : Ctx) (n : Nat) : Word :=
  readWord x.tm.priv (groupFields x n ++ teamFields x n ++ sliceFields x n ++ packageFields x n)

/-! ## Writes -/

/-- Where a register that is no state's own lies, for the issuing team. -/
def placeOf (x : Ctx) (n : Nat) : Option RegPlace :=
  if n ∈ [0x121, 0x200, 0x202, 0x203] then some (.sliceCluster x.tm.slice x.tm.cluIx)
  else if n ∈ dieRegs then some (.sliceDie x.tm.slice x.tm.die)
  else if 0x500 ≤ n ∧ n < 0x600 then some (.slice x.tm.slice)
  else if 0x600 ≤ n then some .package
  else none
/-- What a write of a special register leaves: in the issuing state's record (R83, R146, R421), or in the register of the cluster, die, slice or package, as
R216, R324, R409, R421, R429, R445 and R473 have it take the value. A register that is read-only keeps its value. FP_STATUS has its own statement. -/
def setsrWorks (x : Ctx) (n : BitVec 12) (v : Word) : List Work :=
  let mine := fun (f : StRec → StRec) => [({ ok := True, eff := { r := f }, s := x.s } : Work)]
  let k := n.toNat
  if 0x010 ≤ k ∧ k ≤ 0x013 then
    -- VALID and EW are computed anew
    let e := v.toNat % 16
    let m := v.toNat / 2 ^ 4 % 16
    mine fun r => { r with fmt := r.fmt.set (k - 0x010) (BitVec.ofNat 32 (v.toNat % 2 ^ 10 + v.toNat / 2 ^ 16 % 256 * 2 ^ 16 + (1 + e + m) * 2 ^ 24
      + (if fmtValid e m (v.toNat / 2 ^ 8 % 4) = true then 2 ^ 31 else 0))) }
  else if k = 0x100 then mine fun r => { r with fpCtl := (r.fpCtl &&& 0xFFFFFFE0#32) ||| (v &&& 0x1F#32) }
  else if k = 0x101 then []
  else if k = 0x410 then mine fun r => { r with dbgImg := (r.dbgImg &&& 0xFFFFFFFF00000000#64) ||| (v &&& 0xFFFFF000#32).setWidth 64 }
  else if k = 0x411 then mine fun r => { r with dbgImg := (r.dbgImg &&& 0xFFFFFFFF#64) ||| ((v &&& 0x3FFFFFF#32).setWidth 64 <<< 32) }
  else match placeOf x k with
    | some p => (placeTurns x.s x.tm.priv n v p).map fun r => { ok := r.ok ∧ r.s.group? x.cur.team x.cur.grp = some x.g, s := r.s }
    | none => [{ ok := True, s := x.s }]

/-! ## The instructions -/

/-- `getsr` writes the value in D; FR_TAIL is also an adopt at `.slc` joined to the records' publications (R420). -/
def srWorks (x : Ctx) : Instr → List Work
  | .getsr _ d n =>
    [{ ok := True, eff := { u := some (1, d, (readRule x n.toNat).toNat) }
       s := if n = 0x423#12 then
           x.synced.adopt x.cur.team x.cur.grp .slc (x.s.sliceDieOf x.tm.slice x.tm.die).frPubs
         else x.s }]
  | .setsr _ n a => setsrWorks x n (BitVec.ofNat 32 (x.rdU 1 .zx a))
  | _ => []

end Sys2Proof.Machine
end

