-- ==== Sys2Proof/Safety/Units.lean ====
section
/-!
DEFINITION. What the rules say of the results of the binner, the depth-stencil unit, the blender, the texture filter and the ray traversal
unit (spec/13 R331-R364, spec/14 R368-R376), in the rules' own terms.
-/
namespace Sys2Proof.Machine

/-! ## The binner (R331-R333) -/

/-- R332, along one axis: the bin's 32 pixels meet the box from `lo` to `hi`. -/
def spans (lo hi org : Int) (b : Nat) : Prop := lo - 256 * org < 8192 * ((b : Int) + 1) ∧ 8192 * (b : Int) ≤ hi - 256 * org
/-- R331: what culls a primitive of good indices. -/
def cullsPrim (c : Call) (p : Pool) (a b d : Vtx) : Prop :=
  (∃ v ∈ [a, b, d], ¬ (-2 ^ 23 ≤ v.x ∧ v.x < 2 ^ 23 ∧ -2 ^ 23 ≤ v.y ∧ v.y < 2 ^ 23)) ∨ triArea a b d = 0
  ∨ (c.fld 36 4 / 4 % 4 = 1 ∧ triArea a b d < 0) ∨ (c.fld 36 4 / 4 % 4 = 2 ∧ 0 < triArea a b d) ∨ p.bins [a, b, d] = []
/-- R333: entry u of chunk k is (PRIM, TOKEN, PREV), USED is u + 1, and the bin entry is (HEAD, TAIL, COUNT + 1, LASTTOK, HASLAST). -/
def BinRun.entry (r : BinRun) (c : Call) (p : Pool) (i b e head k u : Nat) (s : State) : State :=
  let prev := if recFld e 14 2 % 2 = 1 then recFld e 12 2 else r.token
  let flags := if recFld e 14 2 % 2 = 1 then recFld e 14 2 else recFld e 14 2 + 1
  let s := s.cwrite c (p.chunkBase + 256 * k + 8 + 8 * u) (i + 2 ^ 32 * r.token + 2 ^ 48 * prev) 8
  let s := s.cwrite c (p.chunkBase + 256 * k + 4) (u + 1) 4
  s.cwrite c (p.bintab + 16 * b) (head + 2 ^ 32 * k + 2 ^ 64 * ((recFld e 8 4 + 1) % 2 ^ 32) + 2 ^ 96 * r.token + 2 ^ 112 * flags) 16
structure BinnerRules : Prop where
  /-- a primitive enters every bin of its rectangle within the grid, in ascending tile number -/
  bins : ∀ (p : Pool) (a b d : Vtx) (n : Nat), n ∈ p.bins [a, b, d] ↔ ∃ x y, x < p.binsX ∧ y < p.binsY ∧ n = y * p.binsX + x
    ∧ spans (min (min a.x b.x) d.x) (max (max a.x b.x) d.x) p.orgX x ∧ spans (min (min a.y b.y) d.y) (max (max a.y b.y) d.y) p.orgY y
  ascending : ∀ (p : Pool) (a b d : Vtx), (p.bins [a, b, d]).Pairwise (· < ·)
  cullIndex : ∀ (r : BinRun) c p i ks, r.stop = none → r.s.primIndices c i = .ok ks → (∃ k ∈ ks, c.fld 24 4 ≤ k) →
    r.prim c p i = .ok { r with accepted := r.accepted + 1, cullIndex := r.cullIndex + 1 }
  cullOther : ∀ (r : BinRun) c p i ks a b d, r.stop = none → r.s.primIndices c i = .ok ks → (∀ k ∈ ks, k < c.fld 24 4) →
    ks.mapM (fun k => r.s.vertex c k) = .ok [a, b, d] → cullsPrim c p a b d →
    r.prim c p i = .ok { r with accepted := r.accepted + 1, cullOther := r.cullOther + 1 }
  /-- a primitive that stops the call changes nothing; else it takes the next token and enters its bins one after another -/
  binned : ∀ (r : BinRun) c p i ks a b d es, r.stop = none → r.s.primIndices c i = .ok ks → (∀ k ∈ ks, k < c.fld 24 4) →
    ks.mapM (fun k => r.s.vertex c k) = .ok [a, b, d] → ¬ cullsPrim c p a b d →
    (p.bins [a, b, d]).mapM (fun n => r.s.binEntry c p n) = .ok es →
    let spent := (r.token + 65536 - p.tbase) % 65536 = 32767
    let full := p.count < r.next + (es.filter fun e => e.2 == 31).length
    (spent → r.prim c p i = .ok { r with stop := some 1 }) ∧ (¬ spent → full → r.prim c p i = .ok { r with stop := some 0 })
    ∧ (¬ spent → ¬ full → ∀ q, (p.bins [a, b, d]).foldlM (fun (q : BinRun) n => q.enter c p i n) r = .ok q →
      r.prim c p i = .ok { q with token := (r.token + 1) % 65536, accepted := r.accepted + 1, binned := r.binned + 1 })
  /-- an empty bin, a bin whose last chunk is full, and any other -/
  enterEmpty : ∀ (r : BinRun) c p i b e, r.s.cread c (p.bintab + 16 * b) 16 = .ok e → recFld e 8 4 = 0 →
    r.enter c p i b = .ok { r with s := r.entry c p i b e r.next r.next 0 (r.s.cwrite c (p.chunkBase + 256 * r.next) 0xFFFFFFFF 8), next := r.next + 1 }
  enterFull : ∀ (r : BinRun) c p i b e, r.s.cread c (p.bintab + 16 * b) 16 = .ok e → recFld e 8 4 ≠ 0 →
    r.s.cread c (p.chunkBase + 256 * recFld e 4 4 + 4) 4 = .ok 31 →
    r.enter c p i b = .ok { r with
      s := r.entry c p i b e (recFld e 0 4) r.next 0
        ((r.s.cwrite c (p.chunkBase + 256 * r.next) 0xFFFFFFFF 8).cwrite c (p.chunkBase + 256 * recFld e 4 4) r.next 4)
      next := r.next + 1 }
  enterTail : ∀ (r : BinRun) c p i b e u, r.s.cread c (p.bintab + 16 * b) 16 = .ok e → recFld e 8 4 ≠ 0 →
    r.s.cread c (p.chunkBase + 256 * recFld e 4 4 + 4) 4 = .ok u → u ≠ 31 →
    r.enter c p i b = .ok { r with s := r.entry c p i b e (recFld e 0 4) (recFld e 4 4) u r.s }

/-! ## Depth and stencil (R346, R347) -/

/-- Cmp(f, a, b) of R346. -/
def cmpTest (f : Nat) (lt eq : Prop) : Prop :=
  (f = 1 ∧ lt) ∨ (f = 2 ∧ eq) ∨ (f = 3 ∧ (lt ∨ eq)) ∨ (f = 4 ∧ ¬lt ∧ ¬eq) ∨ (f = 5 ∧ ¬eq) ∨ (f = 6 ∧ ¬lt) ∨ f = 7
structure DepthRules : Prop where
  compare : ∀ f a b : Nat, f < 8 → (cmpFn f false (compare a b) = true ↔ cmpTest f (a < b) (a = b))
  /-- a NaN fails all but always -/
  unordered : ∀ (f : Nat) (o : Ordering), f < 8 → (cmpFn f true o = true ↔ f = 7)
  /-- Op(op, sv) on bytes -/
  ops : ∀ sref sv : BitVec 8, let op := fun k => BitVec.ofNat 8 (stencilOp k sref.toNat sv.toNat)
    op 0 = sv ∧ op 1 = 0#8 ∧ op 2 = sref ∧ op 3 = (if sv = 255#8 then sv else sv + 1#8) ∧ op 4 = (if sv = 0#8 then sv else sv - 1#8) ∧ op 5 = ~~~sv
    ∧ op 6 = sv + 1#8 ∧ op 7 = sv - 1#8
  opsInRange : ∀ k (sref sv : BitVec 8), stencilOp k sref.toNat sv.toNat < 256
  /-- z: two fused steps, then a NaN is 0 and the rest is clamped to 0 to 1.0 -/
  depth : ∀ (c : Call) (q : Samp),
    let z := f32Fma (c.fld 24 4) (f32Of8 (q.oy - c.i32 32)) (f32Fma (c.fld 20 4) (f32Of8 (q.ox - c.i32 28)) (c.fld 16 4))
    (isNaN32 z = true → sampleDepth c q = 0) ∧ (isNaN32 z = false → le32 z 0 = true → sampleDepth c q = 0)
    ∧ (isNaN32 z = false → lt32 0x3F800000 z = true → sampleDepth c q = 0x3F800000)
    ∧ (isNaN32 z = false → le32 z 0 = false → lt32 0x3F800000 z = false → sampleDepth c q = z)
  /-- a sample passes when both tests do; it then stores its depth where DWRITE is set, and its stencil byte takes Op under SWMASK -/
  sample : ∀ (s : State) (c : Call) (st : Stream) (q : Samp) (zs sv : Nat),
    s.cread (st.call c) (st.addr4 q) 4 = .ok zs → s.cread (st.call c) (st.addr1 q) 1 = .ok sv →
    let sten := (c.fld 48 1).testBit 4 = true
    let z := sampleDepth c q
    let nan := (isNaN32 z || isNaN32 zs) = true
    let sOk := sten → cmpTest (c.fld 52 1) ((c.fld 49 1 &&& c.fld 50 1) < (sv &&& c.fld 50 1)) ((c.fld 49 1 &&& c.fld 50 1) = (sv &&& c.fld 50 1))
    let zOk := if nan then c.fld 48 1 % 8 = 7
      else cmpTest (c.fld 48 1 % 8) (fCmp (f32.read z) (f32.read zs) = .lt) (fCmp (f32.read z) (f32.read zs) = .eq)
    c.fld 52 1 < 8 →
    ((depthSample s c st q).2 = true ↔ sOk ∧ zOk)
    ∧ ∀ op, ((¬ sOk ∧ op = c.fld 53 1 % 8) ∨ (sOk ∧ ¬ zOk ∧ op = c.fld 53 1 / 8) ∨ (sOk ∧ zOk ∧ op = c.fld 54 1)) →
      let new := (sv &&& (255 - c.fld 51 1)) ||| (stencilOp op (c.fld 49 1) sv &&& c.fld 51 1)
      let stored := fun (s : State) => s.cwrite (st.call c) (st.addr1 q) new 1
      let keeps := ¬ (sOk ∧ zOk ∧ (c.fld 48 1).testBit 3 = true)
      (sten → keeps → (depthSample s c st q).1 = stored s)
      ∧ (sten → ¬ keeps → (depthSample s c st q).1 = stored (s.cwrite (st.call c) (st.addr4 q) z 4))
      ∧ (¬ sten → keeps → (depthSample s c st q).1 = s)
      ∧ (¬ sten → ¬ keeps → (depthSample s c st q).1 = s.cwrite (st.call c) (st.addr4 q) z 4)

/-! ## Blending (R349, R350) -/

/-- Mul(a, b) of R350. -/
def mulUnorm (a b : Nat) : Int := (((a : Int) * b + 128) + ((a : Int) * b + 128) / 256) / 256
/-- The channel of R350, from source, stored value and factors. -/
def blended (op : Nat) (s d fs fd : Nat) : Int :=
  match op with
  | 0 => min 255 (mulUnorm s fs + mulUnorm d fd)
  | 1 => max 0 (mulUnorm s fs - mulUnorm d fd)
  | 2 => max 0 (mulUnorm d fd - mulUnorm s fs)
  | 3 => min (s : Int) d
  | _ => max (s : Int) d
/-- The factors of R349 in code order, for a colour channel, then 12 for alpha. -/
def factorTable (s d sa da k : Nat) : List Nat :=
  [0, 255, s, 255 - s, sa, 255 - sa, d, 255 - d, da, 255 - da, k, 255 - k, min sa (255 - da)]
structure BlendRules : Prop where
  factors : ∀ code s d sa da k, code < 13 → some (blendFactor code s d sa da k false) = (factorTable s d sa da k)[code]?
  alpha : ∀ code s d sa da k, code < 12 → blendFactor code s d sa da k true = blendFactor code s d sa da k false
  alpha12 : ∀ s d sa da k, blendFactor 12 s d sa da k true = 255
  ops : ∀ op s d fs fd, op < 5 → (blendOp op s d fs fd : Int) = blended op s d fs fd
  /-- each channel of a sample: kept where WMASK leaves it out, the source where EN = 0 -/
  pixel : ∀ (c : Call) (src dst k j : Nat), j < 4 → c.fld 30 1 < 64 → c.fld 30 1 % 8 < 5 → c.fld 30 1 / 8 < 5 →
    let f := c.fld (if j = 3 then 29 else 28) 1
    let op := if j = 3 then c.fld 30 1 / 8 else c.fld 30 1 % 8
    let fac := fun code => blendFactor code (byteN src j) (byteN dst j) (byteN src 3) (byteN dst 3) (byteN k j) (j == 3)
    ((c.fld 31 1).testBit j = false → byteN (blendPixel c src dst k) j = byteN dst j)
    ∧ ((c.fld 31 1).testBit j = true → c.fld 32 1 = 0 → byteN (blendPixel c src dst k) j = byteN src j)
    ∧ ((c.fld 31 1).testBit j = true → c.fld 32 1 ≠ 0 →
      (byteN (blendPixel c src dst k) j : Int) = blended op (byteN src j) (byteN dst j) (fac (f % 16)) (fac (f / 16)))
  /-- BGRA8 keeps blue first (R344) -/
  order : ∀ v, byteN (swapBR 1 v) 0 = byteN v 2 ∧ byteN (swapBR 1 v) 1 = byteN v 1 ∧ byteN (swapBR 1 v) 2 = byteN v 0 ∧ byteN (swapBR 1 v) 3 = byteN v 3
    ∧ swapBR 0 v = v

/-! ## The texture filter (R362-R364) -/

/-- `q` is a / b to the nearest integer, an even one on a tie. -/
def nearest (a : Int) (b : Nat) (q : Int) : Prop :=
  2 * a ≤ (2 * q + 1) * b ∧ (2 * q - 1) * b ≤ 2 * a ∧ (2 * a = (2 * q + 1) * b ∨ 2 * a = (2 * q - 1) * b → q % 2 = 0)
/-- Qx or Qy of R362, over 2^298. -/
def gradSq (d : TexDesc) (a b : Nat) : Int := (sc149 a * d.w) ^ 2 + (sc149 b * d.h) ^ 2
structure TextureRules : Prop where
  explicit : ∀ (d : TexDesc) (f : Nat),
    (finite32 f = true → ∃ k, (explicitLod d f).lq = some (k + d.bias) ∧ k * 2 ^ 149 ≤ 256 * sc149 f ∧ 256 * sc149 f < (k + 1) * 2 ^ 149)
    ∧ (isNaN32 f = true → (explicitLod d f).lq = some d.bias) ∧ (explicitLod d f).n = 1
  /-- the number of probes: the least that suffices, up to MAXANISO -/
  probes : ∀ (d : TexDesc) (p q r t : Nat), (∀ f ∈ [p, q, r, t], finite32 f = true) → 1 ≤ d.maxAniso →
    let qx := gradSq d p q
    let qy := gradSq d r t
    let n := (gradLod d p q r t).n
    (max qx qy = 0 → n = 1 ∧ (gradLod d p q r t).lq = none) ∧ (max qx qy ≠ 0 → min qx qy = 0 → n = d.maxAniso)
    ∧ (min qx qy ≠ 0 → 1 ≤ n ∧ n ≤ d.maxAniso ∧ (∀ j : Nat, 1 ≤ j → j < n → (j : Int) ^ 2 * min qx qy < max qx qy)
        ∧ (n < d.maxAniso → max qx qy ≤ (n : Int) ^ 2 * min qx qy))
    ∧ (max qx qy ≠ 0 → (gradLod d p q r t).lq = some (lodLevel (max qx qy).toNat n + d.bias))
    ∧ (gradLod d p q r t).du = (if qy ≤ qx then sc149 p else sc149 r) ∧ (gradLod d p q r t).dv = if qy ≤ qx then sc149 q else sc149 t
  infinite : ∀ (d : TexDesc) (p q r t : Nat), (∃ f ∈ [p, q, r, t], finite32 f = false) → gradLod d p q r t = { lq := some d.bias, n := 1, du := 0, dv := 0 }
  /-- k is the greatest integer with 2^k ≤ (Q / N^2)^128: k is given as a - b -/
  level : ∀ q n a b : Nat, 0 < q → 0 < n → ((a : Int) - b ≤ lodLevel q n ↔ 2 ^ a * (n ^ 2 * 2 ^ 298) ^ 128 ≤ 2 ^ b * q ^ 128)
  mips : ∀ (d : TexDesc) (l : Lod) (k : Int), l.lq = some k → 1 ≤ d.levels →
    let lq := max 0 (min k (256 * ((d.levels : Int) - 1)))
    (d.mip = 0 → d.mips l = [(0, 256)]) ∧ (d.mip = 1 → d.mips l = [(((lq + 128) / 256).toNat, 256)])
    ∧ (d.mip = 2 → ∃ l0 f : Nat, lq = 256 * l0 + f ∧ f < 256
      ∧ d.mips l = if l0 = d.levels - 1 then [(l0, 256), (l0 + 1, 0)] else [(l0, 256 - f), (l0 + 1, f)])
  /-- U of R363 -/
  coordinate : ∀ (f : Nat) (d : Int) (n i size : Nat), 0 < n →
    (isNaN32 f = true → probeCoord f d n i size = 0)
    ∧ (finite32 f = true → ∃ u, nearest ((sc149 f * (2 * n) + d * (2 * i + 1 - n)) * size * 256) (2 * n * 2 ^ 149) u
      ∧ probeCoord f d n i size = max (-2 ^ 40) (min (2 ^ 40) u))
  point : ∀ u, texIndices false u = [(u / 256, 256)]
  bilinear : ∀ u, ∃ i0 : Int, ∃ a : Nat, 256 * i0 + a = u - 128 ∧ a < 256 ∧ texIndices true u = [(i0, 256 - a), (i0 + 1, a)]
  wrap : ∀ (i : Int) (w : Nat), 0 < w → ∃ n : Nat, mapIndex 0 i w = some n ∧ n < w ∧ (w : Int) ∣ i - n
  mirror : ∀ (i : Int) (w : Nat), 0 < w → ∃ n : Nat, mapIndex 1 i w = some n ∧ n < w ∧ ((2 * w : Int) ∣ i - n ∨ (2 * w : Int) ∣ i + n + 1)
  clamp : ∀ (i : Int) (w : Nat), 0 < w → ∃ n : Nat, mapIndex 2 i w = some n ∧ (n : Int) = min (max i 0) (w - 1)
  border : ∀ (i : Int) (w : Nat), (0 ≤ i → i < w → ∃ n : Nat, mapIndex 3 i w = some n ∧ (n : Int) = i) ∧ (i < 0 ∨ w ≤ i → mapIndex 3 i w = none)
  /-- texels of weight 0 take no part -/
  weights : ∀ (d : TexDesc) (l : Lod) (u v : Nat), ∀ t ∈ d.taps l u v, t.weight ≠ 0
  unorm : ∀ (n : Nat) (ts : List (Nat × Nat)), texChannel false n ts = f32Ratio false (ts.map fun p => p.1 * p.2).sum (2 ^ 24 * n * 255)
  float : ∀ (n : Nat) (ts : List (Nat × Nat)),
    let vs := ts.map fun p => f16.read p.2
    let nan := (∃ v ∈ vs, v.isNaN = true) ∨ (.inf false ∈ vs ∧ .inf true ∈ vs)
    (nan → texChannel true n ts = 0x7FC00000) ∧ (¬ nan → .inf false ∈ vs → texChannel true n ts = 0x7F800000)
    ∧ (¬ nan → .inf true ∈ vs → texChannel true n ts = 0xFF800000)
    ∧ (¬ nan → .inf false ∉ vs → .inf true ∉ vs →
      let k := (ts.map fun p => (p.1 : Int) * scaled (-24) (f16.read p.2)).sum
      texChannel true n ts = f32Ratio (decide (k < 0)) k.natAbs (2 ^ 24 * n * 2 ^ 24))

/-! ## Rays (R368-R376) -/

/-- The ray cannot start (R368). -/
def Ray.invalid (r : Ray) : Prop := (∃ v ∈ r.org ++ r.dir ++ [r.tmin, r.tmax], isNaN32 v = true) ∨ lt32 r.tmax r.tmin = true ∨ r.tmin = 0x7F800000
/-- What READY becomes, but for its state. -/
def Ray.begun (r : Ray) (state : Nat) : Ray :=
  { org := r.org, dir := r.dir, tmin := r.tmin, tmax := r.tmax, opq := r.opq, cullBack := r.cullBack, firstHit := r.firstHit, state, node := 0, trail := 0,
    rsv := 0, hasHit := false, cinst := 0, inst := false, scnt := 0, ilev := 0, level := 0, stack := [0, 0, 0, 0], hit := 0 }
/-- A record that is set to ERROR when it is taken up (R372). -/
def Ray.broken (r : Ray) : Prop := 5 < r.state ∨ r.state ≠ 0 ∧ (r.rsv ≠ 0 ∨ 4 < r.scnt ∨ isNaN32 r.tmin = true ∨ isNaN32 r.tmax = true)
/-- The steps of a call from a ray on. -/
def Ray.steps (r : Ray) (k : Scene) : Option Ray × Option (Nat × XErr) := (some (Ray.run k r (stepLimit k.c)).1, (Ray.run k r (stepLimit k.c)).2)
def dotI (a b : Nat → Int) : Int := a 0 * b 0 + a 1 * b 1 + a 2 * b 2
def crossI (a b : Nat → Int) (i : Nat) : Int := a ((i + 1) % 3) * b ((i + 2) % 3) - a ((i + 2) % 3) * b ((i + 1) % 3)
/-- det and the numerators of u, v and t of R374, in units of 2^-447. -/
def triangle (l : Line) (vs : List Nat) : Int × Int × Int × Int :=
  let p := fun k i => sc149 (vs.getD (3 * k + i) 0)
  let d := fun i => sc149 (l.d.getD i 0)
  let e1 := fun i => p 1 i - p 0 i
  let e2 := fun i => p 2 i - p 0 i
  let s := fun i => sc149 (l.o.getD i 0) - p 0 i
  let q := crossI s e1
  (dotI e1 (crossI d e2), dotI s (crossI d e2), dotI d q, dotI e2 q)
/-- The triangle is hit at T (R374). -/
def triHit (r : Ray) (l : Line) (vs : List Nat) (T : Nat) : Prop :=
  let (det, u, v, t) := triangle l vs
  (∀ c ∈ vs ++ l.o ++ l.d, finite32 c = true) ∧ det ≠ 0 ∧ 0 ≤ u * det ∧ 0 ≤ v * det ∧ (u + v) * det ≤ det * det
  ∧ le32 r.tmin T = true ∧ lt32 T r.tmax = true ∧ ¬ (r.cullBack = true ∧ det < 0)
  ∧ (t ≠ 0 → T = f32Ratio (decide (t * det < 0)) t.natAbs det.natAbs) ∧ (t = 0 → T = 0 ∨ T = 2 ^ 31)
/-- One end of a box on an axis, as a parameter of the ray: a NaN becomes `inf`. -/
def slabEnd (b o d inf : Nat) : Nat :=
  let v := f32Code (fMul (fSub .rne (f32.read b) (f32.read o)).v (f32.read (f32Code (fRcp (f32.read d)))))
  if isNaN32 v then inf else v
structure RayRules : Prop where
  start : ∀ r : Ray, (r.invalid → r.start = r.begun 4) ∧ (¬ r.invalid → r.start = r.begun 1)
  /-- R372, but for an awaiting record that no candidate stands behind -/
  ready : ∀ (r : Ray) k v f t, r.state = 0 → (r.invalid → r.work k v f t = (some (r.begun 4), none)) ∧ (¬ r.invalid → r.work k v f t = (r.begun 1).steps k)
  errs : ∀ (r : Ray) k v f t, r.broken → r.work k v f t = (some { r with state := 5 }, none)
  active : ∀ (r : Ray) k v f t, r.state = 1 → ¬ r.broken → r.work k v f t = r.steps k
  done : ∀ (r : Ray) k v f t, r.state = 4 ∨ r.state = 5 → ¬ r.broken → r.work k v f t = (some r, none)
  awaits : ∀ (r : Ray) k f t p, r.state = 2 ∨ r.state = 3 → ¬ r.broken → r.candidate k = .ok (some p) →
    r.work k false f t = (some r, none)
    ∧ (∀ q, r.verdict p.1 f t = .go q → r.work k true f t = q.steps k) ∧ ∀ q, r.verdict p.1 f t = .stop q → r.work k true f t = (some q, none)
  /-- R373: after STEPLIM steps the ray is left as it stands -/
  steps : ∀ (r : Ray) k n, Ray.run k r 0 = (r, none) ∧ (∀ q, r.step k = .go q → Ray.run k r (n + 1) = Ray.run k q n)
    ∧ (∀ q, r.step k = .stop q → Ray.run k r (n + 1) = (q, none)) ∧ ∀ e, r.step k = .fail e → Ray.run k r (n + 1) = (r, some e)
  triangle : ∀ (r : Ray) (l : Line) (vs : List Nat), vs.length = 9 → l.o.length = 3 → l.d.length = 3 →
    (∀ T, triTest r l vs = some T → triHit r l vs T) ∧ (triTest r l vs = none → ∀ T, triHit r l vs T → (triangle l vs).2.2.2 = 0)
  box : ∀ (l : Line) (tmin tmax : Nat) (lo hi : Nat → Nat),
    let b := [lo 0, lo 1, lo 2, hi 0, hi 1, hi 2]
    let near := fun k => min32 (slabEnd (lo k) (l.o.getD k 0) (l.d.getD k 0) 0xFF800000) (slabEnd (hi k) (l.o.getD k 0) (l.d.getD k 0) 0x7F800000)
    let far := fun k => max32 (slabEnd (lo k) (l.o.getD k 0) (l.d.getD k 0) 0xFF800000) (slabEnd (hi k) (l.o.getD k 0) (l.d.getD k 0) 0x7F800000)
    let tn := max32 (max32 (max32 tmin (near 0)) (near 1)) (near 2)
    let tf := min32 (min32 (min32 tmax (far 0)) (far 1)) (far 2)
    let bad := (∃ v ∈ b, isNaN32 v = true) ∨ ∃ k < 3, lt32 (hi k) (lo k) = true
    (bad → boxTest l tmin tmax b = none) ∧ (¬ bad → boxTest l tmin tmax b = if le32 tn tf = true then some tn else none)
  /-- R375 -/
  descend : ∀ (r : Ray) c, (r.level = 31 → r.descend c = .stop { r with state := 5 })
    ∧ (r.level ≠ 31 → r.descend c = .go { r with level := r.level + 1, node := c })
  push : ∀ (r : Ray) c a b d e, r.stack = [a, b, d, e] → (r.scnt = 4 → r.push c = { r with stack := [b, d, e, c] })
    ∧ (r.scnt = 0 → r.push c = { r with stack := [c, b, d, e], scnt := 1 }) ∧ (r.scnt = 1 → r.push c = { r with stack := [a, c, d, e], scnt := 2 })
    ∧ (r.scnt = 2 → r.push c = { r with stack := [a, b, c, e], scnt := 3 }) ∧ (r.scnt = 3 → r.push c = { r with stack := [a, b, d, c], scnt := 4 })
  popNone : ∀ r : Ray, (∀ k < r.level, r.trail.testBit k = true) → r.pop = .stop { r with state := 4 }
  pop : ∀ (r : Ray) k, k < r.level → r.trail.testBit k = false → (∀ j, k < j → j < r.level → r.trail.testBit j = true) →
    ∃ t, (∀ j, t.testBit j = if j < k then r.trail.testBit j else j == k)
      ∧ (0 < r.scnt → r.pop = .go { r with trail := t, level := k + 1, inst := r.inst && !decide (k < r.ilev), scnt := r.scnt - 1,
                                           node := r.stack.getD (r.scnt - 1) 0 })
      ∧ (r.scnt = 0 → r.pop = .go { r with trail := t, level := 0, inst := false, node := 0 })
  advance : ∀ r : Ray, (leafCount r.node = 1 → r.advance = r.pop)
    ∧ (leafCount r.node ≠ 1 → r.advance = .go { r with node := leafRef (leafFirst r.node + 1) (leafCount r.node - 1) })
  node : ∀ (r : Ray) (k : Scene) (l : Line) base n, k.rd (base + 64 * (r.node % 2 ^ 28)) 64 = .ok n → recFld n 56 8 = 0 →
    let c := fun i => recFld n (48 + 4 * i) 4
    let hit := fun i => if refKind (c i) = 3 then none else boxTest l r.tmin r.tmax (words n (24 * i) 6)
    (∀ a b, hit 0 = some a → hit 1 = some b →
      let near := if lt32 b a = true then 1 else 0
      r.stepNode k l base = if r.trail.testBit r.level = true then r.descend (c (1 - near)) else (r.push (c (1 - near))).descend (c near))
    ∧ (∀ a, hit 0 = some a → hit 1 = none → r.stepNode k l base = ({ r with trail := r.trail ||| 2 ^ r.level } : Ray).descend (c 0))
    ∧ (∀ b, hit 0 = none → hit 1 = some b → r.stepNode k l base = ({ r with trail := r.trail ||| 2 ^ r.level } : Ray).descend (c 1))
    ∧ (hit 0 = none → hit 1 = none → r.stepNode k l base = r.pop)
  enters : ∀ (r : Ray) (k : Scene) i, r.inst = false → badRef r.node false k.ninst = false → refKind r.node = 2 → k.instance? (r.node % 128) = .ok i →
    instBad i = false → r.step k = .go { r with inst := true, ilev := r.level, cinst := r.node % 128, node := 0 }
  leaf : ∀ (r : Ray) (k : Scene) (l : Line) base p, k.rd (base + 48 * leafFirst r.node) 48 = .ok p → primBad p = false →
    (primProc p = true →
      (boxTest l r.tmin r.tmax (words p 0 6) = none → r.stepLeaf k l base = r.advance)
      ∧ (boxTest l r.tmin r.tmax (words p 0 6) ≠ none → r.stepLeaf k l base = .stop { r with state := 3 }))
    ∧ (primProc p = false →
      (triTest r l (words p 0 9) = none → r.stepLeaf k l base = r.advance)
      ∧ ∀ t, triTest r l (words p 0 9) = some t →
        let opaque' := (recFld p 36 4).testBit 0 = true ∨ r.opq = true
        let hit : Ray := { r with tmax := t, hit := leafFirst r.node * 2 ^ 7 + r.cinst, hasHit := true }
        (¬ opaque' → r.stepLeaf k l base = .stop { r with state := 2 })
        ∧ (opaque' → r.firstHit = true → r.stepLeaf k l base = .stop { hit with state := 4 })
        ∧ (opaque' → r.firstHit = false → r.stepLeaf k l base = hit.advance))
  /-- R376: VFLAGS with a reserved bit reject, and end nothing -/
  verdict : ∀ (r : Ray) (t f vt : Nat), r.state = 2 ∨ r.state = 3 →
    let t' := if r.state = 2 then t else vt
    let hit : Ray := { r with tmax := t', hit := leafFirst r.node * 2 ^ 7 + r.cinst, hasHit := true }
    let takes := f < 4 ∧ f.testBit 0 = true ∧ (r.state = 2 ∨ isNaN32 vt = false ∧ le32 r.tmin vt = true ∧ lt32 vt r.tmax = true)
    let ends := f < 4 ∧ f.testBit 1 = true
    (takes → ends ∨ r.firstHit = true → r.verdict t f vt = .stop { hit with state := 4 })
    ∧ (takes → ¬ ends → r.firstHit = false → r.verdict t f vt = ({ hit with state := 1 } : Ray).advance)
    ∧ (¬ takes → ends → r.verdict t f vt = .stop { r with state := 4 })
    ∧ (¬ takes → ¬ ends → r.verdict t f vt = ({ r with state := 1 } : Ray).advance)

end Sys2Proof.Machine
end

