-- ==== Sys2Proof/Safety/Words.lean ====
section
/-!
DEFINITION. Which instruction a word stands for when several rows of the table share it (spec/17 R424).
-/
namespace Sys2Proof

/-- `dbg.act` has one word, whatever B names: the three rows that describe its actions share it, and the decoder answers the first. -/
def Instr.sameWord : Instr → Instr
  | .dbgActExit c d a b | .endgrid c d a b => .dbgActResume c d a b
  | i => i

/-- No guard, no END, no hint. -/
def Ctl.plain : Ctl := { gp := 15#4, gn := false, fin := false, yld := false, rua := false, rub := false, stall := 0#3 }

end Sys2Proof
end

