-- ==== Sys2Proof/Certificates/Slice0/Obligations.lean ====
section
/-!
DEFINITION. The statements for the provers: reset and invariants, decoding, the step, what each instruction leaves of its state, its faults,
and when each row of another agent takes place.
-/
open Sys2Proof Sys2Proof.Machine

/-! ## Reset and invariants -/

/-- Reset: no team, operation, call, queue, grid, lease or route; memory lists nothing; every register of a slice, a die, a cluster and the
package reads 0 but PWR_CAP, which is 1,800 W (R429, R445, R456, R473). That a register filled by firmware reads 0 is the model's (log 1). -/
def Obligations.ResetState : Prop :=
  State.reset.teams = [] ∧ State.reset.ops = [] ∧ State.reset.calls = [] ∧ State.reset.queues = [] ∧ State.reset.grids = []
  ∧ State.reset.mem = [] ∧ State.reset.leases = [] ∧ State.reset.fwd = [] ∧ State.reset.routes = []
  ∧ (∀ sl n, State.reset.sreg sl n = 0#32) ∧ (∀ sl die n, State.reset.sdReg sl die n = 0#32) ∧ (∀ sl cl n, State.reset.cluReg sl cl n = 0#32)
  ∧ (∀ n, State.reset.pkg n = if n = 0x620 then 1800#32 else 0#32) ∧ ∀ die, State.reset.dieCount die = 0
/-- The memory of the reset state is in its canonical form. -/
def Obligations.ResetMemoryCanonical : Prop := State.reset.memOk
/-- Every step keeps memory in its canonical form, in every state, reached or not: addresses strictly rising, no entry equal to what an
unlisted address reads as (log 2). -/
def Obligations.StepKeepsMemoryCanonical : Prop := ∀ s t : State, s.memOk → step s = .next t → t.memOk
/-- A byte reads as it was last stored, and a store changes no other byte (R218). -/
def Obligations.ByteReadsAsStored : Prop :=
  ∀ (s : State) (agent stamp pa : Nat) (v : Byte),
    (s.storeByte agent stamp pa v).byte pa = v ∧ ∀ a, a ≠ pa → (s.storeByte agent stamp pa v).byte a = s.byte a
/-- Memory changes when accesses take place, not when they issue (R218, R233): the issue of an instruction leaves every byte as it was. Not
said of `cbar.arrive`, whose arrival is its store, of `setsr`, which may begin a reset, of `hret`, which replays accesses, and of debug access. -/
def Obligations.IssueStoresNoByte : Prop :=
  ∀ (i : Instr) (s t : State), quietAtIssue i = true → exec i s = .next t → State.sameMem s t
/-- A global store, once its addresses have been checked and no older atomic of its group to a byte of it is in flight (R218, R233, R256, R258): its
bytes take the data of its lanes, lane after lane, so that the last lane that writes a byte leaves its value (R235, R239); every byte outside them reads
as before; and the lanes stand in their order. That a store enters memory in the step of its check, and that it waits for older atomics to its bytes, are the
model's (log 12). -/
def Obligations.CheckedStoreWritesItsBytes : Prop :=
  ∀ (s : State) (id : Nat) (o : Op) (x : Team) (g : Group) (ok : List Item) (bad : List LateFault),
    s.op? id = some o → o.kind = .store → o.chk = false → s.checkTurn o = true → s.team? o.team = some x → s.group? o.team o.grp = some g →
    s.checkItems x g o = some (ok, bad) → s.storeWaits o ok = false → ∃ t, exec (.accessCheck id) s = .next t ∧
      (∀ a, (∀ it ∈ ok, ∀ p ∈ it.bytes, p.2 ≠ a) → t.byte a = s.byte a)
      ∧ (∀ pre it post, ok = pre ++ it :: post → (it.bytes.map (·.2)).Nodup → ∀ p ∈ it.bytes, (∀ k ∈ post, ∀ q ∈ k.bytes, q.2 ≠ p.2) →
        t.byte p.2 = BitVec.ofNat 8 (it.data / 2 ^ (8 * p.1)))
      ∧ ((o.items.map (·.lane)).Pairwise (· < ·) → (ok.map (·.lane)).Pairwise (· < ·))

/-! ## Decoding and the step -/

/-- Words written out from the encoding tables decode to the instructions they stand for: `bra` over 48 bytes with END (R51); `add.v.i32 v1,
v2, v3` (R52); `add.a.i64 a3, a3, s1` and `ldg.v.b32.x2.set0 v8, [a2 + 0x40]` (the examples of R66); `fma.v.f32.rne v4, v1, v2, v3` (R56);
`add.v.q v1, v2, v3` under fmt2 (R57); `cvt.v.i16.i32.sat v1, v2` (R58); `vote.ballot s5, p2` (R60); `getsr s0` of GROUP_ID (R63). -/
def Obligations.WordsDecode : Prop :=
  decode 0x010F00000000004000000030#96 = .ok (.bra { Ctl.plain with fin := true } 48#32)
  ∧ decode 0x100F00404030000000000000#96 = .ok (.addV Ctl.plain .i32 false (.reg 1) (.reg 2) (.reg 3))
  ∧ decode 0x20AF00C06010000000000000#96 = .ok (.addA Ctl.plain true true (.reg 3) (.reg 3) (.reg 1))
  ∧ decode 0x700F0200400002000C000040#96 = .ok (.ldgV Ctl.plain .set0 .aff { pol := .dflt, cnt := .x2, ty := .b32, off := 0x40#24 } (.reg 8) (.reg 2))
  ∧ decode 0x430F01002020180000000000#96 = .ok (.fmaV Ctl.plain .f32 false .rne (.reg 4) (.reg 1) (.reg 2) (.reg 3))
  ∧ decode 0x500F00404030010000000000#96 = .ok (.addVQ Ctl.plain false 2#2 (.reg 1) (.reg 2) (.reg 3))
  ∧ decode 0x5D8F00404000000000000000#96 = .ok (.cvtNarrow Ctl.plain true false .i16 (.reg 1) (.reg 2))
  ∧ decode 0x693F01404000000000000000#96 = .ok (.voteBallot Ctl.plain (.reg 5) 2)
  ∧ decode 0xB00F00000000000000000000#96 = .ok (.getsr Ctl.plain (.reg 0) 0#12)
/-- Decode and encode agree on every well-formed instruction: it has a word, and the word decodes to it (R15-R17, R48, R51-R63). The three rows
of `dbg.act` share one word (R424). -/
def Obligations.DecodeEncode : Prop := ∀ i : Instr, i.wellFormed = true → (encode i).map decode = some (.ok i.sameWord)
/-- A step runs the decoded instruction: the path that issues executes the instruction that the 12 bytes at its PC decode to (R14, R29); the
step runs the second stream of a cycle that is under way, and, where no row of another agent is due, the first stream of the group that its
scheduler chooses, once its places have been filled (R173, R174, R197). What images at STATUS 1 receive is `delivered` (R208). The model's own: the second
stream as a step of its own (log 4), rows before groups and the group least recently issued across the schedulers (log 7), what `delivered` mirrors (log 35). -/
def Obligations.StepRunsDecodedInstruction : Prop :=
  (∀ (s : State) (c : Cursor) (x : Team) (w : BitVec 96) (i : Instr), s.team? c.team = some x →
    ({ s with cur := some c } : State).fetchWord x c.pc.toNat = .ok w → decode w = .ok i → s.run c = exec i { s with cur := some c })
  ∧ (∀ (s : State) (c : Cursor), s.stream1 = some c → s.streamStands c = true → step s = delivered s (({ s with stream1 := none } : State).run c))
  ∧ ∀ (s s' : State) (c : Cursor) (t g : Nat) (y : Group), s.stream1 = none → firstNext s (endRows s) = none → s.agenda = [] →
    let b : State := { s with ended := none }
    firstNext b b.dueRows = none → b.nextActor = some (t, g) → b.group? t g = some y →
    ((b.arbitrate t g y).settlePlaces t g).streams? t g = some (s', c) → step s = delivered b (s'.run c)
/-- From reset, a word placed as the next one to issue is fetched, decoded and executed by the next step (log 3). -/
def Obligations.PlacedWordRuns : Prop :=
  ∀ (nbits w : Nat) (i : Instr), decodeTableWord nbits w = some i →
    step (State.reset.withFetchWord nbits w) = delivered (State.reset.withFetchWord nbits w)
      (exec i { State.reset.withFetchWord nbits w with stream1 := none, cur := some (probeCursor 0) })

/-! ## Issue: guards, faults of the whole path, what holds it -/

/-- The guard narrows the mask (R18): the effective mask is the lanes of the path whose predicate differs from GN, or all of them; every effect
is on it; with no lane in it the instruction completes with no effect; GP = 15 with GN = 1, and any word that is no instruction, raise
ILLEGAL_OP on the whole path whatever the guard. -/
def Obligations.GuardNarrowsMask : Prop :=
  (∀ (g : Group) (c : Ctl) (m : Mask) (l : Nat), l < 32 →
    (effMask g c m).getLsbD l = (m.getLsbD l && (c.gp == 15#4 || (g.getP c.gp.toNat l ^^ c.gn))))
  ∧ (∀ i s x, Due i s x → x.e = effMask x.g x.c x.cur.m)
  ∧ (∀ i s x, Due i s x → mustHold x i = false → preciseFault x i = none → x.e = 0#32 → ∃ t y, exec i s = .next t ∧ Did x {} t y ∧ State.sameMem s t)
  ∧ (∀ i s x, Due i s x → mustHold x i = false → x.c.gp = 15#4 → x.c.gn = true →
    ∃ t y, exec i s = .next t ∧ Parks x { cls := .illegalOp, lanes := x.cur.m } x.s t y)
  ∧ ∀ (s : State) (c : Cursor) (w : BitVec 96) (e : DecodeError) (x : Ctx), ({ s with cur := some c } : State).cursorWord c = some (.ok w) →
    decode w = .error e → ctxOf { s with cur := some c } (Fields.ofBits w).c = some x → x.onPath →
    ∃ t y, s.run c = .next t ∧ Parks x { cls := .illegalOp, lanes := c.m } x.s t y
/-- A path that holds keeps its place: it issues nothing and nothing changes (R19, R25, R173, R246, R256, R262, R291). The model's own holds: an instruction
that publishes or adopts beside another effect, while its group has older accesses out that the publication or adopt covers (log 13; `publish`, `adopt` and
`fence` do not hold, R243), and a word of another package whose owner has not answered (log 23). -/
def Obligations.HeldPathStays : Prop :=
  ∀ i s x, Due i s x → mustHold x i = true → ∃ t y, exec i s = .next t ∧ Did x { stay := true, idle := true } t y
/-- Faults of orders 2 to 4 (R28) are precise on the whole path, whatever the guard: ILLEGAL_OP, then CLAUSE_FMT for a flag slot that the header
leaves invalid (R21), then PRIV in unprivileged mode (R64). -/
def Obligations.PreciseFaultsParkThePath : Prop :=
  ∀ i s x, Due i s x → mustHold x i = false →
    let parks := fun (c : FClass) => ∃ t y, exec i s = .next t ∧ Parks x { cls := c, lanes := x.cur.m } x.s t y
    let illegal := i.wellFormed = false ∨ afterLate x i = true
    let noSlot := flagSel i ≠ .none ∧ x.flagOf (flagSel i) = none
    let priv := privileged i = true ∨ (∃ c d n, i = .getsr c d n ∧ srPrivOnly n.toNat = true) ∨ ∃ c n a, i = .setsr c n a ∧ srPrivOnly n.toNat = true
    (illegal → parks .illegalOp) ∧ (¬illegal → noSlot → parks .clauseFmt) ∧ (¬illegal → ¬noSlot → x.tm.priv = false → priv → parks .priv)
/-- The checks before an instruction's own effect: REG_BUDGET for a register that is not allocated (R71, R264), then PARTIAL_WRITE where a lane of
the issuing state's LIVE is not in the effective mask of an instruction that writes the state (R75); the effective mask parks and nothing is
written. -/
def Obligations.BudgetThenPartialWrite : Prop :=
  ∀ i s x, Due i s x → mustHold x i = false → preciseFault x i = none → x.e ≠ 0#32 →
    let parks := fun (c : FClass) => ∃ t y, exec i s = .next t ∧ Parks x { cls := c, lanes := x.e } x.s t y
    (regBudget x i = true → parks .regBudget)
    ∧ (regBudget x i = false → writesState i = true → (∃ l, l < 32 ∧ (x.g0.live x.cur.rc).getLsbD l = true ∧ x.e.getLsbD l = false) → parks .partialWrite)
/-- p15 reads 1 and ignores writes; a write of another predicate changes the lanes of its mask only; a guard reads the predicate of each lane of
the path (R79). -/
def Obligations.PredicateFile : Prop :=
  (∀ (g : Group) (l : Nat), g.getP 15 l = true) ∧ (∀ (g : Group) (e : Mask) (f : Nat → Bool), g.setP 15 e f = g)
  ∧ (∀ (g : Group) (n k : Nat) (e : Mask) (f : Nat → Bool) (l : Nat), n < 15 → l < 32 →
    (g.setP n e f).getP k l = if k = n ∧ e.getLsbD l = true then f l else g.getP k l)
  ∧ ∀ (g : Group) (c : Ctl) (m : Mask) (l : Nat), l < 32 → c.gp ≠ 15#4 →
    (effMask g c m).getLsbD l = (m.getLsbD l && (g.getP c.gp.toNat l ^^ c.gn))
/-- Whatever an instruction does when it issues, a lane outside its effective mask keeps its varying registers and predicates (R18, R79). Not said of
`vgrow`, which clears the registers it adds in every lane (R254), of arrivals at cluster barriers, `setsr`, `hret` and debug access. -/
def Obligations.OtherLanesKeepTheirRegisters : Prop :=
  ∀ i s t x y, quietAtIssue i = true → (∀ c a, i ≠ .vgrow c a) → Due i s x → exec i s = .next t →
    t.group? x.cur.team x.cur.grp = some y → ∀ l, l < 32 → x.e.getLsbD l = false → ∀ n, y.getV n l = x.g.getV n l ∧ y.getP n l = x.g.getP n l

/-! ## Instructions that write registers -/

/-- Integer add, sub, mul, mad, div, rem, min, max, abs, neg, varying and uniform (R118, R122-R124, R126, R127): the result of each lane, or of the
state, in D; every other register, lane and byte as it was. -/
def Obligations.IntegerArithmetic : Prop :=
  ∀ i s x o, arithCalc i = some o → Issues i s x → ∃ t y, exec i s = .next t ∧ Did x (o.eff x) t y ∧ State.sameMem s t
/-- Logic, shifts, funnel shift, fields, counts, byte gathers, moves, narrowing (R128-R133, R136, R172). -/
def Obligations.IntegerBits : Prop :=
  ∀ i s x o, bitsCalc i = some o → Issues i s x → ∃ t y, exec i s = .next t ∧ Did x (o.eff x) t y ∧ State.sameMem s t
/-- Carries, integer compares, classes, selection, promotions, votes, rejoin masks, `nop` (R27, R73, R125, R134-R136, R138-R141, R156, R179, R190). -/
def Obligations.PredicatesAndPromotions : Prop :=
  ∀ i s x E, predEff x i = some E → Issues i s x → ∃ t y, exec i s = .next t ∧ Did x E t y ∧ State.sameMem s t
/-- An affine result is its exact base mod 2^64 and its exact stride; a stride outside 32 bits raises AFF_OVF on the effective mask and nothing is
written (R74). -/
def Obligations.AffineResult : Prop :=
  ∀ i s x d b n, affCalc x i = some (d, b, n) → Issues i s x →
    (strideFits n → ∃ t y, exec i s = .next t ∧ Did x { a := some (d, { base := BitVec.ofInt 64 b, stride := BitVec.ofInt 32 n }) } t y ∧ State.sameMem s t)
    ∧ (¬strideFits n → FaultsIn i s x .affOvf x.s)
/-- Shuffles, integer reductions and scans, matches (R189, R191, R193, R194): only lanes of the effective mask are read. -/
def Obligations.CrossLane : Prop :=
  ∀ i s x E, crossEff x i = some E → Issues i s x → ∃ t y, exec i s = .next t ∧ Did x E t y ∧ State.sameMem s t
/-- Float arithmetic, minimum, maximum and the sign bit with none of the exceptions raised enabled (R145, R148, R150-R153, R155-R162): the rounded
result in D, its exceptions in FP_STATUS. -/
def Obligations.FloatArithmetic : Prop :=
  ∀ i s x o, arithF x i = some o ∨ signF x i = some o → o.quiet x → Issues i s x → ∃ t y, exec i s = .next t ∧ Did x (o.eff x) t y ∧ State.sameMem s t
/-- Float compares with none of their exceptions enabled (R135, R154). -/
def Obligations.FloatCompare : Prop :=
  ∀ i s x q, cmpF i = some q → Issues i s x → (compOf x q).bad x = 0#32 →
    ∃ t y, exec i s = .next t ∧ State.sameMem s t
      ∧ Did x { cmpEff x (compOf x q).cmb (compOf x q).pd (compOf x q).pc (fun l => ((compOf x q).f l).1) with fp := (compOf x q).fp x } t y
/-- Conversions between wide types; float reductions and scans (R167-R169, R192, R193). -/
def Obligations.FloatConversion : Prop :=
  ∀ i s x o, convF x i = some o → o.quiet x → Issues i s x → ∃ t y, exec i s = .next t ∧ Did x (o.eff x) t y ∧ State.sameMem s t
/-- Packed narrow arithmetic, insertion and extraction under the format register that the instruction names (R163-R166, R170, R171);
an element beyond the format's count raises ILLEGAL_OP. -/
def Obligations.PackedNarrow : Prop :=
  ∀ i s x fm f, fmtNo i = some fm → fmtOfWord (x.st.getFmt fm.toNat) = some f → Issues i s x →
    (∀ o, packF x f i = some o → o.quiet x → ∃ t y, exec i s = .next t ∧ Did x (o.eff x) t y ∧ State.sameMem s t)
    ∧ ∀ n, elemNo i = some n → f.count ≤ n → FaultsIn i s x .illegalOp x.s
/-- Each lane with an exception that FP_CTL enables parks with FP_TRAP at the instruction and receives no write; the other lanes complete; the
exceptions of every lane stand in FP_STATUS (R148). -/
def Obligations.EnabledExceptionsTrap : Prop :=
  (∀ i s x o, arithF x i = some o ∨ signF x i = some o ∨ convF x i = some o → Issues i s x → o.bad x ≠ 0#32 → o.Traps i s x)
  ∧ (∀ i s x fm f o, fmtNo i = some fm → fmtOfWord (x.st.getFmt fm.toNat) = some f → packF x f i = some o → Issues i s x → o.bad x ≠ 0#32 → o.Traps i s x)
  ∧ ∀ i s x q, cmpF i = some q → Issues i s x → (compOf x q).bad x ≠ 0#32 → (compOf x q).Traps i s x
/-- VALID of a format register (R84), ILLEGAL_OP on the whole effective mask of an instruction that names one whose VALID is 0, whatever its other
fields, and the four values at launch (R85). -/
def Obligations.FormatValidity : Prop :=
  (∀ e m spec : Nat, e < 16 → m < 16 → spec < 4 →
    (fmtValid e m spec = true ↔ e ≤ 8 ∧ m ≤ 10 ∧ (1 + e + m = 4 ∨ 1 + e + m = 6 ∨ 1 + e + m = 8 ∨ 1 + e + m = 16)
      ∧ (spec = 2 → e = 0) ∧ (spec = 0 ∨ spec = 1 → 1 ≤ e) ∧ (spec = 3 → e = 2 ∧ m = 1)))
  ∧ (∀ w : Word, (fmtWord w).getLsbD 31 = fmtValid (w.toNat % 16) (w.toNat / 2 ^ 4 % 16) (w.toNat / 2 ^ 8 % 4))
  ∧ (∀ i s x fm, fmtNo i = some fm → Issues i s x →
    let w := (x.st.getFmt fm.toNat).toNat
    (x.st.getFmt fm.toNat).getLsbD 31 = false ∨ fmtValid (w % 16) (w / 2 ^ 4 % 16) (w / 2 ^ 8 % 4) = false → FaultsIn i s x .illegalOp x.s)
  ∧ ({ fmt := launchFmts } : StRec).getFmt 0 = 0x88070134#32 ∧ ({ fmt := launchFmts } : StRec).getFmt 1 = 0x880F0025#32
  ∧ ({ fmt := launchFmts } : StRec).getFmt 2 = 0x84010312#32 ∧ ({ fmt := launchFmts } : StRec).getFmt 3 = 0x88000270#32

/-! ## Control flow, handlers, register budgets -/

/-- Transfers, `exit`, `yield`, and the waits at a rejoin (R175-R178, R180, R181): where each lane goes, where every target is aligned. -/
def Obligations.ControlFlow : Prop :=
  ∀ i s x E, goEff x i = some E → aligned x i → Issues i s x → ∃ t y, exec i s = .next t ∧ Did x E t y ∧ State.sameMem s t
/-- Targets from registers (R175): a lane whose target is no multiple of 4 parks with MEM_ALIGN at the transfer and receives no return address, the others
go to theirs and receive it; where no lane's is, the effective mask parks and nothing is written; every other register and every predicate stands. -/
def Obligations.MisalignedTargets : Prop :=
  ∀ i s x f, targetOf x i = some f → Issues i s x →
    ((∀ l, l < 32 → x.e.getLsbD l = true → f l % 4 ≠ 0) → FaultsIn i s x .memAlign x.s)
    ∧ ∃ t y, exec i s = .next t ∧ t.group? x.cur.team x.cur.grp = some y
      ∧ (∀ l, l < 32 → x.e.getLsbD l = true →
        (f l % 4 = 0 → (y.lane l).core = ((x.g.lane l).go x.c (.goto (BitVec.ofNat 64 (f l)))).core)
        ∧ (f l % 4 ≠ 0 → (y.recOf l).hasRec = true ∧ (y.recOf l).cls = FClass.memAlign.code ∧ (y.recOf l).pc = x.cur.pc ∧ (y.recOf l).off = x.cur.pos))
      ∧ (∀ c d a, i = .callIndirect c d a → ∀ n l, l < 32 →
        y.getV n l = if x.e.getLsbD l = true ∧ f l % 4 = 0 then regAfter 2 d (x.cur.pc + 12#64).toNat n (x.g.getV n l) else x.g.getV n l)
      ∧ ((∀ c d a, i ≠ .callIndirect c d a) → ∀ n l, l < 32 → y.getV n l = x.g.getV n l) ∧ ∀ n l, l < 32 → y.getP n l = x.g.getP n l
/-- `trap` and `brk` park the effective mask with their code; the lanes resume after the instruction (R184); a break that a debugger has claimed
also stops the team (R423). That the break itself only marks the team, which is suspended when the cycle ends, is the model's (log 24). -/
def Obligations.TrapAndBreak : Prop :=
  (∀ c code s x, Issues (.trap c code) s x →
    ∃ t y, exec (.trap c code) s = .next t ∧ Parks x { cls := .trap, lanes := x.e, code, after := true } x.s t y)
  ∧ ∀ c code s x, Issues (.brk c code) s x →
    ∃ t y, exec (.brk c code) s = .next t ∧ Parks x { cls := .brk, lanes := x.e, code, after := true, claimed := x.tm.claimed }
      (if x.tm.claimed then x.withTeam { x.tm with stopped := true } else x.s) t y
/-- `hret` (R186): with a resume record the lanes of the effective mask stand where it says, once the replays that are due have been performed; a
replay that must wait holds the path; without a record it raises ILLEGAL_OP. -/
def Obligations.ReturnFromHandler : Prop :=
  ∀ c s x, Issues (.hret c) s x →
    let waits := x.st.due x.e ≠ 0#32 ∧ x.s.replayWaits x.cur.team x.cur.grp x.cur.rc (x.st.due x.e) x.st.replay = true
    (x.st.hasRec = false → FaultsIn (.hret c) s x .illegalOp x.s)
    ∧ (x.st.hasRec = true → waits → ∃ t y, exec (.hret c) s = .next t ∧ Did x { stay := true } t y)
    ∧ (x.st.hasRec = true → ¬waits → ∀ g, x.replayed.group? x.cur.team x.cur.grp = some g → sameRegs x.g g →
      ∃ t y, exec (.hret c) s = .next t
        ∧ Leaves (x.from x.returned) { go := fun _ => .placed, r := fun r => { r with rpend := r.rpend &&& ~~~x.e, claimed := false } } x.replayed g t y)
/-- `vgrow` and `vshrink` (R254): VCUR becomes n where that changes it as each allows, the registers that `vgrow` adds read 0, and the rest stays; n above
VMAX, and 0, raise REG_BUDGET. -/
def Obligations.RegisterBudget : Prop :=
  (∀ c a s x, Issues (.vgrow c a) s x →
    let n := x.rdU 1 .zx a
    (x.g.vcur < n → n ≤ x.g.vmax → Budget (.vgrow c a) s x n x.g.vcur n)
    ∧ (n ≤ x.g.vcur → n ≤ x.g.vmax → ∃ t y, exec (.vgrow c a) s = .next t ∧ Did x {} t y)
    ∧ (x.g.vmax < n → FaultsIn (.vgrow c a) s x .regBudget x.s))
  ∧ ∀ c a s x, Issues (.vshrink c a) s x →
    let n := x.rdU 1 .zx a
    (n ≠ 0 → n < x.g.vcur → Budget (.vshrink c a) s x n 0 0)
    ∧ (n ≠ 0 → x.g.vcur ≤ n → ∃ t y, exec (.vshrink c a) s = .next t ∧ Did x {} t y)
    ∧ (n = 0 → FaultsIn (.vshrink c a) s x .regBudget x.s)

/-! ## Memory, synchronisation, engines, units: what each instruction puts in flight, publishes, holds at or changes -/

/-- Loads, stores, atomics, masked stores, pins (R230-R242, R253): each lane's access is in flight with its address, size and data; a releasing atomic
has published before its first lane's atomic (R223, R242), at its issue (log 13). -/
def Obligations.MemoryAccesses : Prop := ∀ i s x, Issues i s x → ∀ w ∈ memWorks x i, w.ok → Completes i s x w
/-- `publish`, `adopt`, `fence` complete at issue and wait for nothing (R219-R221, R243): with no older access of the group in flight the publication and the
adopt take their place at once, with some they are in flight and take it behind them (log 13), once none of those is in flight any more. -/
def Obligations.PublishAdoptFence : Prop := (∀ i s x, Issues i s x → ∀ w ∈ orderWorks x i, w.ok → Completes i s x w) ∧ OrderTakesPlace
/-- Barrier objects in team memory (R244-R246). -/
def Obligations.TeamBarriers : Prop := ∀ i s x, Issues i s x → ∀ w ∈ barWorks x i, w.ok → Completes i s x w
/-- Channels (R248, R249). That `chinit` also empties the router's list of slots and the marks of returned ones is the model's (log 33). -/
def Obligations.Channels : Prop := ∀ i s x, Issues i s x → ∀ w ∈ chanWorks x i, w.ok → Completes i s x w
/-- Copies and operand-buffer loads in flight (R250-R252, R267, R271); one that names another package's memory raises the copy count (R465), by the
translations at its issue (log 21). -/
def Obligations.CopiesInFlight : Prop := ∀ i s x, Issues i s x → ∀ w ∈ copyWorks x i, w.ok → Completes i s x w
/-- Operand buffers, fragments, matrix operations and tiles (R264-R291); a drain to another package's memory raises the copy count (R465), by the translations
at its issue (log 21). -/
def Obligations.MatrixInstructions : Prop := ∀ i s x, Issues i s x → ∀ w ∈ matrixWorks x i, w.ok → Completes i s x w
/-- Calls, receipts and tokens (R304-R308, R318, R319). -/
def Obligations.CallsAndTokens : Prop := ∀ i s x, Issues i s x → ∀ w ∈ callWorks x i, w.ok → Completes i s x w
/-- Barriers of a cluster, a die or a slice in global memory (R322), at the physical address `pa`. -/
def Obligations.GlobalBarriers : Prop := ∀ i s x pa, Issues i s x → ∀ w ∈ cbarWorks x pa i, w.ok → Completes i s x w
/-- Enqueues, launches, waits, deadlines, collectives (R393, R394, R403-R406, R467). That the publication of `enq`, `launch` and a collective takes its place
at the issue is the model's (log 13). -/
def Obligations.QueuesAndWaits : Prop := ∀ i s x, Issues i s x → ∀ w ∈ schedWorks x i, w.ok → Completes i s x w
/-- Reads and writes of special registers, field by field (R64, R83, R87-R90, R146, R216, R290, R324, R408, R409, R420, R421, R429, R445, R473). A write of
FP_STATUS clears the bits that are 1 in the source, but for those raised in the same cycle (R149). Reads show the registers as they stand before the cycle
(log 40); CL_WAYS as a mask, and a write of it that R427 does not allow, are the model's (log 37). -/
def Obligations.SpecialRegisters : Prop :=
  (∀ i s x, Issues i s x → ∀ w ∈ srWorks x i, w.ok → Completes i s x w)
  ∧ ∀ c a s x, Issues (.setsr c 0x101#12 a) s x →
    let g := { x.g with fpStatus := (x.g.fpStatus &&& ~~~BitVec.ofNat 32 (x.rdU 1 .zx a)) ||| x.g.fpRaised }
    ∃ t y, exec (.setsr c 0x101#12 a) s = .next t ∧ Leaves (x.from g) {} x.s g t y
/-- Invalidation of translations, and probes (R416, R417). That `tlbinv` takes effect on every die at its issue is the model's (log 41). -/
def Obligations.Translations : Prop := ∀ i s x, Issues i s x → ∀ w ∈ tlbWorks x i, w.ok → Completes i s x w
/-- Debug access (R422-R425). The model's own: the free values of a refused read and of a forced write (log 5), the team that a stop or the end of a grid
suspends (log 24), and the limits of the selectors and of teams known from images alone (log 40). -/
def Obligations.DebugAccess : Prop := ∀ i s x, Issues i s x → ∀ w ∈ dbgWorks x i, w.ok → Completes i s x w

/-- Accesses, pins, copies, matrix and queue instructions that no lane may make, barrier objects out of place, words that cannot be read, translations
and streams named badly: the class and the failed address, with nothing done (R231, R236, R246, R250, R253, R268, R271, R273, R275, R276, R286-R288, R319-R322,
R393, R405, R416, R417, R467). Where only some lanes fault, those park and the others' accesses are in flight (R255). What the owner of another package's
word answers is an input of the model (log 23). -/
def Obligations.AccessFaults : Prop :=
  (∀ i s x, Issues i s x →
    ∀ f ∈ memFails x i ++ copyFails x i ++ matrixFails x i ++ schedFails x i ++ placeFails x i ++ tlbFails x i, f.ok → f.Parks i s x)
  ∧ ∀ i s x, Issues i s x → ∀ w ∈ splits x i, w.ok → ∃ t y g, exec i s = .next t ∧ w.s.group? x.cur.team x.cur.grp = some g ∧ Splits x w g t y
/-- Barriers, channels and calls whose object is not valid, or has nothing left to arrive at, commit or free: found once the group's older accesses of
team memory have their places (R226, R245, R249, R304, R321). -/
def Obligations.SynchronisationFaults : Prop := ∀ i s x, Issues i s x → ∀ f ∈ syncFails x i, f.ok → f.Parks i s x

/-! ## Rows of other agents -/

/-- Clause starts, releases, timeouts and deadlocks at rejoins (R23-R26, R180-R182). The model's own: CLAUSE_FMT for an offset beyond LEN (log 45), and the
check before WAIT is tested, a word that cannot be fetched before a breach of form (log 48). -/
def Obligations.PathRows : Prop := TakesPlace pathTurns
/-- Waits that end: barriers, channels, tokens, words in memory (R246, R249, R319, R322, R405, R406); each of the seven rows takes place where its wait is
over. That a `waitv` whose word can no longer be read ends at its deadline with p = 1 and an adopt is the model's (log 35). -/
def Obligations.WaitRows : Prop := TakesPlace waitTurns ∧ WaitsEnd
/-- The check of an access or engine operation (R256-R259). That a store is performed in the step of its check, once older atomics to its bytes are done, is
the model's (log 12), and so is the order of a group's checks (log 11). -/
def Obligations.CheckRows : Prop := TakesPlace fun s i => match i with | .accessCheck _ => opTurns s i | _ => []
/-- Completions: loads, stores, atomics, pins, copies, matrix operations, translations, enqueues, launches, collectives (R233, R251, R263, R278-R288, R308,
R393, R394, R417, R467); and what the rules say of the results of atomics (R240, R242), of `mma` and its operands (R268, R277-R282), of drains and the
quantising store (R105-R116, R284, R285), of an append (R393) and of collectives (R468, R469). The model's own: free values (log 5), the moment of a store
(log 12), which row completes which load (log 19), the meters of a lease (R441, log 28), a launch whose image cannot be read (log 35), and the operand buffer
read at completion (log 42). -/
def Obligations.CompletionRows : Prop :=
  TakesPlace (fun s i => match i with | .accessCheck _ => [] | _ => opTurns s i) ∧ AtomicRules ∧ MmaRules ∧ BlockRules ∧ DrainRules ∧ CollRules ∧ Appends
/-- Late faults and poison reach their lanes (R258-R263). -/
def Obligations.ParkRows : Prop := TakesPlace parkTurns
/-- The router and the units of a cluster (R304-R318, R325-R386); and what the rules say of the results of the binner, the depth-stencil unit, the blender,
the texture filter and the ray traversal unit (R331-R333, R346-R350, R362-R364, R368-R376); the encoder (R439, R440). The model's own: what the encoder's
lanes write (log 29), the router's list of handed slots (log 33), the ASID of a binding (log 34), and a candidate that has no T any more (log 46). -/
def Obligations.UnitRows : Prop := TakesPlace unitTurns ∧ BinnerRules ∧ DepthRules ∧ BlendRules ∧ TextureRules ∧ RayRules
/-- Queues, admission, pre-emption, deadlines, sleep, fault records (R209, R323, R391-R407, R420); which waiting task comes first and which core takes it
(R196, R396-R398); the fields of a queue whose head is taken and of its grid (R391), and of a suspended team (R206, R401). The model's own: ASID 0 of the fault
ring and the lines that a core holds (log 53), the ticks that a suspended wait keeps and what an image receives (log 35). -/
def Obligations.SchedulerRows : Prop := TakesPlace schedTurns ∧ Chooses ∧ TakesHead ∧ Suspends
/-- Commands of the rings (R432-R441, R470, R472); the append of LAUNCH (R393); what a reshaping leaves (R437, R438). The model's own: a refused command
completes, UNBIND is busy only while a grid of the queue runs, RESHAPE waits for checked operations (log 36), REMAP waits for one answer (log 38), and a lease
begins with the lender's lines written back (log 28). -/
def Obligations.RingRows : Prop := TakesPlace ringTurns ∧ Appends ∧ Reshapes
/-- Slices: doorbells, control, reset, freezing; leases that run out (R432, R441-R444, R447); what a reset and a freeze leave (R442, R444). The model's own: FROZEN does not
wait for a `crecv` in flight (log 36), and firmware teams stand at cluster 12 (log 27). -/
def Obligations.SliceRows : Prop := TakesPlace sliceTurns ∧ Resets ∧ Freezes
/-- Memory channels, power, ports (R449, R450, R455-R458). Which read an error poisons that no entry of the poison table can hold is the model's (log 32). -/
def Obligations.LinkRows : Prop := TakesPlace linkTurns
/-- Device and function reset, boot, measurement, attestation (R447, R451-R454). The model's own: memory kept over a device reset, the measurements of a copy
that fails half way, the ports at a reset of the PF (log 31), the answers in recovery (log 30), and the codes of SPDM (log 54). -/
def Obligations.HostRows : Prop := TakesPlace hostTurns
/-- Requests of other packages, judged by the export table when they arrive, and requests that are lost (R460-R466, R471). The model's own: the moment of the
judgement and of the guard's check, what a frozen slice answers, bytes that are dropped (log 38), and an owner's verdicts part by part (log 23). -/
def Obligations.FabricRows : Prop := TakesPlace fabricTurns ∧ Judged Admitted
/-- Writes of registers, by a window of BAR0, by firmware or by a group, each in its place (R216, R324, R409, R420, R421, R427, R429, R444, R445, R456, R473).
Registers of a die or a cluster are written by groups that run there alone (R429). CL_WAYS as a mask, a write of it that R427 does not allow, and the bound of
PIN_QUOTA by that mask are the model's (log 37). -/
def Obligations.RegisterWriteRows : Prop := TakesPlace writeTurns
/-- The rows in which the issuing path writes its own registers (R83, R146, R149, R421). -/
def Obligations.OwnRegisterRows : Prop := TakesPlace ownTurns
end

