-- ==== Sys2Proof/Laws/Encode.lean ====
section
/-!
SUPPORT. The fields of a word come back from its bits, and each operand from its code (spec/01 R15-R17, spec/02 R48, R61).
-/
namespace Sys2Proof

/-! ## Bits of a concatenation -/

theorem ext_hi {w m : Nat} (n k : Nat) (x : BitVec w) (y : BitVec m) (h : m ≤ n) : (x ++ y).extractLsb' n k = x.extractLsb' (n - m) k := by
  apply BitVec.eq_of_getLsbD_eq
  intro i hi
  rw [BitVec.getLsbD_extractLsb', BitVec.getLsbD_extractLsb', BitVec.getLsbD_append, if_neg (by omega), show n + i - m = n - m + i by omega]
theorem ext_lo {w m : Nat} (n k : Nat) (x : BitVec w) (y : BitVec m) (h : n + k ≤ m) : (x ++ y).extractLsb' n k = y.extractLsb' n k := by
  apply BitVec.eq_of_getLsbD_eq
  intro i hi
  rw [BitVec.getLsbD_extractLsb', BitVec.getLsbD_extractLsb', BitVec.getLsbD_append, if_pos (by omega)]
theorem ext_all {w : Nat} (x : BitVec w) : x.extractLsb' 0 w = x := by simp
theorem ext_wide {w m : Nat} (k : Nat) (x : BitVec w) (h : k ≤ w) (hm : w ≤ m) : (x.setWidth m).extractLsb' 0 k = x.extractLsb' 0 k := by
  apply BitVec.eq_of_getLsbD_eq
  intro i hi
  rw [BitVec.getLsbD_extractLsb', BitVec.getLsbD_extractLsb', BitVec.getLsbD_setWidth, decide_eq_true (by omega : 0 + i < m), Bool.true_and]
theorem bit_hi {w m : Nat} (n : Nat) (x : BitVec w) (y : BitVec m) (h : m ≤ n) : (x ++ y).getLsbD n = x.getLsbD (n - m) := by
  rw [BitVec.getLsbD_append, if_neg (by omega)]
theorem bit_lo {w m : Nat} (n : Nat) (x : BitVec w) (y : BitVec m) (h : n < m) : (x ++ y).getLsbD n = y.getLsbD n := by
  rw [BitVec.getLsbD_append, if_pos h]
theorem bit_one (b : Bool) : (BitVec.ofBool b).getLsbD 0 = b := by cases b <;> rfl

theorem Fields.ofBits_toBits (f : Fields) : Fields.ofBits f.toBits = f := by
  obtain ⟨maj, min, ⟨gp, gn, fin, yld, rua, rub, stall⟩, d, a, b, e, mod, imm⟩ := f
  simp (disch := omega) only [Fields.ofBits, Fields.toBits, ext_hi, ext_lo, bit_hi, bit_lo, Nat.reduceSub, Nat.sub_self, ext_all, bit_one]

/-! ## Options and file numbers -/

theorem IT.trip (t : IT) : IT.ofBits t.bits = some t := by cases t <;> rfl
theorem FT.trip (t : FT) : FT.ofBits t.bits = some t := by cases t <;> rfl
theorem Rnd.trip (t : Rnd) : Rnd.ofBits t.bits = some t := by cases t <;> rfl
theorem Cmb.trip (t : Cmb) : Cmb.ofBits t.bits = some t := by cases t <;> rfl
theorem ICond.trip (t : ICond) : ICond.ofBits t.bits = some t := by cases t <;> rfl
theorem FCond.trip (t : FCond) : FCond.ofBits t.bits = some t := by cases t <;> rfl
theorem NT.trip (t : NT) : NT.ofBits t.bits = some t := by cases t <;> rfl
theorem ShflMode.trip (t : ShflMode) : ShflMode.ofBits t.bits = some t := by cases t <;> rfl
theorem RedOp.trip (t : RedOp) : RedOp.ofBits t.bits = some t := by cases t <;> rfl
theorem FRedOp.trip (t : FRedOp) : FRedOp.ofBits t.bits = some t := by cases t <;> rfl
theorem MatchTy.trip (t : MatchTy) : MatchTy.ofBits t.bits = some t := by cases t <;> rfl
theorem Flg.trip (t : Flg) : Flg.ofBits t.bits = some t := by cases t <;> rfl
theorem AC.trip (t : AC) : AC.ofBits t.bits = some t := by cases t <;> rfl
theorem Cnt.trip (t : Cnt) : Cnt.ofBits t.bits = some t := by cases t <;> rfl
theorem Scope.trip (t : Scope) : Scope.ofBits t.bits = some t := by cases t <;> rfl
theorem AtomOp.trip (t : AtomOp) : AtomOp.ofBits t.bits = some t := by cases t <;> rfl
theorem WCond.trip (t : WCond) : WCond.ofBits t.bits = some t := by cases t <;> rfl
theorem MemOp.trip (m : MemOp) : MemOp.ofBits m.bits = some m := by
  obtain ⟨p, c, t, off⟩ := m
  simp (disch := omega) only [MemOp.ofBits, MemOp.bits, ext_hi, ext_lo, Nat.reduceSub, Nat.sub_self, ext_all]
  cases p <;> cases c <;> cases t <;> rfl
theorem AtomFld.trip (m : AtomFld) : AtomFld.ofBits m.bits = some m := by
  obtain ⟨p, c, t, q, off⟩ := m
  simp (disch := omega) only [AtomFld.ofBits, AtomFld.bits, ext_hi, ext_lo, bit_hi, bit_lo, Nat.reduceSub, Nat.sub_self, ext_all, bit_one]
  cases p <;> cases c <;> cases q <;> rfl
theorem codeOf_toNat {n : Nat} (h : n < 16) : (codeOf n).toNat = n := by simp only [codeOf, BitVec.toNat_ofNat]; omega

/-! ## Destinations and sources -/

theorem runOk_lt {hi k n : Nat} (h : runOk hi k n = true) : n ≤ hi ∧ (k = 0 → n = 0) ∧ (k ≠ 0 → n < hi) := by
  simp only [runOk, Bool.and_eq_true, beq_iff_eq, decide_eq_true_eq] at h
  refine ⟨by omega, fun hk => ?_, fun hk => by omega⟩
  subst hk
  simpa using h.1
theorem Dst.trip_reg {n : Nat} (h : n < 511) : Dst.ofCode (BitVec.ofNat 9 n) = .reg n := by
  have e : (BitVec.ofNat 9 n).toNat = n := by rw [BitVec.toNat_ofNat]; omega
  rw [Dst.ofCode, if_neg fun he => absurd (congrArg BitVec.toNat he) (by rw [e]; show n ≠ 511; omega), e]
theorem Dst.tripV {k : Nat} {d : Dst} (h : d.okV k = true) : Dst.ofCode d.code = d := by
  cases d with
  | reg n => exact Dst.trip_reg (by have := (runOk_lt h).1; omega)
  | discard => rfl
theorem Dst.tripU {k : Nat} {d : Dst} (h : d.okU k = true) : Dst.ofCode d.code = d := by
  cases d with
  | reg n => exact Dst.trip_reg (by have := (runOk_lt h).1; omega)
  | discard => rfl
theorem Dst.tripA {d : Dst} (h : d.okA = true) : Dst.ofCode d.code = d := by
  cases d with
  | reg n => exact Dst.trip_reg (by simp only [Dst.okA, decide_eq_true_eq] at h; omega)
  | discard => rfl

/-- IMM holds the value of the source, where the source is coded 510 (R17). -/
def Src.immIs (a : Src) (imm : Word) : Prop := ∀ v, a = .imm v → imm = v
theorem immIsN {a : Src} {imm : Word} (h : a.noImm = true) : a.immIs imm := by rintro v rfl; cases h
theorem immIs1 {a : Src} : a.immIs (immOf [a]) := by rintro v rfl; rfl
theorem immOf_same {l : List Src} {v : Word} (hs : sameImm l = true) (h : Src.imm v ∈ l) : immOf l = v := by
  induction l with
  | nil => cases h
  | cons x xs ih =>
    cases x with
    | imm w =>
      show w = v
      cases h with
      | head => rfl
      | tail _ h => simpa using List.all_eq_true.mp hs _ h
    | _ => exact ih (by simpa [sameImm] using hs) (by simpa using h)
theorem immIs {a : Src} {l : List Src} (hs : sameImm l = true) (h : a ∈ l) : a.immIs (immOf l) := by rintro v rfl; exact immOf_same hs h
theorem immIsZ {a b : Src} (ha : a.immZero = true) (hb : b.immZero = true) : a.immIs (immOf [a, b]) ∧ b.immIs (immOf [a, b]) := by
  constructor <;> rintro v rfl
  · rfl
  · simp only [Src.immZero, beq_iff_eq] at hb
    subst hb
    cases a <;> first | rfl | (simp only [Src.immZero, beq_iff_eq] at ha; subst ha; rfl)

theorem Src.tripV {k : Nat} {a : Src} {imm : Word} (h : a.okV k = true) (hi : a.immIs imm) : Src.ofV imm a.code = a := by
  cases a with
  | reg n =>
    have := (runOk_lt h).1
    have e : (BitVec.ofNat 9 n).toNat = n := by rw [BitVec.toNat_ofNat]; omega
    rw [Src.code, Src.ofV, if_neg fun he => absurd (congrArg BitVec.toNat he) (by rw [e]; show n ≠ 510; omega),
      if_neg fun he => absurd (congrArg BitVec.toNat he) (by rw [e]; show n ≠ 511; omega), e]
  | imm v => rw [hi v rfl]; rfl
  | zero => rfl
  | lane => cases h
  | sys n => cases h
theorem Src.tripA {a : Src} {imm : Word} (h : a.okA = true) (hi : a.immIs imm) : Src.ofA imm a.code = a := by
  cases a with
  | reg n =>
    simp only [Src.okA, decide_eq_true_eq] at h
    have e : (BitVec.ofNat 9 n).toNat = n := by rw [BitVec.toNat_ofNat]; omega
    rw [Src.code, Src.ofA, if_neg fun he => absurd (congrArg BitVec.toNat he) (by rw [e]; show n ≠ 510; omega),
      if_neg fun he => absurd (congrArg BitVec.toNat he) (by rw [e]; show n ≠ 511; omega),
      if_neg fun he => absurd (congrArg BitVec.toNat he) (by rw [e]; show n ≠ 64; omega), e]
  | imm v => rw [hi v rfl]; rfl
  | zero => rfl
  | lane => rfl
  | sys n => cases h
theorem Src.tripU {k : Nat} {a : Src} {imm : Word} (h : a.okU k = true) (hi : a.immIs imm) : Src.ofU imm a.code = a := by
  cases a with
  | reg n =>
    have h1 := runOk_lt h
    have h2 : n < 128 := by by_cases hk : k = 0 <;> omega
    have e : (BitVec.ofNat 9 n).toNat = n := by rw [BitVec.toNat_ofNat]; omega
    rw [Src.code, Src.ofU, if_neg fun he => absurd (congrArg BitVec.toNat he) (by rw [e]; show n ≠ 510; omega),
      if_neg fun he => absurd (congrArg BitVec.toNat he) (by rw [e]; show n ≠ 511; omega), e, if_neg (by omega)]
  | imm v => rw [hi v rfl]; rfl
  | zero => rfl
  | lane => cases h
  | sys n =>
    have := (runOk_lt h).1
    have e : (BitVec.ofNat 9 (128 + n)).toNat = 128 + n := by rw [BitVec.toNat_ofNat]; omega
    rw [Src.code, Src.ofU, if_neg fun he => absurd (congrArg BitVec.toNat he) (by rw [e]; show 128 + n ≠ 510; omega),
      if_neg fun he => absurd (congrArg BitVec.toNat he) (by rw [e]; show 128 + n ≠ 511; omega), e, if_pos (by omega), show 128 + n - 128 = n by omega]
theorem Src.tripBaseG {ac : AC} {a : Src} {imm : Word} (h : baseG ac a = true) : Src.ofBase imm ac a.code = a := by
  simp only [baseG, Bool.and_eq_true] at h
  cases ac
  · exact Src.tripA h.2 (immIsN h.1)
  · exact Src.tripV h.2 (immIsN h.1)
  · exact Src.tripU h.2 (immIsN h.1)
theorem Src.tripBaseT {ac : AC} {a : Src} {imm : Word} (h : baseT ac a = true) : Src.ofBase imm ac a.code = a := by
  simp only [baseT, Bool.and_eq_true] at h
  cases ac
  · exact Src.tripA h.2 (immIsN h.1)
  · exact Src.tripV h.2 (immIsN h.1)
  · exact Src.tripU h.2 (immIsN h.1)
/-- The third source of an atomic: a value for `cas`, else coded 0 (R61, R240). -/
theorem Src.tripCas {k : Nat} {op : AtomOp} {e : Src} {imm : Word}
    (h : (if (op == AtomOp.cas) = true then Src.okV k e && e.noImm else e == Src.reg 0) = true) : Src.ofV imm e.code = e := by
  split at h
  · simp only [Bool.and_eq_true] at h
    exact Src.tripV h.1 (immIsN h.2)
  · rw [beq_iff_eq] at h
    subst h
    rfl

/-! ## Families of MAJ (R51-R63) -/

theorem raw_decodeControl {f : Fields} (h : f.maj.extractLsb' 4 4 = 0#4) : rawDecode f = decodeControl f := by rw [rawDecode, h]; rfl
theorem raw_decodeIntV {f : Fields} (h : f.maj.extractLsb' 4 4 = 1#4) : rawDecode f = decodeIntV f := by rw [rawDecode, h]; rfl
theorem raw_decodeAffine {f : Fields} (h : f.maj.extractLsb' 4 4 = 2#4) : rawDecode f = decodeAffine f := by rw [rawDecode, h]; rfl
theorem raw_decodeIntS {f : Fields} (h : f.maj.extractLsb' 4 4 = 3#4) : rawDecode f = decodeIntS f := by rw [rawDecode, h]; rfl
theorem raw_decodeFltV {f : Fields} (h : f.maj.extractLsb' 4 4 = 4#4) : rawDecode f = decodeFltV f := by rw [rawDecode, h]; rfl
theorem raw_decodeMem {f : Fields} (h : f.maj.extractLsb' 4 4 = 7#4) : rawDecode f = decodeMem f := by rw [rawDecode, h]; rfl
theorem raw_decodeCvt {f : Fields} (h : f.maj.extractLsb' 4 4 = 5#4 ∧ f.maj.getLsbD 3 = true) : rawDecode f = decodeCvt f := by
  rw [rawDecode, h.1, h.2]; rfl
theorem raw_decodePack {f : Fields} (h : f.maj.extractLsb' 4 4 = 5#4 ∧ f.maj.getLsbD 3 = false) : rawDecode f = decodePack f := by
  rw [rawDecode, h.1, h.2]; rfl
theorem raw_decodeCross {f : Fields} (h : f.maj.extractLsb' 4 4 = 6#4 ∧ f.maj.getLsbD 3 = true) : rawDecode f = decodeCross f := by
  rw [rawDecode, h.1, h.2]; rfl
theorem raw_decodeFltS {f : Fields} (h : f.maj.extractLsb' 4 4 = 6#4 ∧ f.maj.getLsbD 3 = false) : rawDecode f = decodeFltS f := by
  rw [rawDecode, h.1, h.2]; rfl
theorem raw_decodeSys {f : Fields} (h : f.maj.extractLsb' 4 4 ∈ [9#4, 10#4, 11#4]) : rawDecode f = decodeSys f := by
  simp only [List.mem_cons, List.not_mem_nil, or_false] at h
  rcases h with h | h | h <;> (rw [rawDecode, h]; rfl)

/-! ## From the fields to the word -/

/-- An instruction that its fields name is the one its word decodes to. -/
theorem decode_encode {i : Instr} {f : Fields} (he : encodeFields i = some f) (hj : encodeFields i.sameWord = some f)
    (hw : i.sameWord.wellFormed = true) (hr : rawDecode f = some i.sameWord) : (encode i).map decode = some (.ok i.sameWord) := by
  have hn : ¬(f.maj = 0#8 ∧ f.min = 1#4) := by
    rintro ⟨h1, h2⟩
    have : rawDecode f = none := by rw [rawDecode, h1]; show decodeControl f = none; rw [decodeControl, h1, h2]; rfl
    rw [this] at hr
    cases hr
  rw [encode, he]
  show some (decode f.toBits) = _
  rw [decode, Fields.ofBits_toBits, decodeFields, if_neg hn, hr]
  simp only [hw, hj, if_true]

end Sys2Proof
end

