-- ==== Sys2Proof/Laws/SMap.lean ====
section
/-!
SUPPORT. Sparse maps: reading after writing and erasing, and the canonical form that every write keeps.
-/
namespace Sys2Proof.SMap
variable {α : Type}

/-! ## Reading back -/

@[simp] theorem find?_nil (k : Nat) : find? ([] : SMap α) k = none := rfl
theorem find?_put (m : SMap α) (k j : Nat) (v : α) : (m.put k v).find? j = if k = j then some v else m.find? j := by
  induction m with
  | nil => simp only [put, find?]
  | cons p t ih =>
    obtain ⟨i, w⟩ := p
    simp only [put]
    split
    · simp only [find?]
    · split
      · subst_vars; simp only [find?]; split <;> simp_all
      · simp only [find?, ih]; split <;> split <;> simp_all
@[simp] theorem find?_put_self (m : SMap α) (k : Nat) (v : α) : (m.put k v).find? k = some v := by simp [find?_put]
theorem find?_put_ne (m : SMap α) {k j : Nat} (v : α) (h : k ≠ j) : (m.put k v).find? j = m.find? j := by simp [find?_put, h]

theorem find?_filter (m : SMap α) (f : Nat → Bool) (j : Nat) : find? (m.filter fun p => f p.1) j = if f j then m.find? j else none := by
  induction m with
  | nil => simp
  | cons p t ih =>
    obtain ⟨i, w⟩ := p
    by_cases hi : f i <;> by_cases hj : i = j <;> simp_all [find?]
/-- A filter that keeps every pair of a key. -/
theorem find?_filter_keep (m : SMap α) (f : Nat × α → Bool) (k : Nat) (h : ∀ v, f (k, v) = true) : find? (m.filter f) k = m.find? k := by
  induction m with
  | nil => rfl
  | cons p t ih =>
    obtain ⟨j, w⟩ := p
    by_cases hj : j = k
    · subst hj; simp [h w, find?]
    · by_cases hf : f (j, w) = true
      · simp [hf, find?, hj, ih]
      · simp [hf, find?, hj, ih]
theorem find?_erase (m : SMap α) (k j : Nat) : (m.erase k).find? j = if k = j then none else m.find? j := by
  rw [erase, find?_filter m (fun i => i != k)]
  by_cases h : k = j
  · subst h; simp
  · rw [if_neg h, if_pos (by simpa using fun e => h e.symm)]
@[simp] theorem find?_erase_self (m : SMap α) (k : Nat) : (m.erase k).find? k = none := by simp [find?_erase]

theorem get_set [Inhabited α] [DecidableEq α] (m : SMap α) (k j : Nat) (v : α) : (m.set k v).get j = if k = j then v else m.get j := by
  unfold get set
  split
  · rw [find?_erase]; split <;> simp_all
  · rw [find?_put]; split <;> simp_all
@[simp] theorem get_set_self [Inhabited α] [DecidableEq α] (m : SMap α) (k : Nat) (v : α) : (m.set k v).get k = v := by simp [get_set]
theorem get_set_ne [Inhabited α] [DecidableEq α] (m : SMap α) {k j : Nat} (v : α) (h : k ≠ j) : (m.set k v).get j = m.get j := by
  simp [get_set, h]
theorem get_put [Inhabited α] (m : SMap α) (k j : Nat) (v : α) : (m.put k v).get j = if k = j then v else m.get j := by
  unfold get; rw [find?_put]; split <;> simp
theorem get_erase [Inhabited α] (m : SMap α) (k j : Nat) : (m.erase k).get j = if k = j then default else m.get j := by
  unfold get; rw [find?_erase]; split <;> simp

/-- A key outside the run keeps its value; one inside holds the run's. -/
theorem get_setRun [Inhabited α] [DecidableEq α] (vs : List α) (m : SMap α) (k j : Nat) :
    (m.setRun k vs).get j = if k ≤ j ∧ j < k + vs.length then vs.getD (j - k) default else m.get j := by
  induction vs generalizing m k with
  | nil => rw [setRun, if_neg (by rw [List.length_nil]; omega)]
  | cons v vs ih =>
    rw [setRun, ih, get_set, List.length_cons]
    by_cases h1 : k = j
    · subst h1; rw [if_neg (by omega), if_pos rfl, if_pos (by omega), Nat.sub_self]; rfl
    · by_cases h2 : k + 1 ≤ j ∧ j < k + 1 + vs.length
      · rw [if_pos h2, if_pos (by omega)]
        have : j - k = (j - (k + 1)) + 1 := by omega
        rw [this, List.getD_cons_succ]
      · rw [if_neg h2, if_neg h1, if_neg (by omega)]

theorem get_clearRange [Inhabited α] (m : SMap α) (lo hi j : Nat) : (m.clearRange lo hi).get j = if lo ≤ j ∧ j < hi then default else m.get j := by
  unfold get clearRange
  rw [find?_filter m fun i => !(decide (lo ≤ i) && decide (i < hi))]
  by_cases h : lo ≤ j ∧ j < hi
  · rw [if_pos h, if_neg (by simp [h])]; rfl
  · rw [if_neg h, if_pos (by simp only [Bool.not_eq_true', Bool.and_eq_false_iff, decide_eq_false_iff_not]; omega)]

/-! ## Writing twice -/

theorem put_put (m : SMap α) (k : Nat) (v w : α) : (m.put k v).put k w = m.put k w := by
  induction m with
  | nil => simp [put]
  | cons p t ih =>
    obtain ⟨i, u⟩ := p
    simp only [put]
    split
    · simp [put]
    · split <;> simp_all [put]
theorem erase_put (m : SMap α) (k : Nat) (v : α) : (m.put k v).erase k = m.erase k := by
  induction m with
  | nil => simp [put, erase]
  | cons p t ih =>
    obtain ⟨i, u⟩ := p
    simp only [put]
    unfold erase at *
    split
    · simp [List.filter_cons]
    · split
      · simp_all
      · simp [List.filter_cons, ih]

/-! ## The canonical form -/

theorem rising_weaken (m : SMap α) (k : Nat) : rising (some k) m = true → rising none m = true := by
  cases m with
  | nil => simp [rising]
  | cons p t => simp only [rising, Bool.and_eq_true]; exact fun h => ⟨trivial, h.2⟩
theorem rising_lower (m : SMap α) {j k : Nat} (h : j ≤ k) : rising (some k) m = true → rising (some j) m = true := by
  cases m with
  | nil => simp [rising]
  | cons p t => simp only [rising, Bool.and_eq_true, decide_eq_true_eq]; exact fun hr => ⟨by omega, hr.2⟩
theorem rising_put (m : SMap α) (lo : Option Nat) (k : Nat) (v : α) (hlo : ∀ l, lo = some l → l < k) :
    rising lo m = true → rising lo (m.put k v) = true := by
  induction m generalizing lo with
  | nil => intro _; cases lo <;> simp_all [put, rising]
  | cons p t ih =>
    obtain ⟨i, u⟩ := p
    intro h
    simp only [rising, Bool.and_eq_true] at h
    simp only [put]
    split
    · next hk => cases lo <;> simp_all [rising]
    · split
      · subst_vars; cases lo <;> simp_all [rising]
      · have := ih (some i) (by intro l hl; cases hl; omega) h.2
        simp only [rising, Bool.and_eq_true]; exact ⟨h.1, this⟩
theorem rising_filter (m : SMap α) (f : Nat × α → Bool) (lo : Option Nat) : rising lo m = true → rising lo (m.filter f) = true := by
  induction m generalizing lo with
  | nil => simp [rising]
  | cons p t ih =>
    obtain ⟨i, u⟩ := p
    intro h
    simp only [rising, Bool.and_eq_true] at h
    simp only [List.filter_cons]
    split
    · simp only [rising, Bool.and_eq_true]; exact ⟨h.1, ih _ h.2⟩
    · cases lo with
      | none => exact rising_weaken _ i (ih _ h.2)
      | some l => have := h.1; simp only [decide_eq_true_eq] at this; exact rising_lower _ (by omega) (ih _ h.2)

theorem all_put (m : SMap α) (f : Nat × α → Bool) (k : Nat) (v : α) (hv : f (k, v) = true) : m.all f = true → (m.put k v).all f = true := by
  induction m with
  | nil => simp [put, hv]
  | cons p t ih =>
    obtain ⟨i, u⟩ := p
    intro h
    simp only [List.all_cons, Bool.and_eq_true] at h
    simp only [put]
    split
    · simp only [List.all_cons, hv, h.1, h.2]; rfl
    · split
      · simp only [List.all_cons, hv, h.2]; rfl
      · simp only [List.all_cons, h.1, ih h.2]; rfl

theorem wf_filter [Inhabited α] [DecidableEq α] (m : SMap α) (f : Nat × α → Bool) : m.wf = true → wf (m.filter f) = true := by
  unfold wf
  simp only [Bool.and_eq_true]
  exact fun h => ⟨rising_filter m f none h.1, List.all_eq_true.mpr fun p hp => List.all_eq_true.mp h.2 p (List.mem_filter.mp hp).1⟩
theorem wf_erase [Inhabited α] [DecidableEq α] (m : SMap α) (k : Nat) (h : m.wf = true) : (m.erase k).wf = true := wf_filter m _ h
theorem wf_clearRange [Inhabited α] [DecidableEq α] (m : SMap α) (lo hi : Nat) (h : m.wf = true) : (m.clearRange lo hi).wf = true :=
  wf_filter m _ h
/-- Every write keeps the canonical form: a default value is removed, another is placed in order. -/
theorem wf_set [Inhabited α] [DecidableEq α] (m : SMap α) (k : Nat) (v : α) (h : m.wf = true) : (m.set k v).wf = true := by
  unfold set
  split
  · exact wf_erase m k h
  · next hv =>
    unfold wf at *
    simp only [Bool.and_eq_true] at *
    exact ⟨rising_put m none k v (by simp) h.1, all_put m _ k v (by simpa using hv) h.2⟩
theorem wf_setRun [Inhabited α] [DecidableEq α] (vs : List α) (m : SMap α) (k : Nat) (h : m.wf = true) : (m.setRun k vs).wf = true := by
  induction vs generalizing m k with
  | nil => exact h
  | cons v vs ih => exact ih _ _ (wf_set m k v h)
@[simp] theorem wf_nil [Inhabited α] [DecidableEq α] : wf ([] : SMap α) = true := rfl

end Sys2Proof.SMap
end

