-- ==== Sys2Proof/Laws/Group.lean ====
section
/-!
SUPPORT. Masks, lanes and register files: reading back what the operations of Machine/Ops.lean and Machine/Operands.lean write.
-/
namespace Sys2Proof.Machine

/-! ## Masks -/

theorem getLsbD_maskUpTo (f : Nat → Bool) (n l : Nat) (hn : n ≤ 32) : (maskUpTo f n).getLsbD l = (decide (l < n) && f l) := by
  induction n with
  | zero => simp [maskUpTo]
  | succ n ih =>
    have key : (if f n then 1#32 <<< n else 0#32).getLsbD l = (decide (l = n) && f n) := by
      cases f n
      · simp
      · simp only [if_true, BitVec.getLsbD_shiftLeft, BitVec.getLsbD_one, Bool.and_true]
        by_cases h : l = n
        · subst h; simp; omega
        · have : ¬ (l - n = 0 ∧ ¬ l < n) := by omega
          simp [h]; omega
    simp only [maskUpTo, BitVec.getLsbD_or, ih (by omega), key]
    by_cases h : l = n
    · subst h; simp
    · have : decide (l < n + 1) = decide (l < n) := by simp; omega
      rw [this, decide_eq_false h, Bool.false_and, Bool.or_false]
@[simp] theorem getLsbD_maskOf (f : Nat → Bool) (l : Nat) : (maskOf f).getLsbD l = (decide (l < 32) && f l) := getLsbD_maskUpTo f 32 l (by omega)
theorem getLsbD_ge {m : Mask} {l : Nat} (h : 32 ≤ l) : m.getLsbD l = false := BitVec.getLsbD_of_ge m l h
theorem mem_laneList {m : Mask} {l : Nat} : l ∈ laneList m ↔ m.getLsbD l = true := by
  simp only [laneList, List.mem_filter, List.mem_range]
  refine ⟨fun h => h.2, fun h => ⟨?_, h⟩⟩
  by_cases hl : l < 32
  · exact hl
  · rw [getLsbD_ge (by omega)] at h; cases h
theorem mask_ext {a b : Mask} (h : ∀ l, l < 32 → a.getLsbD l = b.getLsbD l) : a = b := BitVec.eq_of_getLsbD_eq h
theorem mask_ne_zero {m : Mask} {l : Nat} (h : m.getLsbD l = true) : m ≠ 0#32 := by intro e; subst e; simp at h
theorem mask_zero_iff {m : Mask} : m = 0#32 ↔ ∀ l, l < 32 → m.getLsbD l = false :=
  ⟨fun h _ _ => by subst h; simp, fun h => mask_ext fun l hl => by simpa using h l hl⟩
theorem laneList_eq_nil {m : Mask} : laneList m = [] ↔ m = 0#32 := by
  rw [mask_zero_iff, List.eq_nil_iff_forall_not_mem]
  refine ⟨fun h l _ => ?_, fun h l hl => ?_⟩
  · have := h l; rw [mem_laneList] at this; simpa using this
  · rw [mem_laneList] at hl
    by_cases h32 : l < 32
    · rw [h l h32] at hl; cases hl
    · rw [getLsbD_ge (by omega)] at hl; cases hl
theorem subMask_iff {a b : Mask} : subMask a b = true ↔ ∀ l, l < 32 → a.getLsbD l = true → b.getLsbD l = true := by
  simp only [subMask, beq_iff_eq, mask_zero_iff]
  refine forall_congr' fun l => forall_congr' fun hl => ?_
  simp [hl]

/-! ## Lanes -/

theorem lane_updLanes (g : Group) (m : Mask) (f : Nat → Lane → Lane) {l : Nat} (h : l < 32) :
    (g.updLanes m f).lane l = if m.getLsbD l then f l (g.lane l) else g.lane l := by
  simp [Group.lane, Group.updLanes, List.getD, h]
@[simp] theorem lane_of_lanes {g h : Group} (e : g.lanes = h.lanes) (l : Nat) : g.lane l = h.lane l := by simp [Group.lane, e]
theorem live_congr {g h : Group} (e : ∀ l, l < 32 → g.lane l = h.lane l) (rc : Nat) : g.live rc = h.live rc := by
  unfold Group.live
  refine mask_ext fun l hl => ?_
  rw [getLsbD_maskOf, getLsbD_maskOf, e l hl]
theorem getLsbD_live (g : Group) (rc : Nat) {l : Nat} (h : l < 32) :
    (g.live rc).getLsbD l = ((g.lane l).st != .exited && (g.lane l).rc == rc) := by
  rw [Group.live, getLsbD_maskOf, decide_eq_true h, Bool.true_and]

/-! ## Register files -/

theorem getV_setV (g : Group) {n l n' l' : Nat} (hl : l < 32) (hl' : l' < 32) (w : Word) :
    (g.setV n l w).getV n' l' = if n = n' ∧ l = l' then w else g.getV n' l' := by
  simp only [Group.getV, Group.setV, SMap.get_set]
  by_cases h : n = n' ∧ l = l'
  · rw [if_pos (by omega), if_pos h]
  · rw [if_neg (by omega), if_neg h]
theorem getP_setP (g : Group) (n n' : Nat) (m : Mask) (f : Nat → Bool) {l : Nat} (hl : l < 32) :
    (g.setP n m f).getP n' l = if n = n' ∧ n' ≠ 15 ∧ m.getLsbD l = true then f l else g.getP n' l := by
  simp only [Group.getP, Group.setP]
  by_cases h15 : n' = 15
  · subst h15; by_cases h : n = 15 <;> simp [h]
  · by_cases hn : n = n'
    · subst hn
      simp only [h15, if_false, SMap.get_set_self, BitVec.getLsbD_or, BitVec.getLsbD_and, BitVec.getLsbD_not, getLsbD_maskOf, hl, decide_true,
        Bool.true_and]
      cases m.getLsbD l <;> simp [h15]
    · by_cases h : n = 15
      · simp [h, h15, Ne.symm h15]
      · simp only [h, if_false, h15, SMap.get_set_ne _ _ hn]
        simp [hn]
theorem getJ_setJ (g : Group) (n n' : Nat) (w : Word) : (g.setJ n w).getJ n' = if n = n' then w else g.getJ n' := by
  simp only [Group.getJ, Group.setJ, SMap.get_set]
theorem find?_setRec (g : Group) (a b : Nat) (r : StRec) : (g.setRec a r).recs.find? b = if a = b then some r else g.recs.find? b := by
  simp only [Group.setRec, SMap.find?_put]
@[simp] theorem getRec_setRec_self (g : Group) (a : Nat) (r : StRec) : (g.setRec a r).getRec a = r := by simp [Group.getRec, find?_setRec]
theorem getRec_setRec_ne (g : Group) {a b : Nat} (r : StRec) (h : a ≠ b) : (g.setRec a r).getRec b = g.getRec b := by
  simp [Group.getRec, find?_setRec, h]
theorem getS_setS (r : StRec) (n k : Nat) (w : Word) : (r.setS n w).getS k = if n = k then w else r.getS k := by
  simp only [StRec.getS, StRec.setS, SMap.get_set]
theorem getA_setA (r : StRec) (n k : Nat) (v : Aff) : (r.setA n v).getA k = if n = k then v else r.getA k := by
  simp only [StRec.getA, StRec.setA, SMap.get_set]

@[simp] theorem setV_lanes (g : Group) (n l : Nat) (w : Word) : (g.setV n l w).lanes = g.lanes := rfl
@[simp] theorem setV_recs (g : Group) (n l : Nat) (w : Word) : (g.setV n l w).recs = g.recs := rfl
@[simp] theorem setV_preds (g : Group) (n l : Nat) (w : Word) : (g.setV n l w).preds = g.preds := rfl
@[simp] theorem setV_jm (g : Group) (n l : Nat) (w : Word) : (g.setV n l w).jm = g.jm := rfl
@[simp] theorem setV_fpStatus (g : Group) (n l : Nat) (w : Word) : (g.setV n l w).fpStatus = g.fpStatus := rfl
@[simp] theorem setV_rest (g : Group) (n l : Nat) (w : Word) : (g.setV n l w).rest = g.rest := rfl
theorem setP_same (g : Group) (n : Nat) (m : Mask) (f : Nat → Bool) :
    (g.setP n m f).lanes = g.lanes ∧ (g.setP n m f).recs = g.recs ∧ (g.setP n m f).v = g.v ∧ (g.setP n m f).jm = g.jm
    ∧ (g.setP n m f).fpStatus = g.fpStatus ∧ (g.setP n m f).rest = g.rest := by
  unfold Group.setP; split <;> simp [Group.rest]
@[simp] theorem setP_lanes (g : Group) (n : Nat) (m : Mask) (f : Nat → Bool) : (g.setP n m f).lanes = g.lanes := (setP_same g n m f).1
@[simp] theorem setP_recs (g : Group) (n : Nat) (m : Mask) (f : Nat → Bool) : (g.setP n m f).recs = g.recs := (setP_same g n m f).2.1
@[simp] theorem setP_v (g : Group) (n : Nat) (m : Mask) (f : Nat → Bool) : (g.setP n m f).v = g.v := (setP_same g n m f).2.2.1
@[simp] theorem setP_jm (g : Group) (n : Nat) (m : Mask) (f : Nat → Bool) : (g.setP n m f).jm = g.jm := (setP_same g n m f).2.2.2.1
@[simp] theorem setP_fpStatus (g : Group) (n : Nat) (m : Mask) (f : Nat → Bool) : (g.setP n m f).fpStatus = g.fpStatus := (setP_same g n m f).2.2.2.2.1
@[simp] theorem setP_rest (g : Group) (n : Nat) (m : Mask) (f : Nat → Bool) : (g.setP n m f).rest = g.rest := (setP_same g n m f).2.2.2.2.2
@[simp] theorem getV_setP (g : Group) (n : Nat) (m : Mask) (f : Nat → Bool) (k l : Nat) : (g.setP n m f).getV k l = g.getV k l := by simp [Group.getV]
@[simp] theorem getJ_setP (g : Group) (n : Nat) (m : Mask) (f : Nat → Bool) (k : Nat) : (g.setP n m f).getJ k = g.getJ k := by simp [Group.getJ]
@[simp] theorem setRec_lanes (g : Group) (a : Nat) (r : StRec) : (g.setRec a r).lanes = g.lanes := rfl
@[simp] theorem setRec_v (g : Group) (a : Nat) (r : StRec) : (g.setRec a r).v = g.v := rfl
@[simp] theorem setRec_preds (g : Group) (a : Nat) (r : StRec) : (g.setRec a r).preds = g.preds := rfl
@[simp] theorem setRec_jm (g : Group) (a : Nat) (r : StRec) : (g.setRec a r).jm = g.jm := rfl
@[simp] theorem setRec_fpStatus (g : Group) (a : Nat) (r : StRec) : (g.setRec a r).fpStatus = g.fpStatus := rfl
@[simp] theorem setRec_rest (g : Group) (a : Nat) (r : StRec) : (g.setRec a r).rest = g.rest := rfl
@[simp] theorem setJ_lanes (g : Group) (n : Nat) (w : Word) : (g.setJ n w).lanes = g.lanes := rfl
@[simp] theorem setJ_recs (g : Group) (n : Nat) (w : Word) : (g.setJ n w).recs = g.recs := rfl
@[simp] theorem setJ_v (g : Group) (n : Nat) (w : Word) : (g.setJ n w).v = g.v := rfl
@[simp] theorem setJ_preds (g : Group) (n : Nat) (w : Word) : (g.setJ n w).preds = g.preds := rfl
@[simp] theorem setJ_fpStatus (g : Group) (n : Nat) (w : Word) : (g.setJ n w).fpStatus = g.fpStatus := rfl
@[simp] theorem setJ_rest (g : Group) (n : Nat) (w : Word) : (g.setJ n w).rest = g.rest := rfl
@[simp] theorem raiseFp_lanes (g : Group) (e : FpExc) : (g.raiseFp e).lanes = g.lanes := rfl
@[simp] theorem raiseFp_recs (g : Group) (e : FpExc) : (g.raiseFp e).recs = g.recs := rfl
@[simp] theorem raiseFp_v (g : Group) (e : FpExc) : (g.raiseFp e).v = g.v := rfl
@[simp] theorem raiseFp_preds (g : Group) (e : FpExc) : (g.raiseFp e).preds = g.preds := rfl
@[simp] theorem raiseFp_jm (g : Group) (e : FpExc) : (g.raiseFp e).jm = g.jm := rfl
@[simp] theorem raiseFp_fpStatus (g : Group) (e : FpExc) : (g.raiseFp e).fpStatus = g.fpStatus ||| e.setWidth 32 := rfl
@[simp] theorem raiseFp_rest (g : Group) (e : FpExc) : (g.raiseFp e).rest = g.rest := rfl

/-! ## Destinations -/

theorem getV_putV (g : Group) (k : Nat) (d : Dst) {l n l' : Nat} (hl : l < 32) (hl' : l' < 32) (val : Nat) :
    (putV g k d l val).getV n l' = if l = l' then regAfter k d val n (g.getV n l') else g.getV n l' := by
  cases d with
  | discard => simp [putV, regAfter]
  | reg r =>
    by_cases h : l = l'
    · subst h
      by_cases hk : k = 2
      · simp only [putV, hk, if_true, getV_setV _ hl hl, regAfter, true_and, and_true]
        by_cases h1 : r + 1 = n
        · rw [if_pos h1, if_neg (by omega), if_pos (by omega)]
        · rw [if_neg h1]
          by_cases h2 : r = n
          · rw [if_pos h2, if_pos h2.symm]
          · rw [if_neg h2, if_neg (Ne.symm h2), if_neg (by omega)]
      · simp only [putV, hk, if_false, getV_setV _ hl hl, regAfter, and_true, false_and, if_true]
        by_cases h2 : r = n
        · rw [if_pos h2, if_pos h2.symm]
        · rw [if_neg h2, if_neg (Ne.symm h2)]
    · by_cases hk : k = 2 <;> simp [putV, hk, getV_setV _ hl hl', h]
theorem putV_same (g : Group) (k : Nat) (d : Dst) (l val : Nat) :
    (putV g k d l val).lanes = g.lanes ∧ (putV g k d l val).recs = g.recs ∧ (putV g k d l val).preds = g.preds
    ∧ (putV g k d l val).jm = g.jm ∧ (putV g k d l val).fpStatus = g.fpStatus ∧ (putV g k d l val).rest = g.rest := by
  cases d with
  | discard => exact ⟨rfl, rfl, rfl, rfl, rfl, rfl⟩
  | reg r => by_cases hk : k = 2 <;> simp [putV, hk]

/-- Writing lane by lane: a lane of the list holds its own result, every other register is as it was. -/
theorem getV_foldl_putV (k : Nat) (d : Dst) (f : Nat → Nat) {n l : Nat} (hl : l < 32) (ls : List Nat) (hls : ∀ a ∈ ls, a < 32) (g : Group) :
    (ls.foldl (fun g a => putV g k d a (f a)) g).getV n l = if l ∈ ls then regAfter k d (f l) n (g.getV n l) else g.getV n l := by
  induction ls generalizing g with
  | nil => simp
  | cons a ls ih =>
    rw [List.foldl_cons, ih (fun b hb => hls b (List.mem_cons_of_mem _ hb)), getV_putV g k d (hls a (List.mem_cons_self ..)) hl]
    by_cases ha : a = l
    · subst ha
      by_cases hm : a ∈ ls
      · simp only [hm, if_true, List.mem_cons, true_or]
        cases d with
        | discard => rfl
        | reg r =>
          simp only [regAfter]
          by_cases h1 : n = r
          · simp [h1]
          · by_cases h2 : k = 2 ∧ n = r + 1
            · simp [h2]
            · simp only [h1, h2, if_false]
      · simp only [hm, if_false, List.mem_cons, true_or, if_true]
    · simp only [List.mem_cons, Ne.symm ha, false_or, ha, if_false]
theorem foldl_putV_same (k : Nat) (d : Dst) (f : Nat → Nat) (ls : List Nat) (g : Group) :
    let h := ls.foldl (fun g a => putV g k d a (f a)) g
    h.lanes = g.lanes ∧ h.recs = g.recs ∧ h.preds = g.preds ∧ h.jm = g.jm ∧ h.fpStatus = g.fpStatus ∧ h.rest = g.rest := by
  induction ls generalizing g with
  | nil => simp
  | cons a ls ih =>
    simp only [List.foldl_cons]
    have h1 := ih (putV g k d a (f a))
    have h2 := putV_same g k d a (f a)
    simp only at h1
    exact ⟨h1.1.trans h2.1, h1.2.1.trans h2.2.1, h1.2.2.1.trans h2.2.2.1, h1.2.2.2.1.trans h2.2.2.2.1, h1.2.2.2.2.1.trans h2.2.2.2.2.1,
      h1.2.2.2.2.2.trans h2.2.2.2.2.2⟩
theorem laneList_lt {m : Mask} : ∀ a ∈ laneList m, a < 32 := by
  intro a ha; simp only [laneList, List.mem_filter, List.mem_range] at ha; exact ha.1
theorem getV_putLanes (g : Group) (m : Mask) (k : Nat) (d : Dst) (f : Nat → Nat) {n l : Nat} (hl : l < 32) :
    (putLanes g m k d f).getV n l = if m.getLsbD l then regAfter k d (f l) n (g.getV n l) else g.getV n l := by
  simp only [putLanes, forLanes, getV_foldl_putV k d f hl _ laneList_lt, mem_laneList]
theorem putLanes_same (g : Group) (m : Mask) (k : Nat) (d : Dst) (f : Nat → Nat) :
    (putLanes g m k d f).lanes = g.lanes ∧ (putLanes g m k d f).recs = g.recs ∧ (putLanes g m k d f).preds = g.preds
    ∧ (putLanes g m k d f).jm = g.jm ∧ (putLanes g m k d f).fpStatus = g.fpStatus ∧ (putLanes g m k d f).rest = g.rest :=
  foldl_putV_same k d f (laneList m) g
theorem getS_putS (r : StRec) (k : Nat) (d : Dst) (val n : Nat) : (putS r k d val).getS n = regAfter k d val n (r.getS n) := by
  cases d with
  | discard => rfl
  | reg a =>
    by_cases hk : k = 2
    · simp only [putS, hk, if_true, getS_setS, regAfter, true_and]
      by_cases h1 : a + 1 = n
      · rw [if_pos h1, if_neg (by omega), if_pos (by omega)]
      · rw [if_neg h1]
        by_cases h2 : a = n
        · rw [if_pos h2, if_pos h2.symm]
        · rw [if_neg h2, if_neg (Ne.symm h2), if_neg (by omega)]
    · simp only [putS, hk, if_false, getS_setS, regAfter, false_and]
      by_cases h2 : a = n
      · rw [if_pos h2, if_pos h2.symm]
      · rw [if_neg h2, if_neg (Ne.symm h2)]
theorem putS_same (r : StRec) (k : Nat) (d : Dst) (val : Nat) : { putS r k d val with s := [] } = { r with s := [] } := by
  cases d with
  | discard => rfl
  | reg a => by_cases hk : k = 2 <;> simp [putS, hk, StRec.setS]

end Sys2Proof.Machine
end

