-- ==== Sys2Proof/Laws/Issue.lean ====
section
/-!
SUPPORT. Issuing: what `issue` answers, and what the end of an instruction and of its cycle leave of a group and of the state.
-/
namespace Sys2Proof.Machine

/-! ## The issuing path -/

theorem bind_ctx {i : Instr} {s : State} {x : Ctx} (h : (ctlOf i).bind (ctxOf s) = some x) :
    x.s = s ∧ s.cur = some x.cur ∧ s.team? x.cur.team = some x.tm ∧ x.tm.group? x.cur.grp = some x.g
    ∧ x.g.recs.find? x.cur.rc = some x.st ∧ x.e = effMask x.g x.c x.cur.m := by
  obtain ⟨c, -, h⟩ := Option.bind_eq_some_iff.mp h
  simp only [ctxOf, Option.bind_eq_bind] at h
  obtain ⟨cur, h1, h⟩ := Option.bind_eq_some_iff.mp h
  obtain ⟨tm, h2, h⟩ := Option.bind_eq_some_iff.mp h
  obtain ⟨g, h3, h⟩ := Option.bind_eq_some_iff.mp h
  obtain ⟨st, h4, h⟩ := Option.bind_eq_some_iff.mp h
  cases h
  exact ⟨rfl, h1, h2, h3, h4, rfl⟩
theorem Due.same {i : Instr} {s : State} {x : Ctx} (h : Due i s x) : x.s = s := (bind_ctx h.ctx).1
theorem Due.cursor {i : Instr} {s : State} {x : Ctx} (h : Due i s x) : x.s.cur = some x.cur := by rw [h.same]; exact (bind_ctx h.ctx).2.1
theorem Due.team {i : Instr} {s : State} {x : Ctx} (h : Due i s x) : x.s.teams.find? x.cur.team = some x.tm := by
  rw [h.same]; exact (bind_ctx h.ctx).2.2.1
theorem Due.group {i : Instr} {s : State} {x : Ctx} (h : Due i s x) : x.tm.groups.find? x.cur.grp = some x.g := (bind_ctx h.ctx).2.2.2.1
theorem Due.record {i : Instr} {s : State} {x : Ctx} (h : Due i s x) : x.g.recs.find? x.cur.rc = some x.st := (bind_ctx h.ctx).2.2.2.2.1
theorem Due.mask {i : Instr} {s : State} {x : Ctx} (h : Due i s x) : x.e = effMask x.g x.c x.cur.m := (bind_ctx h.ctx).2.2.2.2.2

/-- The effective mask is within the path (R18). -/
theorem effMask_sub {g : Group} {c : Ctl} {m : Mask} {l : Nat} (h : (effMask g c m).getLsbD l = true) : m.getLsbD l = true := by
  unfold effMask at h
  split at h
  · exact h
  · rw [getLsbD_maskOf] at h; simp only [Bool.and_eq_true] at h; exact h.2.1

/-- What `issue` answers when the instruction's own effect takes place. -/
theorem issue_next {i : Instr} {s : State} {x : Ctx} (h : Issues i s x) (f : Ctx → Res) : issue i s f = .next (finish x (f x)) := by
  have := h.lanes
  simp [issue, h.ctx, h.free, h.precise, h.budget, h.whole, this]
/-- A held path issues nothing (R173). -/
theorem issue_held {i : Instr} {s : State} {x : Ctx} (h : Due i s x) (hm : mustHold x i = true) (f : Ctx → Res) :
    issue i s f = .next (closeCycle s x.cur) := by
  simp [issue, h.ctx, hm]
/-- A fault of orders 2 to 4 parks the whole path (R28). -/
theorem issue_precise {i : Instr} {s : State} {x : Ctx} {c : FClass} (h : Due i s x) (hm : mustHold x i = false)
    (hc : preciseFault x i = some c) (f : Ctx → Res) : issue i s f = .next (parkPath x c) := by
  simp [issue, h.ctx, hm, hc]
/-- An empty effective mask completes without effect (R18). -/
theorem issue_empty {i : Instr} {s : State} {x : Ctx} (h : Due i s x) (hm : mustHold x i = false)
    (hc : preciseFault x i = none) (he : x.e = 0#32) (f : Ctx → Res) : issue i s f = .next (finish x { s }) := by
  simp [issue, h.ctx, hm, hc, he]
theorem issue_budget {i : Instr} {s : State} {x : Ctx} (h : Due i s x) (hm : mustHold x i = false)
    (hc : preciseFault x i = none) (he : x.e ≠ 0#32) (hb : regBudget x i = true) (f : Ctx → Res) :
    issue i s f = .next (finish x { s, flts := [{ cls := .regBudget, lanes := x.e }] }) := by
  simp [issue, h.ctx, hm, hc, he, hb]
theorem issue_partial {i : Instr} {s : State} {x : Ctx} (h : Due i s x) (hm : mustHold x i = false)
    (hc : preciseFault x i = none) (he : x.e ≠ 0#32) (hb : regBudget x i = false) (hp : partialWrite x i = true) (f : Ctx → Res) :
    issue i s f = .next (finish x { s, flts := [{ cls := .partialWrite, lanes := x.e }] }) := by
  simp [issue, h.ctx, hm, hc, he, hb, hp]

/-! ## The end of a group's cycle -/

/-- The record of a lane, as its own. -/
def Group.laneRec (g : Group) (l : Nat) : Option StRec := g.recs.find? (g.lane l).rc
theorem recOf_eq (g : Group) (l : Nat) : g.recOf l = (g.laneRec l).getD {} := rfl

theorem laneRec_dropEmpty (g : Group) {l : Nat} (hl : l < 32) (h : (g.lane l).st ≠ .exited) : g.dropEmpty.laneRec l = g.laneRec l := by
  refine SMap.find?_filter_keep g.recs _ _ fun v => ?_
  have hlive : g.live (g.lane l).rc ≠ 0#32 := mask_ne_zero (l := l) (by rw [getLsbD_live _ _ hl]; simp [h])
  exact Bool.or_eq_true_iff.mpr (.inl (bne_iff_ne.mpr hlive))

/-! ### Lanes whose path was chosen and has issued nothing -/

@[simp] theorem unstart_st (y : Lane) : y.unstart.st = y.st := by unfold Lane.unstart; split <;> rfl
@[simp] theorem unstart_rc (y : Lane) : y.unstart.rc = y.rc := by unfold Lane.unstart; split <;> rfl
@[simp] theorem unstart_fresh (y : Lane) : y.unstart.fresh = none := by unfold Lane.unstart; split <;> simp_all
theorem unstart_of_none {y : Lane} (h : y.fresh = none) : y.unstart = y := by unfold Lane.unstart; rw [h]
@[simp] theorem core_unstart (y : Lane) : y.unstart.core = y.core := by unfold Lane.core; rw [unstart_of_none (unstart_fresh y)]
@[simp] theorem core_st (y : Lane) : y.core.st = y.st := unstart_st y
/-- The number of a lane's record is no part of what is seen of it. -/
@[simp] theorem core_rc (y : Lane) (n : Nat) : ({ y with rc := n } : Lane).core = y.core := by
  obtain ⟨st, pc, rc, off, hdr, wj, wdl, wp, yld, ret, fresh⟩ := y
  rcases fresh with _ | _ | k <;> rfl

theorem find?_swapRecs (g : Group) (a b k : Nat) (hab : a ≠ b) : (g.swapRecs a b).recs.find? (swapRc a b k) = g.recs.find? k := by
  unfold Group.swapRecs
  simp only
  have hba := Ne.symm hab
  by_cases ha : k = a
  · subst ha
    cases ha : g.recs.find? k <;> cases hb : g.recs.find? b <;> simp [swapRc, SMap.find?_put, SMap.find?_erase, hab, hba, ha, hb]
  · by_cases hb : k = b
    · subst hb
      cases hx : g.recs.find? a <;> cases hy : g.recs.find? k <;> simp [swapRc, SMap.find?_put, SMap.find?_erase, hab, hba, hx, hy]
    · cases hx : g.recs.find? a <;> cases hy : g.recs.find? b <;>
        simp [swapRc, SMap.find?_put, SMap.find?_erase, hab, hba, hx, hy, ha, hb, Ne.symm ha, Ne.symm hb]
theorem allLanes {l : Nat} (hl : l < 32) : (0xFFFFFFFF#32 : Mask).getLsbD l = true := by
  have : (0xFFFFFFFF#32 : Mask) = BitVec.allOnes 32 := by decide
  rw [this, BitVec.getLsbD_allOnes]; simp [hl]
theorem lane_swapRecs (g : Group) (a b : Nat) {l : Nat} (hl : l < 32) :
    (g.swapRecs a b).lane l = { g.lane l with rc := swapRc a b (g.lane l).rc } := by
  have : (g.swapRecs a b).lane l = (g.updLanes 0xFFFFFFFF#32 fun _ x => { x with rc := swapRc a b x.rc }).lane l := rfl
  rw [this, lane_updLanes _ _ _ hl, allLanes hl]; simp
theorem laneRec_swapRecs (g : Group) (a b : Nat) (hab : a ≠ b) {l : Nat} (hl : l < 32) : (g.swapRecs a b).laneRec l = g.laneRec l := by
  unfold Group.laneRec
  rw [lane_swapRecs g a b hl, find?_swapRecs g a b _ hab]
theorem lane_unstart (g : Group) {l : Nat} (hl : l < 32) : g.unstart.lane l = (g.lane l).unstart := by
  unfold Group.unstart; rw [lane_updLanes _ _ _ hl, allLanes hl]; simp
theorem rest_swapRecs (g : Group) (a b : Nat) : (g.swapRecs a b).rest = g.rest := by
  simp only [Group.swapRecs, Group.rest, Group.updLanes, List.map_map]; rfl
theorem rest_dropEmpty (g : Group) : g.dropEmpty.rest = g.rest := rfl

/-- What the end of a cycle leaves: lanes but for the numbers of their records, the records of live lanes but for their mode, and all else. -/
structure Ended (g y : Group) : Prop where
  lane : ∀ l, l < 32 → (y.lane l).core = (g.lane l).core
  record : ∀ l, l < 32 → (g.lane l).st ≠ .exited → (y.recOf l).core = (g.recOf l).core
  v : y.v = g.v
  preds : y.preds = g.preds
  jm : y.jm = g.jm
  fpStatus : y.fpStatus = g.fpStatus
  rest : y.rest = g.rest

theorem Ended.refl (g : Group) : Ended g g := ⟨fun _ _ => rfl, fun _ _ _ => rfl, rfl, rfl, rfl, rfl, rfl⟩
theorem Ended.trans {a b c : Group} (h : Ended a b) (k : Ended b c) : Ended a c where
  lane l hl := (k.lane l hl).trans (h.lane l hl)
  record l hl he := (k.record l hl (by have := congrArg Lane.st (h.lane l hl); rw [core_st, core_st] at this; rwa [this])).trans (h.record l hl he)
  v := k.v.trans h.v
  preds := k.preds.trans h.preds
  jm := k.jm.trans h.jm
  fpStatus := k.fpStatus.trans h.fpStatus
  rest := k.rest.trans h.rest

theorem ended_dropEmpty (g : Group) : Ended g { g.dropEmpty with fpRaised := 0#32 } where
  lane _ _ := rfl
  record l hl he := by
    have : ({ g.dropEmpty with fpRaised := 0#32 } : Group).laneRec l = g.dropEmpty.laneRec l := rfl
    rw [recOf_eq, recOf_eq, this, laneRec_dropEmpty g hl he]
  v := rfl
  preds := rfl
  jm := rfl
  fpStatus := rfl
  rest := rfl
theorem ended_unstart (g : Group) : Ended g g.unstart where
  lane l hl := by rw [lane_unstart g hl, core_unstart]
  record l hl _ := by unfold Group.recOf; rw [lane_unstart g hl, unstart_rc]; rfl
  v := rfl
  preds := rfl
  jm := rfl
  fpStatus := rfl
  rest := rfl
theorem ended_swapRecs (g : Group) {a b : Nat} (hab : a ≠ b) : Ended g (g.swapRecs a b) where
  lane l hl := by rw [lane_swapRecs g a b hl, core_rc]
  record l hl _ := by rw [recOf_eq, recOf_eq, laneRec_swapRecs g a b hab hl]
  v := rfl
  preds := rfl
  jm := rfl
  fpStatus := rfl
  rest := rest_swapRecs g a b
theorem ended_setMain (g : Group) (k : Nat) : Ended g (g.setRec k { g.getRec k with mode := .main }) where
  lane _ _ := rfl
  record l _ _ := by
    unfold Group.recOf
    rw [lane_of_lanes (setRec_lanes ..)]
    by_cases h : k = (g.lane l).rc
    · subst h; rw [getRec_setRec_self]; rfl
    · rw [getRec_setRec_ne _ _ h]
  v := rfl
  preds := rfl
  jm := rfl
  fpStatus := rfl
  rest := rfl

/-- The end of a cycle moves records and names a main state; nothing else that is seen of the group changes. -/
theorem ended_endCycle (g : Group) : Ended g g.endCycle := by
  unfold Group.endCycle
  have h0 := (ended_unstart g).trans (ended_dropEmpty g.unstart)
  simp only
  split
  · exact h0
  · split
    · exact h0
    · rename_i n _
      refine h0.trans ?_
      by_cases hn : n = 0
      · simp only [hn, if_true]; exact ended_setMain _ _
      · simp only [hn, if_false]; exact (ended_swapRecs _ hn).trans (ended_setMain _ _)

/-! ## An instruction that faults in no lane -/

/-- `g'` is the issuing group with the results of Eff in place. -/
structure Wrote (x : Ctx) (E : Eff) (g' : Group) : Prop where
  lanes : ∀ l, l < 32 → g'.lane l = if x.cur.m.getLsbD l = true ∧ E.stay = false then E.laneOf x l else x.g.lane l
  v : ∀ n l, l < 32 → g'.getV n l = E.vAfter x.e n l (x.g.getV n l)
  p : ∀ n l, l < 32 → g'.getP n l = E.pAfter x.e n l (x.g.getP n l)
  j : ∀ n, g'.getJ n = E.jAfter n (x.g.getJ n)
  fp : g'.fpStatus = x.g.fpStatus ||| E.fp.setWidth 32
  record : ∃ r, (∀ k, g'.recs.find? k = if x.cur.rc = k then some r else x.g.recs.find? k) ∧ (∀ n, r.getS n = E.sAfter n (x.st.getS n))
    ∧ (∀ n, r.getA n = E.aAfter n (x.st.getA n)) ∧ ({ r with s := [], a := [] } : StRec) = { E.r x.st with s := [], a := [] }

theorem group?_put (s : State) (t gi : Nat) (T : Team) (y : Group) (h : T.groups.find? gi = some y) :
    ({ s with teams := s.teams.put t T } : State).group? t gi = some y := by
  simp [State.group?, State.team?, Team.group?, h]

theorem updGroup_of {s : State} {t gi : Nat} {T : Team} {g : Group} (hT : s.teams.find? t = some T) (hg : T.groups.find? gi = some g) (f : Group → Group) :
    s.updGroup t gi f = s.setTeam t (T.setGroup gi (f g)) := by
  simp only [State.updGroup, State.updTeam, State.team?, hT, Team.group?, hg]
theorem updTeam_of {s : State} {t : Nat} {T : Team} (hT : s.teams.find? t = some T) (f : Team → Team) : s.updTeam t f = s.setTeam t (f T) := by
  simp only [State.updTeam, State.team?, hT]
theorem setTeam_setTeam (s : State) (t : Nat) (a b : Team) : (s.setTeam t a).setTeam t b = s.setTeam t b := by
  simp only [State.setTeam, SMap.put_put]
theorem setGroup_setGroup (T : Team) (k : Nat) (a b : Group) : (T.setGroup k a).setGroup k b = T.setGroup k b := by
  simp only [Team.setGroup, SMap.put_put]
theorem find?_setTeam (s : State) (t : Nat) (a : Team) : (s.setTeam t a).teams.find? t = some a := SMap.find?_put_self ..
theorem find?_setGroup (T : Team) (k : Nat) (a : Group) : (T.setGroup k a).groups.find? k = some a := SMap.find?_put_self ..

/-- The group when the path's lanes have gone on. -/
def Ctx.moved (x : Ctx) (r : Res) (g' : Group) : Group :=
  { (g'.updLanes x.cur.m fun l y => if r.stay then { y with fresh := none } else y.go x.c (if x.e.getLsbD l then r.nxt l else .seq)) with lastIssue := some x.s.stamp }
/-- The issuing team with that group in place. -/
def Ctx.teamWith (x : Ctx) (T : Team) (k : Nat) (y : Group) : Team := { T with groups := T.groups.put x.cur.grp y, lastTick := k }

/-- A fault of no lane parks nothing. -/
theorem finish_quiet (x : Ctx) (r : Res) (hf : ∀ f ∈ r.flts, f.lanes = 0#32) : finish x r = finish x { r with flts := [] } := by
  have h1 : ∀ (fs : List Flt) (m : Mask), (∀ f ∈ fs, f.lanes = 0#32) → unfaulted m fs = m := by
    intro fs
    induction fs with
    | nil => intros; rfl
    | cons a as ih =>
      intro m h
      have := ih (m &&& ~~~a.lanes) fun f hf => h f (List.mem_cons_of_mem _ hf)
      unfold unfaulted at *
      rw [List.foldl_cons, this, h a (List.mem_cons_self ..), show ~~~(0#32) = BitVec.allOnes 32 by decide, BitVec.and_allOnes]
  have h2 : ∀ (fs : List Flt) (s : State), (∀ f ∈ fs, f.lanes = 0#32) →
      fs.foldl (fun s f => s.park x.cur.team x.cur.grp x.cur.rc f.lanes (x.cur.info x.c f)) s = s := by
    intro fs
    induction fs with
    | nil => intros; rfl
    | cons a as ih =>
      intro s h
      rw [List.foldl_cons, State.park, if_pos (h a (List.mem_cons_self ..))]
      exact ih s fun f hf => h f (List.mem_cons_of_mem _ hf)
  unfold finish
  simp only [h1 r.flts _ hf, h2 r.flts _ hf, h1 [] _ (fun _ h => nomatch h), List.foldl_nil]

/-- `finish`, for an instruction without faults. -/
theorem finish_eq {x : Ctx} (T : Team) (g' : Group) (r : Res) (hT : r.s.teams.find? x.cur.team = some T) (hg : T.groups.find? x.cur.grp = some g')
    (hf : ∀ f ∈ r.flts, f.lanes = 0#32) :
    finish x r = closeCycle { r.s with teams := r.s.teams.put x.cur.team (x.teamWith T (r.s.dieCount T.die) (x.moved r g')), stamp := r.s.stamp + 1 } x.cur := by
  rw [finish_quiet x r hf]
  unfold finish
  simp only [unfaulted, List.foldl_nil]
  congr 1
  rw [updTeam_of hT, updGroup_of (find?_setTeam ..) (show ({ T with lastTick := r.s.dieCount T.die } : Team).groups.find? x.cur.grp = some g' from hg),
    setTeam_setTeam]
  rfl

theorem rest_put (s : State) (t gi k : Nat) (T : Team) (y : Group) (hT : s.teams.find? t = some T) :
    ({ s with teams := s.teams.put t { T with groups := T.groups.put gi y, lastTick := k } } : State).rest t gi = s.rest t gi := by
  simp [State.rest, State.updTeam, State.team?, State.setTeam, hT, SMap.put_put, SMap.erase_put]

theorem rest_closeCycle (s : State) (cur : Cursor) {T : Team} {y : Group} (hT : s.teams.find? cur.team = some T)
    (hy : T.groups.find? cur.grp = some y) :
    (closeCycle s cur).rest cur.team cur.grp = s.rest cur.team cur.grp
    ∧ ∃ y', (closeCycle s cur).group? cur.team cur.grp = some y' ∧ Ended y y' ∧ (y' = y ∨ y' = y.endCycle) := by
  unfold closeCycle
  have hg : s.group? cur.team cur.grp = some y := by simp [State.group?, State.team?, Team.group?, hT, hy]
  split
  · refine ⟨?_, y.endCycle, ?_, ended_endCycle y, .inr rfl⟩
    · simp only [State.endCycle, hg, State.updGroup, State.updTeam, State.team?, hT, Team.group?, hy, State.setTeam, Team.setGroup,
        State.rest, SMap.find?_put_self, SMap.put_put, SMap.erase_put, List.map_map]
      congr 1
      apply List.map_congr_left
      intro o _
      simp only [Function.comp]
      by_cases ho : o.team = cur.team ∧ o.grp = cur.grp
      · simp [ho]
      · simp [ho]
    · simp [State.endCycle, hg, State.updGroup, State.updTeam, State.team?, hT, Team.group?, hy, State.setTeam, Team.setGroup, State.group?]
  · exact ⟨by simp [State.rest, State.updTeam, State.team?, hT, State.setTeam], y, by simpa [State.group?, State.team?, Team.group?] using hg,
      Ended.refl y, .inl rfl⟩

theorem core_ite_mode (a : StRec) (b : StRec) (h : a.core = b.core) :
    (∀ n, a.getS n = b.getS n) ∧ (∀ n, a.getA n = b.getA n)
    ∧ ({ a with s := [], a := [] } : StRec).core = ({ b with s := [], a := [] } : StRec).core := by
  have hs : a.core.s = b.core.s := congrArg StRec.s h
  have ha : a.core.a = b.core.a := congrArg StRec.a h
  simp only [StRec.core] at hs ha
  refine ⟨fun n => by simp [StRec.getS, hs], fun n => by simp [StRec.getA, ha], ?_⟩
  have := congrArg (fun r : StRec => ({ r with s := [], a := [] } : StRec)) h
  simpa [StRec.core] using this

theorem go_rc (y : Lane) (c : Ctl) (n : Nxt) : (y.go c n).rc = y.rc := by
  cases n <;> simp [Lane.go, Lane.advance] <;> split <;> rfl

/-- The whole effect of an instruction that faults in no lane: what it leaves of `b` and of `g`. -/
theorem finish_leaves {x : Ctx} {E : Eff} {b : State} {g g' : Group} (w : Wrote x E g') (r : Res) (T : Team)
    (hT : r.s.teams.find? x.cur.team = some T) (hg : T.groups.find? x.cur.grp = some g')
    (hb : r.s.rest x.cur.team x.cur.grp = b.rest x.cur.team x.cur.grp) (hgr : g'.rest = g.rest)
    (hf : ∀ f ∈ r.flts, f.lanes = 0#32) (hst : r.stay = E.stay) (hi : E.idle = false) (hn : r.nxt = E.go) : ∃ y, Leaves x E b g (finish x r) y := by
  rw [finish_eq T g' r hT hg hf]
  let T2 := x.teamWith T (r.s.dieCount T.die) (x.moved r g')
  let S : State := { r.s with teams := r.s.teams.put x.cur.team T2, stamp := r.s.stamp + 1 }
  have hT2 : S.teams.find? x.cur.team = some T2 := SMap.find?_put_self ..
  have hy2 : T2.groups.find? x.cur.grp = some (x.moved r g') := SMap.find?_put_self ..
  obtain ⟨hrest, y, hy, he, -⟩ := rest_closeCycle S x.cur hT2 hy2
  have hlane : ∀ l, l < 32 → (x.moved r g').lane l =
      if x.cur.m.getLsbD l = true ∧ E.idle = false then
        if E.stay then { x.g.lane l with fresh := none } else (E.laneOf x l).go x.c (if x.e.getLsbD l then E.go l else .seq)
      else x.g.lane l := by
    intro l hl
    have : (x.moved r g').lane l = (g'.updLanes x.cur.m fun l y => if r.stay then { y with fresh := none } else y.go x.c (if x.e.getLsbD l then r.nxt l else .seq)).lane l := rfl
    rw [this, lane_updLanes _ _ _ hl, w.lanes l hl, hst, hn, hi]
    cases x.cur.m.getLsbD l <;> cases E.stay <;> simp
  have hrec : ∀ k, (x.moved r g').getRec k = g'.getRec k := fun _ => rfl
  obtain ⟨rr, hf1, hS, hA, hR⟩ := w.record
  have hrc : ∀ l, l < 32 → ((x.moved r g').lane l).rc = (x.g.lane l).rc := by
    intro l hl; rw [hlane l hl]; split
    · split
      · rfl
      · rw [go_rc]; unfold Eff.laneOf; split <;> rfl
    · rfl
  have hlive : ∀ l, l < 32 → (y.lane l).st ≠ .exited → ((x.moved r g').lane l).st ≠ .exited := by
    intro l hl hh; have := congrArg Lane.st (he.lane l hl); rw [core_st, core_st] at this; rwa [← this]
  refine ⟨y, hy, ?_, ?_, ?_, ?_, ?_, ?_, ?_, ?_, ?_⟩
  · rw [hrest, ← hb]
    have : S.rest x.cur.team x.cur.grp = ({ r.s with teams := r.s.teams.put x.cur.team { T with groups := T.groups.put x.cur.grp (x.moved r g'), lastTick := r.s.dieCount T.die } } : State).rest x.cur.team x.cur.grp := by
      simp [S, T2, State.rest, State.updTeam, State.team?, State.setTeam, Ctx.teamWith]
    rw [this]
    exact rest_put _ _ _ _ T _ hT
  · rw [he.rest, ← hgr]; rfl
  · intro l hl; rw [he.lane l hl, hlane l hl]
  · intro n l hl
    have : y.getV n l = g'.getV n l := by unfold Group.getV; rw [he.v]; rfl
    rw [this, w.v n l hl]
  · intro n l hl
    have : y.getP n l = g'.getP n l := by unfold Group.getP; rw [he.preds]; rfl
    rw [this, w.p n l hl]
  · intro n
    have : y.getJ n = g'.getJ n := by unfold Group.getJ; rw [he.jm]; rfl
    rw [this, w.j n]
  · rw [he.fpStatus]; exact w.fp
  · intro l hl hle hcur
    have hrr : (y.recOf l).core = rr.core := by
      rw [he.record l hl (hlive l hl hle)]
      unfold Group.recOf; rw [hrec, hrc l hl, hcur, Group.getRec, hf1, if_pos rfl]; rfl
    obtain ⟨h1, h2, h3⟩ := core_ite_mode _ _ hrr
    refine ⟨fun n => (h1 n).trans (hS n), fun n => (h2 n).trans (hA n), h3.trans ?_⟩
    rw [hR]
  · intro l hl hle hcur
    rw [he.record l hl (hlive l hl hle)]
    unfold Group.recOf; rw [hrec, hrc l hl, Group.getRec, hf1, if_neg (Ne.symm hcur)]; rfl

theorem rest_withGroup {i : Instr} {s : State} {x : Ctx} (h : Due i s x) (g' : Group) :
    (x.withGroup g').rest x.cur.team x.cur.grp = x.s.rest x.cur.team x.cur.grp := by
  have := rest_put x.s x.cur.team x.cur.grp x.tm.lastTick x.tm g' h.team
  exact this

/-- The same, for an instruction that changes its own group alone, or nothing. -/
theorem finish_did {i : Instr} {s : State} {x : Ctx} (h : Due i s x) {E : Eff} {g' : Group} (w : Wrote x E g') (hgr : g'.rest = x.g.rest) (r : Res)
    (hs : r.s = x.withGroup g' ∨ r.s = x.s ∧ g' = x.g) (hf : ∀ f ∈ r.flts, f.lanes = 0#32) (hst : r.stay = E.stay) (hi : E.idle = false)
    (hn : r.nxt = E.go) : ∃ y, Did x E (finish x r) y := by
  rcases hs with hs | ⟨hs, hg⟩
  · exact finish_leaves w r (x.tm.setGroup x.cur.grp g') (by rw [hs]; exact find?_setTeam ..) (find?_setGroup ..) (by rw [hs]; exact rest_withGroup h g') hgr hf hst hi hn
  · exact finish_leaves w r x.tm (by rw [hs]; exact h.team) (by rw [hg]; exact h.group) (by rw [hs]) hgr hf hst hi hn

/-! ## The results an instruction can leave -/

theorem Wrote.none {i : Instr} {s : State} {x : Ctx} (h : Due i s x) : Wrote x {} x.g where
  lanes l _ := by simp [Eff.laneOf]
  v _ _ _ := rfl
  p _ _ _ := rfl
  j _ := rfl
  fp := by simp
  record := ⟨x.st, fun k => by by_cases hk : x.cur.rc = k <;> simp [hk, ← h.record], fun _ => rfl, fun _ => rfl, rfl⟩
theorem Wrote.go {x : Ctx} {E : Eff} {g' : Group} (w : Wrote x E g') (f : Nat → Nxt) : Wrote x { E with go := f } g' where
  lanes := w.lanes
  v := w.v
  p := w.p
  j := w.j
  fp := w.fp
  record := w.record
/-- The path's lanes are marked as having yielded. -/
theorem Wrote.yield {i : Instr} {s : State} {x : Ctx} (h : Due i s x) :
    Wrote x { yld := true } (x.g.updLanes x.cur.m fun _ l => { l with yld := true }) where
  lanes l hl := by rw [lane_updLanes _ _ _ hl]; simp [Eff.laneOf]
  v _ _ _ := rfl
  p _ _ _ := rfl
  j _ := rfl
  fp := by simp [Group.updLanes]
  record := (Wrote.none h).record
theorem Wrote.putLanes {x : Ctx} {E : Eff} {g' : Group} (w : Wrote x E g') (hE : E.v = .none) (k : Nat) (d : Dst) (f : Nat → Nat) :
    Wrote x { E with v := some (k, d, f) } (putLanes g' x.e k d f) where
  lanes l hl := (lane_of_lanes (putLanes_same g' x.e k d f).1 l).trans (w.lanes l hl)
  v n l hl := by rw [getV_putLanes g' x.e k d f hl, w.v n l hl]; simp [Eff.vAfter, hE]
  p n l hl := by have := w.p n l hl; simp only [Group.getP, (putLanes_same g' x.e k d f).2.2.1] at *; exact this
  j n := by have := w.j n; simp only [Group.getJ, (putLanes_same g' x.e k d f).2.2.2.1] at *; exact this
  fp := (putLanes_same g' x.e k d f).2.2.2.2.1.trans w.fp
  record := by rw [(putLanes_same g' x.e k d f).2.1]; exact w.record
theorem Wrote.setP {x : Ctx} {E : Eff} {g' : Group} (w : Wrote x E g') (n : Nat) (f : Nat → Bool) :
    Wrote x { E with p := E.p ++ [(n, f)] } (g'.setP n x.e f) where
  lanes l hl := (lane_of_lanes (setP_lanes ..) l).trans (w.lanes l hl)
  v m l hl := by rw [getV_setP]; exact w.v m l hl
  p m l hl := by
    rw [getP_setP _ _ _ _ _ hl, w.p m l hl]
    simp only [Eff.pAfter, List.foldl_append, List.foldl_cons, List.foldl_nil]
  j m := by rw [getJ_setP]; exact w.j m
  fp := (setP_fpStatus ..).trans w.fp
  record := by rw [setP_recs]; exact w.record
theorem Wrote.setJ {x : Ctx} {E : Eff} {g' : Group} (w : Wrote x E g') (hE : E.j = .none) (n : Nat) (v : Word) :
    Wrote x { E with j := some (n, v) } (g'.setJ n v) where
  lanes := w.lanes
  v := w.v
  p := w.p
  j m := by rw [getJ_setJ, w.j m]; simp [Eff.jAfter, hE, eq_comm]
  fp := w.fp
  record := w.record
theorem Wrote.raiseFp {x : Ctx} {E : Eff} {g' : Group} (w : Wrote x E g') (hE : E.fp = 0#5) (e : FpExc) :
    Wrote x { E with fp := e } (g'.raiseFp e) where
  lanes := w.lanes
  v := w.v
  p := w.p
  j := w.j
  fp := by rw [raiseFp_fpStatus, w.fp, hE]; simp
  record := w.record
theorem Wrote.putS {x : Ctx} {E : Eff} {g' : Group} (w : Wrote x E g') (hE : E.u = .none) (hr : g'.recs = x.g.recs) (hA : E.a = .none)
    (hR : E.r = fun r => r) (k : Nat) (d : Dst) (val : Nat) : Wrote x { E with u := some (k, d, val) } (g'.setRec x.cur.rc (putS x.st k d val)) where
  lanes := w.lanes
  v := w.v
  p := w.p
  j := w.j
  fp := w.fp
  record := ⟨Sys2Proof.Machine.putS x.st k d val, fun n => by rw [find?_setRec, hr],
    fun n => by rw [getS_putS]; rfl,
    fun n => by
      have : (Sys2Proof.Machine.putS x.st k d val).a = x.st.a := by
        have := congrArg StRec.a (putS_same x.st k d val); exact this
      simp [StRec.getA, this, Eff.aAfter, hA],
    by have := congrArg (fun r : StRec => ({ r with a := [] } : StRec)) (putS_same x.st k d val); rw [hR]; exact this⟩
theorem Wrote.putA {x : Ctx} {E : Eff} {g' : Group} (w : Wrote x E g') (hE : E.u = .none) (hr : g'.recs = x.g.recs)
    (hR : E.r = fun r => r) (d : Dst) (val : Aff) : Wrote x { E with a := some (d, val) } (g'.setRec x.cur.rc (putA x.st d val)) where
  lanes := w.lanes
  v := w.v
  p := w.p
  j := w.j
  fp := w.fp
  record := ⟨Sys2Proof.Machine.putA x.st d val, fun n => by rw [find?_setRec, hr],
    fun n => by cases d <;> simp [Sys2Proof.Machine.putA, Eff.sAfter, hE, StRec.getS, StRec.setA],
    fun n => by
      cases d with
      | discard => rfl
      | reg r => simp only [Sys2Proof.Machine.putA, getA_setA, Eff.aAfter, eq_comm],
    by rw [hR]; cases d <;> rfl⟩

/-! ## The shapes of effect -/

theorem next_did {i : Instr} {s : State} {x : Ctx} {E : Eff} (h : Issues i s x) (f : Ctx → Res) (hd : ∃ y, Did x E (finish x (f x)) y) :
    ∃ t y, issue i s f = .next t ∧ Did x E t y := by
  obtain ⟨y, hy⟩ := hd
  exact ⟨_, y, issue_next h f, hy⟩
theorem resV_did {i : Instr} {s : State} {x : Ctx} (h : Due i s x) (k : Nat) (d : Dst) (f : Nat → Nat) :
    ∃ y, Did x { v := some (k, d, f) } (finish x (resV x k d f)) y :=
  finish_did h ((Wrote.none h).putLanes rfl k d f) (putLanes_same ..).2.2.2.2.2 _ (.inl rfl) (fun _ h => nomatch h) rfl rfl rfl
theorem resU_did {i : Instr} {s : State} {x : Ctx} (h : Due i s x) (k : Nat) (d : Dst) (v : Nat) :
    ∃ y, Did x { u := some (k, d, v) } (finish x (resU x k d v)) y :=
  finish_did h ((Wrote.none h).putS rfl rfl rfl rfl k d v) rfl _ (.inl rfl) (fun _ h => nomatch h) rfl rfl rfl
theorem putA_did {i : Instr} {s : State} {x : Ctx} (h : Due i s x) (d : Dst) (v : Aff) :
    ∃ y, Did x { a := some (d, v) } (finish x { s := x.withRec (putA x.st d v) }) y :=
  finish_did h ((Wrote.none h).putA rfl rfl rfl d v) rfl _ (.inl rfl) (fun _ h => nomatch h) rfl rfl rfl
theorem resCmp_did {i : Instr} {s : State} {x : Ctx} (h : Due i s x) (cmb : Cmb) (pd pc : Nat) (r : Nat → Bool) :
    ∃ y, Did x { p := [(pd, fun l => (combine cmb (x.g.getP pd l) (x.g.getP pc l) (r l)).1),
      (pc, fun l => (combine cmb (x.g.getP pd l) (x.g.getP pc l) (r l)).2)] } (finish x (resCmp x cmb pd pc r)) y :=
  finish_did h (((Wrote.none h).setP pd _).setP pc _) ((setP_rest ..).trans (setP_rest ..)) _ (.inl rfl) (fun _ h => nomatch h) rfl rfl rfl

end Sys2Proof.Machine
end

