-- ==== Sys2Proof/Laws/Exec.lean ====
section
/-!
SUPPORT. Every instruction is issued through the one operation `issue`; the other rows of the table carry no issue control.
-/
namespace Sys2Proof.Machine

theorem exec_issues (i : Instr) {c : Ctl} (h : ctlOf i = some c) : ∃ f, ∀ s, exec i s = issue i s f := by
  cases i
  case nop | bra | brxV | brxS | call | callIndirect | ret | exit | yieldPath | jset | jadd | jsub | jget | jput | rejoin | rejoinTmo |
      brk | trap | hret | addV | addS | subV | subS | mulV | mulS | madV | madS | addcV | subcV | minV | minS | maxV | maxS | absV | absS |
      negV | negS | andV | andS | orV | orS | xorV | xorS | andnV | andnS | ornV | ornS | xnorV | xnorS | notV | notS | shlV | shlS |
      shrV | shrS | sarV | sarS | shfV | shfS | bfeV | bfeS | bfiV | bfiS | brevV | brevS | popcV | popcS | clzV | clzS | ctzV | ctzS |
      bgatV | bgatS | cmpV | cmpS | movV | movS | selV | divV | divS | remV | remS | addA | subA | mulA | madA | shlA | cmpA | movA |
      rampA | spread | mat | agree | firstLane | addVF | subVF | mulVF | fmaV | minVF | maxVF | minnumV | maxnumV | cmpVF | cmpVF16 |
      rndV | rcpV | sqrtV | divVF | ex2 | lg2 | sinpi | cospi | dotV | absVF | negVF | copysignV | classV | addVQ | subVQ | mulVQ | fmaVQ |
      minVQ | maxVQ | dotVQ | absVQ | negVQ | cvtFloatFloat | cvtFloatInt | cvtIntFloat | cvtQFloat | cvtFloatQ | cvtNarrow | addSF |
      subSF | mulSF | fmaS | minSF | maxSF | minnumS | maxnumS | cmpSF | rcpS | sqrtS | divSF | absSF | negSF | copysignS | shfl |
      voteAll | voteAny | voteEq | voteBallot | reduceInt | reduceFloat | scanInt | scanFloat | matchLanes | ldgV | ldgS | stgV | stgS |
      ldtmV | ldtmS | sttmV | sttmS | ldcV | ldcS | stmsk | atom | red | atomtm | publish | adopt | fence | pinLines | unpinLines |
      barInit | barArrive | barExpect | barWait | barTest | chinit | chres | chcommit | chtake | chfree | cpyG2t | cpyT2g | cpyG2g |
      cpyT2t | vgrow | vshrink | obres | obrel | obldG | obldTm | ldfrag | mma | drainF64 | drainQ | drainI64 | xzero | xstatNan |
      xstatOvf | xget | xput | ccall | crecv | tokWait | tokRead | tokResume | cbarArrive | cbarWait | enq | launchGrid | waitv | setdl |
      getsr | setsr | tlbinvAsid | tlbinvPage | tlbinvSlice | xlat | dbgStop | dbgResume | dbgRd | dbgWr | dbgWrForce | dbgActResume |
      dbgActExit | endgrid | collAllreduce | collAllgather | collRedscat | collBcast => exact ⟨_, fun _ => rfl⟩
  all_goals cases h

end Sys2Proof.Machine
end

