-- ==== Sys2Proof/Laws/State.lean ====
section
/-!
SUPPORT. What each named update of the state leaves: one lemma for each field of State, of a group and of a state's record.
-/
namespace Sys2Proof.Machine

/-! ## State -/

@[simp] theorem State.setTeam_mem (s : State) (t : Nat) (x : Team) : (s.setTeam t x).mem = s.mem := rfl
@[simp] theorem State.setTeam_poison (s : State) (t : Nat) (x : Team) : (s.setTeam t x).poison = s.poison := rfl
@[simp] theorem State.setTeam_co (s : State) (t : Nat) (x : Team) : (s.setTeam t x).co = s.co := rfl
@[simp] theorem State.setTeam_coNext (s : State) (t : Nat) (x : Team) : (s.setTeam t x).coNext = s.coNext := rfl
@[simp] theorem State.setTeam_pubs (s : State) (t : Nat) (x : Team) : (s.setTeam t x).pubs = s.pubs := rfl
@[simp] theorem State.setTeam_teams (s : State) (t : Nat) (x : Team) : (s.setTeam t x).teams = s.teams.put t x := rfl
@[simp] theorem State.setTeam_ops (s : State) (t : Nat) (x : Team) : (s.setTeam t x).ops = s.ops := rfl
@[simp] theorem State.setTeam_calls (s : State) (t : Nat) (x : Team) : (s.setTeam t x).calls = s.calls := rfl
@[simp] theorem State.setTeam_streams (s : State) (t : Nat) (x : Team) : (s.setTeam t x).streams = s.streams := rfl
@[simp] theorem State.setTeam_served (s : State) (t : Nat) (x : Team) : (s.setTeam t x).served = s.served := rfl
@[simp] theorem State.setTeam_adoptBack (s : State) (t : Nat) (x : Team) : (s.setTeam t x).adoptBack = s.adoptBack := rfl
@[simp] theorem State.setTeam_cbarPubs (s : State) (t : Nat) (x : Team) : (s.setTeam t x).cbarPubs = s.cbarPubs := rfl
@[simp] theorem State.setTeam_cbarStores (s : State) (t : Nat) (x : Team) : (s.setTeam t x).cbarStores = s.cbarStores := rfl
@[simp] theorem State.setTeam_tlb1 (s : State) (t : Nat) (x : Team) : (s.setTeam t x).tlb1 = s.tlb1 := rfl
@[simp] theorem State.setTeam_tlb2 (s : State) (t : Nat) (x : Team) : (s.setTeam t x).tlb2 = s.tlb2 := rfl
@[simp] theorem State.setTeam_dcnt (s : State) (t : Nat) (x : Team) : (s.setTeam t x).dcnt = s.dcnt := rfl
@[simp] theorem State.setTeam_sliceDie (s : State) (t : Nat) (x : Team) : (s.setTeam t x).sliceDie = s.sliceDie := rfl
@[simp] theorem State.setTeam_slices (s : State) (t : Nat) (x : Team) : (s.setTeam t x).slices = s.slices := rfl
@[simp] theorem State.setTeam_queues (s : State) (t : Nat) (x : Team) : (s.setTeam t x).queues = s.queues := rfl
@[simp] theorem State.setTeam_grids (s : State) (t : Nat) (x : Team) : (s.setTeam t x).grids = s.grids := rfl
@[simp] theorem State.setTeam_lists (s : State) (t : Nat) (x : Team) : (s.setTeam t x).lists = s.lists := rfl
@[simp] theorem State.setTeam_transit (s : State) (t : Nat) (x : Team) : (s.setTeam t x).transit = s.transit := rfl
@[simp] theorem State.setTeam_cmds (s : State) (t : Nat) (x : Team) : (s.setTeam t x).cmds = s.cmds := rfl
@[simp] theorem State.setTeam_cps (s : State) (t : Nat) (x : Team) : (s.setTeam t x).cps = s.cps := rfl
@[simp] theorem State.setTeam_leases (s : State) (t : Nat) (x : Team) : (s.setTeam t x).leases = s.leases := rfl
@[simp] theorem State.setTeam_ringDue (s : State) (t : Nat) (x : Team) : (s.setTeam t x).ringDue = s.ringDue := rfl
@[simp] theorem State.setTeam_chans (s : State) (t : Nat) (x : Team) : (s.setTeam t x).chans = s.chans := rfl
@[simp] theorem State.setTeam_mr (s : State) (t : Nat) (x : Team) : (s.setTeam t x).mr = s.mr := rfl
@[simp] theorem State.setTeam_extend (s : State) (t : Nat) (x : Team) : (s.setTeam t x).extend = s.extend := rfl
@[simp] theorem State.setTeam_flash (s : State) (t : Nat) (x : Team) : (s.setTeam t x).flash = s.flash := rfl
@[simp] theorem State.setTeam_fuseSvn (s : State) (t : Nat) (x : Team) : (s.setTeam t x).fuseSvn = s.fuseSvn := rfl
@[simp] theorem State.setTeam_mhz (s : State) (t : Nat) (x : Team) : (s.setTeam t x).mhz = s.mhz := rfl
@[simp] theorem State.setTeam_halfRate (s : State) (t : Nat) (x : Team) : (s.setTeam t x).halfRate = s.halfRate := rfl
@[simp] theorem State.setTeam_droop (s : State) (t : Nat) (x : Team) : (s.setTeam t x).droop = s.droop := rfl
@[simp] theorem State.setTeam_msix (s : State) (t : Nat) (x : Team) : (s.setTeam t x).msix = s.msix := rfl
@[simp] theorem State.setTeam_barReads (s : State) (t : Nat) (x : Team) : (s.setTeam t x).barReads = s.barReads := rfl
@[simp] theorem State.setTeam_doe (s : State) (t : Nat) (x : Team) : (s.setTeam t x).doe = s.doe := rfl
@[simp] theorem State.setTeam_sessions (s : State) (t : Nat) (x : Team) : (s.setTeam t x).sessions = s.sessions := rfl
@[simp] theorem State.setTeam_requests (s : State) (t : Nat) (x : Team) : (s.setTeam t x).requests = s.requests := rfl
@[simp] theorem State.setTeam_replies (s : State) (t : Nat) (x : Team) : (s.setTeam t x).replies = s.replies := rfl
@[simp] theorem State.setTeam_collgrps (s : State) (t : Nat) (x : Team) : (s.setTeam t x).collgrps = s.collgrps := rfl
@[simp] theorem State.setTeam_contribs (s : State) (t : Nat) (x : Team) : (s.setTeam t x).contribs = s.contribs := rfl
@[simp] theorem State.setTeam_routes (s : State) (t : Nat) (x : Team) : (s.setTeam t x).routes = s.routes := rfl
@[simp] theorem State.setTeam_fwd (s : State) (t : Nat) (x : Team) : (s.setTeam t x).fwd = s.fwd := rfl
@[simp] theorem State.setTeam_remapAck (s : State) (t : Nat) (x : Team) : (s.setTeam t x).remapAck = s.remapAck := rfl
@[simp] theorem State.setTeam_verdicts (s : State) (t : Nat) (x : Team) : (s.setTeam t x).verdicts = s.verdicts := rfl
@[simp] theorem State.setTeam_pinned (s : State) (t : Nat) (x : Team) : (s.setTeam t x).pinned = s.pinned := rfl
@[simp] theorem State.setTeam_sliceClu (s : State) (t : Nat) (x : Team) : (s.setTeam t x).sliceClu = s.sliceClu := rfl
@[simp] theorem State.setTeam_sliceReg (s : State) (t : Nat) (x : Team) : (s.setTeam t x).sliceReg = s.sliceReg := rfl
@[simp] theorem State.setTeam_pkgReg (s : State) (t : Nat) (x : Team) : (s.setTeam t x).pkgReg = s.pkgReg := rfl
@[simp] theorem State.setTeam_coreReg (s : State) (t : Nat) (x : Team) : (s.setTeam t x).coreReg = s.coreReg := rfl
@[simp] theorem State.setTeam_stamp (s : State) (t : Nat) (x : Team) : (s.setTeam t x).stamp = s.stamp := rfl
@[simp] theorem State.setTeam_fresh (s : State) (t : Nat) (x : Team) : (s.setTeam t x).fresh = s.fresh := rfl
@[simp] theorem State.setTeam_cur (s : State) (t : Nat) (x : Team) : (s.setTeam t x).cur = s.cur := rfl
@[simp] theorem State.setTeam_stream1 (s : State) (t : Nat) (x : Team) : (s.setTeam t x).stream1 = s.stream1 := rfl
@[simp] theorem State.setTeam_snap (s : State) (t : Nat) (x : Team) : (s.setTeam t x).snap = s.snap := rfl
@[simp] theorem State.setTeam_snapSr (s : State) (t : Nat) (x : Team) : (s.setTeam t x).snapSr = s.snapSr := rfl
@[simp] theorem State.setTeam_ended (s : State) (t : Nat) (x : Team) : (s.setTeam t x).ended = s.ended := rfl
@[simp] theorem State.setTeam_agenda (s : State) (t : Nat) (x : Team) : (s.setTeam t x).agenda = s.agenda := rfl
@[simp] theorem State.setOp_mem (s : State) (o : Op) : (s.setOp o).mem = s.mem := rfl
@[simp] theorem State.setOp_poison (s : State) (o : Op) : (s.setOp o).poison = s.poison := rfl
@[simp] theorem State.setOp_co (s : State) (o : Op) : (s.setOp o).co = s.co := rfl
@[simp] theorem State.setOp_coNext (s : State) (o : Op) : (s.setOp o).coNext = s.coNext := rfl
@[simp] theorem State.setOp_pubs (s : State) (o : Op) : (s.setOp o).pubs = s.pubs := rfl
@[simp] theorem State.setOp_teams (s : State) (o : Op) : (s.setOp o).teams = s.teams := rfl
@[simp] theorem State.setOp_ops (s : State) (o : Op) : (s.setOp o).ops = s.ops.map fun p => if p.id = o.id then o else p := rfl
@[simp] theorem State.setOp_calls (s : State) (o : Op) : (s.setOp o).calls = s.calls := rfl
@[simp] theorem State.setOp_streams (s : State) (o : Op) : (s.setOp o).streams = s.streams := rfl
@[simp] theorem State.setOp_served (s : State) (o : Op) : (s.setOp o).served = s.served := rfl
@[simp] theorem State.setOp_adoptBack (s : State) (o : Op) : (s.setOp o).adoptBack = s.adoptBack := rfl
@[simp] theorem State.setOp_cbarPubs (s : State) (o : Op) : (s.setOp o).cbarPubs = s.cbarPubs := rfl
@[simp] theorem State.setOp_cbarStores (s : State) (o : Op) : (s.setOp o).cbarStores = s.cbarStores := rfl
@[simp] theorem State.setOp_tlb1 (s : State) (o : Op) : (s.setOp o).tlb1 = s.tlb1 := rfl
@[simp] theorem State.setOp_tlb2 (s : State) (o : Op) : (s.setOp o).tlb2 = s.tlb2 := rfl
@[simp] theorem State.setOp_dcnt (s : State) (o : Op) : (s.setOp o).dcnt = s.dcnt := rfl
@[simp] theorem State.setOp_sliceDie (s : State) (o : Op) : (s.setOp o).sliceDie = s.sliceDie := rfl
@[simp] theorem State.setOp_slices (s : State) (o : Op) : (s.setOp o).slices = s.slices := rfl
@[simp] theorem State.setOp_queues (s : State) (o : Op) : (s.setOp o).queues = s.queues := rfl
@[simp] theorem State.setOp_grids (s : State) (o : Op) : (s.setOp o).grids = s.grids := rfl
@[simp] theorem State.setOp_lists (s : State) (o : Op) : (s.setOp o).lists = s.lists := rfl
@[simp] theorem State.setOp_transit (s : State) (o : Op) : (s.setOp o).transit = s.transit := rfl
@[simp] theorem State.setOp_cmds (s : State) (o : Op) : (s.setOp o).cmds = s.cmds := rfl
@[simp] theorem State.setOp_cps (s : State) (o : Op) : (s.setOp o).cps = s.cps := rfl
@[simp] theorem State.setOp_leases (s : State) (o : Op) : (s.setOp o).leases = s.leases := rfl
@[simp] theorem State.setOp_ringDue (s : State) (o : Op) : (s.setOp o).ringDue = s.ringDue := rfl
@[simp] theorem State.setOp_chans (s : State) (o : Op) : (s.setOp o).chans = s.chans := rfl
@[simp] theorem State.setOp_mr (s : State) (o : Op) : (s.setOp o).mr = s.mr := rfl
@[simp] theorem State.setOp_extend (s : State) (o : Op) : (s.setOp o).extend = s.extend := rfl
@[simp] theorem State.setOp_flash (s : State) (o : Op) : (s.setOp o).flash = s.flash := rfl
@[simp] theorem State.setOp_fuseSvn (s : State) (o : Op) : (s.setOp o).fuseSvn = s.fuseSvn := rfl
@[simp] theorem State.setOp_mhz (s : State) (o : Op) : (s.setOp o).mhz = s.mhz := rfl
@[simp] theorem State.setOp_halfRate (s : State) (o : Op) : (s.setOp o).halfRate = s.halfRate := rfl
@[simp] theorem State.setOp_droop (s : State) (o : Op) : (s.setOp o).droop = s.droop := rfl
@[simp] theorem State.setOp_msix (s : State) (o : Op) : (s.setOp o).msix = s.msix := rfl
@[simp] theorem State.setOp_barReads (s : State) (o : Op) : (s.setOp o).barReads = s.barReads := rfl
@[simp] theorem State.setOp_doe (s : State) (o : Op) : (s.setOp o).doe = s.doe := rfl
@[simp] theorem State.setOp_sessions (s : State) (o : Op) : (s.setOp o).sessions = s.sessions := rfl
@[simp] theorem State.setOp_requests (s : State) (o : Op) : (s.setOp o).requests = s.requests := rfl
@[simp] theorem State.setOp_replies (s : State) (o : Op) : (s.setOp o).replies = s.replies := rfl
@[simp] theorem State.setOp_collgrps (s : State) (o : Op) : (s.setOp o).collgrps = s.collgrps := rfl
@[simp] theorem State.setOp_contribs (s : State) (o : Op) : (s.setOp o).contribs = s.contribs := rfl
@[simp] theorem State.setOp_routes (s : State) (o : Op) : (s.setOp o).routes = s.routes := rfl
@[simp] theorem State.setOp_fwd (s : State) (o : Op) : (s.setOp o).fwd = s.fwd := rfl
@[simp] theorem State.setOp_remapAck (s : State) (o : Op) : (s.setOp o).remapAck = s.remapAck := rfl
@[simp] theorem State.setOp_verdicts (s : State) (o : Op) : (s.setOp o).verdicts = s.verdicts := rfl
@[simp] theorem State.setOp_pinned (s : State) (o : Op) : (s.setOp o).pinned = s.pinned := rfl
@[simp] theorem State.setOp_sliceClu (s : State) (o : Op) : (s.setOp o).sliceClu = s.sliceClu := rfl
@[simp] theorem State.setOp_sliceReg (s : State) (o : Op) : (s.setOp o).sliceReg = s.sliceReg := rfl
@[simp] theorem State.setOp_pkgReg (s : State) (o : Op) : (s.setOp o).pkgReg = s.pkgReg := rfl
@[simp] theorem State.setOp_coreReg (s : State) (o : Op) : (s.setOp o).coreReg = s.coreReg := rfl
@[simp] theorem State.setOp_stamp (s : State) (o : Op) : (s.setOp o).stamp = s.stamp := rfl
@[simp] theorem State.setOp_fresh (s : State) (o : Op) : (s.setOp o).fresh = s.fresh := rfl
@[simp] theorem State.setOp_cur (s : State) (o : Op) : (s.setOp o).cur = s.cur := rfl
@[simp] theorem State.setOp_stream1 (s : State) (o : Op) : (s.setOp o).stream1 = s.stream1 := rfl
@[simp] theorem State.setOp_snap (s : State) (o : Op) : (s.setOp o).snap = s.snap := rfl
@[simp] theorem State.setOp_snapSr (s : State) (o : Op) : (s.setOp o).snapSr = s.snapSr := rfl
@[simp] theorem State.setOp_ended (s : State) (o : Op) : (s.setOp o).ended = s.ended := rfl
@[simp] theorem State.setOp_agenda (s : State) (o : Op) : (s.setOp o).agenda = s.agenda := rfl
@[simp] theorem State.setCall_mem (s : State) (c : Call) : (s.setCall c).mem = s.mem := rfl
@[simp] theorem State.setCall_poison (s : State) (c : Call) : (s.setCall c).poison = s.poison := rfl
@[simp] theorem State.setCall_co (s : State) (c : Call) : (s.setCall c).co = s.co := rfl
@[simp] theorem State.setCall_coNext (s : State) (c : Call) : (s.setCall c).coNext = s.coNext := rfl
@[simp] theorem State.setCall_pubs (s : State) (c : Call) : (s.setCall c).pubs = s.pubs := rfl
@[simp] theorem State.setCall_teams (s : State) (c : Call) : (s.setCall c).teams = s.teams := rfl
@[simp] theorem State.setCall_ops (s : State) (c : Call) : (s.setCall c).ops = s.ops := rfl
@[simp] theorem State.setCall_calls (s : State) (c : Call) : (s.setCall c).calls = s.calls.map fun k => if k.id = c.id then c else k := rfl
@[simp] theorem State.setCall_streams (s : State) (c : Call) : (s.setCall c).streams = s.streams := rfl
@[simp] theorem State.setCall_served (s : State) (c : Call) : (s.setCall c).served = s.served := rfl
@[simp] theorem State.setCall_adoptBack (s : State) (c : Call) : (s.setCall c).adoptBack = s.adoptBack := rfl
@[simp] theorem State.setCall_cbarPubs (s : State) (c : Call) : (s.setCall c).cbarPubs = s.cbarPubs := rfl
@[simp] theorem State.setCall_cbarStores (s : State) (c : Call) : (s.setCall c).cbarStores = s.cbarStores := rfl
@[simp] theorem State.setCall_tlb1 (s : State) (c : Call) : (s.setCall c).tlb1 = s.tlb1 := rfl
@[simp] theorem State.setCall_tlb2 (s : State) (c : Call) : (s.setCall c).tlb2 = s.tlb2 := rfl
@[simp] theorem State.setCall_dcnt (s : State) (c : Call) : (s.setCall c).dcnt = s.dcnt := rfl
@[simp] theorem State.setCall_sliceDie (s : State) (c : Call) : (s.setCall c).sliceDie = s.sliceDie := rfl
@[simp] theorem State.setCall_slices (s : State) (c : Call) : (s.setCall c).slices = s.slices := rfl
@[simp] theorem State.setCall_queues (s : State) (c : Call) : (s.setCall c).queues = s.queues := rfl
@[simp] theorem State.setCall_grids (s : State) (c : Call) : (s.setCall c).grids = s.grids := rfl
@[simp] theorem State.setCall_lists (s : State) (c : Call) : (s.setCall c).lists = s.lists := rfl
@[simp] theorem State.setCall_transit (s : State) (c : Call) : (s.setCall c).transit = s.transit := rfl
@[simp] theorem State.setCall_cmds (s : State) (c : Call) : (s.setCall c).cmds = s.cmds := rfl
@[simp] theorem State.setCall_cps (s : State) (c : Call) : (s.setCall c).cps = s.cps := rfl
@[simp] theorem State.setCall_leases (s : State) (c : Call) : (s.setCall c).leases = s.leases := rfl
@[simp] theorem State.setCall_ringDue (s : State) (c : Call) : (s.setCall c).ringDue = s.ringDue := rfl
@[simp] theorem State.setCall_chans (s : State) (c : Call) : (s.setCall c).chans = s.chans := rfl
@[simp] theorem State.setCall_mr (s : State) (c : Call) : (s.setCall c).mr = s.mr := rfl
@[simp] theorem State.setCall_extend (s : State) (c : Call) : (s.setCall c).extend = s.extend := rfl
@[simp] theorem State.setCall_flash (s : State) (c : Call) : (s.setCall c).flash = s.flash := rfl
@[simp] theorem State.setCall_fuseSvn (s : State) (c : Call) : (s.setCall c).fuseSvn = s.fuseSvn := rfl
@[simp] theorem State.setCall_mhz (s : State) (c : Call) : (s.setCall c).mhz = s.mhz := rfl
@[simp] theorem State.setCall_halfRate (s : State) (c : Call) : (s.setCall c).halfRate = s.halfRate := rfl
@[simp] theorem State.setCall_droop (s : State) (c : Call) : (s.setCall c).droop = s.droop := rfl
@[simp] theorem State.setCall_msix (s : State) (c : Call) : (s.setCall c).msix = s.msix := rfl
@[simp] theorem State.setCall_barReads (s : State) (c : Call) : (s.setCall c).barReads = s.barReads := rfl
@[simp] theorem State.setCall_doe (s : State) (c : Call) : (s.setCall c).doe = s.doe := rfl
@[simp] theorem State.setCall_sessions (s : State) (c : Call) : (s.setCall c).sessions = s.sessions := rfl
@[simp] theorem State.setCall_requests (s : State) (c : Call) : (s.setCall c).requests = s.requests := rfl
@[simp] theorem State.setCall_replies (s : State) (c : Call) : (s.setCall c).replies = s.replies := rfl
@[simp] theorem State.setCall_collgrps (s : State) (c : Call) : (s.setCall c).collgrps = s.collgrps := rfl
@[simp] theorem State.setCall_contribs (s : State) (c : Call) : (s.setCall c).contribs = s.contribs := rfl
@[simp] theorem State.setCall_routes (s : State) (c : Call) : (s.setCall c).routes = s.routes := rfl
@[simp] theorem State.setCall_fwd (s : State) (c : Call) : (s.setCall c).fwd = s.fwd := rfl
@[simp] theorem State.setCall_remapAck (s : State) (c : Call) : (s.setCall c).remapAck = s.remapAck := rfl
@[simp] theorem State.setCall_verdicts (s : State) (c : Call) : (s.setCall c).verdicts = s.verdicts := rfl
@[simp] theorem State.setCall_pinned (s : State) (c : Call) : (s.setCall c).pinned = s.pinned := rfl
@[simp] theorem State.setCall_sliceClu (s : State) (c : Call) : (s.setCall c).sliceClu = s.sliceClu := rfl
@[simp] theorem State.setCall_sliceReg (s : State) (c : Call) : (s.setCall c).sliceReg = s.sliceReg := rfl
@[simp] theorem State.setCall_pkgReg (s : State) (c : Call) : (s.setCall c).pkgReg = s.pkgReg := rfl
@[simp] theorem State.setCall_coreReg (s : State) (c : Call) : (s.setCall c).coreReg = s.coreReg := rfl
@[simp] theorem State.setCall_stamp (s : State) (c : Call) : (s.setCall c).stamp = s.stamp := rfl
@[simp] theorem State.setCall_fresh (s : State) (c : Call) : (s.setCall c).fresh = s.fresh := rfl
@[simp] theorem State.setCall_cur (s : State) (c : Call) : (s.setCall c).cur = s.cur := rfl
@[simp] theorem State.setCall_stream1 (s : State) (c : Call) : (s.setCall c).stream1 = s.stream1 := rfl
@[simp] theorem State.setCall_snap (s : State) (c : Call) : (s.setCall c).snap = s.snap := rfl
@[simp] theorem State.setCall_snapSr (s : State) (c : Call) : (s.setCall c).snapSr = s.snapSr := rfl
@[simp] theorem State.setCall_ended (s : State) (c : Call) : (s.setCall c).ended = s.ended := rfl
@[simp] theorem State.setCall_agenda (s : State) (c : Call) : (s.setCall c).agenda = s.agenda := rfl
@[simp] theorem State.setSliceDie_mem (s : State) (a b : Nat) (x : SliceDie) : (s.setSliceDie a b x).mem = s.mem := rfl
@[simp] theorem State.setSliceDie_poison (s : State) (a b : Nat) (x : SliceDie) : (s.setSliceDie a b x).poison = s.poison := rfl
@[simp] theorem State.setSliceDie_co (s : State) (a b : Nat) (x : SliceDie) : (s.setSliceDie a b x).co = s.co := rfl
@[simp] theorem State.setSliceDie_coNext (s : State) (a b : Nat) (x : SliceDie) : (s.setSliceDie a b x).coNext = s.coNext := rfl
@[simp] theorem State.setSliceDie_pubs (s : State) (a b : Nat) (x : SliceDie) : (s.setSliceDie a b x).pubs = s.pubs := rfl
@[simp] theorem State.setSliceDie_teams (s : State) (a b : Nat) (x : SliceDie) : (s.setSliceDie a b x).teams = s.teams := rfl
@[simp] theorem State.setSliceDie_ops (s : State) (a b : Nat) (x : SliceDie) : (s.setSliceDie a b x).ops = s.ops := rfl
@[simp] theorem State.setSliceDie_calls (s : State) (a b : Nat) (x : SliceDie) : (s.setSliceDie a b x).calls = s.calls := rfl
@[simp] theorem State.setSliceDie_streams (s : State) (a b : Nat) (x : SliceDie) : (s.setSliceDie a b x).streams = s.streams := rfl
@[simp] theorem State.setSliceDie_served (s : State) (a b : Nat) (x : SliceDie) : (s.setSliceDie a b x).served = s.served := rfl
@[simp] theorem State.setSliceDie_adoptBack (s : State) (a b : Nat) (x : SliceDie) : (s.setSliceDie a b x).adoptBack = s.adoptBack := rfl
@[simp] theorem State.setSliceDie_cbarPubs (s : State) (a b : Nat) (x : SliceDie) : (s.setSliceDie a b x).cbarPubs = s.cbarPubs := rfl
@[simp] theorem State.setSliceDie_cbarStores (s : State) (a b : Nat) (x : SliceDie) : (s.setSliceDie a b x).cbarStores = s.cbarStores := rfl
@[simp] theorem State.setSliceDie_tlb1 (s : State) (a b : Nat) (x : SliceDie) : (s.setSliceDie a b x).tlb1 = s.tlb1 := rfl
@[simp] theorem State.setSliceDie_tlb2 (s : State) (a b : Nat) (x : SliceDie) : (s.setSliceDie a b x).tlb2 = s.tlb2 := rfl
@[simp] theorem State.setSliceDie_dcnt (s : State) (a b : Nat) (x : SliceDie) : (s.setSliceDie a b x).dcnt = s.dcnt := rfl
@[simp] theorem State.setSliceDie_sliceDie (s : State) (a b : Nat) (x : SliceDie) : (s.setSliceDie a b x).sliceDie = s.sliceDie.set (4 * a + b) x := rfl
@[simp] theorem State.setSliceDie_slices (s : State) (a b : Nat) (x : SliceDie) : (s.setSliceDie a b x).slices = s.slices := rfl
@[simp] theorem State.setSliceDie_queues (s : State) (a b : Nat) (x : SliceDie) : (s.setSliceDie a b x).queues = s.queues := rfl
@[simp] theorem State.setSliceDie_grids (s : State) (a b : Nat) (x : SliceDie) : (s.setSliceDie a b x).grids = s.grids := rfl
@[simp] theorem State.setSliceDie_lists (s : State) (a b : Nat) (x : SliceDie) : (s.setSliceDie a b x).lists = s.lists := rfl
@[simp] theorem State.setSliceDie_transit (s : State) (a b : Nat) (x : SliceDie) : (s.setSliceDie a b x).transit = s.transit := rfl
@[simp] theorem State.setSliceDie_cmds (s : State) (a b : Nat) (x : SliceDie) : (s.setSliceDie a b x).cmds = s.cmds := rfl
@[simp] theorem State.setSliceDie_cps (s : State) (a b : Nat) (x : SliceDie) : (s.setSliceDie a b x).cps = s.cps := rfl
@[simp] theorem State.setSliceDie_leases (s : State) (a b : Nat) (x : SliceDie) : (s.setSliceDie a b x).leases = s.leases := rfl
@[simp] theorem State.setSliceDie_ringDue (s : State) (a b : Nat) (x : SliceDie) : (s.setSliceDie a b x).ringDue = s.ringDue := rfl
@[simp] theorem State.setSliceDie_chans (s : State) (a b : Nat) (x : SliceDie) : (s.setSliceDie a b x).chans = s.chans := rfl
@[simp] theorem State.setSliceDie_mr (s : State) (a b : Nat) (x : SliceDie) : (s.setSliceDie a b x).mr = s.mr := rfl
@[simp] theorem State.setSliceDie_extend (s : State) (a b : Nat) (x : SliceDie) : (s.setSliceDie a b x).extend = s.extend := rfl
@[simp] theorem State.setSliceDie_flash (s : State) (a b : Nat) (x : SliceDie) : (s.setSliceDie a b x).flash = s.flash := rfl
@[simp] theorem State.setSliceDie_fuseSvn (s : State) (a b : Nat) (x : SliceDie) : (s.setSliceDie a b x).fuseSvn = s.fuseSvn := rfl
@[simp] theorem State.setSliceDie_mhz (s : State) (a b : Nat) (x : SliceDie) : (s.setSliceDie a b x).mhz = s.mhz := rfl
@[simp] theorem State.setSliceDie_halfRate (s : State) (a b : Nat) (x : SliceDie) : (s.setSliceDie a b x).halfRate = s.halfRate := rfl
@[simp] theorem State.setSliceDie_droop (s : State) (a b : Nat) (x : SliceDie) : (s.setSliceDie a b x).droop = s.droop := rfl
@[simp] theorem State.setSliceDie_msix (s : State) (a b : Nat) (x : SliceDie) : (s.setSliceDie a b x).msix = s.msix := rfl
@[simp] theorem State.setSliceDie_barReads (s : State) (a b : Nat) (x : SliceDie) : (s.setSliceDie a b x).barReads = s.barReads := rfl
@[simp] theorem State.setSliceDie_doe (s : State) (a b : Nat) (x : SliceDie) : (s.setSliceDie a b x).doe = s.doe := rfl
@[simp] theorem State.setSliceDie_sessions (s : State) (a b : Nat) (x : SliceDie) : (s.setSliceDie a b x).sessions = s.sessions := rfl
@[simp] theorem State.setSliceDie_requests (s : State) (a b : Nat) (x : SliceDie) : (s.setSliceDie a b x).requests = s.requests := rfl
@[simp] theorem State.setSliceDie_replies (s : State) (a b : Nat) (x : SliceDie) : (s.setSliceDie a b x).replies = s.replies := rfl
@[simp] theorem State.setSliceDie_collgrps (s : State) (a b : Nat) (x : SliceDie) : (s.setSliceDie a b x).collgrps = s.collgrps := rfl
@[simp] theorem State.setSliceDie_contribs (s : State) (a b : Nat) (x : SliceDie) : (s.setSliceDie a b x).contribs = s.contribs := rfl
@[simp] theorem State.setSliceDie_routes (s : State) (a b : Nat) (x : SliceDie) : (s.setSliceDie a b x).routes = s.routes := rfl
@[simp] theorem State.setSliceDie_fwd (s : State) (a b : Nat) (x : SliceDie) : (s.setSliceDie a b x).fwd = s.fwd := rfl
@[simp] theorem State.setSliceDie_remapAck (s : State) (a b : Nat) (x : SliceDie) : (s.setSliceDie a b x).remapAck = s.remapAck := rfl
@[simp] theorem State.setSliceDie_verdicts (s : State) (a b : Nat) (x : SliceDie) : (s.setSliceDie a b x).verdicts = s.verdicts := rfl
@[simp] theorem State.setSliceDie_pinned (s : State) (a b : Nat) (x : SliceDie) : (s.setSliceDie a b x).pinned = s.pinned := rfl
@[simp] theorem State.setSliceDie_sliceClu (s : State) (a b : Nat) (x : SliceDie) : (s.setSliceDie a b x).sliceClu = s.sliceClu := rfl
@[simp] theorem State.setSliceDie_sliceReg (s : State) (a b : Nat) (x : SliceDie) : (s.setSliceDie a b x).sliceReg = s.sliceReg := rfl
@[simp] theorem State.setSliceDie_pkgReg (s : State) (a b : Nat) (x : SliceDie) : (s.setSliceDie a b x).pkgReg = s.pkgReg := rfl
@[simp] theorem State.setSliceDie_coreReg (s : State) (a b : Nat) (x : SliceDie) : (s.setSliceDie a b x).coreReg = s.coreReg := rfl
@[simp] theorem State.setSliceDie_stamp (s : State) (a b : Nat) (x : SliceDie) : (s.setSliceDie a b x).stamp = s.stamp := rfl
@[simp] theorem State.setSliceDie_fresh (s : State) (a b : Nat) (x : SliceDie) : (s.setSliceDie a b x).fresh = s.fresh := rfl
@[simp] theorem State.setSliceDie_cur (s : State) (a b : Nat) (x : SliceDie) : (s.setSliceDie a b x).cur = s.cur := rfl
@[simp] theorem State.setSliceDie_stream1 (s : State) (a b : Nat) (x : SliceDie) : (s.setSliceDie a b x).stream1 = s.stream1 := rfl
@[simp] theorem State.setSliceDie_snap (s : State) (a b : Nat) (x : SliceDie) : (s.setSliceDie a b x).snap = s.snap := rfl
@[simp] theorem State.setSliceDie_snapSr (s : State) (a b : Nat) (x : SliceDie) : (s.setSliceDie a b x).snapSr = s.snapSr := rfl
@[simp] theorem State.setSliceDie_ended (s : State) (a b : Nat) (x : SliceDie) : (s.setSliceDie a b x).ended = s.ended := rfl
@[simp] theorem State.setSliceDie_agenda (s : State) (a b : Nat) (x : SliceDie) : (s.setSliceDie a b x).agenda = s.agenda := rfl
@[simp] theorem State.setPkg_mem (s : State) (n : Nat) (v : Word) : (s.setPkg n v).mem = s.mem := rfl
@[simp] theorem State.setPkg_poison (s : State) (n : Nat) (v : Word) : (s.setPkg n v).poison = s.poison := rfl
@[simp] theorem State.setPkg_co (s : State) (n : Nat) (v : Word) : (s.setPkg n v).co = s.co := rfl
@[simp] theorem State.setPkg_coNext (s : State) (n : Nat) (v : Word) : (s.setPkg n v).coNext = s.coNext := rfl
@[simp] theorem State.setPkg_pubs (s : State) (n : Nat) (v : Word) : (s.setPkg n v).pubs = s.pubs := rfl
@[simp] theorem State.setPkg_teams (s : State) (n : Nat) (v : Word) : (s.setPkg n v).teams = s.teams := rfl
@[simp] theorem State.setPkg_ops (s : State) (n : Nat) (v : Word) : (s.setPkg n v).ops = s.ops := rfl
@[simp] theorem State.setPkg_calls (s : State) (n : Nat) (v : Word) : (s.setPkg n v).calls = s.calls := rfl
@[simp] theorem State.setPkg_streams (s : State) (n : Nat) (v : Word) : (s.setPkg n v).streams = s.streams := rfl
@[simp] theorem State.setPkg_served (s : State) (n : Nat) (v : Word) : (s.setPkg n v).served = s.served := rfl
@[simp] theorem State.setPkg_adoptBack (s : State) (n : Nat) (v : Word) : (s.setPkg n v).adoptBack = s.adoptBack := rfl
@[simp] theorem State.setPkg_cbarPubs (s : State) (n : Nat) (v : Word) : (s.setPkg n v).cbarPubs = s.cbarPubs := rfl
@[simp] theorem State.setPkg_cbarStores (s : State) (n : Nat) (v : Word) : (s.setPkg n v).cbarStores = s.cbarStores := rfl
@[simp] theorem State.setPkg_tlb1 (s : State) (n : Nat) (v : Word) : (s.setPkg n v).tlb1 = s.tlb1 := rfl
@[simp] theorem State.setPkg_tlb2 (s : State) (n : Nat) (v : Word) : (s.setPkg n v).tlb2 = s.tlb2 := rfl
@[simp] theorem State.setPkg_dcnt (s : State) (n : Nat) (v : Word) : (s.setPkg n v).dcnt = s.dcnt := rfl
@[simp] theorem State.setPkg_sliceDie (s : State) (n : Nat) (v : Word) : (s.setPkg n v).sliceDie = s.sliceDie := rfl
@[simp] theorem State.setPkg_slices (s : State) (n : Nat) (v : Word) : (s.setPkg n v).slices = s.slices := rfl
@[simp] theorem State.setPkg_queues (s : State) (n : Nat) (v : Word) : (s.setPkg n v).queues = s.queues := rfl
@[simp] theorem State.setPkg_grids (s : State) (n : Nat) (v : Word) : (s.setPkg n v).grids = s.grids := rfl
@[simp] theorem State.setPkg_lists (s : State) (n : Nat) (v : Word) : (s.setPkg n v).lists = s.lists := rfl
@[simp] theorem State.setPkg_transit (s : State) (n : Nat) (v : Word) : (s.setPkg n v).transit = s.transit := rfl
@[simp] theorem State.setPkg_cmds (s : State) (n : Nat) (v : Word) : (s.setPkg n v).cmds = s.cmds := rfl
@[simp] theorem State.setPkg_cps (s : State) (n : Nat) (v : Word) : (s.setPkg n v).cps = s.cps := rfl
@[simp] theorem State.setPkg_leases (s : State) (n : Nat) (v : Word) : (s.setPkg n v).leases = s.leases := rfl
@[simp] theorem State.setPkg_ringDue (s : State) (n : Nat) (v : Word) : (s.setPkg n v).ringDue = s.ringDue := rfl
@[simp] theorem State.setPkg_chans (s : State) (n : Nat) (v : Word) : (s.setPkg n v).chans = s.chans := rfl
@[simp] theorem State.setPkg_mr (s : State) (n : Nat) (v : Word) : (s.setPkg n v).mr = s.mr := rfl
@[simp] theorem State.setPkg_extend (s : State) (n : Nat) (v : Word) : (s.setPkg n v).extend = s.extend := rfl
@[simp] theorem State.setPkg_flash (s : State) (n : Nat) (v : Word) : (s.setPkg n v).flash = s.flash := rfl
@[simp] theorem State.setPkg_fuseSvn (s : State) (n : Nat) (v : Word) : (s.setPkg n v).fuseSvn = s.fuseSvn := rfl
@[simp] theorem State.setPkg_mhz (s : State) (n : Nat) (v : Word) : (s.setPkg n v).mhz = s.mhz := rfl
@[simp] theorem State.setPkg_halfRate (s : State) (n : Nat) (v : Word) : (s.setPkg n v).halfRate = s.halfRate := rfl
@[simp] theorem State.setPkg_droop (s : State) (n : Nat) (v : Word) : (s.setPkg n v).droop = s.droop := rfl
@[simp] theorem State.setPkg_msix (s : State) (n : Nat) (v : Word) : (s.setPkg n v).msix = s.msix := rfl
@[simp] theorem State.setPkg_barReads (s : State) (n : Nat) (v : Word) : (s.setPkg n v).barReads = s.barReads := rfl
@[simp] theorem State.setPkg_doe (s : State) (n : Nat) (v : Word) : (s.setPkg n v).doe = s.doe := rfl
@[simp] theorem State.setPkg_sessions (s : State) (n : Nat) (v : Word) : (s.setPkg n v).sessions = s.sessions := rfl
@[simp] theorem State.setPkg_requests (s : State) (n : Nat) (v : Word) : (s.setPkg n v).requests = s.requests := rfl
@[simp] theorem State.setPkg_replies (s : State) (n : Nat) (v : Word) : (s.setPkg n v).replies = s.replies := rfl
@[simp] theorem State.setPkg_collgrps (s : State) (n : Nat) (v : Word) : (s.setPkg n v).collgrps = s.collgrps := rfl
@[simp] theorem State.setPkg_contribs (s : State) (n : Nat) (v : Word) : (s.setPkg n v).contribs = s.contribs := rfl
@[simp] theorem State.setPkg_routes (s : State) (n : Nat) (v : Word) : (s.setPkg n v).routes = s.routes := rfl
@[simp] theorem State.setPkg_fwd (s : State) (n : Nat) (v : Word) : (s.setPkg n v).fwd = s.fwd := rfl
@[simp] theorem State.setPkg_remapAck (s : State) (n : Nat) (v : Word) : (s.setPkg n v).remapAck = s.remapAck := rfl
@[simp] theorem State.setPkg_verdicts (s : State) (n : Nat) (v : Word) : (s.setPkg n v).verdicts = s.verdicts := rfl
@[simp] theorem State.setPkg_pinned (s : State) (n : Nat) (v : Word) : (s.setPkg n v).pinned = s.pinned := rfl
@[simp] theorem State.setPkg_sliceClu (s : State) (n : Nat) (v : Word) : (s.setPkg n v).sliceClu = s.sliceClu := rfl
@[simp] theorem State.setPkg_sliceReg (s : State) (n : Nat) (v : Word) : (s.setPkg n v).sliceReg = s.sliceReg := rfl
@[simp] theorem State.setPkg_pkgReg (s : State) (n : Nat) (v : Word) : (s.setPkg n v).pkgReg = s.pkgReg.set n v := rfl
@[simp] theorem State.setPkg_coreReg (s : State) (n : Nat) (v : Word) : (s.setPkg n v).coreReg = s.coreReg := rfl
@[simp] theorem State.setPkg_stamp (s : State) (n : Nat) (v : Word) : (s.setPkg n v).stamp = s.stamp := rfl
@[simp] theorem State.setPkg_fresh (s : State) (n : Nat) (v : Word) : (s.setPkg n v).fresh = s.fresh := rfl
@[simp] theorem State.setPkg_cur (s : State) (n : Nat) (v : Word) : (s.setPkg n v).cur = s.cur := rfl
@[simp] theorem State.setPkg_stream1 (s : State) (n : Nat) (v : Word) : (s.setPkg n v).stream1 = s.stream1 := rfl
@[simp] theorem State.setPkg_snap (s : State) (n : Nat) (v : Word) : (s.setPkg n v).snap = s.snap := rfl
@[simp] theorem State.setPkg_snapSr (s : State) (n : Nat) (v : Word) : (s.setPkg n v).snapSr = s.snapSr := rfl
@[simp] theorem State.setPkg_ended (s : State) (n : Nat) (v : Word) : (s.setPkg n v).ended = s.ended := rfl
@[simp] theorem State.setPkg_agenda (s : State) (n : Nat) (v : Word) : (s.setPkg n v).agenda = s.agenda := rfl
@[simp] theorem State.setSreg_mem (s : State) (a n : Nat) (v : Word) : (s.setSreg a n v).mem = s.mem := rfl
@[simp] theorem State.setSreg_poison (s : State) (a n : Nat) (v : Word) : (s.setSreg a n v).poison = s.poison := rfl
@[simp] theorem State.setSreg_co (s : State) (a n : Nat) (v : Word) : (s.setSreg a n v).co = s.co := rfl
@[simp] theorem State.setSreg_coNext (s : State) (a n : Nat) (v : Word) : (s.setSreg a n v).coNext = s.coNext := rfl
@[simp] theorem State.setSreg_pubs (s : State) (a n : Nat) (v : Word) : (s.setSreg a n v).pubs = s.pubs := rfl
@[simp] theorem State.setSreg_teams (s : State) (a n : Nat) (v : Word) : (s.setSreg a n v).teams = s.teams := rfl
@[simp] theorem State.setSreg_ops (s : State) (a n : Nat) (v : Word) : (s.setSreg a n v).ops = s.ops := rfl
@[simp] theorem State.setSreg_calls (s : State) (a n : Nat) (v : Word) : (s.setSreg a n v).calls = s.calls := rfl
@[simp] theorem State.setSreg_streams (s : State) (a n : Nat) (v : Word) : (s.setSreg a n v).streams = s.streams := rfl
@[simp] theorem State.setSreg_served (s : State) (a n : Nat) (v : Word) : (s.setSreg a n v).served = s.served := rfl
@[simp] theorem State.setSreg_adoptBack (s : State) (a n : Nat) (v : Word) : (s.setSreg a n v).adoptBack = s.adoptBack := rfl
@[simp] theorem State.setSreg_cbarPubs (s : State) (a n : Nat) (v : Word) : (s.setSreg a n v).cbarPubs = s.cbarPubs := rfl
@[simp] theorem State.setSreg_cbarStores (s : State) (a n : Nat) (v : Word) : (s.setSreg a n v).cbarStores = s.cbarStores := rfl
@[simp] theorem State.setSreg_tlb1 (s : State) (a n : Nat) (v : Word) : (s.setSreg a n v).tlb1 = s.tlb1 := rfl
@[simp] theorem State.setSreg_tlb2 (s : State) (a n : Nat) (v : Word) : (s.setSreg a n v).tlb2 = s.tlb2 := rfl
@[simp] theorem State.setSreg_dcnt (s : State) (a n : Nat) (v : Word) : (s.setSreg a n v).dcnt = s.dcnt := rfl
@[simp] theorem State.setSreg_sliceDie (s : State) (a n : Nat) (v : Word) : (s.setSreg a n v).sliceDie = s.sliceDie := rfl
@[simp] theorem State.setSreg_slices (s : State) (a n : Nat) (v : Word) : (s.setSreg a n v).slices = s.slices := rfl
@[simp] theorem State.setSreg_queues (s : State) (a n : Nat) (v : Word) : (s.setSreg a n v).queues = s.queues := rfl
@[simp] theorem State.setSreg_grids (s : State) (a n : Nat) (v : Word) : (s.setSreg a n v).grids = s.grids := rfl
@[simp] theorem State.setSreg_lists (s : State) (a n : Nat) (v : Word) : (s.setSreg a n v).lists = s.lists := rfl
@[simp] theorem State.setSreg_transit (s : State) (a n : Nat) (v : Word) : (s.setSreg a n v).transit = s.transit := rfl
@[simp] theorem State.setSreg_cmds (s : State) (a n : Nat) (v : Word) : (s.setSreg a n v).cmds = s.cmds := rfl
@[simp] theorem State.setSreg_cps (s : State) (a n : Nat) (v : Word) : (s.setSreg a n v).cps = s.cps := rfl
@[simp] theorem State.setSreg_leases (s : State) (a n : Nat) (v : Word) : (s.setSreg a n v).leases = s.leases := rfl
@[simp] theorem State.setSreg_ringDue (s : State) (a n : Nat) (v : Word) : (s.setSreg a n v).ringDue = s.ringDue := rfl
@[simp] theorem State.setSreg_chans (s : State) (a n : Nat) (v : Word) : (s.setSreg a n v).chans = s.chans := rfl
@[simp] theorem State.setSreg_mr (s : State) (a n : Nat) (v : Word) : (s.setSreg a n v).mr = s.mr := rfl
@[simp] theorem State.setSreg_extend (s : State) (a n : Nat) (v : Word) : (s.setSreg a n v).extend = s.extend := rfl
@[simp] theorem State.setSreg_flash (s : State) (a n : Nat) (v : Word) : (s.setSreg a n v).flash = s.flash := rfl
@[simp] theorem State.setSreg_fuseSvn (s : State) (a n : Nat) (v : Word) : (s.setSreg a n v).fuseSvn = s.fuseSvn := rfl
@[simp] theorem State.setSreg_mhz (s : State) (a n : Nat) (v : Word) : (s.setSreg a n v).mhz = s.mhz := rfl
@[simp] theorem State.setSreg_halfRate (s : State) (a n : Nat) (v : Word) : (s.setSreg a n v).halfRate = s.halfRate := rfl
@[simp] theorem State.setSreg_droop (s : State) (a n : Nat) (v : Word) : (s.setSreg a n v).droop = s.droop := rfl
@[simp] theorem State.setSreg_msix (s : State) (a n : Nat) (v : Word) : (s.setSreg a n v).msix = s.msix := rfl
@[simp] theorem State.setSreg_barReads (s : State) (a n : Nat) (v : Word) : (s.setSreg a n v).barReads = s.barReads := rfl
@[simp] theorem State.setSreg_doe (s : State) (a n : Nat) (v : Word) : (s.setSreg a n v).doe = s.doe := rfl
@[simp] theorem State.setSreg_sessions (s : State) (a n : Nat) (v : Word) : (s.setSreg a n v).sessions = s.sessions := rfl
@[simp] theorem State.setSreg_requests (s : State) (a n : Nat) (v : Word) : (s.setSreg a n v).requests = s.requests := rfl
@[simp] theorem State.setSreg_replies (s : State) (a n : Nat) (v : Word) : (s.setSreg a n v).replies = s.replies := rfl
@[simp] theorem State.setSreg_collgrps (s : State) (a n : Nat) (v : Word) : (s.setSreg a n v).collgrps = s.collgrps := rfl
@[simp] theorem State.setSreg_contribs (s : State) (a n : Nat) (v : Word) : (s.setSreg a n v).contribs = s.contribs := rfl
@[simp] theorem State.setSreg_routes (s : State) (a n : Nat) (v : Word) : (s.setSreg a n v).routes = s.routes := rfl
@[simp] theorem State.setSreg_fwd (s : State) (a n : Nat) (v : Word) : (s.setSreg a n v).fwd = s.fwd := rfl
@[simp] theorem State.setSreg_remapAck (s : State) (a n : Nat) (v : Word) : (s.setSreg a n v).remapAck = s.remapAck := rfl
@[simp] theorem State.setSreg_verdicts (s : State) (a n : Nat) (v : Word) : (s.setSreg a n v).verdicts = s.verdicts := rfl
@[simp] theorem State.setSreg_pinned (s : State) (a n : Nat) (v : Word) : (s.setSreg a n v).pinned = s.pinned := rfl
@[simp] theorem State.setSreg_sliceClu (s : State) (a n : Nat) (v : Word) : (s.setSreg a n v).sliceClu = s.sliceClu := rfl
@[simp] theorem State.setSreg_sliceReg (s : State) (a n : Nat) (v : Word) : (s.setSreg a n v).sliceReg = s.sliceReg.set a ((s.sliceReg.get a).set n v) := rfl
@[simp] theorem State.setSreg_pkgReg (s : State) (a n : Nat) (v : Word) : (s.setSreg a n v).pkgReg = s.pkgReg := rfl
@[simp] theorem State.setSreg_coreReg (s : State) (a n : Nat) (v : Word) : (s.setSreg a n v).coreReg = s.coreReg := rfl
@[simp] theorem State.setSreg_stamp (s : State) (a n : Nat) (v : Word) : (s.setSreg a n v).stamp = s.stamp := rfl
@[simp] theorem State.setSreg_fresh (s : State) (a n : Nat) (v : Word) : (s.setSreg a n v).fresh = s.fresh := rfl
@[simp] theorem State.setSreg_cur (s : State) (a n : Nat) (v : Word) : (s.setSreg a n v).cur = s.cur := rfl
@[simp] theorem State.setSreg_stream1 (s : State) (a n : Nat) (v : Word) : (s.setSreg a n v).stream1 = s.stream1 := rfl
@[simp] theorem State.setSreg_snap (s : State) (a n : Nat) (v : Word) : (s.setSreg a n v).snap = s.snap := rfl
@[simp] theorem State.setSreg_snapSr (s : State) (a n : Nat) (v : Word) : (s.setSreg a n v).snapSr = s.snapSr := rfl
@[simp] theorem State.setSreg_ended (s : State) (a n : Nat) (v : Word) : (s.setSreg a n v).ended = s.ended := rfl
@[simp] theorem State.setSreg_agenda (s : State) (a n : Nat) (v : Word) : (s.setSreg a n v).agenda = s.agenda := rfl
@[simp] theorem State.setCluReg_mem (s : State) (a b n : Nat) (v : Word) : (s.setCluReg a b n v).mem = s.mem := rfl
@[simp] theorem State.setCluReg_poison (s : State) (a b n : Nat) (v : Word) : (s.setCluReg a b n v).poison = s.poison := rfl
@[simp] theorem State.setCluReg_co (s : State) (a b n : Nat) (v : Word) : (s.setCluReg a b n v).co = s.co := rfl
@[simp] theorem State.setCluReg_coNext (s : State) (a b n : Nat) (v : Word) : (s.setCluReg a b n v).coNext = s.coNext := rfl
@[simp] theorem State.setCluReg_pubs (s : State) (a b n : Nat) (v : Word) : (s.setCluReg a b n v).pubs = s.pubs := rfl
@[simp] theorem State.setCluReg_teams (s : State) (a b n : Nat) (v : Word) : (s.setCluReg a b n v).teams = s.teams := rfl
@[simp] theorem State.setCluReg_ops (s : State) (a b n : Nat) (v : Word) : (s.setCluReg a b n v).ops = s.ops := rfl
@[simp] theorem State.setCluReg_calls (s : State) (a b n : Nat) (v : Word) : (s.setCluReg a b n v).calls = s.calls := rfl
@[simp] theorem State.setCluReg_streams (s : State) (a b n : Nat) (v : Word) : (s.setCluReg a b n v).streams = s.streams := rfl
@[simp] theorem State.setCluReg_served (s : State) (a b n : Nat) (v : Word) : (s.setCluReg a b n v).served = s.served := rfl
@[simp] theorem State.setCluReg_adoptBack (s : State) (a b n : Nat) (v : Word) : (s.setCluReg a b n v).adoptBack = s.adoptBack := rfl
@[simp] theorem State.setCluReg_cbarPubs (s : State) (a b n : Nat) (v : Word) : (s.setCluReg a b n v).cbarPubs = s.cbarPubs := rfl
@[simp] theorem State.setCluReg_cbarStores (s : State) (a b n : Nat) (v : Word) : (s.setCluReg a b n v).cbarStores = s.cbarStores := rfl
@[simp] theorem State.setCluReg_tlb1 (s : State) (a b n : Nat) (v : Word) : (s.setCluReg a b n v).tlb1 = s.tlb1 := rfl
@[simp] theorem State.setCluReg_tlb2 (s : State) (a b n : Nat) (v : Word) : (s.setCluReg a b n v).tlb2 = s.tlb2 := rfl
@[simp] theorem State.setCluReg_dcnt (s : State) (a b n : Nat) (v : Word) : (s.setCluReg a b n v).dcnt = s.dcnt := rfl
@[simp] theorem State.setCluReg_sliceDie (s : State) (a b n : Nat) (v : Word) : (s.setCluReg a b n v).sliceDie = s.sliceDie := rfl
@[simp] theorem State.setCluReg_slices (s : State) (a b n : Nat) (v : Word) : (s.setCluReg a b n v).slices = s.slices := rfl
@[simp] theorem State.setCluReg_queues (s : State) (a b n : Nat) (v : Word) : (s.setCluReg a b n v).queues = s.queues := rfl
@[simp] theorem State.setCluReg_grids (s : State) (a b n : Nat) (v : Word) : (s.setCluReg a b n v).grids = s.grids := rfl
@[simp] theorem State.setCluReg_lists (s : State) (a b n : Nat) (v : Word) : (s.setCluReg a b n v).lists = s.lists := rfl
@[simp] theorem State.setCluReg_transit (s : State) (a b n : Nat) (v : Word) : (s.setCluReg a b n v).transit = s.transit := rfl
@[simp] theorem State.setCluReg_cmds (s : State) (a b n : Nat) (v : Word) : (s.setCluReg a b n v).cmds = s.cmds := rfl
@[simp] theorem State.setCluReg_cps (s : State) (a b n : Nat) (v : Word) : (s.setCluReg a b n v).cps = s.cps := rfl
@[simp] theorem State.setCluReg_leases (s : State) (a b n : Nat) (v : Word) : (s.setCluReg a b n v).leases = s.leases := rfl
@[simp] theorem State.setCluReg_ringDue (s : State) (a b n : Nat) (v : Word) : (s.setCluReg a b n v).ringDue = s.ringDue := rfl
@[simp] theorem State.setCluReg_chans (s : State) (a b n : Nat) (v : Word) : (s.setCluReg a b n v).chans = s.chans := rfl
@[simp] theorem State.setCluReg_mr (s : State) (a b n : Nat) (v : Word) : (s.setCluReg a b n v).mr = s.mr := rfl
@[simp] theorem State.setCluReg_extend (s : State) (a b n : Nat) (v : Word) : (s.setCluReg a b n v).extend = s.extend := rfl
@[simp] theorem State.setCluReg_flash (s : State) (a b n : Nat) (v : Word) : (s.setCluReg a b n v).flash = s.flash := rfl
@[simp] theorem State.setCluReg_fuseSvn (s : State) (a b n : Nat) (v : Word) : (s.setCluReg a b n v).fuseSvn = s.fuseSvn := rfl
@[simp] theorem State.setCluReg_mhz (s : State) (a b n : Nat) (v : Word) : (s.setCluReg a b n v).mhz = s.mhz := rfl
@[simp] theorem State.setCluReg_halfRate (s : State) (a b n : Nat) (v : Word) : (s.setCluReg a b n v).halfRate = s.halfRate := rfl
@[simp] theorem State.setCluReg_droop (s : State) (a b n : Nat) (v : Word) : (s.setCluReg a b n v).droop = s.droop := rfl
@[simp] theorem State.setCluReg_msix (s : State) (a b n : Nat) (v : Word) : (s.setCluReg a b n v).msix = s.msix := rfl
@[simp] theorem State.setCluReg_barReads (s : State) (a b n : Nat) (v : Word) : (s.setCluReg a b n v).barReads = s.barReads := rfl
@[simp] theorem State.setCluReg_doe (s : State) (a b n : Nat) (v : Word) : (s.setCluReg a b n v).doe = s.doe := rfl
@[simp] theorem State.setCluReg_sessions (s : State) (a b n : Nat) (v : Word) : (s.setCluReg a b n v).sessions = s.sessions := rfl
@[simp] theorem State.setCluReg_requests (s : State) (a b n : Nat) (v : Word) : (s.setCluReg a b n v).requests = s.requests := rfl
@[simp] theorem State.setCluReg_replies (s : State) (a b n : Nat) (v : Word) : (s.setCluReg a b n v).replies = s.replies := rfl
@[simp] theorem State.setCluReg_collgrps (s : State) (a b n : Nat) (v : Word) : (s.setCluReg a b n v).collgrps = s.collgrps := rfl
@[simp] theorem State.setCluReg_contribs (s : State) (a b n : Nat) (v : Word) : (s.setCluReg a b n v).contribs = s.contribs := rfl
@[simp] theorem State.setCluReg_routes (s : State) (a b n : Nat) (v : Word) : (s.setCluReg a b n v).routes = s.routes := rfl
@[simp] theorem State.setCluReg_fwd (s : State) (a b n : Nat) (v : Word) : (s.setCluReg a b n v).fwd = s.fwd := rfl
@[simp] theorem State.setCluReg_remapAck (s : State) (a b n : Nat) (v : Word) : (s.setCluReg a b n v).remapAck = s.remapAck := rfl
@[simp] theorem State.setCluReg_verdicts (s : State) (a b n : Nat) (v : Word) : (s.setCluReg a b n v).verdicts = s.verdicts := rfl
@[simp] theorem State.setCluReg_pinned (s : State) (a b n : Nat) (v : Word) : (s.setCluReg a b n v).pinned = s.pinned := rfl
@[simp] theorem State.setCluReg_sliceClu (s : State) (a b n : Nat) (v : Word) : (s.setCluReg a b n v).sliceClu = s.sliceClu.set (64 * a + b) ((s.sliceClu.get (64 * a + b)).set n v) := rfl
@[simp] theorem State.setCluReg_sliceReg (s : State) (a b n : Nat) (v : Word) : (s.setCluReg a b n v).sliceReg = s.sliceReg := rfl
@[simp] theorem State.setCluReg_pkgReg (s : State) (a b n : Nat) (v : Word) : (s.setCluReg a b n v).pkgReg = s.pkgReg := rfl
@[simp] theorem State.setCluReg_coreReg (s : State) (a b n : Nat) (v : Word) : (s.setCluReg a b n v).coreReg = s.coreReg := rfl
@[simp] theorem State.setCluReg_stamp (s : State) (a b n : Nat) (v : Word) : (s.setCluReg a b n v).stamp = s.stamp := rfl
@[simp] theorem State.setCluReg_fresh (s : State) (a b n : Nat) (v : Word) : (s.setCluReg a b n v).fresh = s.fresh := rfl
@[simp] theorem State.setCluReg_cur (s : State) (a b n : Nat) (v : Word) : (s.setCluReg a b n v).cur = s.cur := rfl
@[simp] theorem State.setCluReg_stream1 (s : State) (a b n : Nat) (v : Word) : (s.setCluReg a b n v).stream1 = s.stream1 := rfl
@[simp] theorem State.setCluReg_snap (s : State) (a b n : Nat) (v : Word) : (s.setCluReg a b n v).snap = s.snap := rfl
@[simp] theorem State.setCluReg_snapSr (s : State) (a b n : Nat) (v : Word) : (s.setCluReg a b n v).snapSr = s.snapSr := rfl
@[simp] theorem State.setCluReg_ended (s : State) (a b n : Nat) (v : Word) : (s.setCluReg a b n v).ended = s.ended := rfl
@[simp] theorem State.setCluReg_agenda (s : State) (a b n : Nat) (v : Word) : (s.setCluReg a b n v).agenda = s.agenda := rfl
@[simp] theorem State.setGrid_mem (s : State) (n : Nat) (x : Grid) : (s.setGrid n x).mem = s.mem := rfl
@[simp] theorem State.setGrid_poison (s : State) (n : Nat) (x : Grid) : (s.setGrid n x).poison = s.poison := rfl
@[simp] theorem State.setGrid_co (s : State) (n : Nat) (x : Grid) : (s.setGrid n x).co = s.co := rfl
@[simp] theorem State.setGrid_coNext (s : State) (n : Nat) (x : Grid) : (s.setGrid n x).coNext = s.coNext := rfl
@[simp] theorem State.setGrid_pubs (s : State) (n : Nat) (x : Grid) : (s.setGrid n x).pubs = s.pubs := rfl
@[simp] theorem State.setGrid_teams (s : State) (n : Nat) (x : Grid) : (s.setGrid n x).teams = s.teams := rfl
@[simp] theorem State.setGrid_ops (s : State) (n : Nat) (x : Grid) : (s.setGrid n x).ops = s.ops := rfl
@[simp] theorem State.setGrid_calls (s : State) (n : Nat) (x : Grid) : (s.setGrid n x).calls = s.calls := rfl
@[simp] theorem State.setGrid_streams (s : State) (n : Nat) (x : Grid) : (s.setGrid n x).streams = s.streams := rfl
@[simp] theorem State.setGrid_served (s : State) (n : Nat) (x : Grid) : (s.setGrid n x).served = s.served := rfl
@[simp] theorem State.setGrid_adoptBack (s : State) (n : Nat) (x : Grid) : (s.setGrid n x).adoptBack = s.adoptBack := rfl
@[simp] theorem State.setGrid_cbarPubs (s : State) (n : Nat) (x : Grid) : (s.setGrid n x).cbarPubs = s.cbarPubs := rfl
@[simp] theorem State.setGrid_cbarStores (s : State) (n : Nat) (x : Grid) : (s.setGrid n x).cbarStores = s.cbarStores := rfl
@[simp] theorem State.setGrid_tlb1 (s : State) (n : Nat) (x : Grid) : (s.setGrid n x).tlb1 = s.tlb1 := rfl
@[simp] theorem State.setGrid_tlb2 (s : State) (n : Nat) (x : Grid) : (s.setGrid n x).tlb2 = s.tlb2 := rfl
@[simp] theorem State.setGrid_dcnt (s : State) (n : Nat) (x : Grid) : (s.setGrid n x).dcnt = s.dcnt := rfl
@[simp] theorem State.setGrid_sliceDie (s : State) (n : Nat) (x : Grid) : (s.setGrid n x).sliceDie = s.sliceDie := rfl
@[simp] theorem State.setGrid_slices (s : State) (n : Nat) (x : Grid) : (s.setGrid n x).slices = s.slices := rfl
@[simp] theorem State.setGrid_queues (s : State) (n : Nat) (x : Grid) : (s.setGrid n x).queues = s.queues := rfl
@[simp] theorem State.setGrid_grids (s : State) (n : Nat) (x : Grid) : (s.setGrid n x).grids = s.grids.put n x := rfl
@[simp] theorem State.setGrid_lists (s : State) (n : Nat) (x : Grid) : (s.setGrid n x).lists = s.lists := rfl
@[simp] theorem State.setGrid_transit (s : State) (n : Nat) (x : Grid) : (s.setGrid n x).transit = s.transit := rfl
@[simp] theorem State.setGrid_cmds (s : State) (n : Nat) (x : Grid) : (s.setGrid n x).cmds = s.cmds := rfl
@[simp] theorem State.setGrid_cps (s : State) (n : Nat) (x : Grid) : (s.setGrid n x).cps = s.cps := rfl
@[simp] theorem State.setGrid_leases (s : State) (n : Nat) (x : Grid) : (s.setGrid n x).leases = s.leases := rfl
@[simp] theorem State.setGrid_ringDue (s : State) (n : Nat) (x : Grid) : (s.setGrid n x).ringDue = s.ringDue := rfl
@[simp] theorem State.setGrid_chans (s : State) (n : Nat) (x : Grid) : (s.setGrid n x).chans = s.chans := rfl
@[simp] theorem State.setGrid_mr (s : State) (n : Nat) (x : Grid) : (s.setGrid n x).mr = s.mr := rfl
@[simp] theorem State.setGrid_extend (s : State) (n : Nat) (x : Grid) : (s.setGrid n x).extend = s.extend := rfl
@[simp] theorem State.setGrid_flash (s : State) (n : Nat) (x : Grid) : (s.setGrid n x).flash = s.flash := rfl
@[simp] theorem State.setGrid_fuseSvn (s : State) (n : Nat) (x : Grid) : (s.setGrid n x).fuseSvn = s.fuseSvn := rfl
@[simp] theorem State.setGrid_mhz (s : State) (n : Nat) (x : Grid) : (s.setGrid n x).mhz = s.mhz := rfl
@[simp] theorem State.setGrid_halfRate (s : State) (n : Nat) (x : Grid) : (s.setGrid n x).halfRate = s.halfRate := rfl
@[simp] theorem State.setGrid_droop (s : State) (n : Nat) (x : Grid) : (s.setGrid n x).droop = s.droop := rfl
@[simp] theorem State.setGrid_msix (s : State) (n : Nat) (x : Grid) : (s.setGrid n x).msix = s.msix := rfl
@[simp] theorem State.setGrid_barReads (s : State) (n : Nat) (x : Grid) : (s.setGrid n x).barReads = s.barReads := rfl
@[simp] theorem State.setGrid_doe (s : State) (n : Nat) (x : Grid) : (s.setGrid n x).doe = s.doe := rfl
@[simp] theorem State.setGrid_sessions (s : State) (n : Nat) (x : Grid) : (s.setGrid n x).sessions = s.sessions := rfl
@[simp] theorem State.setGrid_requests (s : State) (n : Nat) (x : Grid) : (s.setGrid n x).requests = s.requests := rfl
@[simp] theorem State.setGrid_replies (s : State) (n : Nat) (x : Grid) : (s.setGrid n x).replies = s.replies := rfl
@[simp] theorem State.setGrid_collgrps (s : State) (n : Nat) (x : Grid) : (s.setGrid n x).collgrps = s.collgrps := rfl
@[simp] theorem State.setGrid_contribs (s : State) (n : Nat) (x : Grid) : (s.setGrid n x).contribs = s.contribs := rfl
@[simp] theorem State.setGrid_routes (s : State) (n : Nat) (x : Grid) : (s.setGrid n x).routes = s.routes := rfl
@[simp] theorem State.setGrid_fwd (s : State) (n : Nat) (x : Grid) : (s.setGrid n x).fwd = s.fwd := rfl
@[simp] theorem State.setGrid_remapAck (s : State) (n : Nat) (x : Grid) : (s.setGrid n x).remapAck = s.remapAck := rfl
@[simp] theorem State.setGrid_verdicts (s : State) (n : Nat) (x : Grid) : (s.setGrid n x).verdicts = s.verdicts := rfl
@[simp] theorem State.setGrid_pinned (s : State) (n : Nat) (x : Grid) : (s.setGrid n x).pinned = s.pinned := rfl
@[simp] theorem State.setGrid_sliceClu (s : State) (n : Nat) (x : Grid) : (s.setGrid n x).sliceClu = s.sliceClu := rfl
@[simp] theorem State.setGrid_sliceReg (s : State) (n : Nat) (x : Grid) : (s.setGrid n x).sliceReg = s.sliceReg := rfl
@[simp] theorem State.setGrid_pkgReg (s : State) (n : Nat) (x : Grid) : (s.setGrid n x).pkgReg = s.pkgReg := rfl
@[simp] theorem State.setGrid_coreReg (s : State) (n : Nat) (x : Grid) : (s.setGrid n x).coreReg = s.coreReg := rfl
@[simp] theorem State.setGrid_stamp (s : State) (n : Nat) (x : Grid) : (s.setGrid n x).stamp = s.stamp := rfl
@[simp] theorem State.setGrid_fresh (s : State) (n : Nat) (x : Grid) : (s.setGrid n x).fresh = s.fresh := rfl
@[simp] theorem State.setGrid_cur (s : State) (n : Nat) (x : Grid) : (s.setGrid n x).cur = s.cur := rfl
@[simp] theorem State.setGrid_stream1 (s : State) (n : Nat) (x : Grid) : (s.setGrid n x).stream1 = s.stream1 := rfl
@[simp] theorem State.setGrid_snap (s : State) (n : Nat) (x : Grid) : (s.setGrid n x).snap = s.snap := rfl
@[simp] theorem State.setGrid_snapSr (s : State) (n : Nat) (x : Grid) : (s.setGrid n x).snapSr = s.snapSr := rfl
@[simp] theorem State.setGrid_ended (s : State) (n : Nat) (x : Grid) : (s.setGrid n x).ended = s.ended := rfl
@[simp] theorem State.setGrid_agenda (s : State) (n : Nat) (x : Grid) : (s.setGrid n x).agenda = s.agenda := rfl
@[simp] theorem State.updChan_mem (s : State) (n : Nat) (f : ChanSt → ChanSt) : (s.updChan n f).mem = s.mem := rfl
@[simp] theorem State.updChan_poison (s : State) (n : Nat) (f : ChanSt → ChanSt) : (s.updChan n f).poison = s.poison := rfl
@[simp] theorem State.updChan_co (s : State) (n : Nat) (f : ChanSt → ChanSt) : (s.updChan n f).co = s.co := rfl
@[simp] theorem State.updChan_coNext (s : State) (n : Nat) (f : ChanSt → ChanSt) : (s.updChan n f).coNext = s.coNext := rfl
@[simp] theorem State.updChan_pubs (s : State) (n : Nat) (f : ChanSt → ChanSt) : (s.updChan n f).pubs = s.pubs := rfl
@[simp] theorem State.updChan_teams (s : State) (n : Nat) (f : ChanSt → ChanSt) : (s.updChan n f).teams = s.teams := rfl
@[simp] theorem State.updChan_ops (s : State) (n : Nat) (f : ChanSt → ChanSt) : (s.updChan n f).ops = s.ops := rfl
@[simp] theorem State.updChan_calls (s : State) (n : Nat) (f : ChanSt → ChanSt) : (s.updChan n f).calls = s.calls := rfl
@[simp] theorem State.updChan_streams (s : State) (n : Nat) (f : ChanSt → ChanSt) : (s.updChan n f).streams = s.streams := rfl
@[simp] theorem State.updChan_served (s : State) (n : Nat) (f : ChanSt → ChanSt) : (s.updChan n f).served = s.served := rfl
@[simp] theorem State.updChan_adoptBack (s : State) (n : Nat) (f : ChanSt → ChanSt) : (s.updChan n f).adoptBack = s.adoptBack := rfl
@[simp] theorem State.updChan_cbarPubs (s : State) (n : Nat) (f : ChanSt → ChanSt) : (s.updChan n f).cbarPubs = s.cbarPubs := rfl
@[simp] theorem State.updChan_cbarStores (s : State) (n : Nat) (f : ChanSt → ChanSt) : (s.updChan n f).cbarStores = s.cbarStores := rfl
@[simp] theorem State.updChan_tlb1 (s : State) (n : Nat) (f : ChanSt → ChanSt) : (s.updChan n f).tlb1 = s.tlb1 := rfl
@[simp] theorem State.updChan_tlb2 (s : State) (n : Nat) (f : ChanSt → ChanSt) : (s.updChan n f).tlb2 = s.tlb2 := rfl
@[simp] theorem State.updChan_dcnt (s : State) (n : Nat) (f : ChanSt → ChanSt) : (s.updChan n f).dcnt = s.dcnt := rfl
@[simp] theorem State.updChan_sliceDie (s : State) (n : Nat) (f : ChanSt → ChanSt) : (s.updChan n f).sliceDie = s.sliceDie := rfl
@[simp] theorem State.updChan_slices (s : State) (n : Nat) (f : ChanSt → ChanSt) : (s.updChan n f).slices = s.slices := rfl
@[simp] theorem State.updChan_queues (s : State) (n : Nat) (f : ChanSt → ChanSt) : (s.updChan n f).queues = s.queues := rfl
@[simp] theorem State.updChan_grids (s : State) (n : Nat) (f : ChanSt → ChanSt) : (s.updChan n f).grids = s.grids := rfl
@[simp] theorem State.updChan_lists (s : State) (n : Nat) (f : ChanSt → ChanSt) : (s.updChan n f).lists = s.lists := rfl
@[simp] theorem State.updChan_transit (s : State) (n : Nat) (f : ChanSt → ChanSt) : (s.updChan n f).transit = s.transit := rfl
@[simp] theorem State.updChan_cmds (s : State) (n : Nat) (f : ChanSt → ChanSt) : (s.updChan n f).cmds = s.cmds := rfl
@[simp] theorem State.updChan_cps (s : State) (n : Nat) (f : ChanSt → ChanSt) : (s.updChan n f).cps = s.cps := rfl
@[simp] theorem State.updChan_leases (s : State) (n : Nat) (f : ChanSt → ChanSt) : (s.updChan n f).leases = s.leases := rfl
@[simp] theorem State.updChan_ringDue (s : State) (n : Nat) (f : ChanSt → ChanSt) : (s.updChan n f).ringDue = s.ringDue := rfl
@[simp] theorem State.updChan_chans (s : State) (n : Nat) (f : ChanSt → ChanSt) : (s.updChan n f).chans = s.chans.set n (f (s.chans.get n)) := rfl
@[simp] theorem State.updChan_mr (s : State) (n : Nat) (f : ChanSt → ChanSt) : (s.updChan n f).mr = s.mr := rfl
@[simp] theorem State.updChan_extend (s : State) (n : Nat) (f : ChanSt → ChanSt) : (s.updChan n f).extend = s.extend := rfl
@[simp] theorem State.updChan_flash (s : State) (n : Nat) (f : ChanSt → ChanSt) : (s.updChan n f).flash = s.flash := rfl
@[simp] theorem State.updChan_fuseSvn (s : State) (n : Nat) (f : ChanSt → ChanSt) : (s.updChan n f).fuseSvn = s.fuseSvn := rfl
@[simp] theorem State.updChan_mhz (s : State) (n : Nat) (f : ChanSt → ChanSt) : (s.updChan n f).mhz = s.mhz := rfl
@[simp] theorem State.updChan_halfRate (s : State) (n : Nat) (f : ChanSt → ChanSt) : (s.updChan n f).halfRate = s.halfRate := rfl
@[simp] theorem State.updChan_droop (s : State) (n : Nat) (f : ChanSt → ChanSt) : (s.updChan n f).droop = s.droop := rfl
@[simp] theorem State.updChan_msix (s : State) (n : Nat) (f : ChanSt → ChanSt) : (s.updChan n f).msix = s.msix := rfl
@[simp] theorem State.updChan_barReads (s : State) (n : Nat) (f : ChanSt → ChanSt) : (s.updChan n f).barReads = s.barReads := rfl
@[simp] theorem State.updChan_doe (s : State) (n : Nat) (f : ChanSt → ChanSt) : (s.updChan n f).doe = s.doe := rfl
@[simp] theorem State.updChan_sessions (s : State) (n : Nat) (f : ChanSt → ChanSt) : (s.updChan n f).sessions = s.sessions := rfl
@[simp] theorem State.updChan_requests (s : State) (n : Nat) (f : ChanSt → ChanSt) : (s.updChan n f).requests = s.requests := rfl
@[simp] theorem State.updChan_replies (s : State) (n : Nat) (f : ChanSt → ChanSt) : (s.updChan n f).replies = s.replies := rfl
@[simp] theorem State.updChan_collgrps (s : State) (n : Nat) (f : ChanSt → ChanSt) : (s.updChan n f).collgrps = s.collgrps := rfl
@[simp] theorem State.updChan_contribs (s : State) (n : Nat) (f : ChanSt → ChanSt) : (s.updChan n f).contribs = s.contribs := rfl
@[simp] theorem State.updChan_routes (s : State) (n : Nat) (f : ChanSt → ChanSt) : (s.updChan n f).routes = s.routes := rfl
@[simp] theorem State.updChan_fwd (s : State) (n : Nat) (f : ChanSt → ChanSt) : (s.updChan n f).fwd = s.fwd := rfl
@[simp] theorem State.updChan_remapAck (s : State) (n : Nat) (f : ChanSt → ChanSt) : (s.updChan n f).remapAck = s.remapAck := rfl
@[simp] theorem State.updChan_verdicts (s : State) (n : Nat) (f : ChanSt → ChanSt) : (s.updChan n f).verdicts = s.verdicts := rfl
@[simp] theorem State.updChan_pinned (s : State) (n : Nat) (f : ChanSt → ChanSt) : (s.updChan n f).pinned = s.pinned := rfl
@[simp] theorem State.updChan_sliceClu (s : State) (n : Nat) (f : ChanSt → ChanSt) : (s.updChan n f).sliceClu = s.sliceClu := rfl
@[simp] theorem State.updChan_sliceReg (s : State) (n : Nat) (f : ChanSt → ChanSt) : (s.updChan n f).sliceReg = s.sliceReg := rfl
@[simp] theorem State.updChan_pkgReg (s : State) (n : Nat) (f : ChanSt → ChanSt) : (s.updChan n f).pkgReg = s.pkgReg := rfl
@[simp] theorem State.updChan_coreReg (s : State) (n : Nat) (f : ChanSt → ChanSt) : (s.updChan n f).coreReg = s.coreReg := rfl
@[simp] theorem State.updChan_stamp (s : State) (n : Nat) (f : ChanSt → ChanSt) : (s.updChan n f).stamp = s.stamp := rfl
@[simp] theorem State.updChan_fresh (s : State) (n : Nat) (f : ChanSt → ChanSt) : (s.updChan n f).fresh = s.fresh := rfl
@[simp] theorem State.updChan_cur (s : State) (n : Nat) (f : ChanSt → ChanSt) : (s.updChan n f).cur = s.cur := rfl
@[simp] theorem State.updChan_stream1 (s : State) (n : Nat) (f : ChanSt → ChanSt) : (s.updChan n f).stream1 = s.stream1 := rfl
@[simp] theorem State.updChan_snap (s : State) (n : Nat) (f : ChanSt → ChanSt) : (s.updChan n f).snap = s.snap := rfl
@[simp] theorem State.updChan_snapSr (s : State) (n : Nat) (f : ChanSt → ChanSt) : (s.updChan n f).snapSr = s.snapSr := rfl
@[simp] theorem State.updChan_ended (s : State) (n : Nat) (f : ChanSt → ChanSt) : (s.updChan n f).ended = s.ended := rfl
@[simp] theorem State.updChan_agenda (s : State) (n : Nat) (f : ChanSt → ChanSt) : (s.updChan n f).agenda = s.agenda := rfl
@[simp] theorem State.setLeaseReg_mem (s : State) (n v : Nat) : (s.setLeaseReg n v).mem = s.mem := rfl
@[simp] theorem State.setLeaseReg_poison (s : State) (n v : Nat) : (s.setLeaseReg n v).poison = s.poison := rfl
@[simp] theorem State.setLeaseReg_co (s : State) (n v : Nat) : (s.setLeaseReg n v).co = s.co := rfl
@[simp] theorem State.setLeaseReg_coNext (s : State) (n v : Nat) : (s.setLeaseReg n v).coNext = s.coNext := rfl
@[simp] theorem State.setLeaseReg_pubs (s : State) (n v : Nat) : (s.setLeaseReg n v).pubs = s.pubs := rfl
@[simp] theorem State.setLeaseReg_teams (s : State) (n v : Nat) : (s.setLeaseReg n v).teams = s.teams := rfl
@[simp] theorem State.setLeaseReg_ops (s : State) (n v : Nat) : (s.setLeaseReg n v).ops = s.ops := rfl
@[simp] theorem State.setLeaseReg_calls (s : State) (n v : Nat) : (s.setLeaseReg n v).calls = s.calls := rfl
@[simp] theorem State.setLeaseReg_streams (s : State) (n v : Nat) : (s.setLeaseReg n v).streams = s.streams := rfl
@[simp] theorem State.setLeaseReg_served (s : State) (n v : Nat) : (s.setLeaseReg n v).served = s.served := rfl
@[simp] theorem State.setLeaseReg_adoptBack (s : State) (n v : Nat) : (s.setLeaseReg n v).adoptBack = s.adoptBack := rfl
@[simp] theorem State.setLeaseReg_cbarPubs (s : State) (n v : Nat) : (s.setLeaseReg n v).cbarPubs = s.cbarPubs := rfl
@[simp] theorem State.setLeaseReg_cbarStores (s : State) (n v : Nat) : (s.setLeaseReg n v).cbarStores = s.cbarStores := rfl
@[simp] theorem State.setLeaseReg_tlb1 (s : State) (n v : Nat) : (s.setLeaseReg n v).tlb1 = s.tlb1 := rfl
@[simp] theorem State.setLeaseReg_tlb2 (s : State) (n v : Nat) : (s.setLeaseReg n v).tlb2 = s.tlb2 := rfl
@[simp] theorem State.setLeaseReg_dcnt (s : State) (n v : Nat) : (s.setLeaseReg n v).dcnt = s.dcnt := rfl
@[simp] theorem State.setLeaseReg_sliceDie (s : State) (n v : Nat) : (s.setLeaseReg n v).sliceDie = s.sliceDie := rfl
@[simp] theorem State.setLeaseReg_slices (s : State) (n v : Nat) : (s.setLeaseReg n v).slices = s.slices := rfl
@[simp] theorem State.setLeaseReg_queues (s : State) (n v : Nat) : (s.setLeaseReg n v).queues = s.queues := rfl
@[simp] theorem State.setLeaseReg_grids (s : State) (n v : Nat) : (s.setLeaseReg n v).grids = s.grids := rfl
@[simp] theorem State.setLeaseReg_lists (s : State) (n v : Nat) : (s.setLeaseReg n v).lists = s.lists := rfl
@[simp] theorem State.setLeaseReg_transit (s : State) (n v : Nat) : (s.setLeaseReg n v).transit = s.transit := rfl
@[simp] theorem State.setLeaseReg_cmds (s : State) (n v : Nat) : (s.setLeaseReg n v).cmds = s.cmds := rfl
@[simp] theorem State.setLeaseReg_cps (s : State) (n v : Nat) : (s.setLeaseReg n v).cps = s.cps := rfl
@[simp] theorem State.setLeaseReg_leases (s : State) (n v : Nat) : (s.setLeaseReg n v).leases = s.leases := rfl
@[simp] theorem State.setLeaseReg_ringDue (s : State) (n v : Nat) : (s.setLeaseReg n v).ringDue = s.ringDue := rfl
@[simp] theorem State.setLeaseReg_chans (s : State) (n v : Nat) : (s.setLeaseReg n v).chans = s.chans := rfl
@[simp] theorem State.setLeaseReg_mr (s : State) (n v : Nat) : (s.setLeaseReg n v).mr = s.mr := rfl
@[simp] theorem State.setLeaseReg_extend (s : State) (n v : Nat) : (s.setLeaseReg n v).extend = s.extend := rfl
@[simp] theorem State.setLeaseReg_flash (s : State) (n v : Nat) : (s.setLeaseReg n v).flash = s.flash := rfl
@[simp] theorem State.setLeaseReg_fuseSvn (s : State) (n v : Nat) : (s.setLeaseReg n v).fuseSvn = s.fuseSvn := rfl
@[simp] theorem State.setLeaseReg_mhz (s : State) (n v : Nat) : (s.setLeaseReg n v).mhz = s.mhz := rfl
@[simp] theorem State.setLeaseReg_halfRate (s : State) (n v : Nat) : (s.setLeaseReg n v).halfRate = s.halfRate := rfl
@[simp] theorem State.setLeaseReg_droop (s : State) (n v : Nat) : (s.setLeaseReg n v).droop = s.droop := rfl
@[simp] theorem State.setLeaseReg_msix (s : State) (n v : Nat) : (s.setLeaseReg n v).msix = s.msix := rfl
@[simp] theorem State.setLeaseReg_barReads (s : State) (n v : Nat) : (s.setLeaseReg n v).barReads = s.barReads := rfl
@[simp] theorem State.setLeaseReg_doe (s : State) (n v : Nat) : (s.setLeaseReg n v).doe = s.doe := rfl
@[simp] theorem State.setLeaseReg_sessions (s : State) (n v : Nat) : (s.setLeaseReg n v).sessions = s.sessions := rfl
@[simp] theorem State.setLeaseReg_requests (s : State) (n v : Nat) : (s.setLeaseReg n v).requests = s.requests := rfl
@[simp] theorem State.setLeaseReg_replies (s : State) (n v : Nat) : (s.setLeaseReg n v).replies = s.replies := rfl
@[simp] theorem State.setLeaseReg_collgrps (s : State) (n v : Nat) : (s.setLeaseReg n v).collgrps = s.collgrps := rfl
@[simp] theorem State.setLeaseReg_contribs (s : State) (n v : Nat) : (s.setLeaseReg n v).contribs = s.contribs := rfl
@[simp] theorem State.setLeaseReg_routes (s : State) (n v : Nat) : (s.setLeaseReg n v).routes = s.routes := rfl
@[simp] theorem State.setLeaseReg_fwd (s : State) (n v : Nat) : (s.setLeaseReg n v).fwd = s.fwd := rfl
@[simp] theorem State.setLeaseReg_remapAck (s : State) (n v : Nat) : (s.setLeaseReg n v).remapAck = s.remapAck := rfl
@[simp] theorem State.setLeaseReg_verdicts (s : State) (n v : Nat) : (s.setLeaseReg n v).verdicts = s.verdicts := rfl
@[simp] theorem State.setLeaseReg_pinned (s : State) (n v : Nat) : (s.setLeaseReg n v).pinned = s.pinned := rfl
@[simp] theorem State.setLeaseReg_sliceClu (s : State) (n v : Nat) : (s.setLeaseReg n v).sliceClu = s.sliceClu := rfl
@[simp] theorem State.setLeaseReg_sliceReg (s : State) (n v : Nat) : (s.setLeaseReg n v).sliceReg = s.sliceReg := rfl
@[simp] theorem State.setLeaseReg_pkgReg (s : State) (n v : Nat) : (s.setLeaseReg n v).pkgReg = s.pkgReg := rfl
@[simp] theorem State.setLeaseReg_stamp (s : State) (n v : Nat) : (s.setLeaseReg n v).stamp = s.stamp := rfl
@[simp] theorem State.setLeaseReg_fresh (s : State) (n v : Nat) : (s.setLeaseReg n v).fresh = s.fresh := rfl
@[simp] theorem State.setLeaseReg_cur (s : State) (n v : Nat) : (s.setLeaseReg n v).cur = s.cur := rfl
@[simp] theorem State.setLeaseReg_stream1 (s : State) (n v : Nat) : (s.setLeaseReg n v).stream1 = s.stream1 := rfl
@[simp] theorem State.setLeaseReg_snap (s : State) (n v : Nat) : (s.setLeaseReg n v).snap = s.snap := rfl
@[simp] theorem State.setLeaseReg_snapSr (s : State) (n v : Nat) : (s.setLeaseReg n v).snapSr = s.snapSr := rfl
@[simp] theorem State.setLeaseReg_ended (s : State) (n v : Nat) : (s.setLeaseReg n v).ended = s.ended := rfl
@[simp] theorem State.setLeaseReg_agenda (s : State) (n v : Nat) : (s.setLeaseReg n v).agenda = s.agenda := rfl

/-- Only `teams` changes. -/
theorem State.updTeam_eq (s : State) (t : Nat) (f : Team → Team) : ∃ ts, s.updTeam t f = { s with teams := ts } := by
  unfold State.updTeam; split
  · exact ⟨_, rfl⟩
  · exact ⟨s.teams, rfl⟩
@[simp] theorem State.updTeam_mem (s : State) (t : Nat) (f : Team → Team) : (s.updTeam t f).mem = s.mem := by
  obtain ⟨ts, h⟩ := s.updTeam_eq t f; rw [h]
@[simp] theorem State.updTeam_poison (s : State) (t : Nat) (f : Team → Team) : (s.updTeam t f).poison = s.poison := by
  obtain ⟨ts, h⟩ := s.updTeam_eq t f; rw [h]
@[simp] theorem State.updTeam_co (s : State) (t : Nat) (f : Team → Team) : (s.updTeam t f).co = s.co := by
  obtain ⟨ts, h⟩ := s.updTeam_eq t f; rw [h]
@[simp] theorem State.updTeam_coNext (s : State) (t : Nat) (f : Team → Team) : (s.updTeam t f).coNext = s.coNext := by
  obtain ⟨ts, h⟩ := s.updTeam_eq t f; rw [h]
@[simp] theorem State.updTeam_pubs (s : State) (t : Nat) (f : Team → Team) : (s.updTeam t f).pubs = s.pubs := by
  obtain ⟨ts, h⟩ := s.updTeam_eq t f; rw [h]
@[simp] theorem State.updTeam_ops (s : State) (t : Nat) (f : Team → Team) : (s.updTeam t f).ops = s.ops := by
  obtain ⟨ts, h⟩ := s.updTeam_eq t f; rw [h]
@[simp] theorem State.updTeam_calls (s : State) (t : Nat) (f : Team → Team) : (s.updTeam t f).calls = s.calls := by
  obtain ⟨ts, h⟩ := s.updTeam_eq t f; rw [h]
@[simp] theorem State.updTeam_streams (s : State) (t : Nat) (f : Team → Team) : (s.updTeam t f).streams = s.streams := by
  obtain ⟨ts, h⟩ := s.updTeam_eq t f; rw [h]
@[simp] theorem State.updTeam_served (s : State) (t : Nat) (f : Team → Team) : (s.updTeam t f).served = s.served := by
  obtain ⟨ts, h⟩ := s.updTeam_eq t f; rw [h]
@[simp] theorem State.updTeam_adoptBack (s : State) (t : Nat) (f : Team → Team) : (s.updTeam t f).adoptBack = s.adoptBack := by
  obtain ⟨ts, h⟩ := s.updTeam_eq t f; rw [h]
@[simp] theorem State.updTeam_cbarPubs (s : State) (t : Nat) (f : Team → Team) : (s.updTeam t f).cbarPubs = s.cbarPubs := by
  obtain ⟨ts, h⟩ := s.updTeam_eq t f; rw [h]
@[simp] theorem State.updTeam_cbarStores (s : State) (t : Nat) (f : Team → Team) : (s.updTeam t f).cbarStores = s.cbarStores := by
  obtain ⟨ts, h⟩ := s.updTeam_eq t f; rw [h]
@[simp] theorem State.updTeam_tlb1 (s : State) (t : Nat) (f : Team → Team) : (s.updTeam t f).tlb1 = s.tlb1 := by
  obtain ⟨ts, h⟩ := s.updTeam_eq t f; rw [h]
@[simp] theorem State.updTeam_tlb2 (s : State) (t : Nat) (f : Team → Team) : (s.updTeam t f).tlb2 = s.tlb2 := by
  obtain ⟨ts, h⟩ := s.updTeam_eq t f; rw [h]
@[simp] theorem State.updTeam_dcnt (s : State) (t : Nat) (f : Team → Team) : (s.updTeam t f).dcnt = s.dcnt := by
  obtain ⟨ts, h⟩ := s.updTeam_eq t f; rw [h]
@[simp] theorem State.updTeam_sliceDie (s : State) (t : Nat) (f : Team → Team) : (s.updTeam t f).sliceDie = s.sliceDie := by
  obtain ⟨ts, h⟩ := s.updTeam_eq t f; rw [h]
@[simp] theorem State.updTeam_slices (s : State) (t : Nat) (f : Team → Team) : (s.updTeam t f).slices = s.slices := by
  obtain ⟨ts, h⟩ := s.updTeam_eq t f; rw [h]
@[simp] theorem State.updTeam_queues (s : State) (t : Nat) (f : Team → Team) : (s.updTeam t f).queues = s.queues := by
  obtain ⟨ts, h⟩ := s.updTeam_eq t f; rw [h]
@[simp] theorem State.updTeam_grids (s : State) (t : Nat) (f : Team → Team) : (s.updTeam t f).grids = s.grids := by
  obtain ⟨ts, h⟩ := s.updTeam_eq t f; rw [h]
@[simp] theorem State.updTeam_lists (s : State) (t : Nat) (f : Team → Team) : (s.updTeam t f).lists = s.lists := by
  obtain ⟨ts, h⟩ := s.updTeam_eq t f; rw [h]
@[simp] theorem State.updTeam_transit (s : State) (t : Nat) (f : Team → Team) : (s.updTeam t f).transit = s.transit := by
  obtain ⟨ts, h⟩ := s.updTeam_eq t f; rw [h]
@[simp] theorem State.updTeam_cmds (s : State) (t : Nat) (f : Team → Team) : (s.updTeam t f).cmds = s.cmds := by
  obtain ⟨ts, h⟩ := s.updTeam_eq t f; rw [h]
@[simp] theorem State.updTeam_cps (s : State) (t : Nat) (f : Team → Team) : (s.updTeam t f).cps = s.cps := by
  obtain ⟨ts, h⟩ := s.updTeam_eq t f; rw [h]
@[simp] theorem State.updTeam_leases (s : State) (t : Nat) (f : Team → Team) : (s.updTeam t f).leases = s.leases := by
  obtain ⟨ts, h⟩ := s.updTeam_eq t f; rw [h]
@[simp] theorem State.updTeam_ringDue (s : State) (t : Nat) (f : Team → Team) : (s.updTeam t f).ringDue = s.ringDue := by
  obtain ⟨ts, h⟩ := s.updTeam_eq t f; rw [h]
@[simp] theorem State.updTeam_chans (s : State) (t : Nat) (f : Team → Team) : (s.updTeam t f).chans = s.chans := by
  obtain ⟨ts, h⟩ := s.updTeam_eq t f; rw [h]
@[simp] theorem State.updTeam_mr (s : State) (t : Nat) (f : Team → Team) : (s.updTeam t f).mr = s.mr := by
  obtain ⟨ts, h⟩ := s.updTeam_eq t f; rw [h]
@[simp] theorem State.updTeam_extend (s : State) (t : Nat) (f : Team → Team) : (s.updTeam t f).extend = s.extend := by
  obtain ⟨ts, h⟩ := s.updTeam_eq t f; rw [h]
@[simp] theorem State.updTeam_flash (s : State) (t : Nat) (f : Team → Team) : (s.updTeam t f).flash = s.flash := by
  obtain ⟨ts, h⟩ := s.updTeam_eq t f; rw [h]
@[simp] theorem State.updTeam_fuseSvn (s : State) (t : Nat) (f : Team → Team) : (s.updTeam t f).fuseSvn = s.fuseSvn := by
  obtain ⟨ts, h⟩ := s.updTeam_eq t f; rw [h]
@[simp] theorem State.updTeam_mhz (s : State) (t : Nat) (f : Team → Team) : (s.updTeam t f).mhz = s.mhz := by
  obtain ⟨ts, h⟩ := s.updTeam_eq t f; rw [h]
@[simp] theorem State.updTeam_halfRate (s : State) (t : Nat) (f : Team → Team) : (s.updTeam t f).halfRate = s.halfRate := by
  obtain ⟨ts, h⟩ := s.updTeam_eq t f; rw [h]
@[simp] theorem State.updTeam_droop (s : State) (t : Nat) (f : Team → Team) : (s.updTeam t f).droop = s.droop := by
  obtain ⟨ts, h⟩ := s.updTeam_eq t f; rw [h]
@[simp] theorem State.updTeam_msix (s : State) (t : Nat) (f : Team → Team) : (s.updTeam t f).msix = s.msix := by
  obtain ⟨ts, h⟩ := s.updTeam_eq t f; rw [h]
@[simp] theorem State.updTeam_barReads (s : State) (t : Nat) (f : Team → Team) : (s.updTeam t f).barReads = s.barReads := by
  obtain ⟨ts, h⟩ := s.updTeam_eq t f; rw [h]
@[simp] theorem State.updTeam_doe (s : State) (t : Nat) (f : Team → Team) : (s.updTeam t f).doe = s.doe := by
  obtain ⟨ts, h⟩ := s.updTeam_eq t f; rw [h]
@[simp] theorem State.updTeam_sessions (s : State) (t : Nat) (f : Team → Team) : (s.updTeam t f).sessions = s.sessions := by
  obtain ⟨ts, h⟩ := s.updTeam_eq t f; rw [h]
@[simp] theorem State.updTeam_requests (s : State) (t : Nat) (f : Team → Team) : (s.updTeam t f).requests = s.requests := by
  obtain ⟨ts, h⟩ := s.updTeam_eq t f; rw [h]
@[simp] theorem State.updTeam_replies (s : State) (t : Nat) (f : Team → Team) : (s.updTeam t f).replies = s.replies := by
  obtain ⟨ts, h⟩ := s.updTeam_eq t f; rw [h]
@[simp] theorem State.updTeam_collgrps (s : State) (t : Nat) (f : Team → Team) : (s.updTeam t f).collgrps = s.collgrps := by
  obtain ⟨ts, h⟩ := s.updTeam_eq t f; rw [h]
@[simp] theorem State.updTeam_contribs (s : State) (t : Nat) (f : Team → Team) : (s.updTeam t f).contribs = s.contribs := by
  obtain ⟨ts, h⟩ := s.updTeam_eq t f; rw [h]
@[simp] theorem State.updTeam_routes (s : State) (t : Nat) (f : Team → Team) : (s.updTeam t f).routes = s.routes := by
  obtain ⟨ts, h⟩ := s.updTeam_eq t f; rw [h]
@[simp] theorem State.updTeam_fwd (s : State) (t : Nat) (f : Team → Team) : (s.updTeam t f).fwd = s.fwd := by
  obtain ⟨ts, h⟩ := s.updTeam_eq t f; rw [h]
@[simp] theorem State.updTeam_remapAck (s : State) (t : Nat) (f : Team → Team) : (s.updTeam t f).remapAck = s.remapAck := by
  obtain ⟨ts, h⟩ := s.updTeam_eq t f; rw [h]
@[simp] theorem State.updTeam_verdicts (s : State) (t : Nat) (f : Team → Team) : (s.updTeam t f).verdicts = s.verdicts := by
  obtain ⟨ts, h⟩ := s.updTeam_eq t f; rw [h]
@[simp] theorem State.updTeam_pinned (s : State) (t : Nat) (f : Team → Team) : (s.updTeam t f).pinned = s.pinned := by
  obtain ⟨ts, h⟩ := s.updTeam_eq t f; rw [h]
@[simp] theorem State.updTeam_sliceClu (s : State) (t : Nat) (f : Team → Team) : (s.updTeam t f).sliceClu = s.sliceClu := by
  obtain ⟨ts, h⟩ := s.updTeam_eq t f; rw [h]
@[simp] theorem State.updTeam_sliceReg (s : State) (t : Nat) (f : Team → Team) : (s.updTeam t f).sliceReg = s.sliceReg := by
  obtain ⟨ts, h⟩ := s.updTeam_eq t f; rw [h]
@[simp] theorem State.updTeam_pkgReg (s : State) (t : Nat) (f : Team → Team) : (s.updTeam t f).pkgReg = s.pkgReg := by
  obtain ⟨ts, h⟩ := s.updTeam_eq t f; rw [h]
@[simp] theorem State.updTeam_coreReg (s : State) (t : Nat) (f : Team → Team) : (s.updTeam t f).coreReg = s.coreReg := by
  obtain ⟨ts, h⟩ := s.updTeam_eq t f; rw [h]
@[simp] theorem State.updTeam_stamp (s : State) (t : Nat) (f : Team → Team) : (s.updTeam t f).stamp = s.stamp := by
  obtain ⟨ts, h⟩ := s.updTeam_eq t f; rw [h]
@[simp] theorem State.updTeam_fresh (s : State) (t : Nat) (f : Team → Team) : (s.updTeam t f).fresh = s.fresh := by
  obtain ⟨ts, h⟩ := s.updTeam_eq t f; rw [h]
@[simp] theorem State.updTeam_cur (s : State) (t : Nat) (f : Team → Team) : (s.updTeam t f).cur = s.cur := by
  obtain ⟨ts, h⟩ := s.updTeam_eq t f; rw [h]
@[simp] theorem State.updTeam_stream1 (s : State) (t : Nat) (f : Team → Team) : (s.updTeam t f).stream1 = s.stream1 := by
  obtain ⟨ts, h⟩ := s.updTeam_eq t f; rw [h]
@[simp] theorem State.updTeam_snap (s : State) (t : Nat) (f : Team → Team) : (s.updTeam t f).snap = s.snap := by
  obtain ⟨ts, h⟩ := s.updTeam_eq t f; rw [h]
@[simp] theorem State.updTeam_snapSr (s : State) (t : Nat) (f : Team → Team) : (s.updTeam t f).snapSr = s.snapSr := by
  obtain ⟨ts, h⟩ := s.updTeam_eq t f; rw [h]
@[simp] theorem State.updTeam_ended (s : State) (t : Nat) (f : Team → Team) : (s.updTeam t f).ended = s.ended := by
  obtain ⟨ts, h⟩ := s.updTeam_eq t f; rw [h]
@[simp] theorem State.updTeam_agenda (s : State) (t : Nat) (f : Team → Team) : (s.updTeam t f).agenda = s.agenda := by
  obtain ⟨ts, h⟩ := s.updTeam_eq t f; rw [h]
@[simp] theorem State.updGroup_mem (s : State) (t g : Nat) (f : Group → Group) : (s.updGroup t g f).mem = s.mem := s.updTeam_mem t _
@[simp] theorem State.updGroup_poison (s : State) (t g : Nat) (f : Group → Group) : (s.updGroup t g f).poison = s.poison := s.updTeam_poison t _
@[simp] theorem State.updGroup_co (s : State) (t g : Nat) (f : Group → Group) : (s.updGroup t g f).co = s.co := s.updTeam_co t _
@[simp] theorem State.updGroup_coNext (s : State) (t g : Nat) (f : Group → Group) : (s.updGroup t g f).coNext = s.coNext := s.updTeam_coNext t _
@[simp] theorem State.updGroup_pubs (s : State) (t g : Nat) (f : Group → Group) : (s.updGroup t g f).pubs = s.pubs := s.updTeam_pubs t _
@[simp] theorem State.updGroup_ops (s : State) (t g : Nat) (f : Group → Group) : (s.updGroup t g f).ops = s.ops := s.updTeam_ops t _
@[simp] theorem State.updGroup_calls (s : State) (t g : Nat) (f : Group → Group) : (s.updGroup t g f).calls = s.calls := s.updTeam_calls t _
@[simp] theorem State.updGroup_streams (s : State) (t g : Nat) (f : Group → Group) : (s.updGroup t g f).streams = s.streams := s.updTeam_streams t _
@[simp] theorem State.updGroup_served (s : State) (t g : Nat) (f : Group → Group) : (s.updGroup t g f).served = s.served := s.updTeam_served t _
@[simp] theorem State.updGroup_adoptBack (s : State) (t g : Nat) (f : Group → Group) : (s.updGroup t g f).adoptBack = s.adoptBack := s.updTeam_adoptBack t _
@[simp] theorem State.updGroup_cbarPubs (s : State) (t g : Nat) (f : Group → Group) : (s.updGroup t g f).cbarPubs = s.cbarPubs := s.updTeam_cbarPubs t _
@[simp] theorem State.updGroup_cbarStores (s : State) (t g : Nat) (f : Group → Group) : (s.updGroup t g f).cbarStores = s.cbarStores := s.updTeam_cbarStores t _
@[simp] theorem State.updGroup_tlb1 (s : State) (t g : Nat) (f : Group → Group) : (s.updGroup t g f).tlb1 = s.tlb1 := s.updTeam_tlb1 t _
@[simp] theorem State.updGroup_tlb2 (s : State) (t g : Nat) (f : Group → Group) : (s.updGroup t g f).tlb2 = s.tlb2 := s.updTeam_tlb2 t _
@[simp] theorem State.updGroup_dcnt (s : State) (t g : Nat) (f : Group → Group) : (s.updGroup t g f).dcnt = s.dcnt := s.updTeam_dcnt t _
@[simp] theorem State.updGroup_sliceDie (s : State) (t g : Nat) (f : Group → Group) : (s.updGroup t g f).sliceDie = s.sliceDie := s.updTeam_sliceDie t _
@[simp] theorem State.updGroup_slices (s : State) (t g : Nat) (f : Group → Group) : (s.updGroup t g f).slices = s.slices := s.updTeam_slices t _
@[simp] theorem State.updGroup_queues (s : State) (t g : Nat) (f : Group → Group) : (s.updGroup t g f).queues = s.queues := s.updTeam_queues t _
@[simp] theorem State.updGroup_grids (s : State) (t g : Nat) (f : Group → Group) : (s.updGroup t g f).grids = s.grids := s.updTeam_grids t _
@[simp] theorem State.updGroup_lists (s : State) (t g : Nat) (f : Group → Group) : (s.updGroup t g f).lists = s.lists := s.updTeam_lists t _
@[simp] theorem State.updGroup_transit (s : State) (t g : Nat) (f : Group → Group) : (s.updGroup t g f).transit = s.transit := s.updTeam_transit t _
@[simp] theorem State.updGroup_cmds (s : State) (t g : Nat) (f : Group → Group) : (s.updGroup t g f).cmds = s.cmds := s.updTeam_cmds t _
@[simp] theorem State.updGroup_cps (s : State) (t g : Nat) (f : Group → Group) : (s.updGroup t g f).cps = s.cps := s.updTeam_cps t _
@[simp] theorem State.updGroup_leases (s : State) (t g : Nat) (f : Group → Group) : (s.updGroup t g f).leases = s.leases := s.updTeam_leases t _
@[simp] theorem State.updGroup_ringDue (s : State) (t g : Nat) (f : Group → Group) : (s.updGroup t g f).ringDue = s.ringDue := s.updTeam_ringDue t _
@[simp] theorem State.updGroup_chans (s : State) (t g : Nat) (f : Group → Group) : (s.updGroup t g f).chans = s.chans := s.updTeam_chans t _
@[simp] theorem State.updGroup_mr (s : State) (t g : Nat) (f : Group → Group) : (s.updGroup t g f).mr = s.mr := s.updTeam_mr t _
@[simp] theorem State.updGroup_extend (s : State) (t g : Nat) (f : Group → Group) : (s.updGroup t g f).extend = s.extend := s.updTeam_extend t _
@[simp] theorem State.updGroup_flash (s : State) (t g : Nat) (f : Group → Group) : (s.updGroup t g f).flash = s.flash := s.updTeam_flash t _
@[simp] theorem State.updGroup_fuseSvn (s : State) (t g : Nat) (f : Group → Group) : (s.updGroup t g f).fuseSvn = s.fuseSvn := s.updTeam_fuseSvn t _
@[simp] theorem State.updGroup_mhz (s : State) (t g : Nat) (f : Group → Group) : (s.updGroup t g f).mhz = s.mhz := s.updTeam_mhz t _
@[simp] theorem State.updGroup_halfRate (s : State) (t g : Nat) (f : Group → Group) : (s.updGroup t g f).halfRate = s.halfRate := s.updTeam_halfRate t _
@[simp] theorem State.updGroup_droop (s : State) (t g : Nat) (f : Group → Group) : (s.updGroup t g f).droop = s.droop := s.updTeam_droop t _
@[simp] theorem State.updGroup_msix (s : State) (t g : Nat) (f : Group → Group) : (s.updGroup t g f).msix = s.msix := s.updTeam_msix t _
@[simp] theorem State.updGroup_barReads (s : State) (t g : Nat) (f : Group → Group) : (s.updGroup t g f).barReads = s.barReads := s.updTeam_barReads t _
@[simp] theorem State.updGroup_doe (s : State) (t g : Nat) (f : Group → Group) : (s.updGroup t g f).doe = s.doe := s.updTeam_doe t _
@[simp] theorem State.updGroup_sessions (s : State) (t g : Nat) (f : Group → Group) : (s.updGroup t g f).sessions = s.sessions := s.updTeam_sessions t _
@[simp] theorem State.updGroup_requests (s : State) (t g : Nat) (f : Group → Group) : (s.updGroup t g f).requests = s.requests := s.updTeam_requests t _
@[simp] theorem State.updGroup_replies (s : State) (t g : Nat) (f : Group → Group) : (s.updGroup t g f).replies = s.replies := s.updTeam_replies t _
@[simp] theorem State.updGroup_collgrps (s : State) (t g : Nat) (f : Group → Group) : (s.updGroup t g f).collgrps = s.collgrps := s.updTeam_collgrps t _
@[simp] theorem State.updGroup_contribs (s : State) (t g : Nat) (f : Group → Group) : (s.updGroup t g f).contribs = s.contribs := s.updTeam_contribs t _
@[simp] theorem State.updGroup_routes (s : State) (t g : Nat) (f : Group → Group) : (s.updGroup t g f).routes = s.routes := s.updTeam_routes t _
@[simp] theorem State.updGroup_fwd (s : State) (t g : Nat) (f : Group → Group) : (s.updGroup t g f).fwd = s.fwd := s.updTeam_fwd t _
@[simp] theorem State.updGroup_remapAck (s : State) (t g : Nat) (f : Group → Group) : (s.updGroup t g f).remapAck = s.remapAck := s.updTeam_remapAck t _
@[simp] theorem State.updGroup_verdicts (s : State) (t g : Nat) (f : Group → Group) : (s.updGroup t g f).verdicts = s.verdicts := s.updTeam_verdicts t _
@[simp] theorem State.updGroup_pinned (s : State) (t g : Nat) (f : Group → Group) : (s.updGroup t g f).pinned = s.pinned := s.updTeam_pinned t _
@[simp] theorem State.updGroup_sliceClu (s : State) (t g : Nat) (f : Group → Group) : (s.updGroup t g f).sliceClu = s.sliceClu := s.updTeam_sliceClu t _
@[simp] theorem State.updGroup_sliceReg (s : State) (t g : Nat) (f : Group → Group) : (s.updGroup t g f).sliceReg = s.sliceReg := s.updTeam_sliceReg t _
@[simp] theorem State.updGroup_pkgReg (s : State) (t g : Nat) (f : Group → Group) : (s.updGroup t g f).pkgReg = s.pkgReg := s.updTeam_pkgReg t _
@[simp] theorem State.updGroup_coreReg (s : State) (t g : Nat) (f : Group → Group) : (s.updGroup t g f).coreReg = s.coreReg := s.updTeam_coreReg t _
@[simp] theorem State.updGroup_stamp (s : State) (t g : Nat) (f : Group → Group) : (s.updGroup t g f).stamp = s.stamp := s.updTeam_stamp t _
@[simp] theorem State.updGroup_fresh (s : State) (t g : Nat) (f : Group → Group) : (s.updGroup t g f).fresh = s.fresh := s.updTeam_fresh t _
@[simp] theorem State.updGroup_cur (s : State) (t g : Nat) (f : Group → Group) : (s.updGroup t g f).cur = s.cur := s.updTeam_cur t _
@[simp] theorem State.updGroup_stream1 (s : State) (t g : Nat) (f : Group → Group) : (s.updGroup t g f).stream1 = s.stream1 := s.updTeam_stream1 t _
@[simp] theorem State.updGroup_snap (s : State) (t g : Nat) (f : Group → Group) : (s.updGroup t g f).snap = s.snap := s.updTeam_snap t _
@[simp] theorem State.updGroup_snapSr (s : State) (t g : Nat) (f : Group → Group) : (s.updGroup t g f).snapSr = s.snapSr := s.updTeam_snapSr t _
@[simp] theorem State.updGroup_ended (s : State) (t g : Nat) (f : Group → Group) : (s.updGroup t g f).ended = s.ended := s.updTeam_ended t _
@[simp] theorem State.updGroup_agenda (s : State) (t g : Nat) (f : Group → Group) : (s.updGroup t g f).agenda = s.agenda := s.updTeam_agenda t _

/-! ## Groups and records -/

@[simp] theorem Group.setV_lanes (g : Group) (n l : Nat) (w : Word) : (g.setV n l w).lanes = g.lanes := rfl
@[simp] theorem Group.setV_recs (g : Group) (n l : Nat) (w : Word) : (g.setV n l w).recs = g.recs := rfl
@[simp] theorem Group.setV_preds (g : Group) (n l : Nat) (w : Word) : (g.setV n l w).preds = g.preds := rfl
@[simp] theorem Group.setV_jm (g : Group) (n l : Nat) (w : Word) : (g.setV n l w).jm = g.jm := rfl
@[simp] theorem Group.setV_flags (g : Group) (n l : Nat) (w : Word) : (g.setV n l w).flags = g.flags := rfl
@[simp] theorem Group.setV_fpStatus (g : Group) (n l : Nat) (w : Word) : (g.setV n l w).fpStatus = g.fpStatus := rfl
@[simp] theorem Group.setV_fpRaised (g : Group) (n l : Nat) (w : Word) : (g.setV n l w).fpRaised = g.fpRaised := rfl
@[simp] theorem Group.setV_v (g : Group) (n l : Nat) (w : Word) : (g.setV n l w).v = g.v.set (32 * n + l) w := rfl
@[simp] theorem Group.setV_vcur (g : Group) (n l : Nat) (w : Word) : (g.setV n l w).vcur = g.vcur := rfl
@[simp] theorem Group.setV_vmax (g : Group) (n l : Nat) (w : Word) : (g.setV n l w).vmax = g.vmax := rfl
@[simp] theorem Group.setV_role (g : Group) (n l : Nat) (w : Word) : (g.setV n l w).role = g.role := rfl
@[simp] theorem Group.setV_slot (g : Group) (n l : Nat) (w : Word) : (g.setV n l w).slot = g.slot := rfl
@[simp] theorem Group.setV_sched (g : Group) (n l : Nat) (w : Word) : (g.setV n l w).sched = g.sched := rfl
@[simp] theorem Group.setV_lastIssue (g : Group) (n l : Nat) (w : Word) : (g.setV n l w).lastIssue = g.lastIssue := rfl
@[simp] theorem Group.setV_holds (g : Group) (n l : Nat) (w : Word) : (g.setV n l w).holds = g.holds := rfl
@[simp] theorem Group.setV_late (g : Group) (n l : Nat) (w : Word) : (g.setV n l w).late = g.late := rfl
@[simp] theorem Group.setV_marks (g : Group) (n l : Nat) (w : Word) : (g.setV n l w).marks = g.marks := rfl
@[simp] theorem Group.setV_lb (g : Group) (n l : Nat) (w : Word) : (g.setV n l w).lb = g.lb := rfl
@[simp] theorem Group.setV_readFrom (g : Group) (n l : Nat) (w : Word) : (g.setV n l w).readFrom = g.readFrom := rfl
@[simp] theorem Group.setV_adoptPos (g : Group) (n l : Nat) (w : Word) : (g.setV n l w).adoptPos = g.adoptPos := rfl
@[simp] theorem Group.setV_ownPub (g : Group) (n l : Nat) (w : Word) : (g.setV n l w).ownPub = g.ownPub := rfl
@[simp] theorem Group.setJ_lanes (g : Group) (n : Nat) (w : Word) : (g.setJ n w).lanes = g.lanes := rfl
@[simp] theorem Group.setJ_recs (g : Group) (n : Nat) (w : Word) : (g.setJ n w).recs = g.recs := rfl
@[simp] theorem Group.setJ_preds (g : Group) (n : Nat) (w : Word) : (g.setJ n w).preds = g.preds := rfl
@[simp] theorem Group.setJ_jm (g : Group) (n : Nat) (w : Word) : (g.setJ n w).jm = g.jm.set n w := rfl
@[simp] theorem Group.setJ_flags (g : Group) (n : Nat) (w : Word) : (g.setJ n w).flags = g.flags := rfl
@[simp] theorem Group.setJ_fpStatus (g : Group) (n : Nat) (w : Word) : (g.setJ n w).fpStatus = g.fpStatus := rfl
@[simp] theorem Group.setJ_fpRaised (g : Group) (n : Nat) (w : Word) : (g.setJ n w).fpRaised = g.fpRaised := rfl
@[simp] theorem Group.setJ_v (g : Group) (n : Nat) (w : Word) : (g.setJ n w).v = g.v := rfl
@[simp] theorem Group.setJ_vcur (g : Group) (n : Nat) (w : Word) : (g.setJ n w).vcur = g.vcur := rfl
@[simp] theorem Group.setJ_vmax (g : Group) (n : Nat) (w : Word) : (g.setJ n w).vmax = g.vmax := rfl
@[simp] theorem Group.setJ_role (g : Group) (n : Nat) (w : Word) : (g.setJ n w).role = g.role := rfl
@[simp] theorem Group.setJ_slot (g : Group) (n : Nat) (w : Word) : (g.setJ n w).slot = g.slot := rfl
@[simp] theorem Group.setJ_sched (g : Group) (n : Nat) (w : Word) : (g.setJ n w).sched = g.sched := rfl
@[simp] theorem Group.setJ_lastIssue (g : Group) (n : Nat) (w : Word) : (g.setJ n w).lastIssue = g.lastIssue := rfl
@[simp] theorem Group.setJ_holds (g : Group) (n : Nat) (w : Word) : (g.setJ n w).holds = g.holds := rfl
@[simp] theorem Group.setJ_late (g : Group) (n : Nat) (w : Word) : (g.setJ n w).late = g.late := rfl
@[simp] theorem Group.setJ_marks (g : Group) (n : Nat) (w : Word) : (g.setJ n w).marks = g.marks := rfl
@[simp] theorem Group.setJ_lb (g : Group) (n : Nat) (w : Word) : (g.setJ n w).lb = g.lb := rfl
@[simp] theorem Group.setJ_readFrom (g : Group) (n : Nat) (w : Word) : (g.setJ n w).readFrom = g.readFrom := rfl
@[simp] theorem Group.setJ_adoptPos (g : Group) (n : Nat) (w : Word) : (g.setJ n w).adoptPos = g.adoptPos := rfl
@[simp] theorem Group.setJ_ownPub (g : Group) (n : Nat) (w : Word) : (g.setJ n w).ownPub = g.ownPub := rfl
@[simp] theorem Group.setRec_lanes (g : Group) (n : Nat) (r : StRec) : (g.setRec n r).lanes = g.lanes := rfl
@[simp] theorem Group.setRec_recs (g : Group) (n : Nat) (r : StRec) : (g.setRec n r).recs = g.recs.put n r := rfl
@[simp] theorem Group.setRec_preds (g : Group) (n : Nat) (r : StRec) : (g.setRec n r).preds = g.preds := rfl
@[simp] theorem Group.setRec_jm (g : Group) (n : Nat) (r : StRec) : (g.setRec n r).jm = g.jm := rfl
@[simp] theorem Group.setRec_flags (g : Group) (n : Nat) (r : StRec) : (g.setRec n r).flags = g.flags := rfl
@[simp] theorem Group.setRec_fpStatus (g : Group) (n : Nat) (r : StRec) : (g.setRec n r).fpStatus = g.fpStatus := rfl
@[simp] theorem Group.setRec_fpRaised (g : Group) (n : Nat) (r : StRec) : (g.setRec n r).fpRaised = g.fpRaised := rfl
@[simp] theorem Group.setRec_v (g : Group) (n : Nat) (r : StRec) : (g.setRec n r).v = g.v := rfl
@[simp] theorem Group.setRec_vcur (g : Group) (n : Nat) (r : StRec) : (g.setRec n r).vcur = g.vcur := rfl
@[simp] theorem Group.setRec_vmax (g : Group) (n : Nat) (r : StRec) : (g.setRec n r).vmax = g.vmax := rfl
@[simp] theorem Group.setRec_role (g : Group) (n : Nat) (r : StRec) : (g.setRec n r).role = g.role := rfl
@[simp] theorem Group.setRec_slot (g : Group) (n : Nat) (r : StRec) : (g.setRec n r).slot = g.slot := rfl
@[simp] theorem Group.setRec_sched (g : Group) (n : Nat) (r : StRec) : (g.setRec n r).sched = g.sched := rfl
@[simp] theorem Group.setRec_lastIssue (g : Group) (n : Nat) (r : StRec) : (g.setRec n r).lastIssue = g.lastIssue := rfl
@[simp] theorem Group.setRec_holds (g : Group) (n : Nat) (r : StRec) : (g.setRec n r).holds = g.holds := rfl
@[simp] theorem Group.setRec_late (g : Group) (n : Nat) (r : StRec) : (g.setRec n r).late = g.late := rfl
@[simp] theorem Group.setRec_marks (g : Group) (n : Nat) (r : StRec) : (g.setRec n r).marks = g.marks := rfl
@[simp] theorem Group.setRec_lb (g : Group) (n : Nat) (r : StRec) : (g.setRec n r).lb = g.lb := rfl
@[simp] theorem Group.setRec_readFrom (g : Group) (n : Nat) (r : StRec) : (g.setRec n r).readFrom = g.readFrom := rfl
@[simp] theorem Group.setRec_adoptPos (g : Group) (n : Nat) (r : StRec) : (g.setRec n r).adoptPos = g.adoptPos := rfl
@[simp] theorem Group.setRec_ownPub (g : Group) (n : Nat) (r : StRec) : (g.setRec n r).ownPub = g.ownPub := rfl
@[simp] theorem Group.updLanes_recs (g : Group) (m : Mask) (f : Nat → Lane → Lane) : (g.updLanes m f).recs = g.recs := rfl
@[simp] theorem Group.updLanes_preds (g : Group) (m : Mask) (f : Nat → Lane → Lane) : (g.updLanes m f).preds = g.preds := rfl
@[simp] theorem Group.updLanes_jm (g : Group) (m : Mask) (f : Nat → Lane → Lane) : (g.updLanes m f).jm = g.jm := rfl
@[simp] theorem Group.updLanes_flags (g : Group) (m : Mask) (f : Nat → Lane → Lane) : (g.updLanes m f).flags = g.flags := rfl
@[simp] theorem Group.updLanes_fpStatus (g : Group) (m : Mask) (f : Nat → Lane → Lane) : (g.updLanes m f).fpStatus = g.fpStatus := rfl
@[simp] theorem Group.updLanes_fpRaised (g : Group) (m : Mask) (f : Nat → Lane → Lane) : (g.updLanes m f).fpRaised = g.fpRaised := rfl
@[simp] theorem Group.updLanes_v (g : Group) (m : Mask) (f : Nat → Lane → Lane) : (g.updLanes m f).v = g.v := rfl
@[simp] theorem Group.updLanes_vcur (g : Group) (m : Mask) (f : Nat → Lane → Lane) : (g.updLanes m f).vcur = g.vcur := rfl
@[simp] theorem Group.updLanes_vmax (g : Group) (m : Mask) (f : Nat → Lane → Lane) : (g.updLanes m f).vmax = g.vmax := rfl
@[simp] theorem Group.updLanes_role (g : Group) (m : Mask) (f : Nat → Lane → Lane) : (g.updLanes m f).role = g.role := rfl
@[simp] theorem Group.updLanes_slot (g : Group) (m : Mask) (f : Nat → Lane → Lane) : (g.updLanes m f).slot = g.slot := rfl
@[simp] theorem Group.updLanes_sched (g : Group) (m : Mask) (f : Nat → Lane → Lane) : (g.updLanes m f).sched = g.sched := rfl
@[simp] theorem Group.updLanes_lastIssue (g : Group) (m : Mask) (f : Nat → Lane → Lane) : (g.updLanes m f).lastIssue = g.lastIssue := rfl
@[simp] theorem Group.updLanes_holds (g : Group) (m : Mask) (f : Nat → Lane → Lane) : (g.updLanes m f).holds = g.holds := rfl
@[simp] theorem Group.updLanes_late (g : Group) (m : Mask) (f : Nat → Lane → Lane) : (g.updLanes m f).late = g.late := rfl
@[simp] theorem Group.updLanes_marks (g : Group) (m : Mask) (f : Nat → Lane → Lane) : (g.updLanes m f).marks = g.marks := rfl
@[simp] theorem Group.updLanes_lb (g : Group) (m : Mask) (f : Nat → Lane → Lane) : (g.updLanes m f).lb = g.lb := rfl
@[simp] theorem Group.updLanes_readFrom (g : Group) (m : Mask) (f : Nat → Lane → Lane) : (g.updLanes m f).readFrom = g.readFrom := rfl
@[simp] theorem Group.updLanes_adoptPos (g : Group) (m : Mask) (f : Nat → Lane → Lane) : (g.updLanes m f).adoptPos = g.adoptPos := rfl
@[simp] theorem Group.updLanes_ownPub (g : Group) (m : Mask) (f : Nat → Lane → Lane) : (g.updLanes m f).ownPub = g.ownPub := rfl
@[simp] theorem StRec.setS_mode (r : StRec) (n : Nat) (w : Word) : (r.setS n w).mode = r.mode := rfl
@[simp] theorem StRec.setS_hasRec (r : StRec) (n : Nat) (w : Word) : (r.setS n w).hasRec = r.hasRec := rfl
@[simp] theorem StRec.setS_pc (r : StRec) (n : Nat) (w : Word) : (r.setS n w).pc = r.pc := rfl
@[simp] theorem StRec.setS_off (r : StRec) (n : Nat) (w : Word) : (r.setS n w).off = r.off := rfl
@[simp] theorem StRec.setS_cls (r : StRec) (n : Nat) (w : Word) : (r.setS n w).cls = r.cls := rfl
@[simp] theorem StRec.setS_skid (r : StRec) (n : Nat) (w : Word) : (r.setS n w).skid = r.skid := rfl
@[simp] theorem StRec.setS_code (r : StRec) (n : Nat) (w : Word) : (r.setS n w).code = r.code := rfl
@[simp] theorem StRec.setS_hasReplay (r : StRec) (n : Nat) (w : Word) : (r.setS n w).hasReplay = r.hasReplay := rfl
@[simp] theorem StRec.setS_replay (r : StRec) (n : Nat) (w : Word) : (r.setS n w).replay = r.replay := rfl
@[simp] theorem StRec.setS_rpend (r : StRec) (n : Nat) (w : Word) : (r.setS n w).rpend = r.rpend := rfl
@[simp] theorem StRec.setS_fpCtl (r : StRec) (n : Nat) (w : Word) : (r.setS n w).fpCtl = r.fpCtl := rfl
@[simp] theorem StRec.setS_fmt (r : StRec) (n : Nat) (w : Word) : (r.setS n w).fmt = r.fmt := rfl
@[simp] theorem StRec.setS_a (r : StRec) (n : Nat) (w : Word) : (r.setS n w).a = r.a := rfl
@[simp] theorem StRec.setS_dbgImg (r : StRec) (n : Nat) (w : Word) : (r.setS n w).dbgImg = r.dbgImg := rfl
@[simp] theorem StRec.setS_dbgStat (r : StRec) (n : Nat) (w : Word) : (r.setS n w).dbgStat = r.dbgStat := rfl
@[simp] theorem StRec.setS_claimed (r : StRec) (n : Nat) (w : Word) : (r.setS n w).claimed = r.claimed := rfl
@[simp] theorem StRec.setS_s (r : StRec) (n : Nat) (w : Word) : (r.setS n w).s = r.s.set n w := rfl

end Sys2Proof.Machine
end

