-- ==== Sys2Proof/Laws/Mem.lean ====
section
/-!
SUPPORT. Memory: what a store of a byte leaves, and that every operation that stores keeps the canonical form.
-/
namespace Sys2Proof.Machine

/-! ## One byte -/

@[simp] theorem mem_putByte (s : State) (a st pa : Nat) (v : Byte) : (s.putByte a st pa v).mem = s.mem.set pa v := rfl
@[simp] theorem mem_nextPos (s : State) : s.nextPos.mem = s.mem := rfl
@[simp] theorem byte_nextPos (s : State) (q : Nat) : s.nextPos.byte q = s.byte q := rfl
@[simp] theorem byte_storeByte (s : State) (a st pa : Nat) (v : Byte) : (s.storeByte a st pa v).byte pa = v := SMap.get_set_self s.mem pa v
theorem byte_storeByte_ne (s : State) (a st pa q : Nat) (v : Byte) (h : q ≠ pa) : (s.storeByte a st pa v).byte q = s.byte q := by
  show (s.mem.set pa v).get q = s.mem.get q
  rw [SMap.get_set]; simp [Ne.symm h]
/-- A store clears the poison of its byte. -/
theorem storeByte_unpoisoned (s : State) (a st pa : Nat) (v : Byte) :
    ((s.storeByte a st pa v).poison.get (pa / 32)).getLsbD (pa % 32) = false := by
  show ((s.poison.set (pa / 32) (s.poison.get (pa / 32) &&& ~~~(1#32 <<< (pa % 32)))).get (pa / 32)).getLsbD (pa % 32) = false
  have h : pa % 32 < 32 := Nat.mod_lt _ (by decide)
  simp [SMap.get_set, h]
@[simp] theorem mem_setPoison (s : State) (pa : Nat) (m : BitVec 32) : (s.setPoison pa m).mem = s.mem := by
  unfold State.setPoison; split <;> rfl
@[simp] theorem byte_setPoison (s : State) (pa q : Nat) (m : BitVec 32) : (s.setPoison pa m).byte q = s.byte q := by
  unfold State.byte; rw [mem_setPoison]

/-! ## The canonical form is kept -/

theorem memOk_putByte (s : State) (a st pa : Nat) (v : Byte) (h : s.memOk) : (s.putByte a st pa v).memOk := SMap.wf_set s.mem pa v h
theorem memOk_storeByte (s : State) (a st pa : Nat) (v : Byte) (h : s.memOk) : (s.storeByte a st pa v).memOk := SMap.wf_set s.mem pa v h
theorem memOk_setPoison (s : State) (pa : Nat) (m : BitVec 32) (h : s.memOk) : (s.setPoison pa m).memOk := by
  unfold State.memOk; rw [mem_setPoison]; exact h
/-- Two states with one memory. -/
theorem memOk_of_mem {s t : State} (e : t.mem = s.mem) (h : s.memOk) : t.memOk := by unfold State.memOk; rw [e]; exact h
theorem memOk_foldl {α : Type} (f : State → α → State) (hf : ∀ s a, s.memOk → (f s a).memOk) (l : List α) (s : State) (h : s.memOk) :
    (l.foldl f s).memOk := by
  induction l generalizing s with
  | nil => exact h
  | cons a l ih => exact ih _ (hf s a h)
theorem memOk_storeRun (s : State) (a st : Nat) (bs : List (Nat × Byte)) (h : s.memOk) : (s.storeRun a st bs).memOk :=
  memOk_foldl _ (fun _ _ hs => memOk_putByte _ _ _ _ _ hs) bs s h
theorem mem_opStore (s : State) (o : Op) (pa : Nat) (v : Byte) : (s.opStore o pa v).mem = s.mem.set pa v := by
  unfold State.opStore State.seen
  simp
theorem memOk_opStore (s : State) (o : Op) (pa : Nat) (v : Byte) (h : s.memOk) : (s.opStore o pa v).memOk :=
  memOk_of_mem (mem_opStore s o pa v) (memOk_putByte s 0 0 pa v h)
theorem memOk_storeItem (s : State) (o : Op) (it : Item) (h : s.memOk) : (s.storeItem o it).memOk := by
  unfold State.storeItem
  exact memOk_foldl _ (fun s n hs => memOk_of_mem (mem_nextPos _) (memOk_foldl _ (fun _ _ hs => memOk_opStore _ _ _ _ hs) (it.part n) s hs)) _ s h
theorem memOk_blockWrite (s : State) (ag addr mask data : Nat) (h : s.memOk) : (s.blockWrite ag addr mask data).memOk :=
  memOk_foldl _ (fun s k hs => by split <;> first | exact memOk_storeRun _ _ _ _ hs | exact hs) _ s h
theorem memOk_cpWrite (s : State) (sl ipa v n : Nat) (h : s.memOk) : (s.cpWrite sl ipa v n).memOk :=
  memOk_foldl _ (fun s k hs => by split <;> first | exact memOk_storeByte _ _ _ _ _ hs | exact hs) _ s h
theorem memOk_cwrite (s : State) (c : Call) (va v n : Nat) (h : s.memOk) : (s.cwrite c va v n).memOk :=
  memOk_foldl _ (fun s k hs => by split <;> first | exact memOk_storeByte _ _ _ _ _ hs | exact hs) _ s h
theorem memOk_setCbar (s : State) (ag st pa : Nat) (b : Bar) (h : s.memOk) : (s.setCbar ag st pa b).memOk :=
  memOk_foldl _ (fun _ _ hs => memOk_putByte _ _ _ _ _ hs) _ s h
theorem memOk_cwrite1 (s : State) (c : Call) (va v n : Nat) (h : s.memOk) : (s.cwrite1 c va v n).memOk := memOk_storeRun _ _ _ _ h
theorem memOk_scrubChan (s : State) (ch : Nat) (h : s.memOk) : (s.scrubChan ch).memOk :=
  memOk_of_mem (s := (s.mem.filter fun p => decide (ch * 2 ^ 30 ≤ p.1) && decide (p.1 < ch * 2 ^ 30 + 2 ^ 30)).foldl
    (fun s p => s.storeByte 0 0 p.1 0#8) s) rfl (memOk_foldl _ (fun _ _ hs => memOk_storeByte _ _ _ _ _ hs) _ s h)
theorem memOk_vwrite (s t : State) (sp : Team) (ag va v n : Nat) (e : s.vwrite sp ag va v n = .ok t) (h : s.memOk) : t.memOk := by
  unfold State.vwrite at e
  simp only [bind, Except.bind, pure, Except.pure] at e
  split at e
  · cases e
  · injection e with e
    subst e
    split
    · exact memOk_storeRun _ _ _ _ h
    · exact memOk_foldl _ (fun _ _ hs => memOk_storeByte _ _ _ _ _ hs) _ s h
theorem memOk_imgStore (n : Nat) (s : State) (x : Team) (v a : Nat) (t : State) (e : s.imgStore x v n a = .ok t) (h : s.memOk) : t.memOk := by
  induction n generalizing s v a with
  | zero => simp only [State.imgStore] at e; injection e with e; exact e ▸ h
  | succ n ih =>
    simp only [State.imgStore] at e
    split at e
    · cases e
    · exact ih _ _ _ e (memOk_storeByte _ _ _ _ _ h)

end Sys2Proof.Machine
end

