-- ==== Sys2Proof/Laws/Numbers.lean ====
section
/-!
SUPPORT. The functions of Machine/IntOps.lean in the words of bit vectors, for operands below the width of their type.
-/
namespace Sys2Proof.Machine

theorem signedN_eq {w x : Nat} (h : x < 2 ^ w) : signedN w x = (BitVec.ofNat w x).toInt := by
  simp only [signedN, BitVec.toInt, BitVec.toNat_ofNat, Nat.mod_eq_of_lt h]
  push_cast; rfl
theorem modN_eq (w : Nat) (e : Int) : modN w e = (BitVec.ofInt w e).toNat := by simp [modN, BitVec.toNat_ofInt]
theorem val_eq (t : IT) {a : Nat} (h : a < 2 ^ IT.w t) : IT.val t a = readI t a := by
  unfold IT.val readI
  split
  · exact signedN_eq h
  · simp [Nat.mod_eq_of_lt h]
theorem wrap_eq (t : IT) (x : Int) : modN (IT.w t) x = wrapI t x := modN_eq _ _
theorem fit_eq (t : IT) (sat : Bool) (x : Int) : IT.fit t sat x = wrapI t (if sat then satI t x else x) := by
  unfold IT.fit
  rw [wrap_eq]
  congr 1
  cases sat
  · rfl
  · simp only [if_true, clampI, satI, IT.lo, IT.hi]; split <;> rfl
theorem IT.w_kOf (t : IT) : IT.w t = 32 * t.k := by cases t <;> rfl
theorem wOf_kOf (w : Bool) : wOf w = 32 * kOf w := by cases w <;> rfl

/-! ## Operands are below 2^32 to a register -/

theorem pairV_lt (g : Group) {k : Nat} (hk : k = 1 ∨ k = 2) (n l : Nat) : pairV g k n l < 2 ^ (32 * k) := by
  have h1 := (g.getV n l).isLt
  have h2 := (g.getV (n + 1) l).isLt
  rcases hk with rfl | rfl <;> simp only [pairV] <;> simp <;> omega
theorem pairS_lt (r : StRec) {k : Nat} (hk : k = 1 ∨ k = 2) (n : Nat) : pairS r k n < 2 ^ (32 * k) := by
  have h1 := (r.getS n).isLt
  have h2 := (r.getS (n + 1)).isLt
  rcases hk with rfl | rfl <;> simp only [pairS] <;> simp <;> omega
theorem immWide_lt (ik : ImmKind) (v : Word) : immWide ik v < 2 ^ 64 := by
  have := v.isLt
  have := (v.signExtend 64).isLt
  cases ik <;> simp only [immWide] <;> omega
theorem rdV_lt (x : Ctx) {k : Nat} (hk : k = 1 ∨ k = 2) (ik : ImmKind) (a : Src) (l : Nat) : x.rdV k ik a l < 2 ^ (32 * k) := by
  have h64 := fun v => immWide_lt ik v
  cases a with
  | reg n => exact pairV_lt x.g hk n l
  | imm v =>
    have := v.isLt
    rcases hk with rfl | rfl
    · simpa [Ctx.rdV] using this
    · simpa [Ctx.rdV] using h64 v
  | zero => simpa [Ctx.rdV] using Nat.two_pow_pos _
  | lane => simpa [Ctx.rdV] using Nat.two_pow_pos _
  | sys n => simpa [Ctx.rdV] using Nat.two_pow_pos _
theorem sysVal_lt (x : Ctx) (n : Nat) : x.sysVal n < 2 ^ 32 := Nat.mod_lt _ (Nat.two_pow_pos _)
theorem rdU_lt (x : Ctx) {k : Nat} (hk : k = 1 ∨ k = 2) (ik : ImmKind) (a : Src) : x.rdU k ik a < 2 ^ (32 * k) := by
  have h64 := fun v => immWide_lt ik v
  cases a with
  | reg n => exact pairS_lt x.st hk n
  | imm v =>
    have := v.isLt
    rcases hk with rfl | rfl
    · simpa [Ctx.rdU] using this
    · simpa [Ctx.rdU] using h64 v
  | zero => simpa [Ctx.rdU] using Nat.two_pow_pos _
  | lane => simpa [Ctx.rdU] using Nat.two_pow_pos _
  | sys n =>
    have h1 := sysVal_lt x n
    have h2 := sysVal_lt x (n + 1)
    rcases hk with rfl | rfl <;> simp only [Ctx.rdU] <;> simp <;> omega

theorem revBits_lt (w a : Nat) : revBits w a < 2 ^ w := by
  induction w generalizing a with
  | zero => simp [revBits]
  | succ w ih =>
    have := ih (a / 2)
    have h2 : a % 2 < 2 := Nat.mod_lt _ (by omega)
    simp only [revBits]
    rcases (by omega : a % 2 = 0 ∨ a % 2 = 1) with h | h <;> rw [h] <;> rw [Nat.pow_succ] <;> omega
theorem testBit_revBits (w a i : Nat) (h : i < w) : (revBits w a).testBit i = a.testBit (w - 1 - i) := by
  induction w generalizing a i with
  | zero => omega
  | succ w ih =>
    simp only [revBits]
    by_cases hi : i = w
    · subst hi
      rw [Nat.mul_comm, Nat.testBit_two_pow_mul_add _ (revBits_lt i (a / 2))]
      simp [Nat.testBit_zero]
    · have hlt : i < w := by omega
      rw [Nat.mul_comm, Nat.testBit_two_pow_mul_add _ (revBits_lt w (a / 2))]
      simp only [hlt, if_true]
      rw [ih _ _ hlt, Nat.testBit_div_two]
      congr 1; omega

theorem range_succ_countP (w : Nat) (f : Nat → Bool) :
    (List.range (w + 1)).countP f = (if f 0 then 1 else 0) + (List.range w).countP fun i => f (i + 1) := by
  rw [List.range_succ_eq_map, List.countP_cons, List.countP_map]; simp only [Function.comp_def, Nat.succ_eq_add_one]; omega
theorem range_succ_takeWhile (w : Nat) (f : Nat → Bool) :
    ((List.range (w + 1)).takeWhile f).length = if f 0 then 1 + ((List.range w).takeWhile fun i => f (i + 1)).length else 0 := by
  rw [List.range_succ_eq_map, List.takeWhile_cons]
  split
  · rw [List.takeWhile_map]; simp [Function.comp_def]; omega
  · rfl
theorem popcN_eq (w a : Nat) : popcN w a = rulePopc w a := by
  unfold rulePopc
  induction w generalizing a with
  | zero => rfl
  | succ w ih =>
    rw [range_succ_countP, popcN, ih]
    simp only [Nat.testBit_div_two]
    congr 1
    rw [Nat.testBit_zero]
    rcases (by omega : a % 2 = 0 ∨ a % 2 = 1) with h | h <;> simp [h]
theorem ctzN_eq (w a : Nat) : ctzN w a = ruleCtz w a := by
  unfold ruleCtz
  induction w generalizing a with
  | zero => rfl
  | succ w ih =>
    rw [range_succ_takeWhile, ctzN, ih]
    simp only [Nat.testBit_div_two, Nat.testBit_zero]
    rcases (by omega : a % 2 = 0 ∨ a % 2 = 1) with h | h <;> simp [h]
theorem takeWhile_congr {α : Type} {f g : α → Bool} (xs : List α) (h : ∀ x ∈ xs, f x = g x) : xs.takeWhile f = xs.takeWhile g := by
  induction xs with
  | nil => rfl
  | cons a as ih =>
    rw [List.takeWhile_cons, List.takeWhile_cons, h a (List.mem_cons_self ..), ih fun b hb => h b (List.mem_cons_of_mem _ hb)]
theorem clzN_eq (w a : Nat) : clzN w a = ruleClz w a := by
  unfold clzN
  rw [ctzN_eq]
  unfold ruleClz ruleCtz
  congr 1
  apply takeWhile_congr
  intro i hi
  rw [testBit_revBits w a i (List.mem_range.mp hi)]

/-! ## The functions themselves -/

theorem bNot_eq {w a : Nat} (h : a < 2 ^ w) : bNot w a = (~~~(BitVec.ofNat w a)).toNat := by
  simp [bNot, BitVec.toNat_not, Nat.mod_eq_of_lt h]
theorem iAdd_eq (t : IT) (sat : Bool) {p q : Nat} (hp : p < 2 ^ IT.w t) (hq : q < 2 ^ IT.w t) :
    iAdd t sat p q = wrapI t (if sat then satI t (readI t p + readI t q) else readI t p + readI t q) := by
  rw [iAdd, fit_eq, val_eq t hp, val_eq t hq]
theorem iSub_eq (t : IT) (sat : Bool) {p q : Nat} (hp : p < 2 ^ IT.w t) (hq : q < 2 ^ IT.w t) :
    iSub t sat p q = wrapI t (if sat then satI t (readI t p - readI t q) else readI t p - readI t q) := by
  rw [iSub, fit_eq, val_eq t hp, val_eq t hq]
theorem iMul_eq (t : IT) (hi : Bool) {p q : Nat} (hp : p < 2 ^ IT.w t) (hq : q < 2 ^ IT.w t) :
    iMul t hi p q = wrapI t (if hi then readI t p * readI t q / 2 ^ IT.w t else readI t p * readI t q) := by
  rw [iMul, wrap_eq, val_eq t hp, val_eq t hq]
/-- A pattern and its signed reading differ by a multiple of 2^w. -/
theorem readI_mod (t : IT) {p : Nat} (hp : p < 2 ^ IT.w t) : ∃ k : Int, readI t p = p + k * 2 ^ IT.w t := by
  unfold readI
  split
  · rw [← signedN_eq hp, signedN]; split
    · exact ⟨0, by simp⟩
    · exact ⟨-1, by omega⟩
  · exact ⟨0, by simp [Nat.mod_eq_of_lt hp]⟩
theorem wrapI_congr (t : IT) {x y k : Int} (h : x = y + k * 2 ^ IT.w t) : wrapI t x = wrapI t y := by
  rw [← wrap_eq, ← wrap_eq, modN, modN, h]
  push_cast
  rw [Int.add_mul_emod_self_right]
theorem iMad_eq (t : IT) {p q r : Nat} (hp : p < 2 ^ IT.w t) (hq : q < 2 ^ IT.w t) (hr : r < 2 ^ IT.w t) :
    iMad t p q r = wrapI t (readI t p * readI t q + readI t r) := by
  obtain ⟨a, ha⟩ := readI_mod t hp
  obtain ⟨b, hb⟩ := readI_mod t hq
  obtain ⟨c, hc⟩ := readI_mod t hr
  rw [iMad, wrap_eq]
  refine (wrapI_congr t (k := p * b + a * q + a * b * 2 ^ IT.w t + c) ?_).symm
  rw [ha, hb, hc]; grind
theorem iDiv_eq (t : IT) {p q : Nat} (hp : p < 2 ^ IT.w t) (hq : q < 2 ^ IT.w t) :
    iDiv t p q = if readI t q = 0 then 2 ^ IT.w t - 1 else wrapI t ((readI t p).tdiv (readI t q)) := by
  rw [iDiv, wrap_eq, val_eq t hp, val_eq t hq]
theorem iRem_eq (t : IT) {p q : Nat} (hp : p < 2 ^ IT.w t) (hq : q < 2 ^ IT.w t) :
    iRem t p q = if readI t q = 0 then p else wrapI t ((readI t p).tmod (readI t q)) := by
  rw [iRem, wrap_eq, val_eq t hp, val_eq t hq, Int.tmod_def, Int.mul_comm (readI t q)]
theorem iMin_eq (t : IT) {p q : Nat} (hp : p < 2 ^ IT.w t) (hq : q < 2 ^ IT.w t) :
    iMin t p q = if readI t p ≤ readI t q then p else q := by rw [iMin, val_eq t hp, val_eq t hq]
theorem iMax_eq (t : IT) {p q : Nat} (hp : p < 2 ^ IT.w t) (hq : q < 2 ^ IT.w t) :
    iMax t p q = if readI t p ≤ readI t q then q else p := by
  rw [iMax, val_eq t hp, val_eq t hq]
theorem iAbs_eq {w p : Nat} (hp : p < 2 ^ w) : iAbs w p = bvN w (fun p => BitVec.ofInt _ p.toInt.natAbs) p := by
  rw [iAbs, modN_eq, signedN_eq hp]; rfl
theorem iNeg_eq {w p : Nat} (hp : p < 2 ^ w) : iNeg w p = bvN w (fun p => -p) p := by
  rw [iNeg, modN_eq, signedN_eq hp, bvN, BitVec.ofInt_neg, BitVec.ofInt_toInt]
theorem bAnd_eq {w p q : Nat} (hp : p < 2 ^ w) (hq : q < 2 ^ w) : bAnd w p q = bvN2 w (fun p q => p &&& q) p q := by
  simp [bAnd, bvN2, Nat.mod_eq_of_lt hp, Nat.mod_eq_of_lt hq]
theorem bOr_eq {w p q : Nat} (hp : p < 2 ^ w) (hq : q < 2 ^ w) : bOr w p q = bvN2 w (fun p q => p ||| q) p q := by
  simp [bOr, bvN2, Nat.mod_eq_of_lt hp, Nat.mod_eq_of_lt hq]
theorem bXor_eq {w p q : Nat} (hp : p < 2 ^ w) (hq : q < 2 ^ w) : bXor w p q = bvN2 w (fun p q => p ^^^ q) p q := by
  simp [bXor, bvN2, Nat.mod_eq_of_lt hp, Nat.mod_eq_of_lt hq]
theorem bAndn_eq {w p q : Nat} (hp : p < 2 ^ w) (hq : q < 2 ^ w) : bAndn w p q = bvN2 w (fun p q => p &&& ~~~q) p q := by
  rw [bAndn, bNot_eq hq, bvN2, BitVec.toNat_and, BitVec.toNat_ofNat, Nat.mod_eq_of_lt hp]
theorem bOrn_eq {w p q : Nat} (hp : p < 2 ^ w) (hq : q < 2 ^ w) : bOrn w p q = bvN2 w (fun p q => p ||| ~~~q) p q := by
  rw [bOrn, bNot_eq hq, bvN2, BitVec.toNat_or, BitVec.toNat_ofNat, Nat.mod_eq_of_lt hp]
theorem bXnor_eq {w p q : Nat} (hp : p < 2 ^ w) (hq : q < 2 ^ w) : bXnor w p q = bvN2 w (fun p q => ~~~(p ^^^ q)) p q := by
  rw [bXnor, bNot_eq (Nat.xor_lt_two_pow hp hq), bvN2]
  congr 2
  apply BitVec.eq_of_toNat_eq
  simp [Nat.mod_eq_of_lt hp, Nat.mod_eq_of_lt hq, Nat.mod_eq_of_lt (Nat.xor_lt_two_pow hp hq)]
theorem not_eq {w p : Nat} (hp : p < 2 ^ w) : bNot w p = bvN w (fun p => ~~~p) p := bNot_eq hp
theorem id_eq_bv {w p : Nat} (hp : p < 2 ^ w) : p = bvN w (fun p => p) p := by simp [bvN, Nat.mod_eq_of_lt hp]
theorem shlN_eq {w p n : Nat} (hp : p < 2 ^ w) : shlN w p n = (BitVec.ofNat w p <<< n).toNat := by
  simp only [shlN, BitVec.toNat_shiftLeft, BitVec.toNat_ofNat, Nat.mod_eq_of_lt hp, Nat.shiftLeft_eq]
  split
  · rename_i h
    obtain ⟨k, rfl⟩ := Nat.exists_eq_add_of_le h
    rw [Nat.pow_add, ← Nat.mul_assoc, Nat.mul_comm p, Nat.mul_assoc, Nat.mul_mod_right]
  · rfl
theorem shrN_eq {w p n : Nat} (hp : p < 2 ^ w) : shrN w p n = (BitVec.ofNat w p >>> n).toNat := by
  simp only [shrN, BitVec.toNat_ushiftRight, BitVec.toNat_ofNat, Nat.mod_eq_of_lt hp, Nat.shiftRight_eq_div_pow]
  split
  · rename_i h
    exact (Nat.div_eq_of_lt (Nat.lt_of_lt_of_le hp (Nat.pow_le_pow_right (by omega) h))).symm
  · rfl
theorem div_min {w : Nat} {x : Int} (hl : -2 ^ w ≤ x) (hh : x < 2 ^ w) (n : Nat) : x / 2 ^ min n w = x / 2 ^ n := by
  rcases Nat.le_total n w with h | h
  · rw [Nat.min_eq_left h]
  · rw [Nat.min_eq_right h]
    have h2 : (2 : Int) ^ w ≤ 2 ^ n := by exact_mod_cast Nat.pow_le_pow_right (by omega) h
    have h0 : (0 : Int) < 2 ^ w := Int.pow_pos (by omega)
    rcases Int.lt_or_le x 0 with hx | hx
    · rw [Int.ediv_eq_neg_one_of_neg_of_le hx (by omega), Int.ediv_eq_neg_one_of_neg_of_le hx (by omega)]
    · rw [Int.ediv_eq_zero_of_lt hx hh, Int.ediv_eq_zero_of_lt hx (by omega)]
theorem sarN_eq {w p n : Nat} (hp : p < 2 ^ w) : sarN w p n = ((BitVec.ofNat w p).sshiftRight n).toNat := by
  have h1 := BitVec.toInt_lt (x := BitVec.ofNat w p)
  have h2 := BitVec.le_toInt (x := BitVec.ofNat w p)
  rw [sarN, modN_eq, signedN_eq hp, BitVec.sshiftRight]
  congr 2
  rw [Int.shiftRight_eq_div_pow]
  push_cast
  have h3 : (2 : Int) ^ (w - 1) ≤ 2 ^ w := by exact_mod_cast Nat.pow_le_pow_right (by omega) (by omega)
  exact div_min (by omega) (by omega) n

theorem toNat_append32 {a b : Nat} (ha : a < 2 ^ 32) (hb : b < 2 ^ 32) :
    (BitVec.ofNat 32 b ++ BitVec.ofNat 32 a : BitVec 64).toNat = b * 2 ^ 32 + a := by
  rw [BitVec.toNat_append, BitVec.toNat_ofNat, BitVec.toNat_ofNat, Nat.mod_eq_of_lt ha, Nat.mod_eq_of_lt hb, Nat.shiftLeft_eq,
    Nat.mul_comm b, ← Nat.two_pow_add_eq_or_of_lt ha]
theorem shfN_eq (right clamp : Bool) {a b c : Nat} (ha : a < 2 ^ 32) (hb : b < 2 ^ 32) : shfN right clamp a b c = ruleShf right clamp a b c := by
  simp only [shfN, ruleShf]
  have hx := toNat_append32 ha hb
  have hlt : b * 2 ^ 32 + a < 2 ^ 64 := by omega
  generalize (if clamp = true then min c 32 else c % 32) = n
  cases right
  · simp only [Bool.false_eq_true, if_false, BitVec.toNat_shiftLeft, hx, Nat.shiftLeft_eq]
    rw [show (2 : Nat) ^ 64 = 2 ^ 32 * 2 ^ 32 by decide, Nat.mod_mul_right_div_self]
  · simp only [if_true, BitVec.toNat_ushiftRight, hx, Nat.shiftRight_eq_div_pow]
theorem revBits_eq {w a : Nat} (ha : a < 2 ^ w) : revBits w a = bvN w (fun p => p.reverse) a := by
  unfold bvN
  have : revBits w a = (BitVec.ofNat w (revBits w a)).toNat := by simp [Nat.mod_eq_of_lt (revBits_lt w a)]
  rw [this]
  congr 1
  apply BitVec.eq_of_getLsbD_eq
  intro i hi
  rw [BitVec.getLsbD_ofNat, BitVec.getLsbD_reverse, BitVec.getMsbD_eq_getLsbD, BitVec.getLsbD_ofNat]
  have h2 : w - 1 - i < w := by omega
  simp only [hi, h2, decide_true, Bool.true_and]
  rw [testBit_revBits w a i hi]
theorem ruleCond_eq {w : Nat} (cond : ICond) {a b : Nat} (ha : a < 2 ^ w) (hb : b < 2 ^ w) : icond w cond a b = ruleCond w cond a b := by
  have h1 := signedN_eq ha
  have h2 := signedN_eq hb
  have e1 := Nat.mod_eq_of_lt ha
  have e2 := Nat.mod_eq_of_lt hb
  cases cond <;> simp [icond, ruleCond, h1, h2, BitVec.slt, BitVec.sle, BitVec.ult, BitVec.ule, e1, e2, BitVec.toNat_eq, bne, BEq.beq]
theorem outside_eq (t : IT) (x : Int) : (decide (x < IT.lo t) || decide (IT.hi t < x)) = outsideI t x := by
  unfold outsideI IT.lo IT.hi
  split
  · rfl
  · congr 1; apply decide_eq_decide.mpr; omega
theorem iAddc_eq (t : IT) (ci : Bool) {p q : Nat} (hp : p < 2 ^ IT.w t) (hq : q < 2 ^ IT.w t) :
    iAddc t p q ci = (wrapI t (readI t p + readI t q + if ci then 1 else 0), outsideI t (readI t p + readI t q + if ci then 1 else 0)) := by
  rw [iAddc, val_eq t hp, val_eq t hq, ← outside_eq, ← wrap_eq]
theorem iSubc_eq (t : IT) (ci : Bool) {p q : Nat} (hp : p < 2 ^ IT.w t) (hq : q < 2 ^ IT.w t) :
    iSubc t p q ci = (wrapI t (readI t p - readI t q - if ci then 1 else 0), outsideI t (readI t p - readI t q - if ci then 1 else 0)) := by
  rw [iSubc, val_eq t hp, val_eq t hq, ← outside_eq, ← wrap_eq]
theorem extend_eq {k : Nat} (y : Int) : modN 32 (signedN k (modN k y)) = ((BitVec.ofInt k y).signExtend 32).toNat := by
  rw [modN_eq, modN_eq, signedN_eq (BitVec.isLt _), BitVec.ofNat_toNat, BitVec.setWidth_eq]; rfl
theorem narrowInt_eq (sat un : Bool) (t : NT) {a : Nat} (ha : a < 2 ^ 32) : narrowInt sat un t a = ruleNarrow sat un t a := by
  have h1 := signedN_eq ha
  have e1 := Nat.mod_eq_of_lt ha
  unfold narrowInt ruleNarrow
  simp only [h1, BitVec.toNat_ofNat, e1]
  generalize (if un = true then (a : Int) else (BitVec.ofNat 32 a).toInt) = v
  cases t <;> simp only [ntSg, ntWidth, if_true, Bool.false_eq_true, if_false, clampI]
  · exact extend_eq _
  · exact modN_eq 16 _
  · exact extend_eq _
  · exact modN_eq 8 _
theorem bgatByte_eq {x : Nat} (hx : x < 2 ^ 64) (sel : Nat) : bgatByte x sel = (ruleByte (BitVec.ofNat 64 x) (BitVec.ofNat 8 sel)).toNat := by
  have hb : ∀ k, k < 8 → (BitVec.ofNat 8 sel).getLsbD k = sel.testBit k := by intro k hk; rw [BitVec.getLsbD_ofNat, decide_eq_true hk, Bool.true_and]
  have h3 : ((BitVec.ofNat 8 sel).extractLsb' 0 3).toNat = sel % 8 := by
    simp [BitVec.extractLsb'_toNat]
  have t4 : (sel / 16 % 2 = 1) = (sel.testBit 4 = true) := by simp [Nat.testBit, Nat.shiftRight_eq_div_pow, Nat.one_and_eq_mod_two]
  have t3 : (sel / 8 % 2 = 1) = (sel.testBit 3 = true) := by simp [Nat.testBit, Nat.shiftRight_eq_div_pow, Nat.one_and_eq_mod_two]
  have hy : x / 2 ^ (8 * (sel % 8)) % 256 = ((BitVec.ofNat 64 x).extractLsb' (8 * (sel % 8)) 8).toNat := by
    rw [BitVec.extractLsb'_toNat, BitVec.toNat_ofNat, Nat.mod_eq_of_lt hx, Nat.shiftRight_eq_div_pow]
  simp only [bgatByte, ruleByte, hb 4 (by omega), hb 3 (by omega), h3, t4, t3]
  by_cases h4 : sel.testBit 4 = true
  · by_cases h3' : sel.testBit 3 = true <;> simp [h4, h3']
  · simp only [h4, if_false]
    rw [hy]
    by_cases h3' : sel.testBit 3 = true
    · simp only [h3', if_true, Bool.false_eq_true, if_false]
      rw [revBits_eq (BitVec.isLt _), bvN, BitVec.ofNat_toNat, BitVec.setWidth_eq]
    · simp only [h3', if_false, Bool.false_eq_true]
theorem bgatN_eq {a b c : Nat} (ha : a < 2 ^ 32) (hb : b < 2 ^ 32) : bgatN a b c = ruleBgat a b c := by
  have hx : a + b * 2 ^ 32 < 2 ^ 64 := by omega
  have hv : (BitVec.ofNat 64 (a + b * 2 ^ 32)) = (BitVec.ofNat 32 b ++ BitVec.ofNat 32 a : BitVec 64) := by
    apply BitVec.eq_of_toNat_eq
    rw [toNat_append32 ha hb, BitVec.toNat_ofNat, Nat.mod_eq_of_lt hx]; omega
  have hs : ∀ k, k < 4 → (BitVec.ofNat 8 (c / 2 ^ (8 * k) % 256)) = (BitVec.ofNat 32 c).extractLsb' (8 * k) 8 := by
    intro k hk
    apply BitVec.eq_of_toNat_eq
    simp only [BitVec.toNat_ofNat, BitVec.extractLsb'_toNat, Nat.shiftRight_eq_div_pow]
    have : k = 0 ∨ k = 1 ∨ k = 2 ∨ k = 3 := by omega
    rcases this with rfl | rfl | rfl | rfl <;> simp <;> omega
  have h0 := hs 0 (by omega)
  have h1 := hs 1 (by omega)
  have h2 := hs 2 (by omega)
  have h3 := hs 3 (by omega)
  simp at h0 h1 h2 h3
  simp only [bgatN, ruleBgat, bgatByte_eq hx, hv, h0, h1, h2, h3]
  generalize ruleByte _ ((BitVec.ofNat 32 c).extractLsb' 0 8) = y0
  generalize ruleByte _ ((BitVec.ofNat 32 c).extractLsb' 8 8) = y1
  generalize ruleByte _ ((BitVec.ofNat 32 c).extractLsb' 16 8) = y2
  generalize ruleByte _ ((BitVec.ofNat 32 c).extractLsb' 24 8) = y3
  have l0 := y0.isLt
  have l1 := y1.isLt
  have l2 := y2.isLt
  rw [BitVec.toNat_append, BitVec.toNat_append, BitVec.toNat_append]
  simp only [Nat.shiftLeft_eq]
  rw [Nat.mul_comm y3.toNat, ← Nat.two_pow_add_eq_or_of_lt l2, Nat.mul_comm (2 ^ 8 * y3.toNat + y2.toNat),
    ← Nat.two_pow_add_eq_or_of_lt l1, Nat.mul_comm (2 ^ 8 * (2 ^ 8 * y3.toNat + y2.toNat) + y1.toNat), ← Nat.two_pow_add_eq_or_of_lt l0]
  omega
theorem narrow_mod {len : Nat} (h : len ≤ 32) (y : Int) : (y % (2 ^ len : Nat)).toNat = (y % (2 ^ 32 : Nat)).toNat % 2 ^ len := by
  have hd : ((2 ^ len : Nat) : Int) ∣ ((2 ^ 32 : Nat) : Int) := Int.natCast_dvd_natCast.mpr (Nat.pow_dvd_pow 2 h)
  rw [← Int.emod_emod_of_dvd y hd]
  have h0 : 0 ≤ y % ((2 ^ 32 : Nat) : Int) := Int.emod_nonneg _ (by decide)
  obtain ⟨n, hn⟩ := Int.eq_ofNat_of_zero_le h0
  rw [hn, ← Int.natCast_emod]; rfl
theorem bfeN_eq (sg : Bool) {a b c : Nat} (ha : a < 2 ^ 32) : bfeN sg a b c = ruleBfe sg a b c := by
  have hlen : min c 32 ≤ 32 := Nat.min_le_right ..
  simp only [bfeN, ruleBfe]
  generalize min c 32 = len at hlen
  have hz : ∀ v : BitVec 0, (v.signExtend 32).toNat = 0 := by intro v; rw [show v = 0#0 from BitVec.eq_nil v]; decide
  by_cases h0 : len = 0
  · subst h0
    cases sg
    · have := BitVec.isLt ((BitVec.ofNat 32 a >>> b).setWidth 0)
      simp only [Bool.false_eq_true, if_true, if_false]; omega
    · simp only [if_true]; exact (hz _).symm
  · simp only [h0, if_false]
    cases sg
    · simp only [Bool.false_eq_true, if_false]
      rw [div_min (by omega) (by omega) b, modN_eq]
      congr 1
      apply BitVec.eq_of_toNat_eq
      rw [BitVec.toNat_ofInt, BitVec.toNat_setWidth, BitVec.toNat_ushiftRight, BitVec.toNat_ofNat, Nat.mod_eq_of_lt ha,
        Nat.shiftRight_eq_div_pow, show ((a : Int) / 2 ^ b) = ((a / 2 ^ b : Nat) : Int) by push_cast; rfl, ← Int.natCast_emod]
      rfl
    · simp only [if_true]
      have h1 := BitVec.toInt_lt (x := BitVec.ofNat 32 a)
      have h2 := BitVec.le_toInt (x := BitVec.ofNat 32 a)
      rw [extend_eq, signedN_eq ha, div_min (by omega) (by omega) b]
      congr 2
      apply BitVec.eq_of_toNat_eq
      rw [BitVec.sshiftRight, BitVec.toNat_ofInt, BitVec.toNat_setWidth, BitVec.toNat_ofInt, Int.shiftRight_eq_div_pow]
      exact narrow_mod hlen _
theorem fieldMask_lt {pos n : Nat} (h : pos + n ≤ 32) : (2 ^ n - 1) * 2 ^ pos < 2 ^ 32 := by
  have h1 : (2 ^ n - 1) * 2 ^ pos < 2 ^ n * 2 ^ pos := Nat.mul_lt_mul_of_pos_right (Nat.sub_lt (Nat.two_pow_pos n) (by omega)) (Nat.two_pow_pos pos)
  rw [← Nat.pow_add] at h1
  exact Nat.lt_of_lt_of_le h1 (Nat.pow_le_pow_right (by omega) (by omega))
theorem testBit_bNot {m i : Nat} (h : m < 2 ^ 32) (hi : i < 32) : (bNot 32 m).testBit i = !m.testBit i := by
  rw [bNot_eq h, ← BitVec.getLsbD, BitVec.getLsbD_not, BitVec.getLsbD_ofNat]; simp [hi]
theorem bfiN_eq {a b c : Nat} (hb : b < 2 ^ 32) : bfiN a b c = (maskOf (ruleBfi a b c)).toNat := by
  simp only [bfiN]
  have hr : ∀ i, (maskOf (ruleBfi a b c)).toNat.testBit i = (decide (i < 32) && ruleBfi a b c i) := fun i => getLsbD_maskOf _ i
  apply Nat.eq_of_testBit_eq
  intro i
  rw [hr]
  unfold ruleBfi
  simp only
  generalize c % 256 = pos
  generalize c / 256 % 256 = len
  by_cases hp : 32 ≤ pos
  · simp only [hp, if_true, Nat.and_zero, Nat.or_zero, Nat.testBit_and]
    by_cases hi : i < 32
    · rw [testBit_bNot (by decide) hi]
      have : ¬ (pos ≤ i ∧ i < pos + len) := by omega
      simp [hi, this]
    · have : b.testBit i = false := Nat.testBit_lt_two_pow (Nat.lt_of_lt_of_le hb (Nat.pow_le_pow_right (by omega) (by omega)))
      simp [hi, this]
  · have hn : pos + min len (32 - pos) ≤ 32 := by omega
    have hm := fieldMask_lt hn
    simp only [hp, if_false]
    rw [Nat.testBit_or, Nat.testBit_and, Nat.testBit_and, Nat.min_eq_left (by omega : pos ≤ 32)]
    rw [Nat.testBit_mul_two_pow, Nat.testBit_mul_two_pow, Nat.testBit_two_pow_sub_one]
    by_cases hi : i < 32
    · rw [testBit_bNot hm hi, Nat.testBit_mul_two_pow, Nat.testBit_two_pow_sub_one]
      by_cases h1 : pos ≤ i
      · by_cases h2 : i < pos + len
        · have : i - pos < min len (32 - pos) := by omega
          simp [hi, h1, h2, this]
        · have : ¬ i - pos < min len (32 - pos) := by omega
          have h3 : ¬ i < pos + len := h2
          simp only [hi, h1, h3, this, decide_true, decide_false, Bool.true_and, Bool.and_false, Bool.not_false, Bool.and_true,
            Bool.or_false, and_false, if_false]
      · simp [hi, h1]
    · have h1 : b.testBit i = false := Nat.testBit_lt_two_pow (Nat.lt_of_lt_of_le hb (Nat.pow_le_pow_right (by omega) (by omega)))
      have h2 : ¬ i - pos < min len (32 - pos) := by omega
      simp [hi, h1]; omega

/-! ## Completing with one result -/

theorem k_cases (t : IT) : t.k = 1 ∨ t.k = 2 := by cases t <;> simp [IT.k]
theorem kOf_cases (w : Bool) : kOf w = 1 ∨ kOf w = 2 := by cases w <;> simp [kOf]
theorem rdV_typed_lt (x : Ctx) (t : IT) (a : Src) (l : Nat) : x.rdV t.k (ITimm t) a l < 2 ^ IT.w t := by
  rw [IT.w_kOf]; exact rdV_lt x (k_cases t) _ _ _
theorem rdU_typed_lt (x : Ctx) (t : IT) (a : Src) : x.rdU t.k (ITimm t) a < 2 ^ IT.w t := by
  rw [IT.w_kOf]; exact rdU_lt x (k_cases t) _ _
theorem rdV_wide_lt (x : Ctx) (w : Bool) (ik) (a : Src) (l : Nat) : x.rdV (kOf w) ik a l < 2 ^ wOf w := by
  rw [wOf_kOf]; exact rdV_lt x (kOf_cases w) _ _ _
theorem rdU_wide_lt (x : Ctx) (w : Bool) (ik) (a : Src) : x.rdU (kOf w) ik a < 2 ^ wOf w := by
  rw [wOf_kOf]; exact rdU_lt x (kOf_cases w) _ _
theorem next_resV {i s x k d} {f g : Nat → Nat} (h : Issues i s x) (F : Ctx → Res) (hF : F x = resV x k d f) (hfg : ∀ l, f l = g l) :
   ∃ t y, issue i s F = .next t ∧ Did x { v := some (k, d, g) } t y := by
  apply next_did h; rw [hF, funext hfg]; exact resV_did h.toDue k d g
theorem next_resU {i s x k d} {f g : Nat} (h : Issues i s x) (F : Ctx → Res) (hF : F x = resU x k d f) (hfg : f = g) :
   ∃ t y, issue i s F = .next t ∧ Did x { u := some (k, d, g) } t y := by
  apply next_did h; rw [hF, hfg]; exact resU_did h.toDue k d g

end Sys2Proof.Machine
end

