-- ==== Sys2Proof/Laws/Park.lean ====
section
/-!
SUPPORT. Taking a fault or trap: what parking some lanes of the issuing path leaves (R77, R185).
-/
namespace Sys2Proof.Machine

/-- A lane whose record is no resumed one keeps its record, mode included, through the end of a cycle. -/
theorem recOf_setMain (g : Group) (k : Nat) {l : Nat} (h : (g.recOf l).mode = .main ∨ (g.lane l).rc ≠ k) :
    (g.setRec k { g.getRec k with mode := .main }).recOf l = g.recOf l := by
  unfold Group.recOf
  rw [lane_of_lanes (setRec_lanes ..)]
  by_cases hk : k = (g.lane l).rc
  · subst hk
    rcases h with h | h
    · rw [getRec_setRec_self]; unfold Group.recOf at h; rw [← h]
    · exact absurd rfl h
  · rw [getRec_setRec_ne _ _ hk]
theorem recOf_endCycle (g : Group) {l : Nat} (hl : l < 32) (he : (g.lane l).st ≠ .exited) (hm : (g.recOf l).mode ≠ .resumed) :
    g.endCycle.recOf l = g.recOf l := by
  unfold Group.endCycle
  have h0 : ({ g.unstart.dropEmpty with fpRaised := 0#32 } : Group).recOf l = g.recOf l := by
    have h1 : ({ g.unstart.dropEmpty with fpRaised := 0#32 } : Group).laneRec l = g.unstart.dropEmpty.laneRec l := rfl
    have h2 : g.unstart.laneRec l = g.laneRec l := by unfold Group.laneRec; rw [lane_unstart g hl, unstart_rc]; rfl
    rw [recOf_eq, recOf_eq, h1, laneRec_dropEmpty _ hl (by rw [lane_unstart g hl, unstart_st]; exact he), h2]
  simp only
  generalize ({ g.unstart.dropEmpty with fpRaised := 0#32 } : Group) = g1 at h0
  split
  · exact h0
  · split
    · exact h0
    · rename_i n hn
      -- the promoted record is a resumed one
      have hres : (g1.getRec n).mode = .resumed := by
        unfold Group.promotable at hn
        obtain ⟨k, hk, rfl⟩ := Option.map_eq_some_iff.mp hn
        have := List.find?_some hk
        simp only [Bool.and_eq_true, beq_iff_eq] at this
        exact this.2
      have hne : (g1.lane l).rc ≠ n := by
        intro h; apply hm; rw [← h0]; unfold Group.recOf; rw [h]; exact hres
      by_cases h00 : n = 0
      · subst h00
        simp only [if_true]
        rw [recOf_setMain _ _ (.inr hne), h0]
      · simp only [h00, if_false]
        rw [recOf_setMain, recOf_eq, laneRec_swapRecs _ _ _ h00 hl, ← recOf_eq, h0]
        right
        rw [lane_swapRecs _ _ _ hl]
        simp only [swapRc]
        by_cases h1 : (g1.lane l).rc = n
        · exact absurd h1 hne
        · simp only [h1, if_false]
          by_cases h2 : (g1.lane l).rc = 0
          · simp [h2, h00]
          · simp [h2]
theorem rc_endCycle (g : Group) {l k : Nat} (hl : l < 32) (hk : k < 32) : (g.endCycle.lane l).rc = (g.endCycle.lane k).rc ↔ (g.lane l).rc = (g.lane k).rc := by
  unfold Group.endCycle
  simp only
  generalize hgg : ({ g.unstart.dropEmpty with fpRaised := 0#32 } : Group) = g1
  have hlane : ∀ l, l < 32 → (g1.lane l).rc = (g.lane l).rc := by
    intro l hl; rw [← hgg]; exact (congrArg Lane.rc (lane_unstart g hl)).trans (unstart_rc _)
  split
  · rw [hlane l hl, hlane k hk]
  · split
    · rw [hlane l hl, hlane k hk]
    · rename_i n hn
      by_cases h00 : n = 0
      · subst h00; simp only [if_true]; rw [lane_of_lanes (setRec_lanes ..), lane_of_lanes (setRec_lanes ..), hlane l hl, hlane k hk]
      · simp only [h00, if_false]
        rw [lane_of_lanes (setRec_lanes ..), lane_of_lanes (setRec_lanes ..), lane_swapRecs _ _ _ hl, lane_swapRecs _ _ _ hk]
        simp only [swapRc, hlane l hl, hlane k hk]
        constructor
        · intro h
          by_cases h1 : (g.lane l).rc = n <;> by_cases h2 : (g.lane k).rc = n <;> by_cases h3 : (g.lane l).rc = 0 <;> by_cases h4 : (g.lane k).rc = 0 <;>
            simp_all <;> omega
        · intro h; rw [h]
theorem freeRec_spec (g : Group) (own : Nat) (h : ∃ n, n < 32 ∧ g.recs.find? n = none) : g.recs.find? (g.freeRec own) = none := by
  unfold Group.freeRec
  cases hf : (List.range 32).find? fun n => (g.recs.find? n).isNone with
  | none =>
    obtain ⟨n, hn, he⟩ := h
    have := List.find?_eq_none.mp hf n (List.mem_range.mpr hn)
    simp [he] at this
  | some n => have := List.find?_some hf; simpa using this
/-- Which record is free depends on the records and on where the lanes stand in them. -/
theorem freeRec_congr {g h : Group} (er : g.recs = h.recs) (el : ∀ l, l < 32 → (g.lane l).st = (h.lane l).st ∧ (g.lane l).rc = (h.lane l).rc) (own : Nat) :
    g.freeRec own = h.freeRec own := by
  have hl : ∀ n, g.live n = h.live n := fun n => mask_ext fun l hl => by rw [getLsbD_live _ _ hl, getLsbD_live _ _ hl, (el l hl).1, (el l hl).2]
  unfold Group.freeRec
  simp only [er, hl]
theorem freeRec_advance (g : Group) (m : Mask) (c : Ctl) (z : Option Nat) (own : Nat) :
    ({ (g.updLanes m fun _ y => y.advance c) with lastIssue := z } : Group).freeRec own = g.freeRec own := by
  refine freeRec_congr (h := g) (by rfl) (fun l hl => ?_) own
  have : ({ (g.updLanes m fun _ y => y.advance c) with lastIssue := z } : Group).lane l = (g.updLanes m fun _ y => y.advance c).lane l := rfl
  rw [this, lane_updLanes _ _ _ hl]
  split
  · unfold Lane.advance; split <;> exact ⟨rfl, rfl⟩
  · exact ⟨rfl, rfl⟩

theorem park_of {s : State} {t gi rc : Nat} {lanes : Mask} {T : Team} {g : Group} (hT : s.teams.find? t = some T) (hg : T.groups.find? gi = some g)
    (h0 : lanes ≠ 0#32) (i : ParkInfo) :
    s.park t gi rc lanes i =
      if i.claimed || T.handler.isNone then
        ((s.setTeam t (T.setGroup gi (g.park rc lanes T.handler i))).forgetRec t gi (g.freeRec rc)).raise T.slice T.die
          { kind := 0, src := T.coreId, cls := i.cls, addr := i.addr, image := T.image, pc := i.pc.toNat, lanes, grp := gi, state := i.state.getD rc,
            event := if i.claimed then 5 else 0, detail := i.detail }
      else (s.setTeam t (T.setGroup gi (g.park rc lanes T.handler i))).forgetRec t gi (g.freeRec rc) := by
  simp only [State.park, h0, if_false, State.team?, hT, Team.group?, hg]
/-- A group as a fault of one set of lanes leaves it, before the end of its cycle. -/
def Ctx.parkedGroup (x : Ctx) (f : Flt) : Group :=
  ({ (x.g.updLanes (x.cur.m &&& ~~~f.lanes) fun _ y => y.advance x.c) with lastIssue := some x.s.stamp } : Group).park x.cur.rc f.lanes x.tm.handler (x.cur.info x.c f)
def Ctx.parkedTeam (x : Ctx) (f : Flt) (k : Nat) (T : Team) : Team := { T with lastTick := k, groups := T.groups.put x.cur.grp (x.parkedGroup f) }

theorem info_spec (x : Ctx) (f : Flt) : x.cur.info x.c f = { cls := f.cls.code, pc := x.resumePc f, off := x.resumeOff f, code := f.code, claimed := f.claimed, addr := f.addr, detail := f.detail } := by
  simp only [Cursor.info, Ctx.resumePc, Ctx.resumeOff]; cases f.after <;> simp

theorem finish_parks_eq {i : Instr} {s : State} {x : Ctx} (h : Due i s x) (r : Res) (f : Flt) (T : Team) (hT : r.s.teams.find? x.cur.team = some T)
    (hg : T.groups = x.tm.groups) (hh : T.handler = x.tm.handler ∧ T.slice = x.tm.slice ∧ T.die = x.tm.die ∧ T.coreId = x.tm.coreId ∧ T.image = x.tm.image)
    (hf : r.flts = [f]) (h0 : f.lanes ≠ 0#32) (hst : r.stay = false)
    (hn : r.nxt = fun _ => .seq) : finish x r = closeCycle (State.forgetRec
      { x.report f r.s with teams := r.s.teams.put x.cur.team (x.parkedTeam f (r.s.dieCount T.die) T), stamp := r.s.stamp + 1 } x.cur.team x.cur.grp (x.g.freeRec x.cur.rc)) x.cur := by
  obtain ⟨hh1, hh2, hh3, hh4, hh5⟩ := hh
  have hgrp : T.groups.find? x.cur.grp = some x.g := by rw [hg]; exact h.group
  unfold finish
  simp only [hf, unfaulted, List.foldl_cons, List.foldl_nil, hst, hn, Lane.go, ite_self, Bool.false_eq_true, if_false]
  congr 1
  have hfree := freeRec_advance x.g (x.cur.m &&& ~~~f.lanes) x.c (some x.s.stamp) x.cur.rc
  rw [updTeam_of hT, updGroup_of (find?_setTeam ..) (show ({ T with lastTick := r.s.dieCount T.die } : Team).groups.find? x.cur.grp = some x.g from hgrp),
    park_of (find?_setTeam ..) (find?_setGroup ..) h0, setTeam_setTeam, setTeam_setTeam, setGroup_setGroup, info_spec, hfree]
  have hheld : (f.claimed || T.handler.isNone) = x.holds f := by rw [hh1]; rfl
  have key : ({ T with lastTick := r.s.dieCount T.die } : Team).setGroup x.cur.grp (x.parkedGroup f) = x.parkedTeam f (r.s.dieCount T.die) T := rfl
  unfold Ctx.parkedGroup at key
  rw [info_spec] at key
  have e1 : ∀ g : Group, (({ T with lastTick := r.s.dieCount T.die } : Team).setGroup x.cur.grp g).handler = x.tm.handler := fun _ => hh1
  have e2 : ∀ g : Group, (({ T with lastTick := r.s.dieCount T.die } : Team).setGroup x.cur.grp g).slice = x.tm.slice := fun _ => hh2
  have e3 : ∀ g : Group, (({ T with lastTick := r.s.dieCount T.die } : Team).setGroup x.cur.grp g).die = x.tm.die := fun _ => hh3
  have e4 : ∀ g : Group, (({ T with lastTick := r.s.dieCount T.die } : Team).setGroup x.cur.grp g).coreId = x.tm.coreId := fun _ => hh4
  have e5 : ∀ g : Group, (({ T with lastTick := r.s.dieCount T.die } : Team).setGroup x.cur.grp g).image = x.tm.image := fun _ => hh5
  simp only [e1, e2, e3, e4, e5, key]
  have hx : (f.claimed || x.tm.handler.isNone) = x.holds f := rfl
  rw [hx]
  unfold Ctx.report
  cases x.holds f
  · rfl
  · rfl

theorem lane_parked (x : Ctx) (f : Flt) {l : Nat} (hl : l < 32) (hsub : f.lanes.getLsbD l = true → x.cur.m.getLsbD l = true) :
    (x.parkedGroup f).lane l = if f.lanes.getLsbD l then
      { x.g.lane l with st := .running, rc := x.g.freeRec x.cur.rc, pc := if x.holds f then x.resumePc f else x.tm.handler.getD (x.resumePc f),
                        off := if x.holds f then x.resumeOff f else 0, hdr := none, wdl := none, yld := false, fresh := none }
      else if x.cur.m.getLsbD l then (x.g.lane l).advance x.c else x.g.lane l := by
  unfold Ctx.parkedGroup Group.park
  simp only [freeRec_advance]
  rw [lane_updLanes _ _ _ hl]
  have e : ∀ (g : Group) r n, (g.setRec n r).lane l = g.lane l := fun g r n => lane_of_lanes (setRec_lanes ..) l
  rw [e]
  have e2 : (({ (x.g.updLanes (x.cur.m &&& ~~~f.lanes) fun _ y => y.advance x.c) with lastIssue := some x.s.stamp } : Group)).lane l =
      if (x.cur.m &&& ~~~f.lanes).getLsbD l then (x.g.lane l).advance x.c else x.g.lane l := by
    rw [← lane_updLanes x.g (x.cur.m &&& ~~~f.lanes) (fun _ y => y.advance x.c) hl]; rfl
  rw [e2, info_spec]
  cases hf : f.lanes.getLsbD l
  · have : (x.cur.m &&& ~~~f.lanes).getLsbD l = x.cur.m.getLsbD l := by rw [BitVec.getLsbD_and, BitVec.getLsbD_not, hf]; simp [hl]
    rw [this]; rfl
  · have : (x.cur.m &&& ~~~f.lanes).getLsbD l = false := by simp [hf]
    rw [this]
    simp only [if_true, Bool.false_eq_true, if_false]
    rfl
theorem recs_parked (x : Ctx) (f : Flt) (k : Nat) : (x.parkedGroup f).recs.find? k =
    if x.g.freeRec x.cur.rc = k then some (parkedRec (x.g.getRec x.cur.rc) f.lanes (x.holds f) (x.cur.info x.c f)) else x.g.recs.find? k := by
  unfold Ctx.parkedGroup Group.park
  have : ∀ (g : Group) m h, (g.updLanes m h).recs = g.recs := fun _ _ _ => rfl
  have hfree := freeRec_advance x.g (x.cur.m &&& ~~~f.lanes) x.c (some x.s.stamp) x.cur.rc
  simp only [this] at *
  rw [find?_setRec, info_spec, hfree]; rfl
/-- Which state an operation of the group belongs to is no part of what is seen outside the group. -/
theorem rest_forgetRec (s : State) (t gi n : Nat) : (s.forgetRec t gi n).rest t gi = s.rest t gi := by
  have h : (s.forgetRec t gi n).teams = s.teams := rfl
  simp only [State.rest, State.updTeam, State.team?, h]
  cases s.teams.find? t <;>
  · simp only [State.forgetRec, State.setTeam, List.map_map]
    congr 1
    apply List.map_congr_left
    intro o _
    simp only [Function.comp]
    by_cases h1 : o.team = t ∧ o.grp = gi <;> by_cases h2 : o.rc = n <;> simp [h1, h2]

/-- Of a lane that parks nothing is left of where its path stood. -/
theorem core_parked (y : Lane) (st : LaneSt) (rc : Nat) (pc : Dword) (off : Nat) :
    ({ y with st, rc, pc, off, hdr := none, wdl := none, yld := false, fresh := none } : Lane).core =
      { y.core with st, pc, off, hdr := none, wdl := none, yld := false } := by
  obtain ⟨_, _, _, _, _, _, _, _, _, _, fresh⟩ := y
  rcases fresh with _ | _ | k <;> rfl
theorem finish_parks {i : Instr} {s : State} {x : Ctx} (h : Due i s x) (r : Res) (f : Flt) (T : Team) (hT : r.s.teams.find? x.cur.team = some T)
    (hg : T.groups = x.tm.groups) (hh : T.handler = x.tm.handler ∧ T.slice = x.tm.slice ∧ T.die = x.tm.die ∧ T.coreId = x.tm.coreId ∧ T.image = x.tm.image)
    (hf : r.flts = [f]) (hsub : ∀ l, f.lanes.getLsbD l = true → x.cur.m.getLsbD l = true) (h0 : f.lanes ≠ 0#32) (hst : r.stay = false)
    (hn : r.nxt = fun _ => .seq) : ∃ y, Parks x f r.s (finish x r) y := by
  rw [finish_parks_eq h r f T hT hg hh hf h0 hst hn]
  let S0 : State := { x.report f r.s with teams := r.s.teams.put x.cur.team (x.parkedTeam f (r.s.dieCount T.die) T), stamp := r.s.stamp + 1 }
  let S : State := S0.forgetRec x.cur.team x.cur.grp (x.g.freeRec x.cur.rc)
  have hT2 : S.teams.find? x.cur.team = some (x.parkedTeam f (r.s.dieCount T.die) T) := SMap.find?_put_self ..
  have hy2 : (x.parkedTeam f (r.s.dieCount T.die) T).groups.find? x.cur.grp = some (x.parkedGroup f) := SMap.find?_put_self ..
  obtain ⟨hrest, y, hy, he, hend⟩ := rest_closeCycle S x.cur hT2 hy2
  have hrec : ∀ l, l < 32 → ((x.parkedGroup f).lane l).st ≠ .exited → ((x.parkedGroup f).recOf l).mode ≠ .resumed → y.recOf l = (x.parkedGroup f).recOf l := by
    intro l hl h1 h2
    rcases hend with e | e
    · rw [e]
    · rw [e]; exact recOf_endCycle _ hl h1 h2
  have hrc : ∀ l k, l < 32 → k < 32 → ((y.lane l).rc = (y.lane k).rc ↔ ((x.parkedGroup f).lane l).rc = ((x.parkedGroup f).lane k).rc) := by
    intro l k hl hk
    rcases hend with e | e
    · rw [e]
    · rw [e]; exact rc_endCycle _ hl hk
  have hst' : ∀ l, l < 32 → (y.lane l).st = ((x.parkedGroup f).lane l).st := by
    intro l hl; have := congrArg Lane.st (he.lane l hl); rwa [core_st, core_st] at this
  have hlane := fun l (hl : l < 32) => lane_parked x f hl (hsub l)
  have hin : ∀ l, l < 32 → f.lanes.getLsbD l = true → (x.parkedGroup f).lane l =
      { x.g.lane l with st := .running, rc := x.g.freeRec x.cur.rc, pc := if x.holds f then x.resumePc f else x.tm.handler.getD (x.resumePc f),
                        off := if x.holds f then x.resumeOff f else 0, hdr := none, wdl := none, yld := false, fresh := none } := by
    intro l hl hfl; rw [hlane l hl, if_pos hfl]
  have hout : ∀ l, l < 32 → f.lanes.getLsbD l = false → (x.parkedGroup f).lane l = if x.cur.m.getLsbD l then (x.g.lane l).advance x.c else x.g.lane l := by
    intro l hl hfl; rw [hlane l hl, hfl]; rfl
  have hhand : x.holds f = false → ∃ d, x.tm.handler = some d := by
    intro hh; unfold Ctx.holds at hh
    cases hx : x.tm.handler with
    | none => rw [hx] at hh; simp at hh
    | some d => exact ⟨d, rfl⟩
  have hrecF : ∀ l, l < 32 → f.lanes.getLsbD l = true → (x.parkedGroup f).recOf l = parkedRec (x.g.getRec x.cur.rc) f.lanes (x.holds f) (x.cur.info x.c f) := by
    intro l hl hfl
    unfold Group.recOf Group.getRec
    rw [hin l hl hfl, recs_parked, if_pos rfl]; rfl
  have hst0 : x.g.getRec x.cur.rc = x.st := by unfold Group.getRec; rw [h.record]; rfl
  refine ⟨y, hy, ?_, ?_, ?_, ?_, ?_, ?_, ?_, ?_⟩
  · rw [hrest, rest_forgetRec]
    have h1 : (x.report f r.s).teams = r.s.teams := by unfold Ctx.report; split <;> rfl
    have : S0.rest x.cur.team x.cur.grp = ({ x.report f r.s with teams := (x.report f r.s).teams.put x.cur.team { T with groups := T.groups.put x.cur.grp (x.parkedGroup f), lastTick := r.s.dieCount T.die } } : State).rest x.cur.team x.cur.grp := by
      rw [h1]; simp [S0, State.rest, State.updTeam, State.team?, State.setTeam, Ctx.parkedTeam]
    rw [this]
    exact rest_put _ _ _ _ T _ (by rw [h1]; exact hT)
  · rw [he.rest]; rfl
  · exact ⟨he.v, he.preds, he.jm, he.fpStatus⟩
  · intro l hl hfl
    rw [he.lane l hl, hin l hl hfl]
    cases hx : x.holds f
    · obtain ⟨d, hd⟩ := hhand hx
      simp [core_parked, hd]
    · simp [core_parked]
  · intro l k hl hk hfl hfk
    rw [hrc l k hl hk, hin l hl hfl, hin k hk hfk]
  · intro l hl hfl
    have hm : (parkedRec (x.g.getRec x.cur.rc) f.lanes (x.holds f) (x.cur.info x.c f)).mode ≠ .resumed := by
      unfold parkedRec; cases x.holds f <;> simp
    rw [hrec l hl (by rw [hin l hl hfl]; simp) (by rw [hrecF l hl hfl]; exact hm), hrecF l hl hfl, hst0, info_spec]
    simp [parkedRec]
  · intro l hl hfl
    rw [he.lane l hl, hout l hl hfl]
  · intro hfree l hl hfl hle hrecl
    have hfr := freeRec_spec x.g x.cur.rc hfree
    have hrcl : ((x.parkedGroup f).lane l).rc = (x.g.lane l).rc := by
      rw [hout l hl hfl]; split
      · unfold Lane.advance; split <;> rfl
      · rfl
    have hne : x.g.freeRec x.cur.rc ≠ (x.g.lane l).rc := by intro e; rw [e] at hfr; exact hrecl hfr
    constructor
    · rw [he.record l hl (by rw [← hst' l hl]; exact hle)]
      unfold Group.recOf Group.getRec
      rw [hrcl, recs_parked, if_neg hne]
    · intro k hk hfk
      rw [ne_eq, hrc k l hk hl, hin k hk hfk, hrcl]
      exact hne
end Sys2Proof.Machine
end

