-- ==== Sys2Proof/Laws/PerInstr.lean ====
section
/-!
SUPPORT. Every instruction, one lemma each: the word that encodes it decodes to it (spec/02). The rows that are no instruction word are not well formed.
-/
namespace Sys2Proof.Laws.RoundTrip
set_option Elab.async false
set_option linter.all false

def Statement (i : Instr) : Prop := i.wellFormed = true → (encode i).map decode = some (.ok i.sameWord)

theorem nop (c : Ctl) : Statement (.nop c) := by
  intro h
  refine decode_encode rfl rfl h ?_
  rw [raw_decodeControl (by dsimp only; decide)]
  unfold decodeControl
  dsimp only [Instr.sameWord]
  all_goals rfl
theorem bra (c : Ctl) (imm : Word) : Statement (.bra c imm) := by
  intro h
  refine decode_encode rfl rfl h ?_
  rw [raw_decodeControl (by dsimp only; decide)]
  unfold decodeControl
  dsimp only [Instr.sameWord]
  all_goals rfl
theorem brxV (c : Ctl) (a : Src) : Statement (.brxV c a) := by
  intro h
  refine decode_encode rfl rfl h ?_
  simp only [Instr.wellFormed, vv, uu, vvv, uuu, fvv, fuu, fvvv, fuuu, fv, fu, cmpOk, predsOk, Bool.and_eq_true, decide_eq_true_eq] at h
  replace h := And.intro h trivial
  try simp only [and_assoc] at h
  repeat (obtain ⟨_, h⟩ := h)
  have ha : Src.ofV (immOf [a]) a.code = a := by first | exact Src.tripV ‹_› (immIsN ‹_›) | exact Src.tripV ‹_› immIs1
  refine Eq.trans (b := some (.brxV c (Src.ofV (immOf [a]) a.code))) ?_ (by simp only [ha]; try rfl)
  rw [raw_decodeControl (by dsimp only; decide)]
  unfold decodeControl
  dsimp only [Instr.sameWord, Fields.va]
  all_goals rfl
theorem brxS (c : Ctl) (a : Src) : Statement (.brxS c a) := by
  intro h
  refine decode_encode rfl rfl h ?_
  simp only [Instr.wellFormed, vv, uu, vvv, uuu, fvv, fuu, fvvv, fuuu, fv, fu, cmpOk, predsOk, Bool.and_eq_true, decide_eq_true_eq] at h
  replace h := And.intro h trivial
  try simp only [and_assoc] at h
  repeat (obtain ⟨_, h⟩ := h)
  have ha : Src.ofU (immOf [a]) a.code = a := by first | exact Src.tripU ‹_› (immIsN ‹_›) | exact Src.tripU ‹_› immIs1
  refine Eq.trans (b := some (.brxS c (Src.ofU (immOf [a]) a.code))) ?_ (by simp only [ha]; try rfl)
  rw [raw_decodeControl (by dsimp only; decide)]
  unfold decodeControl
  dsimp only [Instr.sameWord, Fields.ua]
  all_goals rfl
theorem call (c : Ctl) (d : Dst) (imm : Word) : Statement (.call c d imm) := by
  intro h
  refine decode_encode rfl rfl h ?_
  simp only [Instr.wellFormed, vv, uu, vvv, uuu, fvv, fuu, fvvv, fuuu, fv, fu, cmpOk, predsOk, Bool.and_eq_true, decide_eq_true_eq] at h
  replace h := And.intro h trivial
  try simp only [and_assoc] at h
  repeat (obtain ⟨_, h⟩ := h)
  have hd : Dst.ofCode d.code = d := by first | exact Dst.tripV ‹_› | exact Dst.tripU ‹_› | exact Dst.tripA ‹_›
  refine Eq.trans (b := some (.call c (Dst.ofCode d.code) imm)) ?_ (by simp only [hd]; try rfl)
  rw [raw_decodeControl (by dsimp only; decide)]
  unfold decodeControl
  dsimp only [Instr.sameWord, Fields.dst]
  all_goals rfl
theorem callIndirect (c : Ctl) (d : Dst) (a : Src) : Statement (.callIndirect c d a) := by
  intro h
  refine decode_encode rfl rfl h ?_
  simp only [Instr.wellFormed, vv, uu, vvv, uuu, fvv, fuu, fvvv, fuuu, fv, fu, cmpOk, predsOk, Bool.and_eq_true, decide_eq_true_eq] at h
  replace h := And.intro h trivial
  try simp only [and_assoc] at h
  repeat (obtain ⟨_, h⟩ := h)
  have hd : Dst.ofCode d.code = d := by first | exact Dst.tripV ‹_› | exact Dst.tripU ‹_› | exact Dst.tripA ‹_›
  have ha : Src.ofV (immOf [a]) a.code = a := by first | exact Src.tripV ‹_› (immIsN ‹_›) | exact Src.tripV ‹_› immIs1
  refine Eq.trans (b := some (.callIndirect c (Dst.ofCode d.code) (Src.ofV (immOf [a]) a.code))) ?_ (by simp only [hd, ha]; try rfl)
  rw [raw_decodeControl (by dsimp only; decide)]
  unfold decodeControl
  dsimp only [Instr.sameWord, Fields.dst, Fields.va]
  all_goals rfl
theorem ret (c : Ctl) (a : Src) : Statement (.ret c a) := by
  intro h
  refine decode_encode rfl rfl h ?_
  simp only [Instr.wellFormed, vv, uu, vvv, uuu, fvv, fuu, fvvv, fuuu, fv, fu, cmpOk, predsOk, Bool.and_eq_true, decide_eq_true_eq] at h
  replace h := And.intro h trivial
  try simp only [and_assoc] at h
  repeat (obtain ⟨_, h⟩ := h)
  have ha : Src.ofV (immOf [a]) a.code = a := by first | exact Src.tripV ‹_› (immIsN ‹_›) | exact Src.tripV ‹_› immIs1
  refine Eq.trans (b := some (.ret c (Src.ofV (immOf [a]) a.code))) ?_ (by simp only [ha]; try rfl)
  rw [raw_decodeControl (by dsimp only; decide)]
  unfold decodeControl
  dsimp only [Instr.sameWord, Fields.va]
  all_goals rfl
theorem exit (c : Ctl) : Statement (.exit c) := by
  intro h
  refine decode_encode rfl rfl h ?_
  rw [raw_decodeControl (by dsimp only; decide)]
  unfold decodeControl
  dsimp only [Instr.sameWord]
  all_goals rfl
theorem yieldPath (c : Ctl) : Statement (.yieldPath c) := by
  intro h
  refine decode_encode rfl rfl h ?_
  rw [raw_decodeControl (by dsimp only; decide)]
  unfold decodeControl
  dsimp only [Instr.sameWord]
  all_goals rfl
theorem jset (c : Ctl) (j : Nat) : Statement (.jset c j) := by
  intro h
  refine decode_encode rfl rfl h ?_
  simp only [Instr.wellFormed, vv, uu, vvv, uuu, fvv, fuu, fvvv, fuuu, fv, fu, cmpOk, predsOk, Bool.and_eq_true, decide_eq_true_eq] at h
  replace h := And.intro h trivial
  try simp only [and_assoc] at h
  repeat (obtain ⟨_, h⟩ := h)
  have hj : (codeOf j).toNat = j := by exact codeOf_toNat (by omega)
  refine Eq.trans (b := some (.jset c ((codeOf j).toNat))) ?_ (by simp only [hj]; try rfl)
  rw [raw_decodeControl (by dsimp only; decide)]
  unfold decodeControl
  dsimp only [Instr.sameWord, Fields.nd]
  all_goals rfl
theorem jadd (c : Ctl) (j : Nat) : Statement (.jadd c j) := by
  intro h
  refine decode_encode rfl rfl h ?_
  simp only [Instr.wellFormed, vv, uu, vvv, uuu, fvv, fuu, fvvv, fuuu, fv, fu, cmpOk, predsOk, Bool.and_eq_true, decide_eq_true_eq] at h
  replace h := And.intro h trivial
  try simp only [and_assoc] at h
  repeat (obtain ⟨_, h⟩ := h)
  have hj : (codeOf j).toNat = j := by exact codeOf_toNat (by omega)
  refine Eq.trans (b := some (.jadd c ((codeOf j).toNat))) ?_ (by simp only [hj]; try rfl)
  rw [raw_decodeControl (by dsimp only; decide)]
  unfold decodeControl
  dsimp only [Instr.sameWord, Fields.nd]
  all_goals rfl
theorem jsub (c : Ctl) (j : Nat) : Statement (.jsub c j) := by
  intro h
  refine decode_encode rfl rfl h ?_
  simp only [Instr.wellFormed, vv, uu, vvv, uuu, fvv, fuu, fvvv, fuuu, fv, fu, cmpOk, predsOk, Bool.and_eq_true, decide_eq_true_eq] at h
  replace h := And.intro h trivial
  try simp only [and_assoc] at h
  repeat (obtain ⟨_, h⟩ := h)
  have hj : (codeOf j).toNat = j := by exact codeOf_toNat (by omega)
  refine Eq.trans (b := some (.jsub c ((codeOf j).toNat))) ?_ (by simp only [hj]; try rfl)
  rw [raw_decodeControl (by dsimp only; decide)]
  unfold decodeControl
  dsimp only [Instr.sameWord, Fields.nd]
  all_goals rfl
theorem jget (c : Ctl) (d : Dst) (j : Nat) : Statement (.jget c d j) := by
  intro h
  refine decode_encode rfl rfl h ?_
  simp only [Instr.wellFormed, vv, uu, vvv, uuu, fvv, fuu, fvvv, fuuu, fv, fu, cmpOk, predsOk, Bool.and_eq_true, decide_eq_true_eq] at h
  replace h := And.intro h trivial
  try simp only [and_assoc] at h
  repeat (obtain ⟨_, h⟩ := h)
  have hd : Dst.ofCode d.code = d := by first | exact Dst.tripV ‹_› | exact Dst.tripU ‹_› | exact Dst.tripA ‹_›
  have hj : (codeOf j).toNat = j := by exact codeOf_toNat (by omega)
  refine Eq.trans (b := some (.jget c (Dst.ofCode d.code) ((codeOf j).toNat))) ?_ (by simp only [hd, hj]; try rfl)
  rw [raw_decodeControl (by dsimp only; decide)]
  unfold decodeControl
  dsimp only [Instr.sameWord, Fields.dst, Fields.na]
  all_goals rfl
theorem jput (c : Ctl) (j : Nat) (a : Src) : Statement (.jput c j a) := by
  intro h
  refine decode_encode rfl rfl h ?_
  simp only [Instr.wellFormed, vv, uu, vvv, uuu, fvv, fuu, fvvv, fuuu, fv, fu, cmpOk, predsOk, Bool.and_eq_true, decide_eq_true_eq] at h
  replace h := And.intro h trivial
  try simp only [and_assoc] at h
  repeat (obtain ⟨_, h⟩ := h)
  have hj : (codeOf j).toNat = j := by exact codeOf_toNat (by omega)
  have ha : Src.ofU (immOf [a]) a.code = a := by first | exact Src.tripU ‹_› (immIsN ‹_›) | exact Src.tripU ‹_› immIs1
  refine Eq.trans (b := some (.jput c ((codeOf j).toNat) (Src.ofU (immOf [a]) a.code))) ?_ (by simp only [hj, ha]; try rfl)
  rw [raw_decodeControl (by dsimp only; decide)]
  unfold decodeControl
  dsimp only [Instr.sameWord, Fields.ua, Fields.nd]
  all_goals rfl
theorem rejoin (c : Ctl) (j : Nat) : Statement (.rejoin c j) := by
  intro h
  refine decode_encode rfl rfl h ?_
  simp only [Instr.wellFormed, vv, uu, vvv, uuu, fvv, fuu, fvvv, fuuu, fv, fu, cmpOk, predsOk, Bool.and_eq_true, decide_eq_true_eq] at h
  replace h := And.intro h trivial
  try simp only [and_assoc] at h
  repeat (obtain ⟨_, h⟩ := h)
  have hj : (codeOf j).toNat = j := by exact codeOf_toNat (by omega)
  refine Eq.trans (b := some (.rejoin c ((codeOf j).toNat))) ?_ (by simp only [hj]; try rfl)
  rw [raw_decodeControl (by dsimp only; decide)]
  unfold decodeControl
  dsimp only [Instr.sameWord, Fields.na]
  all_goals rfl
theorem rejoinTmo (c : Ctl) (p : Nat) (j : Nat) (b : Src) : Statement (.rejoinTmo c p j b) := by
  intro h
  refine decode_encode rfl rfl h ?_
  simp only [Instr.wellFormed, vv, uu, vvv, uuu, fvv, fuu, fvvv, fuuu, fv, fu, cmpOk, predsOk, Bool.and_eq_true, decide_eq_true_eq] at h
  replace h := And.intro h trivial
  try simp only [and_assoc] at h
  repeat (obtain ⟨_, h⟩ := h)
  have hp : (codeOf p).toNat = p := by exact codeOf_toNat (by omega)
  have hj : (codeOf j).toNat = j := by exact codeOf_toNat (by omega)
  have hb : Src.ofU (immOf [b]) b.code = b := by first | exact Src.tripU ‹_› (immIsN ‹_›) | exact Src.tripU ‹_› immIs1
  refine Eq.trans (b := some (.rejoinTmo c ((codeOf p).toNat) ((codeOf j).toNat) (Src.ofU (immOf [b]) b.code))) ?_ (by simp only [hp, hj, hb]; try rfl)
  rw [raw_decodeControl (by dsimp only; decide)]
  unfold decodeControl
  dsimp only [Instr.sameWord, Fields.ub, Fields.nd, Fields.na]
  all_goals rfl
theorem brk (c : Ctl) (code : BitVec 16) : Statement (.brk c code) := by
  intro h
  refine decode_encode rfl rfl h ?_
  simp only [Instr.wellFormed, vv, uu, vvv, uuu, fvv, fuu, fvvv, fuuu, fv, fu, cmpOk, predsOk, Bool.and_eq_true, decide_eq_true_eq] at h
  replace h := And.intro h trivial
  try simp only [and_assoc] at h
  repeat (obtain ⟨_, h⟩ := h)
  have hcode : BitVec.extractLsb' 0 16 (code.setWidth 32) = code := by simp (disch := omega) only [lo2, lowMod, ext_hi, ext_lo, bit_hi, bit_lo, Nat.reduceSub, Nat.sub_self, ext_all, bit_one, ext_wide]
  refine Eq.trans (b := some (.brk c (BitVec.extractLsb' 0 16 (code.setWidth 32)))) ?_ (by simp only [hcode]; try rfl)
  rw [raw_decodeControl (by dsimp only; decide)]
  unfold decodeControl
  dsimp only [Instr.sameWord]
  try simp (disch := omega) only [lo2, hi2, lo3, flMod, scMod, lowMod, cmbMod, ext_hi, ext_lo, bit_hi, bit_lo, Nat.reduceSub, Nat.sub_self, ext_all, bit_one, ext_wide, Option.bind_eq_bind, Option.bind_some]
  all_goals rfl
theorem trap (c : Ctl) (code : BitVec 16) : Statement (.trap c code) := by
  intro h
  refine decode_encode rfl rfl h ?_
  simp only [Instr.wellFormed, vv, uu, vvv, uuu, fvv, fuu, fvvv, fuuu, fv, fu, cmpOk, predsOk, Bool.and_eq_true, decide_eq_true_eq] at h
  replace h := And.intro h trivial
  try simp only [and_assoc] at h
  repeat (obtain ⟨_, h⟩ := h)
  have hcode : BitVec.extractLsb' 0 16 (code.setWidth 32) = code := by simp (disch := omega) only [lo2, lowMod, ext_hi, ext_lo, bit_hi, bit_lo, Nat.reduceSub, Nat.sub_self, ext_all, bit_one, ext_wide]
  refine Eq.trans (b := some (.trap c (BitVec.extractLsb' 0 16 (code.setWidth 32)))) ?_ (by simp only [hcode]; try rfl)
  rw [raw_decodeControl (by dsimp only; decide)]
  unfold decodeControl
  dsimp only [Instr.sameWord]
  try simp (disch := omega) only [lo2, hi2, lo3, flMod, scMod, lowMod, cmbMod, ext_hi, ext_lo, bit_hi, bit_lo, Nat.reduceSub, Nat.sub_self, ext_all, bit_one, ext_wide, Option.bind_eq_bind, Option.bind_some]
  all_goals rfl
theorem hret (c : Ctl) : Statement (.hret c) := by
  intro h
  refine decode_encode rfl rfl h ?_
  rw [raw_decodeControl (by dsimp only; decide)]
  unfold decodeControl
  dsimp only [Instr.sameWord]
  all_goals rfl
theorem addV (c : Ctl) (t : IT) (sat : Bool) (d : Dst) (a : Src) (b : Src) : Statement (.addV c t sat d a b) := by
  intro h
  refine decode_encode rfl rfl h ?_
  simp only [Instr.wellFormed, vv, uu, vvv, uuu, fvv, fuu, fvvv, fuuu, fv, fu, cmpOk, predsOk, Bool.and_eq_true, decide_eq_true_eq] at h
  replace h := And.intro h trivial
  try simp only [and_assoc] at h
  repeat (obtain ⟨_, h⟩ := h)
  have hd : Dst.ofCode d.code = d := by first | exact Dst.tripV ‹_› | exact Dst.tripU ‹_› | exact Dst.tripA ‹_›
  have ha : Src.ofV (immOf [a, b]) a.code = a := by first | exact Src.tripV ‹_› (immIsN ‹_›) | exact Src.tripV ‹_› (immIs ‹_› (by simp)) | exact Src.tripV ‹_› (immIsZ (by assumption) (by assumption)).1
  have hb : Src.ofV (immOf [a, b]) b.code = b := by first | exact Src.tripV ‹_› (immIsN ‹_›) | exact Src.tripV ‹_› (immIs ‹_› (by simp)) | exact Src.tripV ‹_› (immIsZ (by assumption) (by assumption)).2
  refine Eq.trans (b := some (.addV c t sat (Dst.ofCode d.code) (Src.ofV (immOf [a, b]) a.code) (Src.ofV (immOf [a, b]) b.code))) ?_ (by simp only [hd, ha, hb]; try rfl)
  rw [raw_decodeIntV (by dsimp only; decide)]
  unfold decodeIntV
  dsimp only [Instr.sameWord, Fields.dst, Fields.va, Fields.vb]
  try simp (disch := omega) only [lo2, hi2, lo3, flMod, scMod, lowMod, cmbMod, ext_hi, ext_lo, bit_hi, bit_lo, Nat.reduceSub, Nat.sub_self, ext_all, bit_one, ext_wide, Option.bind_eq_bind, Option.bind_some, IT.trip]
  all_goals first | rfl | (cases t <;> cases sat <;> first | rfl | exact absurd ‹(_ != _) = true› (by decide))
theorem addS (c : Ctl) (t : IT) (sat : Bool) (d : Dst) (a : Src) (b : Src) : Statement (.addS c t sat d a b) := by
  intro h
  refine decode_encode rfl rfl h ?_
  simp only [Instr.wellFormed, vv, uu, vvv, uuu, fvv, fuu, fvvv, fuuu, fv, fu, cmpOk, predsOk, Bool.and_eq_true, decide_eq_true_eq] at h
  replace h := And.intro h trivial
  try simp only [and_assoc] at h
  repeat (obtain ⟨_, h⟩ := h)
  have hd : Dst.ofCode d.code = d := by first | exact Dst.tripV ‹_› | exact Dst.tripU ‹_› | exact Dst.tripA ‹_›
  have ha : Src.ofU (immOf [a, b]) a.code = a := by first | exact Src.tripU ‹_› (immIsN ‹_›) | exact Src.tripU ‹_› (immIs ‹_› (by simp)) | exact Src.tripU ‹_› (immIsZ (by assumption) (by assumption)).1
  have hb : Src.ofU (immOf [a, b]) b.code = b := by first | exact Src.tripU ‹_› (immIsN ‹_›) | exact Src.tripU ‹_› (immIs ‹_› (by simp)) | exact Src.tripU ‹_› (immIsZ (by assumption) (by assumption)).2
  refine Eq.trans (b := some (.addS c t sat (Dst.ofCode d.code) (Src.ofU (immOf [a, b]) a.code) (Src.ofU (immOf [a, b]) b.code))) ?_ (by simp only [hd, ha, hb]; try rfl)
  rw [raw_decodeIntS (by dsimp only; decide)]
  unfold decodeIntS
  dsimp only [Instr.sameWord, Fields.dst, Fields.ua, Fields.ub]
  try simp (disch := omega) only [lo2, hi2, lo3, flMod, scMod, lowMod, cmbMod, ext_hi, ext_lo, bit_hi, bit_lo, Nat.reduceSub, Nat.sub_self, ext_all, bit_one, ext_wide, Option.bind_eq_bind, Option.bind_some, IT.trip]
  all_goals first | rfl | (cases t <;> cases sat <;> first | rfl | exact absurd ‹(_ != _) = true› (by decide))
theorem subV (c : Ctl) (t : IT) (sat : Bool) (d : Dst) (a : Src) (b : Src) : Statement (.subV c t sat d a b) := by
  intro h
  refine decode_encode rfl rfl h ?_
  simp only [Instr.wellFormed, vv, uu, vvv, uuu, fvv, fuu, fvvv, fuuu, fv, fu, cmpOk, predsOk, Bool.and_eq_true, decide_eq_true_eq] at h
  replace h := And.intro h trivial
  try simp only [and_assoc] at h
  repeat (obtain ⟨_, h⟩ := h)
  have hd : Dst.ofCode d.code = d := by first | exact Dst.tripV ‹_› | exact Dst.tripU ‹_› | exact Dst.tripA ‹_›
  have ha : Src.ofV (immOf [a, b]) a.code = a := by first | exact Src.tripV ‹_› (immIsN ‹_›) | exact Src.tripV ‹_› (immIs ‹_› (by simp)) | exact Src.tripV ‹_› (immIsZ (by assumption) (by assumption)).1
  have hb : Src.ofV (immOf [a, b]) b.code = b := by first | exact Src.tripV ‹_› (immIsN ‹_›) | exact Src.tripV ‹_› (immIs ‹_› (by simp)) | exact Src.tripV ‹_› (immIsZ (by assumption) (by assumption)).2
  refine Eq.trans (b := some (.subV c t sat (Dst.ofCode d.code) (Src.ofV (immOf [a, b]) a.code) (Src.ofV (immOf [a, b]) b.code))) ?_ (by simp only [hd, ha, hb]; try rfl)
  rw [raw_decodeIntV (by dsimp only; decide)]
  unfold decodeIntV
  dsimp only [Instr.sameWord, Fields.dst, Fields.va, Fields.vb]
  try simp (disch := omega) only [lo2, hi2, lo3, flMod, scMod, lowMod, cmbMod, ext_hi, ext_lo, bit_hi, bit_lo, Nat.reduceSub, Nat.sub_self, ext_all, bit_one, ext_wide, Option.bind_eq_bind, Option.bind_some, IT.trip]
  all_goals first | rfl | (cases t <;> cases sat <;> first | rfl | exact absurd ‹(_ != _) = true› (by decide))
theorem subS (c : Ctl) (t : IT) (sat : Bool) (d : Dst) (a : Src) (b : Src) : Statement (.subS c t sat d a b) := by
  intro h
  refine decode_encode rfl rfl h ?_
  simp only [Instr.wellFormed, vv, uu, vvv, uuu, fvv, fuu, fvvv, fuuu, fv, fu, cmpOk, predsOk, Bool.and_eq_true, decide_eq_true_eq] at h
  replace h := And.intro h trivial
  try simp only [and_assoc] at h
  repeat (obtain ⟨_, h⟩ := h)
  have hd : Dst.ofCode d.code = d := by first | exact Dst.tripV ‹_› | exact Dst.tripU ‹_› | exact Dst.tripA ‹_›
  have ha : Src.ofU (immOf [a, b]) a.code = a := by first | exact Src.tripU ‹_› (immIsN ‹_›) | exact Src.tripU ‹_› (immIs ‹_› (by simp)) | exact Src.tripU ‹_› (immIsZ (by assumption) (by assumption)).1
  have hb : Src.ofU (immOf [a, b]) b.code = b := by first | exact Src.tripU ‹_› (immIsN ‹_›) | exact Src.tripU ‹_› (immIs ‹_› (by simp)) | exact Src.tripU ‹_› (immIsZ (by assumption) (by assumption)).2
  refine Eq.trans (b := some (.subS c t sat (Dst.ofCode d.code) (Src.ofU (immOf [a, b]) a.code) (Src.ofU (immOf [a, b]) b.code))) ?_ (by simp only [hd, ha, hb]; try rfl)
  rw [raw_decodeIntS (by dsimp only; decide)]
  unfold decodeIntS
  dsimp only [Instr.sameWord, Fields.dst, Fields.ua, Fields.ub]
  try simp (disch := omega) only [lo2, hi2, lo3, flMod, scMod, lowMod, cmbMod, ext_hi, ext_lo, bit_hi, bit_lo, Nat.reduceSub, Nat.sub_self, ext_all, bit_one, ext_wide, Option.bind_eq_bind, Option.bind_some, IT.trip]
  all_goals first | rfl | (cases t <;> cases sat <;> first | rfl | exact absurd ‹(_ != _) = true› (by decide))
theorem mulV (c : Ctl) (t : IT) (hi : Bool) (d : Dst) (a : Src) (b : Src) : Statement (.mulV c t hi d a b) := by
  intro h
  refine decode_encode rfl rfl h ?_
  simp only [Instr.wellFormed, vv, uu, vvv, uuu, fvv, fuu, fvvv, fuuu, fv, fu, cmpOk, predsOk, Bool.and_eq_true, decide_eq_true_eq] at h
  replace h := And.intro h trivial
  try simp only [and_assoc] at h
  repeat (obtain ⟨_, h⟩ := h)
  have hd : Dst.ofCode d.code = d := by first | exact Dst.tripV ‹_› | exact Dst.tripU ‹_› | exact Dst.tripA ‹_›
  have ha : Src.ofV (immOf [a, b]) a.code = a := by first | exact Src.tripV ‹_› (immIsN ‹_›) | exact Src.tripV ‹_› (immIs ‹_› (by simp)) | exact Src.tripV ‹_› (immIsZ (by assumption) (by assumption)).1
  have hb : Src.ofV (immOf [a, b]) b.code = b := by first | exact Src.tripV ‹_› (immIsN ‹_›) | exact Src.tripV ‹_› (immIs ‹_› (by simp)) | exact Src.tripV ‹_› (immIsZ (by assumption) (by assumption)).2
  refine Eq.trans (b := some (.mulV c t hi (Dst.ofCode d.code) (Src.ofV (immOf [a, b]) a.code) (Src.ofV (immOf [a, b]) b.code))) ?_ (by simp only [hd, ha, hb]; try rfl)
  rw [raw_decodeIntV (by dsimp only; decide)]
  unfold decodeIntV
  dsimp only [Instr.sameWord, Fields.dst, Fields.va, Fields.vb]
  try simp (disch := omega) only [lo2, hi2, lo3, flMod, scMod, lowMod, cmbMod, ext_hi, ext_lo, bit_hi, bit_lo, Nat.reduceSub, Nat.sub_self, ext_all, bit_one, ext_wide, Option.bind_eq_bind, Option.bind_some, IT.trip]
  all_goals first | rfl | (cases t <;> cases hi <;> first | rfl | exact absurd ‹(_ != _) = true› (by decide))
theorem mulS (c : Ctl) (t : IT) (hi : Bool) (d : Dst) (a : Src) (b : Src) : Statement (.mulS c t hi d a b) := by
  intro h
  refine decode_encode rfl rfl h ?_
  simp only [Instr.wellFormed, vv, uu, vvv, uuu, fvv, fuu, fvvv, fuuu, fv, fu, cmpOk, predsOk, Bool.and_eq_true, decide_eq_true_eq] at h
  replace h := And.intro h trivial
  try simp only [and_assoc] at h
  repeat (obtain ⟨_, h⟩ := h)
  have hd : Dst.ofCode d.code = d := by first | exact Dst.tripV ‹_› | exact Dst.tripU ‹_› | exact Dst.tripA ‹_›
  have ha : Src.ofU (immOf [a, b]) a.code = a := by first | exact Src.tripU ‹_› (immIsN ‹_›) | exact Src.tripU ‹_› (immIs ‹_› (by simp)) | exact Src.tripU ‹_› (immIsZ (by assumption) (by assumption)).1
  have hb : Src.ofU (immOf [a, b]) b.code = b := by first | exact Src.tripU ‹_› (immIsN ‹_›) | exact Src.tripU ‹_› (immIs ‹_› (by simp)) | exact Src.tripU ‹_› (immIsZ (by assumption) (by assumption)).2
  refine Eq.trans (b := some (.mulS c t hi (Dst.ofCode d.code) (Src.ofU (immOf [a, b]) a.code) (Src.ofU (immOf [a, b]) b.code))) ?_ (by simp only [hd, ha, hb]; try rfl)
  rw [raw_decodeIntS (by dsimp only; decide)]
  unfold decodeIntS
  dsimp only [Instr.sameWord, Fields.dst, Fields.ua, Fields.ub]
  try simp (disch := omega) only [lo2, hi2, lo3, flMod, scMod, lowMod, cmbMod, ext_hi, ext_lo, bit_hi, bit_lo, Nat.reduceSub, Nat.sub_self, ext_all, bit_one, ext_wide, Option.bind_eq_bind, Option.bind_some, IT.trip]
  all_goals first | rfl | (cases t <;> cases hi <;> first | rfl | exact absurd ‹(_ != _) = true› (by decide))
theorem madV (c : Ctl) (t : IT) (d : Dst) (a : Src) (b : Src) (e : Src) : Statement (.madV c t d a b e) := by
  intro h
  refine decode_encode rfl rfl h ?_
  simp only [Instr.wellFormed, vv, uu, vvv, uuu, fvv, fuu, fvvv, fuuu, fv, fu, cmpOk, predsOk, Bool.and_eq_true, decide_eq_true_eq] at h
  replace h := And.intro h trivial
  try simp only [and_assoc] at h
  repeat (obtain ⟨_, h⟩ := h)
  have hd : Dst.ofCode d.code = d := by first | exact Dst.tripV ‹_› | exact Dst.tripU ‹_› | exact Dst.tripA ‹_›
  have ha : Src.ofV (immOf [a, b, e]) a.code = a := by first | exact Src.tripV ‹_› (immIsN ‹_›) | exact Src.tripV ‹_› (immIs ‹_› (by simp)) | exact Src.tripV ‹_› (immIsZ (by assumption) (by assumption)).1
  have hb : Src.ofV (immOf [a, b, e]) b.code = b := by first | exact Src.tripV ‹_› (immIsN ‹_›) | exact Src.tripV ‹_› (immIs ‹_› (by simp)) | exact Src.tripV ‹_› (immIsZ (by assumption) (by assumption)).2
  have he : Src.ofV (immOf [a, b, e]) e.code = e := by first | exact Src.tripV ‹_› (immIsN ‹_›) | exact Src.tripV ‹_› (immIs ‹_› (by simp)) | exact Src.tripV ‹_› (immIsZ (by assumption) (by assumption)).3
  refine Eq.trans (b := some (.madV c t (Dst.ofCode d.code) (Src.ofV (immOf [a, b, e]) a.code) (Src.ofV (immOf [a, b, e]) b.code) (Src.ofV (immOf [a, b, e]) e.code))) ?_ (by simp only [hd, ha, hb, he]; try rfl)
  rw [raw_decodeIntV (by dsimp only; decide)]
  unfold decodeIntV
  dsimp only [Instr.sameWord, Fields.dst, Fields.va, Fields.vb, Fields.ve]
  try simp (disch := omega) only [lo2, hi2, lo3, flMod, scMod, lowMod, cmbMod, ext_hi, ext_lo, bit_hi, bit_lo, Nat.reduceSub, Nat.sub_self, ext_all, bit_one, ext_wide, Option.bind_eq_bind, Option.bind_some, IT.trip]
  all_goals first | rfl | (cases t <;> first | rfl | exact absurd ‹(_ != _) = true› (by decide))
theorem madS (c : Ctl) (t : IT) (d : Dst) (a : Src) (b : Src) (e : Src) : Statement (.madS c t d a b e) := by
  intro h
  refine decode_encode rfl rfl h ?_
  simp only [Instr.wellFormed, vv, uu, vvv, uuu, fvv, fuu, fvvv, fuuu, fv, fu, cmpOk, predsOk, Bool.and_eq_true, decide_eq_true_eq] at h
  replace h := And.intro h trivial
  try simp only [and_assoc] at h
  repeat (obtain ⟨_, h⟩ := h)
  have hd : Dst.ofCode d.code = d := by first | exact Dst.tripV ‹_› | exact Dst.tripU ‹_› | exact Dst.tripA ‹_›
  have ha : Src.ofU (immOf [a, b, e]) a.code = a := by first | exact Src.tripU ‹_› (immIsN ‹_›) | exact Src.tripU ‹_› (immIs ‹_› (by simp)) | exact Src.tripU ‹_› (immIsZ (by assumption) (by assumption)).1
  have hb : Src.ofU (immOf [a, b, e]) b.code = b := by first | exact Src.tripU ‹_› (immIsN ‹_›) | exact Src.tripU ‹_› (immIs ‹_› (by simp)) | exact Src.tripU ‹_› (immIsZ (by assumption) (by assumption)).2
  have he : Src.ofU (immOf [a, b, e]) e.code = e := by first | exact Src.tripU ‹_› (immIsN ‹_›) | exact Src.tripU ‹_› (immIs ‹_› (by simp)) | exact Src.tripU ‹_› (immIsZ (by assumption) (by assumption)).3
  refine Eq.trans (b := some (.madS c t (Dst.ofCode d.code) (Src.ofU (immOf [a, b, e]) a.code) (Src.ofU (immOf [a, b, e]) b.code) (Src.ofU (immOf [a, b, e]) e.code))) ?_ (by simp only [hd, ha, hb, he]; try rfl)
  rw [raw_decodeIntS (by dsimp only; decide)]
  unfold decodeIntS
  dsimp only [Instr.sameWord, Fields.dst, Fields.ua, Fields.ub, Fields.ue]
  try simp (disch := omega) only [lo2, hi2, lo3, flMod, scMod, lowMod, cmbMod, ext_hi, ext_lo, bit_hi, bit_lo, Nat.reduceSub, Nat.sub_self, ext_all, bit_one, ext_wide, Option.bind_eq_bind, Option.bind_some, IT.trip]
  all_goals first | rfl | (cases t <;> first | rfl | exact absurd ‹(_ != _) = true› (by decide))
theorem addcV (c : Ctl) (t : IT) (d : Dst) (a : Src) (b : Src) (p : Nat) : Statement (.addcV c t d a b p) := by
  intro h
  refine decode_encode rfl rfl h ?_
  simp only [Instr.wellFormed, vv, uu, vvv, uuu, fvv, fuu, fvvv, fuuu, fv, fu, cmpOk, predsOk, Bool.and_eq_true, decide_eq_true_eq] at h
  replace h := And.intro h trivial
  try simp only [and_assoc] at h
  repeat (obtain ⟨_, h⟩ := h)
  have hd : Dst.ofCode d.code = d := by first | exact Dst.tripV ‹_› | exact Dst.tripU ‹_› | exact Dst.tripA ‹_›
  have ha : Src.ofV (immOf [a, b]) a.code = a := by first | exact Src.tripV ‹_› (immIsN ‹_›) | exact Src.tripV ‹_› (immIs ‹_› (by simp)) | exact Src.tripV ‹_› (immIsZ (by assumption) (by assumption)).1
  have hb : Src.ofV (immOf [a, b]) b.code = b := by first | exact Src.tripV ‹_› (immIsN ‹_›) | exact Src.tripV ‹_› (immIs ‹_› (by simp)) | exact Src.tripV ‹_› (immIsZ (by assumption) (by assumption)).2
  have hp : (codeOf p).toNat = p := by exact codeOf_toNat (by omega)
  refine Eq.trans (b := some (.addcV c t (Dst.ofCode d.code) (Src.ofV (immOf [a, b]) a.code) (Src.ofV (immOf [a, b]) b.code) ((codeOf p).toNat))) ?_ (by simp only [hd, ha, hb, hp]; try rfl)
  rw [raw_decodeIntV (by dsimp only; decide)]
  unfold decodeIntV
  dsimp only [Instr.sameWord, Fields.dst, Fields.va, Fields.vb, Fields.ne]
  try simp (disch := omega) only [lo2, hi2, lo3, flMod, scMod, lowMod, cmbMod, ext_hi, ext_lo, bit_hi, bit_lo, Nat.reduceSub, Nat.sub_self, ext_all, bit_one, ext_wide, Option.bind_eq_bind, Option.bind_some, IT.trip]
  all_goals first | rfl | (cases t <;> first | rfl | exact absurd ‹(_ != _) = true› (by decide))
theorem subcV (c : Ctl) (t : IT) (d : Dst) (a : Src) (b : Src) (p : Nat) : Statement (.subcV c t d a b p) := by
  intro h
  refine decode_encode rfl rfl h ?_
  simp only [Instr.wellFormed, vv, uu, vvv, uuu, fvv, fuu, fvvv, fuuu, fv, fu, cmpOk, predsOk, Bool.and_eq_true, decide_eq_true_eq] at h
  replace h := And.intro h trivial
  try simp only [and_assoc] at h
  repeat (obtain ⟨_, h⟩ := h)
  have hd : Dst.ofCode d.code = d := by first | exact Dst.tripV ‹_› | exact Dst.tripU ‹_› | exact Dst.tripA ‹_›
  have ha : Src.ofV (immOf [a, b]) a.code = a := by first | exact Src.tripV ‹_› (immIsN ‹_›) | exact Src.tripV ‹_› (immIs ‹_› (by simp)) | exact Src.tripV ‹_› (immIsZ (by assumption) (by assumption)).1
  have hb : Src.ofV (immOf [a, b]) b.code = b := by first | exact Src.tripV ‹_› (immIsN ‹_›) | exact Src.tripV ‹_› (immIs ‹_› (by simp)) | exact Src.tripV ‹_› (immIsZ (by assumption) (by assumption)).2
  have hp : (codeOf p).toNat = p := by exact codeOf_toNat (by omega)
  refine Eq.trans (b := some (.subcV c t (Dst.ofCode d.code) (Src.ofV (immOf [a, b]) a.code) (Src.ofV (immOf [a, b]) b.code) ((codeOf p).toNat))) ?_ (by simp only [hd, ha, hb, hp]; try rfl)
  rw [raw_decodeIntV (by dsimp only; decide)]
  unfold decodeIntV
  dsimp only [Instr.sameWord, Fields.dst, Fields.va, Fields.vb, Fields.ne]
  try simp (disch := omega) only [lo2, hi2, lo3, flMod, scMod, lowMod, cmbMod, ext_hi, ext_lo, bit_hi, bit_lo, Nat.reduceSub, Nat.sub_self, ext_all, bit_one, ext_wide, Option.bind_eq_bind, Option.bind_some, IT.trip]
  all_goals first | rfl | (cases t <;> first | rfl | exact absurd ‹(_ != _) = true› (by decide))
theorem minV (c : Ctl) (t : IT) (d : Dst) (a : Src) (b : Src) : Statement (.minV c t d a b) := by
  intro h
  refine decode_encode rfl rfl h ?_
  simp only [Instr.wellFormed, vv, uu, vvv, uuu, fvv, fuu, fvvv, fuuu, fv, fu, cmpOk, predsOk, Bool.and_eq_true, decide_eq_true_eq] at h
  replace h := And.intro h trivial
  try simp only [and_assoc] at h
  repeat (obtain ⟨_, h⟩ := h)
  have hd : Dst.ofCode d.code = d := by first | exact Dst.tripV ‹_› | exact Dst.tripU ‹_› | exact Dst.tripA ‹_›
  have ha : Src.ofV (immOf [a, b]) a.code = a := by first | exact Src.tripV ‹_› (immIsN ‹_›) | exact Src.tripV ‹_› (immIs ‹_› (by simp)) | exact Src.tripV ‹_› (immIsZ (by assumption) (by assumption)).1
  have hb : Src.ofV (immOf [a, b]) b.code = b := by first | exact Src.tripV ‹_› (immIsN ‹_›) | exact Src.tripV ‹_› (immIs ‹_› (by simp)) | exact Src.tripV ‹_› (immIsZ (by assumption) (by assumption)).2
  refine Eq.trans (b := some (.minV c t (Dst.ofCode d.code) (Src.ofV (immOf [a, b]) a.code) (Src.ofV (immOf [a, b]) b.code))) ?_ (by simp only [hd, ha, hb]; try rfl)
  rw [raw_decodeIntV (by dsimp only; decide)]
  unfold decodeIntV
  dsimp only [Instr.sameWord, Fields.dst, Fields.va, Fields.vb]
  try simp (disch := omega) only [lo2, hi2, lo3, flMod, scMod, lowMod, cmbMod, ext_hi, ext_lo, bit_hi, bit_lo, Nat.reduceSub, Nat.sub_self, ext_all, bit_one, ext_wide, Option.bind_eq_bind, Option.bind_some, IT.trip]
  all_goals first | rfl | (cases t <;> first | rfl | exact absurd ‹(_ != _) = true› (by decide))
theorem minS (c : Ctl) (t : IT) (d : Dst) (a : Src) (b : Src) : Statement (.minS c t d a b) := by
  intro h
  refine decode_encode rfl rfl h ?_
  simp only [Instr.wellFormed, vv, uu, vvv, uuu, fvv, fuu, fvvv, fuuu, fv, fu, cmpOk, predsOk, Bool.and_eq_true, decide_eq_true_eq] at h
  replace h := And.intro h trivial
  try simp only [and_assoc] at h
  repeat (obtain ⟨_, h⟩ := h)
  have hd : Dst.ofCode d.code = d := by first | exact Dst.tripV ‹_› | exact Dst.tripU ‹_› | exact Dst.tripA ‹_›
  have ha : Src.ofU (immOf [a, b]) a.code = a := by first | exact Src.tripU ‹_› (immIsN ‹_›) | exact Src.tripU ‹_› (immIs ‹_› (by simp)) | exact Src.tripU ‹_› (immIsZ (by assumption) (by assumption)).1
  have hb : Src.ofU (immOf [a, b]) b.code = b := by first | exact Src.tripU ‹_› (immIsN ‹_›) | exact Src.tripU ‹_› (immIs ‹_› (by simp)) | exact Src.tripU ‹_› (immIsZ (by assumption) (by assumption)).2
  refine Eq.trans (b := some (.minS c t (Dst.ofCode d.code) (Src.ofU (immOf [a, b]) a.code) (Src.ofU (immOf [a, b]) b.code))) ?_ (by simp only [hd, ha, hb]; try rfl)
  rw [raw_decodeIntS (by dsimp only; decide)]
  unfold decodeIntS
  dsimp only [Instr.sameWord, Fields.dst, Fields.ua, Fields.ub]
  try simp (disch := omega) only [lo2, hi2, lo3, flMod, scMod, lowMod, cmbMod, ext_hi, ext_lo, bit_hi, bit_lo, Nat.reduceSub, Nat.sub_self, ext_all, bit_one, ext_wide, Option.bind_eq_bind, Option.bind_some, IT.trip]
  all_goals first | rfl | (cases t <;> first | rfl | exact absurd ‹(_ != _) = true› (by decide))
theorem maxV (c : Ctl) (t : IT) (d : Dst) (a : Src) (b : Src) : Statement (.maxV c t d a b) := by
  intro h
  refine decode_encode rfl rfl h ?_
  simp only [Instr.wellFormed, vv, uu, vvv, uuu, fvv, fuu, fvvv, fuuu, fv, fu, cmpOk, predsOk, Bool.and_eq_true, decide_eq_true_eq] at h
  replace h := And.intro h trivial
  try simp only [and_assoc] at h
  repeat (obtain ⟨_, h⟩ := h)
  have hd : Dst.ofCode d.code = d := by first | exact Dst.tripV ‹_› | exact Dst.tripU ‹_› | exact Dst.tripA ‹_›
  have ha : Src.ofV (immOf [a, b]) a.code = a := by first | exact Src.tripV ‹_› (immIsN ‹_›) | exact Src.tripV ‹_› (immIs ‹_› (by simp)) | exact Src.tripV ‹_› (immIsZ (by assumption) (by assumption)).1
  have hb : Src.ofV (immOf [a, b]) b.code = b := by first | exact Src.tripV ‹_› (immIsN ‹_›) | exact Src.tripV ‹_› (immIs ‹_› (by simp)) | exact Src.tripV ‹_› (immIsZ (by assumption) (by assumption)).2
  refine Eq.trans (b := some (.maxV c t (Dst.ofCode d.code) (Src.ofV (immOf [a, b]) a.code) (Src.ofV (immOf [a, b]) b.code))) ?_ (by simp only [hd, ha, hb]; try rfl)
  rw [raw_decodeIntV (by dsimp only; decide)]
  unfold decodeIntV
  dsimp only [Instr.sameWord, Fields.dst, Fields.va, Fields.vb]
  try simp (disch := omega) only [lo2, hi2, lo3, flMod, scMod, lowMod, cmbMod, ext_hi, ext_lo, bit_hi, bit_lo, Nat.reduceSub, Nat.sub_self, ext_all, bit_one, ext_wide, Option.bind_eq_bind, Option.bind_some, IT.trip]
  all_goals first | rfl | (cases t <;> first | rfl | exact absurd ‹(_ != _) = true› (by decide))
theorem maxS (c : Ctl) (t : IT) (d : Dst) (a : Src) (b : Src) : Statement (.maxS c t d a b) := by
  intro h
  refine decode_encode rfl rfl h ?_
  simp only [Instr.wellFormed, vv, uu, vvv, uuu, fvv, fuu, fvvv, fuuu, fv, fu, cmpOk, predsOk, Bool.and_eq_true, decide_eq_true_eq] at h
  replace h := And.intro h trivial
  try simp only [and_assoc] at h
  repeat (obtain ⟨_, h⟩ := h)
  have hd : Dst.ofCode d.code = d := by first | exact Dst.tripV ‹_› | exact Dst.tripU ‹_› | exact Dst.tripA ‹_›
  have ha : Src.ofU (immOf [a, b]) a.code = a := by first | exact Src.tripU ‹_› (immIsN ‹_›) | exact Src.tripU ‹_› (immIs ‹_› (by simp)) | exact Src.tripU ‹_› (immIsZ (by assumption) (by assumption)).1
  have hb : Src.ofU (immOf [a, b]) b.code = b := by first | exact Src.tripU ‹_› (immIsN ‹_›) | exact Src.tripU ‹_› (immIs ‹_› (by simp)) | exact Src.tripU ‹_› (immIsZ (by assumption) (by assumption)).2
  refine Eq.trans (b := some (.maxS c t (Dst.ofCode d.code) (Src.ofU (immOf [a, b]) a.code) (Src.ofU (immOf [a, b]) b.code))) ?_ (by simp only [hd, ha, hb]; try rfl)
  rw [raw_decodeIntS (by dsimp only; decide)]
  unfold decodeIntS
  dsimp only [Instr.sameWord, Fields.dst, Fields.ua, Fields.ub]
  try simp (disch := omega) only [lo2, hi2, lo3, flMod, scMod, lowMod, cmbMod, ext_hi, ext_lo, bit_hi, bit_lo, Nat.reduceSub, Nat.sub_self, ext_all, bit_one, ext_wide, Option.bind_eq_bind, Option.bind_some, IT.trip]
  all_goals first | rfl | (cases t <;> first | rfl | exact absurd ‹(_ != _) = true› (by decide))
theorem absV (c : Ctl) (w64 : Bool) (d : Dst) (a : Src) : Statement (.absV c w64 d a) := by
  intro h
  refine decode_encode rfl rfl h ?_
  simp only [Instr.wellFormed, vv, uu, vvv, uuu, fvv, fuu, fvvv, fuuu, fv, fu, cmpOk, predsOk, Bool.and_eq_true, decide_eq_true_eq] at h
  replace h := And.intro h trivial
  try simp only [and_assoc] at h
  repeat (obtain ⟨_, h⟩ := h)
  have hd : Dst.ofCode d.code = d := by first | exact Dst.tripV ‹_› | exact Dst.tripU ‹_› | exact Dst.tripA ‹_›
  have ha : Src.ofV (immOf [a]) a.code = a := by first | exact Src.tripV ‹_› (immIsN ‹_›) | exact Src.tripV ‹_› immIs1
  refine Eq.trans (b := some (.absV c w64 (Dst.ofCode d.code) (Src.ofV (immOf [a]) a.code))) ?_ (by simp only [hd, ha]; try rfl)
  rw [raw_decodeIntV (by dsimp only; decide)]
  unfold decodeIntV
  dsimp only [Instr.sameWord, Fields.dst, Fields.va]
  try simp (disch := omega) only [lo2, hi2, lo3, flMod, scMod, lowMod, cmbMod, ext_hi, ext_lo, bit_hi, bit_lo, Nat.reduceSub, Nat.sub_self, ext_all, bit_one, ext_wide, Option.bind_eq_bind, Option.bind_some]
  all_goals first | rfl | (cases w64 <;> first | rfl | exact absurd ‹(_ != _) = true› (by decide))
theorem absS (c : Ctl) (w64 : Bool) (d : Dst) (a : Src) : Statement (.absS c w64 d a) := by
  intro h
  refine decode_encode rfl rfl h ?_
  simp only [Instr.wellFormed, vv, uu, vvv, uuu, fvv, fuu, fvvv, fuuu, fv, fu, cmpOk, predsOk, Bool.and_eq_true, decide_eq_true_eq] at h
  replace h := And.intro h trivial
  try simp only [and_assoc] at h
  repeat (obtain ⟨_, h⟩ := h)
  have hd : Dst.ofCode d.code = d := by first | exact Dst.tripV ‹_› | exact Dst.tripU ‹_› | exact Dst.tripA ‹_›
  have ha : Src.ofU (immOf [a]) a.code = a := by first | exact Src.tripU ‹_› (immIsN ‹_›) | exact Src.tripU ‹_› immIs1
  refine Eq.trans (b := some (.absS c w64 (Dst.ofCode d.code) (Src.ofU (immOf [a]) a.code))) ?_ (by simp only [hd, ha]; try rfl)
  rw [raw_decodeIntS (by dsimp only; decide)]
  unfold decodeIntS
  dsimp only [Instr.sameWord, Fields.dst, Fields.ua]
  try simp (disch := omega) only [lo2, hi2, lo3, flMod, scMod, lowMod, cmbMod, ext_hi, ext_lo, bit_hi, bit_lo, Nat.reduceSub, Nat.sub_self, ext_all, bit_one, ext_wide, Option.bind_eq_bind, Option.bind_some]
  all_goals first | rfl | (cases w64 <;> first | rfl | exact absurd ‹(_ != _) = true› (by decide))
theorem negV (c : Ctl) (w64 : Bool) (d : Dst) (a : Src) : Statement (.negV c w64 d a) := by
  intro h
  refine decode_encode rfl rfl h ?_
  simp only [Instr.wellFormed, vv, uu, vvv, uuu, fvv, fuu, fvvv, fuuu, fv, fu, cmpOk, predsOk, Bool.and_eq_true, decide_eq_true_eq] at h
  replace h := And.intro h trivial
  try simp only [and_assoc] at h
  repeat (obtain ⟨_, h⟩ := h)
  have hd : Dst.ofCode d.code = d := by first | exact Dst.tripV ‹_› | exact Dst.tripU ‹_› | exact Dst.tripA ‹_›
  have ha : Src.ofV (immOf [a]) a.code = a := by first | exact Src.tripV ‹_› (immIsN ‹_›) | exact Src.tripV ‹_› immIs1
  refine Eq.trans (b := some (.negV c w64 (Dst.ofCode d.code) (Src.ofV (immOf [a]) a.code))) ?_ (by simp only [hd, ha]; try rfl)
  rw [raw_decodeIntV (by dsimp only; decide)]
  unfold decodeIntV
  dsimp only [Instr.sameWord, Fields.dst, Fields.va]
  try simp (disch := omega) only [lo2, hi2, lo3, flMod, scMod, lowMod, cmbMod, ext_hi, ext_lo, bit_hi, bit_lo, Nat.reduceSub, Nat.sub_self, ext_all, bit_one, ext_wide, Option.bind_eq_bind, Option.bind_some]
  all_goals first | rfl | (cases w64 <;> first | rfl | exact absurd ‹(_ != _) = true› (by decide))
theorem negS (c : Ctl) (w64 : Bool) (d : Dst) (a : Src) : Statement (.negS c w64 d a) := by
  intro h
  refine decode_encode rfl rfl h ?_
  simp only [Instr.wellFormed, vv, uu, vvv, uuu, fvv, fuu, fvvv, fuuu, fv, fu, cmpOk, predsOk, Bool.and_eq_true, decide_eq_true_eq] at h
  replace h := And.intro h trivial
  try simp only [and_assoc] at h
  repeat (obtain ⟨_, h⟩ := h)
  have hd : Dst.ofCode d.code = d := by first | exact Dst.tripV ‹_› | exact Dst.tripU ‹_› | exact Dst.tripA ‹_›
  have ha : Src.ofU (immOf [a]) a.code = a := by first | exact Src.tripU ‹_› (immIsN ‹_›) | exact Src.tripU ‹_› immIs1
  refine Eq.trans (b := some (.negS c w64 (Dst.ofCode d.code) (Src.ofU (immOf [a]) a.code))) ?_ (by simp only [hd, ha]; try rfl)
  rw [raw_decodeIntS (by dsimp only; decide)]
  unfold decodeIntS
  dsimp only [Instr.sameWord, Fields.dst, Fields.ua]
  try simp (disch := omega) only [lo2, hi2, lo3, flMod, scMod, lowMod, cmbMod, ext_hi, ext_lo, bit_hi, bit_lo, Nat.reduceSub, Nat.sub_self, ext_all, bit_one, ext_wide, Option.bind_eq_bind, Option.bind_some]
  all_goals first | rfl | (cases w64 <;> first | rfl | exact absurd ‹(_ != _) = true› (by decide))
theorem andV (c : Ctl) (w64 : Bool) (d : Dst) (a : Src) (b : Src) : Statement (.andV c w64 d a b) := by
  intro h
  refine decode_encode rfl rfl h ?_
  simp only [Instr.wellFormed, vv, uu, vvv, uuu, fvv, fuu, fvvv, fuuu, fv, fu, cmpOk, predsOk, Bool.and_eq_true, decide_eq_true_eq] at h
  replace h := And.intro h trivial
  try simp only [and_assoc] at h
  repeat (obtain ⟨_, h⟩ := h)
  have hd : Dst.ofCode d.code = d := by first | exact Dst.tripV ‹_› | exact Dst.tripU ‹_› | exact Dst.tripA ‹_›
  have ha : Src.ofV (immOf [a, b]) a.code = a := by first | exact Src.tripV ‹_› (immIsN ‹_›) | exact Src.tripV ‹_› (immIs ‹_› (by simp)) | exact Src.tripV ‹_› (immIsZ (by assumption) (by assumption)).1
  have hb : Src.ofV (immOf [a, b]) b.code = b := by first | exact Src.tripV ‹_› (immIsN ‹_›) | exact Src.tripV ‹_› (immIs ‹_› (by simp)) | exact Src.tripV ‹_› (immIsZ (by assumption) (by assumption)).2
  refine Eq.trans (b := some (.andV c w64 (Dst.ofCode d.code) (Src.ofV (immOf [a, b]) a.code) (Src.ofV (immOf [a, b]) b.code))) ?_ (by simp only [hd, ha, hb]; try rfl)
  rw [raw_decodeIntV (by dsimp only; decide)]
  unfold decodeIntV
  dsimp only [Instr.sameWord, Fields.dst, Fields.va, Fields.vb]
  try simp (disch := omega) only [lo2, hi2, lo3, flMod, scMod, lowMod, cmbMod, ext_hi, ext_lo, bit_hi, bit_lo, Nat.reduceSub, Nat.sub_self, ext_all, bit_one, ext_wide, Option.bind_eq_bind, Option.bind_some]
  all_goals first | rfl | (cases w64 <;> first | rfl | exact absurd ‹(_ != _) = true› (by decide))
theorem andS (c : Ctl) (w64 : Bool) (d : Dst) (a : Src) (b : Src) : Statement (.andS c w64 d a b) := by
  intro h
  refine decode_encode rfl rfl h ?_
  simp only [Instr.wellFormed, vv, uu, vvv, uuu, fvv, fuu, fvvv, fuuu, fv, fu, cmpOk, predsOk, Bool.and_eq_true, decide_eq_true_eq] at h
  replace h := And.intro h trivial
  try simp only [and_assoc] at h
  repeat (obtain ⟨_, h⟩ := h)
  have hd : Dst.ofCode d.code = d := by first | exact Dst.tripV ‹_› | exact Dst.tripU ‹_› | exact Dst.tripA ‹_›
  have ha : Src.ofU (immOf [a, b]) a.code = a := by first | exact Src.tripU ‹_› (immIsN ‹_›) | exact Src.tripU ‹_› (immIs ‹_› (by simp)) | exact Src.tripU ‹_› (immIsZ (by assumption) (by assumption)).1
  have hb : Src.ofU (immOf [a, b]) b.code = b := by first | exact Src.tripU ‹_› (immIsN ‹_›) | exact Src.tripU ‹_› (immIs ‹_› (by simp)) | exact Src.tripU ‹_› (immIsZ (by assumption) (by assumption)).2
  refine Eq.trans (b := some (.andS c w64 (Dst.ofCode d.code) (Src.ofU (immOf [a, b]) a.code) (Src.ofU (immOf [a, b]) b.code))) ?_ (by simp only [hd, ha, hb]; try rfl)
  rw [raw_decodeIntS (by dsimp only; decide)]
  unfold decodeIntS
  dsimp only [Instr.sameWord, Fields.dst, Fields.ua, Fields.ub]
  try simp (disch := omega) only [lo2, hi2, lo3, flMod, scMod, lowMod, cmbMod, ext_hi, ext_lo, bit_hi, bit_lo, Nat.reduceSub, Nat.sub_self, ext_all, bit_one, ext_wide, Option.bind_eq_bind, Option.bind_some]
  all_goals first | rfl | (cases w64 <;> first | rfl | exact absurd ‹(_ != _) = true› (by decide))
theorem orV (c : Ctl) (w64 : Bool) (d : Dst) (a : Src) (b : Src) : Statement (.orV c w64 d a b) := by
  intro h
  refine decode_encode rfl rfl h ?_
  simp only [Instr.wellFormed, vv, uu, vvv, uuu, fvv, fuu, fvvv, fuuu, fv, fu, cmpOk, predsOk, Bool.and_eq_true, decide_eq_true_eq] at h
  replace h := And.intro h trivial
  try simp only [and_assoc] at h
  repeat (obtain ⟨_, h⟩ := h)
  have hd : Dst.ofCode d.code = d := by first | exact Dst.tripV ‹_› | exact Dst.tripU ‹_› | exact Dst.tripA ‹_›
  have ha : Src.ofV (immOf [a, b]) a.code = a := by first | exact Src.tripV ‹_› (immIsN ‹_›) | exact Src.tripV ‹_› (immIs ‹_› (by simp)) | exact Src.tripV ‹_› (immIsZ (by assumption) (by assumption)).1
  have hb : Src.ofV (immOf [a, b]) b.code = b := by first | exact Src.tripV ‹_› (immIsN ‹_›) | exact Src.tripV ‹_› (immIs ‹_› (by simp)) | exact Src.tripV ‹_› (immIsZ (by assumption) (by assumption)).2
  refine Eq.trans (b := some (.orV c w64 (Dst.ofCode d.code) (Src.ofV (immOf [a, b]) a.code) (Src.ofV (immOf [a, b]) b.code))) ?_ (by simp only [hd, ha, hb]; try rfl)
  rw [raw_decodeIntV (by dsimp only; decide)]
  unfold decodeIntV
  dsimp only [Instr.sameWord, Fields.dst, Fields.va, Fields.vb]
  try simp (disch := omega) only [lo2, hi2, lo3, flMod, scMod, lowMod, cmbMod, ext_hi, ext_lo, bit_hi, bit_lo, Nat.reduceSub, Nat.sub_self, ext_all, bit_one, ext_wide, Option.bind_eq_bind, Option.bind_some]
  all_goals first | rfl | (cases w64 <;> first | rfl | exact absurd ‹(_ != _) = true› (by decide))
theorem orS (c : Ctl) (w64 : Bool) (d : Dst) (a : Src) (b : Src) : Statement (.orS c w64 d a b) := by
  intro h
  refine decode_encode rfl rfl h ?_
  simp only [Instr.wellFormed, vv, uu, vvv, uuu, fvv, fuu, fvvv, fuuu, fv, fu, cmpOk, predsOk, Bool.and_eq_true, decide_eq_true_eq] at h
  replace h := And.intro h trivial
  try simp only [and_assoc] at h
  repeat (obtain ⟨_, h⟩ := h)
  have hd : Dst.ofCode d.code = d := by first | exact Dst.tripV ‹_› | exact Dst.tripU ‹_› | exact Dst.tripA ‹_›
  have ha : Src.ofU (immOf [a, b]) a.code = a := by first | exact Src.tripU ‹_› (immIsN ‹_›) | exact Src.tripU ‹_› (immIs ‹_› (by simp)) | exact Src.tripU ‹_› (immIsZ (by assumption) (by assumption)).1
  have hb : Src.ofU (immOf [a, b]) b.code = b := by first | exact Src.tripU ‹_› (immIsN ‹_›) | exact Src.tripU ‹_› (immIs ‹_› (by simp)) | exact Src.tripU ‹_› (immIsZ (by assumption) (by assumption)).2
  refine Eq.trans (b := some (.orS c w64 (Dst.ofCode d.code) (Src.ofU (immOf [a, b]) a.code) (Src.ofU (immOf [a, b]) b.code))) ?_ (by simp only [hd, ha, hb]; try rfl)
  rw [raw_decodeIntS (by dsimp only; decide)]
  unfold decodeIntS
  dsimp only [Instr.sameWord, Fields.dst, Fields.ua, Fields.ub]
  try simp (disch := omega) only [lo2, hi2, lo3, flMod, scMod, lowMod, cmbMod, ext_hi, ext_lo, bit_hi, bit_lo, Nat.reduceSub, Nat.sub_self, ext_all, bit_one, ext_wide, Option.bind_eq_bind, Option.bind_some]
  all_goals first | rfl | (cases w64 <;> first | rfl | exact absurd ‹(_ != _) = true› (by decide))
theorem xorV (c : Ctl) (w64 : Bool) (d : Dst) (a : Src) (b : Src) : Statement (.xorV c w64 d a b) := by
  intro h
  refine decode_encode rfl rfl h ?_
  simp only [Instr.wellFormed, vv, uu, vvv, uuu, fvv, fuu, fvvv, fuuu, fv, fu, cmpOk, predsOk, Bool.and_eq_true, decide_eq_true_eq] at h
  replace h := And.intro h trivial
  try simp only [and_assoc] at h
  repeat (obtain ⟨_, h⟩ := h)
  have hd : Dst.ofCode d.code = d := by first | exact Dst.tripV ‹_› | exact Dst.tripU ‹_› | exact Dst.tripA ‹_›
  have ha : Src.ofV (immOf [a, b]) a.code = a := by first | exact Src.tripV ‹_› (immIsN ‹_›) | exact Src.tripV ‹_› (immIs ‹_› (by simp)) | exact Src.tripV ‹_› (immIsZ (by assumption) (by assumption)).1
  have hb : Src.ofV (immOf [a, b]) b.code = b := by first | exact Src.tripV ‹_› (immIsN ‹_›) | exact Src.tripV ‹_› (immIs ‹_› (by simp)) | exact Src.tripV ‹_› (immIsZ (by assumption) (by assumption)).2
  refine Eq.trans (b := some (.xorV c w64 (Dst.ofCode d.code) (Src.ofV (immOf [a, b]) a.code) (Src.ofV (immOf [a, b]) b.code))) ?_ (by simp only [hd, ha, hb]; try rfl)
  rw [raw_decodeIntV (by dsimp only; decide)]
  unfold decodeIntV
  dsimp only [Instr.sameWord, Fields.dst, Fields.va, Fields.vb]
  try simp (disch := omega) only [lo2, hi2, lo3, flMod, scMod, lowMod, cmbMod, ext_hi, ext_lo, bit_hi, bit_lo, Nat.reduceSub, Nat.sub_self, ext_all, bit_one, ext_wide, Option.bind_eq_bind, Option.bind_some]
  all_goals first | rfl | (cases w64 <;> first | rfl | exact absurd ‹(_ != _) = true› (by decide))
theorem xorS (c : Ctl) (w64 : Bool) (d : Dst) (a : Src) (b : Src) : Statement (.xorS c w64 d a b) := by
  intro h
  refine decode_encode rfl rfl h ?_
  simp only [Instr.wellFormed, vv, uu, vvv, uuu, fvv, fuu, fvvv, fuuu, fv, fu, cmpOk, predsOk, Bool.and_eq_true, decide_eq_true_eq] at h
  replace h := And.intro h trivial
  try simp only [and_assoc] at h
  repeat (obtain ⟨_, h⟩ := h)
  have hd : Dst.ofCode d.code = d := by first | exact Dst.tripV ‹_› | exact Dst.tripU ‹_› | exact Dst.tripA ‹_›
  have ha : Src.ofU (immOf [a, b]) a.code = a := by first | exact Src.tripU ‹_› (immIsN ‹_›) | exact Src.tripU ‹_› (immIs ‹_› (by simp)) | exact Src.tripU ‹_› (immIsZ (by assumption) (by assumption)).1
  have hb : Src.ofU (immOf [a, b]) b.code = b := by first | exact Src.tripU ‹_› (immIsN ‹_›) | exact Src.tripU ‹_› (immIs ‹_› (by simp)) | exact Src.tripU ‹_› (immIsZ (by assumption) (by assumption)).2
  refine Eq.trans (b := some (.xorS c w64 (Dst.ofCode d.code) (Src.ofU (immOf [a, b]) a.code) (Src.ofU (immOf [a, b]) b.code))) ?_ (by simp only [hd, ha, hb]; try rfl)
  rw [raw_decodeIntS (by dsimp only; decide)]
  unfold decodeIntS
  dsimp only [Instr.sameWord, Fields.dst, Fields.ua, Fields.ub]
  try simp (disch := omega) only [lo2, hi2, lo3, flMod, scMod, lowMod, cmbMod, ext_hi, ext_lo, bit_hi, bit_lo, Nat.reduceSub, Nat.sub_self, ext_all, bit_one, ext_wide, Option.bind_eq_bind, Option.bind_some]
  all_goals first | rfl | (cases w64 <;> first | rfl | exact absurd ‹(_ != _) = true› (by decide))
theorem andnV (c : Ctl) (w64 : Bool) (d : Dst) (a : Src) (b : Src) : Statement (.andnV c w64 d a b) := by
  intro h
  refine decode_encode rfl rfl h ?_
  simp only [Instr.wellFormed, vv, uu, vvv, uuu, fvv, fuu, fvvv, fuuu, fv, fu, cmpOk, predsOk, Bool.and_eq_true, decide_eq_true_eq] at h
  replace h := And.intro h trivial
  try simp only [and_assoc] at h
  repeat (obtain ⟨_, h⟩ := h)
  have hd : Dst.ofCode d.code = d := by first | exact Dst.tripV ‹_› | exact Dst.tripU ‹_› | exact Dst.tripA ‹_›
  have ha : Src.ofV (immOf [a, b]) a.code = a := by first | exact Src.tripV ‹_› (immIsN ‹_›) | exact Src.tripV ‹_› (immIs ‹_› (by simp)) | exact Src.tripV ‹_› (immIsZ (by assumption) (by assumption)).1
  have hb : Src.ofV (immOf [a, b]) b.code = b := by first | exact Src.tripV ‹_› (immIsN ‹_›) | exact Src.tripV ‹_› (immIs ‹_› (by simp)) | exact Src.tripV ‹_› (immIsZ (by assumption) (by assumption)).2
  refine Eq.trans (b := some (.andnV c w64 (Dst.ofCode d.code) (Src.ofV (immOf [a, b]) a.code) (Src.ofV (immOf [a, b]) b.code))) ?_ (by simp only [hd, ha, hb]; try rfl)
  rw [raw_decodeIntV (by dsimp only; decide)]
  unfold decodeIntV
  dsimp only [Instr.sameWord, Fields.dst, Fields.va, Fields.vb]
  try simp (disch := omega) only [lo2, hi2, lo3, flMod, scMod, lowMod, cmbMod, ext_hi, ext_lo, bit_hi, bit_lo, Nat.reduceSub, Nat.sub_self, ext_all, bit_one, ext_wide, Option.bind_eq_bind, Option.bind_some]
  all_goals first | rfl | (cases w64 <;> first | rfl | exact absurd ‹(_ != _) = true› (by decide))
theorem andnS (c : Ctl) (w64 : Bool) (d : Dst) (a : Src) (b : Src) : Statement (.andnS c w64 d a b) := by
  intro h
  refine decode_encode rfl rfl h ?_
  simp only [Instr.wellFormed, vv, uu, vvv, uuu, fvv, fuu, fvvv, fuuu, fv, fu, cmpOk, predsOk, Bool.and_eq_true, decide_eq_true_eq] at h
  replace h := And.intro h trivial
  try simp only [and_assoc] at h
  repeat (obtain ⟨_, h⟩ := h)
  have hd : Dst.ofCode d.code = d := by first | exact Dst.tripV ‹_› | exact Dst.tripU ‹_› | exact Dst.tripA ‹_›
  have ha : Src.ofU (immOf [a, b]) a.code = a := by first | exact Src.tripU ‹_› (immIsN ‹_›) | exact Src.tripU ‹_› (immIs ‹_› (by simp)) | exact Src.tripU ‹_› (immIsZ (by assumption) (by assumption)).1
  have hb : Src.ofU (immOf [a, b]) b.code = b := by first | exact Src.tripU ‹_› (immIsN ‹_›) | exact Src.tripU ‹_› (immIs ‹_› (by simp)) | exact Src.tripU ‹_› (immIsZ (by assumption) (by assumption)).2
  refine Eq.trans (b := some (.andnS c w64 (Dst.ofCode d.code) (Src.ofU (immOf [a, b]) a.code) (Src.ofU (immOf [a, b]) b.code))) ?_ (by simp only [hd, ha, hb]; try rfl)
  rw [raw_decodeIntS (by dsimp only; decide)]
  unfold decodeIntS
  dsimp only [Instr.sameWord, Fields.dst, Fields.ua, Fields.ub]
  try simp (disch := omega) only [lo2, hi2, lo3, flMod, scMod, lowMod, cmbMod, ext_hi, ext_lo, bit_hi, bit_lo, Nat.reduceSub, Nat.sub_self, ext_all, bit_one, ext_wide, Option.bind_eq_bind, Option.bind_some]
  all_goals first | rfl | (cases w64 <;> first | rfl | exact absurd ‹(_ != _) = true› (by decide))
theorem ornV (c : Ctl) (w64 : Bool) (d : Dst) (a : Src) (b : Src) : Statement (.ornV c w64 d a b) := by
  intro h
  refine decode_encode rfl rfl h ?_
  simp only [Instr.wellFormed, vv, uu, vvv, uuu, fvv, fuu, fvvv, fuuu, fv, fu, cmpOk, predsOk, Bool.and_eq_true, decide_eq_true_eq] at h
  replace h := And.intro h trivial
  try simp only [and_assoc] at h
  repeat (obtain ⟨_, h⟩ := h)
  have hd : Dst.ofCode d.code = d := by first | exact Dst.tripV ‹_› | exact Dst.tripU ‹_› | exact Dst.tripA ‹_›
  have ha : Src.ofV (immOf [a, b]) a.code = a := by first | exact Src.tripV ‹_› (immIsN ‹_›) | exact Src.tripV ‹_› (immIs ‹_› (by simp)) | exact Src.tripV ‹_› (immIsZ (by assumption) (by assumption)).1
  have hb : Src.ofV (immOf [a, b]) b.code = b := by first | exact Src.tripV ‹_› (immIsN ‹_›) | exact Src.tripV ‹_› (immIs ‹_› (by simp)) | exact Src.tripV ‹_› (immIsZ (by assumption) (by assumption)).2
  refine Eq.trans (b := some (.ornV c w64 (Dst.ofCode d.code) (Src.ofV (immOf [a, b]) a.code) (Src.ofV (immOf [a, b]) b.code))) ?_ (by simp only [hd, ha, hb]; try rfl)
  rw [raw_decodeIntV (by dsimp only; decide)]
  unfold decodeIntV
  dsimp only [Instr.sameWord, Fields.dst, Fields.va, Fields.vb]
  try simp (disch := omega) only [lo2, hi2, lo3, flMod, scMod, lowMod, cmbMod, ext_hi, ext_lo, bit_hi, bit_lo, Nat.reduceSub, Nat.sub_self, ext_all, bit_one, ext_wide, Option.bind_eq_bind, Option.bind_some]
  all_goals first | rfl | (cases w64 <;> first | rfl | exact absurd ‹(_ != _) = true› (by decide))
theorem ornS (c : Ctl) (w64 : Bool) (d : Dst) (a : Src) (b : Src) : Statement (.ornS c w64 d a b) := by
  intro h
  refine decode_encode rfl rfl h ?_
  simp only [Instr.wellFormed, vv, uu, vvv, uuu, fvv, fuu, fvvv, fuuu, fv, fu, cmpOk, predsOk, Bool.and_eq_true, decide_eq_true_eq] at h
  replace h := And.intro h trivial
  try simp only [and_assoc] at h
  repeat (obtain ⟨_, h⟩ := h)
  have hd : Dst.ofCode d.code = d := by first | exact Dst.tripV ‹_› | exact Dst.tripU ‹_› | exact Dst.tripA ‹_›
  have ha : Src.ofU (immOf [a, b]) a.code = a := by first | exact Src.tripU ‹_› (immIsN ‹_›) | exact Src.tripU ‹_› (immIs ‹_› (by simp)) | exact Src.tripU ‹_› (immIsZ (by assumption) (by assumption)).1
  have hb : Src.ofU (immOf [a, b]) b.code = b := by first | exact Src.tripU ‹_› (immIsN ‹_›) | exact Src.tripU ‹_› (immIs ‹_› (by simp)) | exact Src.tripU ‹_› (immIsZ (by assumption) (by assumption)).2
  refine Eq.trans (b := some (.ornS c w64 (Dst.ofCode d.code) (Src.ofU (immOf [a, b]) a.code) (Src.ofU (immOf [a, b]) b.code))) ?_ (by simp only [hd, ha, hb]; try rfl)
  rw [raw_decodeIntS (by dsimp only; decide)]
  unfold decodeIntS
  dsimp only [Instr.sameWord, Fields.dst, Fields.ua, Fields.ub]
  try simp (disch := omega) only [lo2, hi2, lo3, flMod, scMod, lowMod, cmbMod, ext_hi, ext_lo, bit_hi, bit_lo, Nat.reduceSub, Nat.sub_self, ext_all, bit_one, ext_wide, Option.bind_eq_bind, Option.bind_some]
  all_goals first | rfl | (cases w64 <;> first | rfl | exact absurd ‹(_ != _) = true› (by decide))
theorem xnorV (c : Ctl) (w64 : Bool) (d : Dst) (a : Src) (b : Src) : Statement (.xnorV c w64 d a b) := by
  intro h
  refine decode_encode rfl rfl h ?_
  simp only [Instr.wellFormed, vv, uu, vvv, uuu, fvv, fuu, fvvv, fuuu, fv, fu, cmpOk, predsOk, Bool.and_eq_true, decide_eq_true_eq] at h
  replace h := And.intro h trivial
  try simp only [and_assoc] at h
  repeat (obtain ⟨_, h⟩ := h)
  have hd : Dst.ofCode d.code = d := by first | exact Dst.tripV ‹_› | exact Dst.tripU ‹_› | exact Dst.tripA ‹_›
  have ha : Src.ofV (immOf [a, b]) a.code = a := by first | exact Src.tripV ‹_› (immIsN ‹_›) | exact Src.tripV ‹_› (immIs ‹_› (by simp)) | exact Src.tripV ‹_› (immIsZ (by assumption) (by assumption)).1
  have hb : Src.ofV (immOf [a, b]) b.code = b := by first | exact Src.tripV ‹_› (immIsN ‹_›) | exact Src.tripV ‹_› (immIs ‹_› (by simp)) | exact Src.tripV ‹_› (immIsZ (by assumption) (by assumption)).2
  refine Eq.trans (b := some (.xnorV c w64 (Dst.ofCode d.code) (Src.ofV (immOf [a, b]) a.code) (Src.ofV (immOf [a, b]) b.code))) ?_ (by simp only [hd, ha, hb]; try rfl)
  rw [raw_decodeIntV (by dsimp only; decide)]
  unfold decodeIntV
  dsimp only [Instr.sameWord, Fields.dst, Fields.va, Fields.vb]
  try simp (disch := omega) only [lo2, hi2, lo3, flMod, scMod, lowMod, cmbMod, ext_hi, ext_lo, bit_hi, bit_lo, Nat.reduceSub, Nat.sub_self, ext_all, bit_one, ext_wide, Option.bind_eq_bind, Option.bind_some]
  all_goals first | rfl | (cases w64 <;> first | rfl | exact absurd ‹(_ != _) = true› (by decide))
theorem xnorS (c : Ctl) (w64 : Bool) (d : Dst) (a : Src) (b : Src) : Statement (.xnorS c w64 d a b) := by
  intro h
  refine decode_encode rfl rfl h ?_
  simp only [Instr.wellFormed, vv, uu, vvv, uuu, fvv, fuu, fvvv, fuuu, fv, fu, cmpOk, predsOk, Bool.and_eq_true, decide_eq_true_eq] at h
  replace h := And.intro h trivial
  try simp only [and_assoc] at h
  repeat (obtain ⟨_, h⟩ := h)
  have hd : Dst.ofCode d.code = d := by first | exact Dst.tripV ‹_› | exact Dst.tripU ‹_› | exact Dst.tripA ‹_›
  have ha : Src.ofU (immOf [a, b]) a.code = a := by first | exact Src.tripU ‹_› (immIsN ‹_›) | exact Src.tripU ‹_› (immIs ‹_› (by simp)) | exact Src.tripU ‹_› (immIsZ (by assumption) (by assumption)).1
  have hb : Src.ofU (immOf [a, b]) b.code = b := by first | exact Src.tripU ‹_› (immIsN ‹_›) | exact Src.tripU ‹_› (immIs ‹_› (by simp)) | exact Src.tripU ‹_› (immIsZ (by assumption) (by assumption)).2
  refine Eq.trans (b := some (.xnorS c w64 (Dst.ofCode d.code) (Src.ofU (immOf [a, b]) a.code) (Src.ofU (immOf [a, b]) b.code))) ?_ (by simp only [hd, ha, hb]; try rfl)
  rw [raw_decodeIntS (by dsimp only; decide)]
  unfold decodeIntS
  dsimp only [Instr.sameWord, Fields.dst, Fields.ua, Fields.ub]
  try simp (disch := omega) only [lo2, hi2, lo3, flMod, scMod, lowMod, cmbMod, ext_hi, ext_lo, bit_hi, bit_lo, Nat.reduceSub, Nat.sub_self, ext_all, bit_one, ext_wide, Option.bind_eq_bind, Option.bind_some]
  all_goals first | rfl | (cases w64 <;> first | rfl | exact absurd ‹(_ != _) = true› (by decide))
theorem notV (c : Ctl) (w64 : Bool) (d : Dst) (a : Src) : Statement (.notV c w64 d a) := by
  intro h
  refine decode_encode rfl rfl h ?_
  simp only [Instr.wellFormed, vv, uu, vvv, uuu, fvv, fuu, fvvv, fuuu, fv, fu, cmpOk, predsOk, Bool.and_eq_true, decide_eq_true_eq] at h
  replace h := And.intro h trivial
  try simp only [and_assoc] at h
  repeat (obtain ⟨_, h⟩ := h)
  have hd : Dst.ofCode d.code = d := by first | exact Dst.tripV ‹_› | exact Dst.tripU ‹_› | exact Dst.tripA ‹_›
  have ha : Src.ofV (immOf [a]) a.code = a := by first | exact Src.tripV ‹_› (immIsN ‹_›) | exact Src.tripV ‹_› immIs1
  refine Eq.trans (b := some (.notV c w64 (Dst.ofCode d.code) (Src.ofV (immOf [a]) a.code))) ?_ (by simp only [hd, ha]; try rfl)
  rw [raw_decodeIntV (by dsimp only; decide)]
  unfold decodeIntV
  dsimp only [Instr.sameWord, Fields.dst, Fields.va]
  try simp (disch := omega) only [lo2, hi2, lo3, flMod, scMod, lowMod, cmbMod, ext_hi, ext_lo, bit_hi, bit_lo, Nat.reduceSub, Nat.sub_self, ext_all, bit_one, ext_wide, Option.bind_eq_bind, Option.bind_some]
  all_goals first | rfl | (cases w64 <;> first | rfl | exact absurd ‹(_ != _) = true› (by decide))
theorem notS (c : Ctl) (w64 : Bool) (d : Dst) (a : Src) : Statement (.notS c w64 d a) := by
  intro h
  refine decode_encode rfl rfl h ?_
  simp only [Instr.wellFormed, vv, uu, vvv, uuu, fvv, fuu, fvvv, fuuu, fv, fu, cmpOk, predsOk, Bool.and_eq_true, decide_eq_true_eq] at h
  replace h := And.intro h trivial
  try simp only [and_assoc] at h
  repeat (obtain ⟨_, h⟩ := h)
  have hd : Dst.ofCode d.code = d := by first | exact Dst.tripV ‹_› | exact Dst.tripU ‹_› | exact Dst.tripA ‹_›
  have ha : Src.ofU (immOf [a]) a.code = a := by first | exact Src.tripU ‹_› (immIsN ‹_›) | exact Src.tripU ‹_› immIs1
  refine Eq.trans (b := some (.notS c w64 (Dst.ofCode d.code) (Src.ofU (immOf [a]) a.code))) ?_ (by simp only [hd, ha]; try rfl)
  rw [raw_decodeIntS (by dsimp only; decide)]
  unfold decodeIntS
  dsimp only [Instr.sameWord, Fields.dst, Fields.ua]
  try simp (disch := omega) only [lo2, hi2, lo3, flMod, scMod, lowMod, cmbMod, ext_hi, ext_lo, bit_hi, bit_lo, Nat.reduceSub, Nat.sub_self, ext_all, bit_one, ext_wide, Option.bind_eq_bind, Option.bind_some]
  all_goals first | rfl | (cases w64 <;> first | rfl | exact absurd ‹(_ != _) = true› (by decide))
theorem shlV (c : Ctl) (w64 : Bool) (d : Dst) (a : Src) (b : Src) : Statement (.shlV c w64 d a b) := by
  intro h
  refine decode_encode rfl rfl h ?_
  simp only [Instr.wellFormed, vv, uu, vvv, uuu, fvv, fuu, fvvv, fuuu, fv, fu, cmpOk, predsOk, Bool.and_eq_true, decide_eq_true_eq] at h
  replace h := And.intro h trivial
  try simp only [and_assoc] at h
  repeat (obtain ⟨_, h⟩ := h)
  have hd : Dst.ofCode d.code = d := by first | exact Dst.tripV ‹_› | exact Dst.tripU ‹_› | exact Dst.tripA ‹_›
  have ha : Src.ofV (immOf [a, b]) a.code = a := by first | exact Src.tripV ‹_› (immIsN ‹_›) | exact Src.tripV ‹_› (immIs ‹_› (by simp)) | exact Src.tripV ‹_› (immIsZ (by assumption) (by assumption)).1
  have hb : Src.ofV (immOf [a, b]) b.code = b := by first | exact Src.tripV ‹_› (immIsN ‹_›) | exact Src.tripV ‹_› (immIs ‹_› (by simp)) | exact Src.tripV ‹_› (immIsZ (by assumption) (by assumption)).2
  refine Eq.trans (b := some (.shlV c w64 (Dst.ofCode d.code) (Src.ofV (immOf [a, b]) a.code) (Src.ofV (immOf [a, b]) b.code))) ?_ (by simp only [hd, ha, hb]; try rfl)
  rw [raw_decodeIntV (by dsimp only; decide)]
  unfold decodeIntV
  dsimp only [Instr.sameWord, Fields.dst, Fields.va, Fields.vb]
  try simp (disch := omega) only [lo2, hi2, lo3, flMod, scMod, lowMod, cmbMod, ext_hi, ext_lo, bit_hi, bit_lo, Nat.reduceSub, Nat.sub_self, ext_all, bit_one, ext_wide, Option.bind_eq_bind, Option.bind_some]
  all_goals first | rfl | (cases w64 <;> first | rfl | exact absurd ‹(_ != _) = true› (by decide))
theorem shlS (c : Ctl) (w64 : Bool) (d : Dst) (a : Src) (b : Src) : Statement (.shlS c w64 d a b) := by
  intro h
  refine decode_encode rfl rfl h ?_
  simp only [Instr.wellFormed, vv, uu, vvv, uuu, fvv, fuu, fvvv, fuuu, fv, fu, cmpOk, predsOk, Bool.and_eq_true, decide_eq_true_eq] at h
  replace h := And.intro h trivial
  try simp only [and_assoc] at h
  repeat (obtain ⟨_, h⟩ := h)
  have hd : Dst.ofCode d.code = d := by first | exact Dst.tripV ‹_› | exact Dst.tripU ‹_› | exact Dst.tripA ‹_›
  have ha : Src.ofU (immOf [a, b]) a.code = a := by first | exact Src.tripU ‹_› (immIsN ‹_›) | exact Src.tripU ‹_› (immIs ‹_› (by simp)) | exact Src.tripU ‹_› (immIsZ (by assumption) (by assumption)).1
  have hb : Src.ofU (immOf [a, b]) b.code = b := by first | exact Src.tripU ‹_› (immIsN ‹_›) | exact Src.tripU ‹_› (immIs ‹_› (by simp)) | exact Src.tripU ‹_› (immIsZ (by assumption) (by assumption)).2
  refine Eq.trans (b := some (.shlS c w64 (Dst.ofCode d.code) (Src.ofU (immOf [a, b]) a.code) (Src.ofU (immOf [a, b]) b.code))) ?_ (by simp only [hd, ha, hb]; try rfl)
  rw [raw_decodeIntS (by dsimp only; decide)]
  unfold decodeIntS
  dsimp only [Instr.sameWord, Fields.dst, Fields.ua, Fields.ub]
  try simp (disch := omega) only [lo2, hi2, lo3, flMod, scMod, lowMod, cmbMod, ext_hi, ext_lo, bit_hi, bit_lo, Nat.reduceSub, Nat.sub_self, ext_all, bit_one, ext_wide, Option.bind_eq_bind, Option.bind_some]
  all_goals first | rfl | (cases w64 <;> first | rfl | exact absurd ‹(_ != _) = true› (by decide))
theorem shrV (c : Ctl) (w64 : Bool) (d : Dst) (a : Src) (b : Src) : Statement (.shrV c w64 d a b) := by
  intro h
  refine decode_encode rfl rfl h ?_
  simp only [Instr.wellFormed, vv, uu, vvv, uuu, fvv, fuu, fvvv, fuuu, fv, fu, cmpOk, predsOk, Bool.and_eq_true, decide_eq_true_eq] at h
  replace h := And.intro h trivial
  try simp only [and_assoc] at h
  repeat (obtain ⟨_, h⟩ := h)
  have hd : Dst.ofCode d.code = d := by first | exact Dst.tripV ‹_› | exact Dst.tripU ‹_› | exact Dst.tripA ‹_›
  have ha : Src.ofV (immOf [a, b]) a.code = a := by first | exact Src.tripV ‹_› (immIsN ‹_›) | exact Src.tripV ‹_› (immIs ‹_› (by simp)) | exact Src.tripV ‹_› (immIsZ (by assumption) (by assumption)).1
  have hb : Src.ofV (immOf [a, b]) b.code = b := by first | exact Src.tripV ‹_› (immIsN ‹_›) | exact Src.tripV ‹_› (immIs ‹_› (by simp)) | exact Src.tripV ‹_› (immIsZ (by assumption) (by assumption)).2
  refine Eq.trans (b := some (.shrV c w64 (Dst.ofCode d.code) (Src.ofV (immOf [a, b]) a.code) (Src.ofV (immOf [a, b]) b.code))) ?_ (by simp only [hd, ha, hb]; try rfl)
  rw [raw_decodeIntV (by dsimp only; decide)]
  unfold decodeIntV
  dsimp only [Instr.sameWord, Fields.dst, Fields.va, Fields.vb]
  try simp (disch := omega) only [lo2, hi2, lo3, flMod, scMod, lowMod, cmbMod, ext_hi, ext_lo, bit_hi, bit_lo, Nat.reduceSub, Nat.sub_self, ext_all, bit_one, ext_wide, Option.bind_eq_bind, Option.bind_some]
  all_goals first | rfl | (cases w64 <;> first | rfl | exact absurd ‹(_ != _) = true› (by decide))
theorem shrS (c : Ctl) (w64 : Bool) (d : Dst) (a : Src) (b : Src) : Statement (.shrS c w64 d a b) := by
  intro h
  refine decode_encode rfl rfl h ?_
  simp only [Instr.wellFormed, vv, uu, vvv, uuu, fvv, fuu, fvvv, fuuu, fv, fu, cmpOk, predsOk, Bool.and_eq_true, decide_eq_true_eq] at h
  replace h := And.intro h trivial
  try simp only [and_assoc] at h
  repeat (obtain ⟨_, h⟩ := h)
  have hd : Dst.ofCode d.code = d := by first | exact Dst.tripV ‹_› | exact Dst.tripU ‹_› | exact Dst.tripA ‹_›
  have ha : Src.ofU (immOf [a, b]) a.code = a := by first | exact Src.tripU ‹_› (immIsN ‹_›) | exact Src.tripU ‹_› (immIs ‹_› (by simp)) | exact Src.tripU ‹_› (immIsZ (by assumption) (by assumption)).1
  have hb : Src.ofU (immOf [a, b]) b.code = b := by first | exact Src.tripU ‹_› (immIsN ‹_›) | exact Src.tripU ‹_› (immIs ‹_› (by simp)) | exact Src.tripU ‹_› (immIsZ (by assumption) (by assumption)).2
  refine Eq.trans (b := some (.shrS c w64 (Dst.ofCode d.code) (Src.ofU (immOf [a, b]) a.code) (Src.ofU (immOf [a, b]) b.code))) ?_ (by simp only [hd, ha, hb]; try rfl)
  rw [raw_decodeIntS (by dsimp only; decide)]
  unfold decodeIntS
  dsimp only [Instr.sameWord, Fields.dst, Fields.ua, Fields.ub]
  try simp (disch := omega) only [lo2, hi2, lo3, flMod, scMod, lowMod, cmbMod, ext_hi, ext_lo, bit_hi, bit_lo, Nat.reduceSub, Nat.sub_self, ext_all, bit_one, ext_wide, Option.bind_eq_bind, Option.bind_some]
  all_goals first | rfl | (cases w64 <;> first | rfl | exact absurd ‹(_ != _) = true› (by decide))
theorem sarV (c : Ctl) (w64 : Bool) (d : Dst) (a : Src) (b : Src) : Statement (.sarV c w64 d a b) := by
  intro h
  refine decode_encode rfl rfl h ?_
  simp only [Instr.wellFormed, vv, uu, vvv, uuu, fvv, fuu, fvvv, fuuu, fv, fu, cmpOk, predsOk, Bool.and_eq_true, decide_eq_true_eq] at h
  replace h := And.intro h trivial
  try simp only [and_assoc] at h
  repeat (obtain ⟨_, h⟩ := h)
  have hd : Dst.ofCode d.code = d := by first | exact Dst.tripV ‹_› | exact Dst.tripU ‹_› | exact Dst.tripA ‹_›
  have ha : Src.ofV (immOf [a, b]) a.code = a := by first | exact Src.tripV ‹_› (immIsN ‹_›) | exact Src.tripV ‹_› (immIs ‹_› (by simp)) | exact Src.tripV ‹_› (immIsZ (by assumption) (by assumption)).1
  have hb : Src.ofV (immOf [a, b]) b.code = b := by first | exact Src.tripV ‹_› (immIsN ‹_›) | exact Src.tripV ‹_› (immIs ‹_› (by simp)) | exact Src.tripV ‹_› (immIsZ (by assumption) (by assumption)).2
  refine Eq.trans (b := some (.sarV c w64 (Dst.ofCode d.code) (Src.ofV (immOf [a, b]) a.code) (Src.ofV (immOf [a, b]) b.code))) ?_ (by simp only [hd, ha, hb]; try rfl)
  rw [raw_decodeIntV (by dsimp only; decide)]
  unfold decodeIntV
  dsimp only [Instr.sameWord, Fields.dst, Fields.va, Fields.vb]
  try simp (disch := omega) only [lo2, hi2, lo3, flMod, scMod, lowMod, cmbMod, ext_hi, ext_lo, bit_hi, bit_lo, Nat.reduceSub, Nat.sub_self, ext_all, bit_one, ext_wide, Option.bind_eq_bind, Option.bind_some]
  all_goals first | rfl | (cases w64 <;> first | rfl | exact absurd ‹(_ != _) = true› (by decide))
theorem sarS (c : Ctl) (w64 : Bool) (d : Dst) (a : Src) (b : Src) : Statement (.sarS c w64 d a b) := by
  intro h
  refine decode_encode rfl rfl h ?_
  simp only [Instr.wellFormed, vv, uu, vvv, uuu, fvv, fuu, fvvv, fuuu, fv, fu, cmpOk, predsOk, Bool.and_eq_true, decide_eq_true_eq] at h
  replace h := And.intro h trivial
  try simp only [and_assoc] at h
  repeat (obtain ⟨_, h⟩ := h)
  have hd : Dst.ofCode d.code = d := by first | exact Dst.tripV ‹_› | exact Dst.tripU ‹_› | exact Dst.tripA ‹_›
  have ha : Src.ofU (immOf [a, b]) a.code = a := by first | exact Src.tripU ‹_› (immIsN ‹_›) | exact Src.tripU ‹_› (immIs ‹_› (by simp)) | exact Src.tripU ‹_› (immIsZ (by assumption) (by assumption)).1
  have hb : Src.ofU (immOf [a, b]) b.code = b := by first | exact Src.tripU ‹_› (immIsN ‹_›) | exact Src.tripU ‹_› (immIs ‹_› (by simp)) | exact Src.tripU ‹_› (immIsZ (by assumption) (by assumption)).2
  refine Eq.trans (b := some (.sarS c w64 (Dst.ofCode d.code) (Src.ofU (immOf [a, b]) a.code) (Src.ofU (immOf [a, b]) b.code))) ?_ (by simp only [hd, ha, hb]; try rfl)
  rw [raw_decodeIntS (by dsimp only; decide)]
  unfold decodeIntS
  dsimp only [Instr.sameWord, Fields.dst, Fields.ua, Fields.ub]
  try simp (disch := omega) only [lo2, hi2, lo3, flMod, scMod, lowMod, cmbMod, ext_hi, ext_lo, bit_hi, bit_lo, Nat.reduceSub, Nat.sub_self, ext_all, bit_one, ext_wide, Option.bind_eq_bind, Option.bind_some]
  all_goals first | rfl | (cases w64 <;> first | rfl | exact absurd ‹(_ != _) = true› (by decide))
theorem shfV (c : Ctl) (right : Bool) (clamp : Bool) (d : Dst) (a : Src) (b : Src) (e : Src) : Statement (.shfV c right clamp d a b e) := by
  intro h
  refine decode_encode rfl rfl h ?_
  simp only [Instr.wellFormed, vv, uu, vvv, uuu, fvv, fuu, fvvv, fuuu, fv, fu, cmpOk, predsOk, Bool.and_eq_true, decide_eq_true_eq] at h
  replace h := And.intro h trivial
  try simp only [and_assoc] at h
  repeat (obtain ⟨_, h⟩ := h)
  have hd : Dst.ofCode d.code = d := by first | exact Dst.tripV ‹_› | exact Dst.tripU ‹_› | exact Dst.tripA ‹_›
  have ha : Src.ofV (immOf [a, b, e]) a.code = a := by first | exact Src.tripV ‹_› (immIsN ‹_›) | exact Src.tripV ‹_› (immIs ‹_› (by simp)) | exact Src.tripV ‹_› (immIsZ (by assumption) (by assumption)).1
  have hb : Src.ofV (immOf [a, b, e]) b.code = b := by first | exact Src.tripV ‹_› (immIsN ‹_›) | exact Src.tripV ‹_› (immIs ‹_› (by simp)) | exact Src.tripV ‹_› (immIsZ (by assumption) (by assumption)).2
  have he : Src.ofV (immOf [a, b, e]) e.code = e := by first | exact Src.tripV ‹_› (immIsN ‹_›) | exact Src.tripV ‹_› (immIs ‹_› (by simp)) | exact Src.tripV ‹_› (immIsZ (by assumption) (by assumption)).3
  refine Eq.trans (b := some (.shfV c right clamp (Dst.ofCode d.code) (Src.ofV (immOf [a, b, e]) a.code) (Src.ofV (immOf [a, b, e]) b.code) (Src.ofV (immOf [a, b, e]) e.code))) ?_ (by simp only [hd, ha, hb, he]; try rfl)
  rw [raw_decodeIntV (by dsimp only; decide)]
  unfold decodeIntV
  dsimp only [Instr.sameWord, Fields.dst, Fields.va, Fields.vb, Fields.ve]
  try simp (disch := omega) only [lo2, hi2, lo3, flMod, scMod, lowMod, cmbMod, ext_hi, ext_lo, bit_hi, bit_lo, Nat.reduceSub, Nat.sub_self, ext_all, bit_one, ext_wide, Option.bind_eq_bind, Option.bind_some]
  all_goals first | rfl | (cases right <;> cases clamp <;> first | rfl | exact absurd ‹(_ != _) = true› (by decide))
theorem shfS (c : Ctl) (right : Bool) (clamp : Bool) (d : Dst) (a : Src) (b : Src) (e : Src) : Statement (.shfS c right clamp d a b e) := by
  intro h
  refine decode_encode rfl rfl h ?_
  simp only [Instr.wellFormed, vv, uu, vvv, uuu, fvv, fuu, fvvv, fuuu, fv, fu, cmpOk, predsOk, Bool.and_eq_true, decide_eq_true_eq] at h
  replace h := And.intro h trivial
  try simp only [and_assoc] at h
  repeat (obtain ⟨_, h⟩ := h)
  have hd : Dst.ofCode d.code = d := by first | exact Dst.tripV ‹_› | exact Dst.tripU ‹_› | exact Dst.tripA ‹_›
  have ha : Src.ofU (immOf [a, b, e]) a.code = a := by first | exact Src.tripU ‹_› (immIsN ‹_›) | exact Src.tripU ‹_› (immIs ‹_› (by simp)) | exact Src.tripU ‹_› (immIsZ (by assumption) (by assumption)).1
  have hb : Src.ofU (immOf [a, b, e]) b.code = b := by first | exact Src.tripU ‹_› (immIsN ‹_›) | exact Src.tripU ‹_› (immIs ‹_› (by simp)) | exact Src.tripU ‹_› (immIsZ (by assumption) (by assumption)).2
  have he : Src.ofU (immOf [a, b, e]) e.code = e := by first | exact Src.tripU ‹_› (immIsN ‹_›) | exact Src.tripU ‹_› (immIs ‹_› (by simp)) | exact Src.tripU ‹_› (immIsZ (by assumption) (by assumption)).3
  refine Eq.trans (b := some (.shfS c right clamp (Dst.ofCode d.code) (Src.ofU (immOf [a, b, e]) a.code) (Src.ofU (immOf [a, b, e]) b.code) (Src.ofU (immOf [a, b, e]) e.code))) ?_ (by simp only [hd, ha, hb, he]; try rfl)
  rw [raw_decodeIntS (by dsimp only; decide)]
  unfold decodeIntS
  dsimp only [Instr.sameWord, Fields.dst, Fields.ua, Fields.ub, Fields.ue]
  try simp (disch := omega) only [lo2, hi2, lo3, flMod, scMod, lowMod, cmbMod, ext_hi, ext_lo, bit_hi, bit_lo, Nat.reduceSub, Nat.sub_self, ext_all, bit_one, ext_wide, Option.bind_eq_bind, Option.bind_some]
  all_goals first | rfl | (cases right <;> cases clamp <;> first | rfl | exact absurd ‹(_ != _) = true› (by decide))
theorem bfeV (c : Ctl) (sg : Bool) (d : Dst) (a : Src) (b : Src) (e : Src) : Statement (.bfeV c sg d a b e) := by
  intro h
  refine decode_encode rfl rfl h ?_
  simp only [Instr.wellFormed, vv, uu, vvv, uuu, fvv, fuu, fvvv, fuuu, fv, fu, cmpOk, predsOk, Bool.and_eq_true, decide_eq_true_eq] at h
  replace h := And.intro h trivial
  try simp only [and_assoc] at h
  repeat (obtain ⟨_, h⟩ := h)
  have hd : Dst.ofCode d.code = d := by first | exact Dst.tripV ‹_› | exact Dst.tripU ‹_› | exact Dst.tripA ‹_›
  have ha : Src.ofV (immOf [a, b, e]) a.code = a := by first | exact Src.tripV ‹_› (immIsN ‹_›) | exact Src.tripV ‹_› (immIs ‹_› (by simp)) | exact Src.tripV ‹_› (immIsZ (by assumption) (by assumption)).1
  have hb : Src.ofV (immOf [a, b, e]) b.code = b := by first | exact Src.tripV ‹_› (immIsN ‹_›) | exact Src.tripV ‹_› (immIs ‹_› (by simp)) | exact Src.tripV ‹_› (immIsZ (by assumption) (by assumption)).2
  have he : Src.ofV (immOf [a, b, e]) e.code = e := by first | exact Src.tripV ‹_› (immIsN ‹_›) | exact Src.tripV ‹_› (immIs ‹_› (by simp)) | exact Src.tripV ‹_› (immIsZ (by assumption) (by assumption)).3
  refine Eq.trans (b := some (.bfeV c sg (Dst.ofCode d.code) (Src.ofV (immOf [a, b, e]) a.code) (Src.ofV (immOf [a, b, e]) b.code) (Src.ofV (immOf [a, b, e]) e.code))) ?_ (by simp only [hd, ha, hb, he]; try rfl)
  rw [raw_decodeIntV (by dsimp only; decide)]
  unfold decodeIntV
  dsimp only [Instr.sameWord, Fields.dst, Fields.va, Fields.vb, Fields.ve]
  try simp (disch := omega) only [lo2, hi2, lo3, flMod, scMod, lowMod, cmbMod, ext_hi, ext_lo, bit_hi, bit_lo, Nat.reduceSub, Nat.sub_self, ext_all, bit_one, ext_wide, Option.bind_eq_bind, Option.bind_some]
  all_goals first | rfl | (cases sg <;> first | rfl | exact absurd ‹(_ != _) = true› (by decide))
theorem bfeS (c : Ctl) (sg : Bool) (d : Dst) (a : Src) (b : Src) (e : Src) : Statement (.bfeS c sg d a b e) := by
  intro h
  refine decode_encode rfl rfl h ?_
  simp only [Instr.wellFormed, vv, uu, vvv, uuu, fvv, fuu, fvvv, fuuu, fv, fu, cmpOk, predsOk, Bool.and_eq_true, decide_eq_true_eq] at h
  replace h := And.intro h trivial
  try simp only [and_assoc] at h
  repeat (obtain ⟨_, h⟩ := h)
  have hd : Dst.ofCode d.code = d := by first | exact Dst.tripV ‹_› | exact Dst.tripU ‹_› | exact Dst.tripA ‹_›
  have ha : Src.ofU (immOf [a, b, e]) a.code = a := by first | exact Src.tripU ‹_› (immIsN ‹_›) | exact Src.tripU ‹_› (immIs ‹_› (by simp)) | exact Src.tripU ‹_› (immIsZ (by assumption) (by assumption)).1
  have hb : Src.ofU (immOf [a, b, e]) b.code = b := by first | exact Src.tripU ‹_› (immIsN ‹_›) | exact Src.tripU ‹_› (immIs ‹_› (by simp)) | exact Src.tripU ‹_› (immIsZ (by assumption) (by assumption)).2
  have he : Src.ofU (immOf [a, b, e]) e.code = e := by first | exact Src.tripU ‹_› (immIsN ‹_›) | exact Src.tripU ‹_› (immIs ‹_› (by simp)) | exact Src.tripU ‹_› (immIsZ (by assumption) (by assumption)).3
  refine Eq.trans (b := some (.bfeS c sg (Dst.ofCode d.code) (Src.ofU (immOf [a, b, e]) a.code) (Src.ofU (immOf [a, b, e]) b.code) (Src.ofU (immOf [a, b, e]) e.code))) ?_ (by simp only [hd, ha, hb, he]; try rfl)
  rw [raw_decodeIntS (by dsimp only; decide)]
  unfold decodeIntS
  dsimp only [Instr.sameWord, Fields.dst, Fields.ua, Fields.ub, Fields.ue]
  try simp (disch := omega) only [lo2, hi2, lo3, flMod, scMod, lowMod, cmbMod, ext_hi, ext_lo, bit_hi, bit_lo, Nat.reduceSub, Nat.sub_self, ext_all, bit_one, ext_wide, Option.bind_eq_bind, Option.bind_some]
  all_goals first | rfl | (cases sg <;> first | rfl | exact absurd ‹(_ != _) = true› (by decide))
theorem bfiV (c : Ctl) (d : Dst) (a : Src) (b : Src) (e : Src) : Statement (.bfiV c d a b e) := by
  intro h
  refine decode_encode rfl rfl h ?_
  simp only [Instr.wellFormed, vv, uu, vvv, uuu, fvv, fuu, fvvv, fuuu, fv, fu, cmpOk, predsOk, Bool.and_eq_true, decide_eq_true_eq] at h
  replace h := And.intro h trivial
  try simp only [and_assoc] at h
  repeat (obtain ⟨_, h⟩ := h)
  have hd : Dst.ofCode d.code = d := by first | exact Dst.tripV ‹_› | exact Dst.tripU ‹_› | exact Dst.tripA ‹_›
  have ha : Src.ofV (immOf [a, b, e]) a.code = a := by first | exact Src.tripV ‹_› (immIsN ‹_›) | exact Src.tripV ‹_› (immIs ‹_› (by simp)) | exact Src.tripV ‹_› (immIsZ (by assumption) (by assumption)).1
  have hb : Src.ofV (immOf [a, b, e]) b.code = b := by first | exact Src.tripV ‹_› (immIsN ‹_›) | exact Src.tripV ‹_› (immIs ‹_› (by simp)) | exact Src.tripV ‹_› (immIsZ (by assumption) (by assumption)).2
  have he : Src.ofV (immOf [a, b, e]) e.code = e := by first | exact Src.tripV ‹_› (immIsN ‹_›) | exact Src.tripV ‹_› (immIs ‹_› (by simp)) | exact Src.tripV ‹_› (immIsZ (by assumption) (by assumption)).3
  refine Eq.trans (b := some (.bfiV c (Dst.ofCode d.code) (Src.ofV (immOf [a, b, e]) a.code) (Src.ofV (immOf [a, b, e]) b.code) (Src.ofV (immOf [a, b, e]) e.code))) ?_ (by simp only [hd, ha, hb, he]; try rfl)
  rw [raw_decodeIntV (by dsimp only; decide)]
  unfold decodeIntV
  dsimp only [Instr.sameWord, Fields.dst, Fields.va, Fields.vb, Fields.ve]
  all_goals rfl
theorem bfiS (c : Ctl) (d : Dst) (a : Src) (b : Src) (e : Src) : Statement (.bfiS c d a b e) := by
  intro h
  refine decode_encode rfl rfl h ?_
  simp only [Instr.wellFormed, vv, uu, vvv, uuu, fvv, fuu, fvvv, fuuu, fv, fu, cmpOk, predsOk, Bool.and_eq_true, decide_eq_true_eq] at h
  replace h := And.intro h trivial
  try simp only [and_assoc] at h
  repeat (obtain ⟨_, h⟩ := h)
  have hd : Dst.ofCode d.code = d := by first | exact Dst.tripV ‹_› | exact Dst.tripU ‹_› | exact Dst.tripA ‹_›
  have ha : Src.ofU (immOf [a, b, e]) a.code = a := by first | exact Src.tripU ‹_› (immIsN ‹_›) | exact Src.tripU ‹_› (immIs ‹_› (by simp)) | exact Src.tripU ‹_› (immIsZ (by assumption) (by assumption)).1
  have hb : Src.ofU (immOf [a, b, e]) b.code = b := by first | exact Src.tripU ‹_› (immIsN ‹_›) | exact Src.tripU ‹_› (immIs ‹_› (by simp)) | exact Src.tripU ‹_› (immIsZ (by assumption) (by assumption)).2
  have he : Src.ofU (immOf [a, b, e]) e.code = e := by first | exact Src.tripU ‹_› (immIsN ‹_›) | exact Src.tripU ‹_› (immIs ‹_› (by simp)) | exact Src.tripU ‹_› (immIsZ (by assumption) (by assumption)).3
  refine Eq.trans (b := some (.bfiS c (Dst.ofCode d.code) (Src.ofU (immOf [a, b, e]) a.code) (Src.ofU (immOf [a, b, e]) b.code) (Src.ofU (immOf [a, b, e]) e.code))) ?_ (by simp only [hd, ha, hb, he]; try rfl)
  rw [raw_decodeIntS (by dsimp only; decide)]
  unfold decodeIntS
  dsimp only [Instr.sameWord, Fields.dst, Fields.ua, Fields.ub, Fields.ue]
  all_goals rfl
theorem brevV (c : Ctl) (d : Dst) (a : Src) : Statement (.brevV c d a) := by
  intro h
  refine decode_encode rfl rfl h ?_
  simp only [Instr.wellFormed, vv, uu, vvv, uuu, fvv, fuu, fvvv, fuuu, fv, fu, cmpOk, predsOk, Bool.and_eq_true, decide_eq_true_eq] at h
  replace h := And.intro h trivial
  try simp only [and_assoc] at h
  repeat (obtain ⟨_, h⟩ := h)
  have hd : Dst.ofCode d.code = d := by first | exact Dst.tripV ‹_› | exact Dst.tripU ‹_› | exact Dst.tripA ‹_›
  have ha : Src.ofV (immOf [a]) a.code = a := by first | exact Src.tripV ‹_› (immIsN ‹_›) | exact Src.tripV ‹_› immIs1
  refine Eq.trans (b := some (.brevV c (Dst.ofCode d.code) (Src.ofV (immOf [a]) a.code))) ?_ (by simp only [hd, ha]; try rfl)
  rw [raw_decodeIntV (by dsimp only; decide)]
  unfold decodeIntV
  dsimp only [Instr.sameWord, Fields.dst, Fields.va]
  all_goals rfl
theorem brevS (c : Ctl) (d : Dst) (a : Src) : Statement (.brevS c d a) := by
  intro h
  refine decode_encode rfl rfl h ?_
  simp only [Instr.wellFormed, vv, uu, vvv, uuu, fvv, fuu, fvvv, fuuu, fv, fu, cmpOk, predsOk, Bool.and_eq_true, decide_eq_true_eq] at h
  replace h := And.intro h trivial
  try simp only [and_assoc] at h
  repeat (obtain ⟨_, h⟩ := h)
  have hd : Dst.ofCode d.code = d := by first | exact Dst.tripV ‹_› | exact Dst.tripU ‹_› | exact Dst.tripA ‹_›
  have ha : Src.ofU (immOf [a]) a.code = a := by first | exact Src.tripU ‹_› (immIsN ‹_›) | exact Src.tripU ‹_› immIs1
  refine Eq.trans (b := some (.brevS c (Dst.ofCode d.code) (Src.ofU (immOf [a]) a.code))) ?_ (by simp only [hd, ha]; try rfl)
  rw [raw_decodeIntS (by dsimp only; decide)]
  unfold decodeIntS
  dsimp only [Instr.sameWord, Fields.dst, Fields.ua]
  all_goals rfl
theorem popcV (c : Ctl) (w64 : Bool) (d : Dst) (a : Src) : Statement (.popcV c w64 d a) := by
  intro h
  refine decode_encode rfl rfl h ?_
  simp only [Instr.wellFormed, vv, uu, vvv, uuu, fvv, fuu, fvvv, fuuu, fv, fu, cmpOk, predsOk, Bool.and_eq_true, decide_eq_true_eq] at h
  replace h := And.intro h trivial
  try simp only [and_assoc] at h
  repeat (obtain ⟨_, h⟩ := h)
  have hd : Dst.ofCode d.code = d := by first | exact Dst.tripV ‹_› | exact Dst.tripU ‹_› | exact Dst.tripA ‹_›
  have ha : Src.ofV (immOf [a]) a.code = a := by first | exact Src.tripV ‹_› (immIsN ‹_›) | exact Src.tripV ‹_› immIs1
  refine Eq.trans (b := some (.popcV c w64 (Dst.ofCode d.code) (Src.ofV (immOf [a]) a.code))) ?_ (by simp only [hd, ha]; try rfl)
  rw [raw_decodeIntV (by dsimp only; decide)]
  unfold decodeIntV
  dsimp only [Instr.sameWord, Fields.dst, Fields.va]
  try simp (disch := omega) only [lo2, hi2, lo3, flMod, scMod, lowMod, cmbMod, ext_hi, ext_lo, bit_hi, bit_lo, Nat.reduceSub, Nat.sub_self, ext_all, bit_one, ext_wide, Option.bind_eq_bind, Option.bind_some]
  all_goals first | rfl | (cases w64 <;> first | rfl | exact absurd ‹(_ != _) = true› (by decide))
theorem popcS (c : Ctl) (w64 : Bool) (d : Dst) (a : Src) : Statement (.popcS c w64 d a) := by
  intro h
  refine decode_encode rfl rfl h ?_
  simp only [Instr.wellFormed, vv, uu, vvv, uuu, fvv, fuu, fvvv, fuuu, fv, fu, cmpOk, predsOk, Bool.and_eq_true, decide_eq_true_eq] at h
  replace h := And.intro h trivial
  try simp only [and_assoc] at h
  repeat (obtain ⟨_, h⟩ := h)
  have hd : Dst.ofCode d.code = d := by first | exact Dst.tripV ‹_› | exact Dst.tripU ‹_› | exact Dst.tripA ‹_›
  have ha : Src.ofU (immOf [a]) a.code = a := by first | exact Src.tripU ‹_› (immIsN ‹_›) | exact Src.tripU ‹_› immIs1
  refine Eq.trans (b := some (.popcS c w64 (Dst.ofCode d.code) (Src.ofU (immOf [a]) a.code))) ?_ (by simp only [hd, ha]; try rfl)
  rw [raw_decodeIntS (by dsimp only; decide)]
  unfold decodeIntS
  dsimp only [Instr.sameWord, Fields.dst, Fields.ua]
  try simp (disch := omega) only [lo2, hi2, lo3, flMod, scMod, lowMod, cmbMod, ext_hi, ext_lo, bit_hi, bit_lo, Nat.reduceSub, Nat.sub_self, ext_all, bit_one, ext_wide, Option.bind_eq_bind, Option.bind_some]
  all_goals first | rfl | (cases w64 <;> first | rfl | exact absurd ‹(_ != _) = true› (by decide))
theorem clzV (c : Ctl) (w64 : Bool) (d : Dst) (a : Src) : Statement (.clzV c w64 d a) := by
  intro h
  refine decode_encode rfl rfl h ?_
  simp only [Instr.wellFormed, vv, uu, vvv, uuu, fvv, fuu, fvvv, fuuu, fv, fu, cmpOk, predsOk, Bool.and_eq_true, decide_eq_true_eq] at h
  replace h := And.intro h trivial
  try simp only [and_assoc] at h
  repeat (obtain ⟨_, h⟩ := h)
  have hd : Dst.ofCode d.code = d := by first | exact Dst.tripV ‹_› | exact Dst.tripU ‹_› | exact Dst.tripA ‹_›
  have ha : Src.ofV (immOf [a]) a.code = a := by first | exact Src.tripV ‹_› (immIsN ‹_›) | exact Src.tripV ‹_› immIs1
  refine Eq.trans (b := some (.clzV c w64 (Dst.ofCode d.code) (Src.ofV (immOf [a]) a.code))) ?_ (by simp only [hd, ha]; try rfl)
  rw [raw_decodeIntV (by dsimp only; decide)]
  unfold decodeIntV
  dsimp only [Instr.sameWord, Fields.dst, Fields.va]
  try simp (disch := omega) only [lo2, hi2, lo3, flMod, scMod, lowMod, cmbMod, ext_hi, ext_lo, bit_hi, bit_lo, Nat.reduceSub, Nat.sub_self, ext_all, bit_one, ext_wide, Option.bind_eq_bind, Option.bind_some]
  all_goals first | rfl | (cases w64 <;> first | rfl | exact absurd ‹(_ != _) = true› (by decide))
theorem clzS (c : Ctl) (w64 : Bool) (d : Dst) (a : Src) : Statement (.clzS c w64 d a) := by
  intro h
  refine decode_encode rfl rfl h ?_
  simp only [Instr.wellFormed, vv, uu, vvv, uuu, fvv, fuu, fvvv, fuuu, fv, fu, cmpOk, predsOk, Bool.and_eq_true, decide_eq_true_eq] at h
  replace h := And.intro h trivial
  try simp only [and_assoc] at h
  repeat (obtain ⟨_, h⟩ := h)
  have hd : Dst.ofCode d.code = d := by first | exact Dst.tripV ‹_› | exact Dst.tripU ‹_› | exact Dst.tripA ‹_›
  have ha : Src.ofU (immOf [a]) a.code = a := by first | exact Src.tripU ‹_› (immIsN ‹_›) | exact Src.tripU ‹_› immIs1
  refine Eq.trans (b := some (.clzS c w64 (Dst.ofCode d.code) (Src.ofU (immOf [a]) a.code))) ?_ (by simp only [hd, ha]; try rfl)
  rw [raw_decodeIntS (by dsimp only; decide)]
  unfold decodeIntS
  dsimp only [Instr.sameWord, Fields.dst, Fields.ua]
  try simp (disch := omega) only [lo2, hi2, lo3, flMod, scMod, lowMod, cmbMod, ext_hi, ext_lo, bit_hi, bit_lo, Nat.reduceSub, Nat.sub_self, ext_all, bit_one, ext_wide, Option.bind_eq_bind, Option.bind_some]
  all_goals first | rfl | (cases w64 <;> first | rfl | exact absurd ‹(_ != _) = true› (by decide))
theorem ctzV (c : Ctl) (w64 : Bool) (d : Dst) (a : Src) : Statement (.ctzV c w64 d a) := by
  intro h
  refine decode_encode rfl rfl h ?_
  simp only [Instr.wellFormed, vv, uu, vvv, uuu, fvv, fuu, fvvv, fuuu, fv, fu, cmpOk, predsOk, Bool.and_eq_true, decide_eq_true_eq] at h
  replace h := And.intro h trivial
  try simp only [and_assoc] at h
  repeat (obtain ⟨_, h⟩ := h)
  have hd : Dst.ofCode d.code = d := by first | exact Dst.tripV ‹_› | exact Dst.tripU ‹_› | exact Dst.tripA ‹_›
  have ha : Src.ofV (immOf [a]) a.code = a := by first | exact Src.tripV ‹_› (immIsN ‹_›) | exact Src.tripV ‹_› immIs1
  refine Eq.trans (b := some (.ctzV c w64 (Dst.ofCode d.code) (Src.ofV (immOf [a]) a.code))) ?_ (by simp only [hd, ha]; try rfl)
  rw [raw_decodeIntV (by dsimp only; decide)]
  unfold decodeIntV
  dsimp only [Instr.sameWord, Fields.dst, Fields.va]
  try simp (disch := omega) only [lo2, hi2, lo3, flMod, scMod, lowMod, cmbMod, ext_hi, ext_lo, bit_hi, bit_lo, Nat.reduceSub, Nat.sub_self, ext_all, bit_one, ext_wide, Option.bind_eq_bind, Option.bind_some]
  all_goals first | rfl | (cases w64 <;> first | rfl | exact absurd ‹(_ != _) = true› (by decide))
theorem ctzS (c : Ctl) (w64 : Bool) (d : Dst) (a : Src) : Statement (.ctzS c w64 d a) := by
  intro h
  refine decode_encode rfl rfl h ?_
  simp only [Instr.wellFormed, vv, uu, vvv, uuu, fvv, fuu, fvvv, fuuu, fv, fu, cmpOk, predsOk, Bool.and_eq_true, decide_eq_true_eq] at h
  replace h := And.intro h trivial
  try simp only [and_assoc] at h
  repeat (obtain ⟨_, h⟩ := h)
  have hd : Dst.ofCode d.code = d := by first | exact Dst.tripV ‹_› | exact Dst.tripU ‹_› | exact Dst.tripA ‹_›
  have ha : Src.ofU (immOf [a]) a.code = a := by first | exact Src.tripU ‹_› (immIsN ‹_›) | exact Src.tripU ‹_› immIs1
  refine Eq.trans (b := some (.ctzS c w64 (Dst.ofCode d.code) (Src.ofU (immOf [a]) a.code))) ?_ (by simp only [hd, ha]; try rfl)
  rw [raw_decodeIntS (by dsimp only; decide)]
  unfold decodeIntS
  dsimp only [Instr.sameWord, Fields.dst, Fields.ua]
  try simp (disch := omega) only [lo2, hi2, lo3, flMod, scMod, lowMod, cmbMod, ext_hi, ext_lo, bit_hi, bit_lo, Nat.reduceSub, Nat.sub_self, ext_all, bit_one, ext_wide, Option.bind_eq_bind, Option.bind_some]
  all_goals first | rfl | (cases w64 <;> first | rfl | exact absurd ‹(_ != _) = true› (by decide))
theorem bgatV (c : Ctl) (d : Dst) (a : Src) (b : Src) (e : Src) : Statement (.bgatV c d a b e) := by
  intro h
  refine decode_encode rfl rfl h ?_
  simp only [Instr.wellFormed, vv, uu, vvv, uuu, fvv, fuu, fvvv, fuuu, fv, fu, cmpOk, predsOk, Bool.and_eq_true, decide_eq_true_eq] at h
  replace h := And.intro h trivial
  try simp only [and_assoc] at h
  repeat (obtain ⟨_, h⟩ := h)
  have hd : Dst.ofCode d.code = d := by first | exact Dst.tripV ‹_› | exact Dst.tripU ‹_› | exact Dst.tripA ‹_›
  have ha : Src.ofV (immOf [a, b, e]) a.code = a := by first | exact Src.tripV ‹_› (immIsN ‹_›) | exact Src.tripV ‹_› (immIs ‹_› (by simp)) | exact Src.tripV ‹_› (immIsZ (by assumption) (by assumption)).1
  have hb : Src.ofV (immOf [a, b, e]) b.code = b := by first | exact Src.tripV ‹_› (immIsN ‹_›) | exact Src.tripV ‹_› (immIs ‹_› (by simp)) | exact Src.tripV ‹_› (immIsZ (by assumption) (by assumption)).2
  have he : Src.ofV (immOf [a, b, e]) e.code = e := by first | exact Src.tripV ‹_› (immIsN ‹_›) | exact Src.tripV ‹_› (immIs ‹_› (by simp)) | exact Src.tripV ‹_› (immIsZ (by assumption) (by assumption)).3
  refine Eq.trans (b := some (.bgatV c (Dst.ofCode d.code) (Src.ofV (immOf [a, b, e]) a.code) (Src.ofV (immOf [a, b, e]) b.code) (Src.ofV (immOf [a, b, e]) e.code))) ?_ (by simp only [hd, ha, hb, he]; try rfl)
  rw [raw_decodeIntV (by dsimp only; decide)]
  unfold decodeIntV
  dsimp only [Instr.sameWord, Fields.dst, Fields.va, Fields.vb, Fields.ve]
  all_goals rfl
theorem bgatS (c : Ctl) (d : Dst) (a : Src) (b : Src) (e : Src) : Statement (.bgatS c d a b e) := by
  intro h
  refine decode_encode rfl rfl h ?_
  simp only [Instr.wellFormed, vv, uu, vvv, uuu, fvv, fuu, fvvv, fuuu, fv, fu, cmpOk, predsOk, Bool.and_eq_true, decide_eq_true_eq] at h
  replace h := And.intro h trivial
  try simp only [and_assoc] at h
  repeat (obtain ⟨_, h⟩ := h)
  have hd : Dst.ofCode d.code = d := by first | exact Dst.tripV ‹_› | exact Dst.tripU ‹_› | exact Dst.tripA ‹_›
  have ha : Src.ofU (immOf [a, b, e]) a.code = a := by first | exact Src.tripU ‹_› (immIsN ‹_›) | exact Src.tripU ‹_› (immIs ‹_› (by simp)) | exact Src.tripU ‹_› (immIsZ (by assumption) (by assumption)).1
  have hb : Src.ofU (immOf [a, b, e]) b.code = b := by first | exact Src.tripU ‹_› (immIsN ‹_›) | exact Src.tripU ‹_› (immIs ‹_› (by simp)) | exact Src.tripU ‹_› (immIsZ (by assumption) (by assumption)).2
  have he : Src.ofU (immOf [a, b, e]) e.code = e := by first | exact Src.tripU ‹_› (immIsN ‹_›) | exact Src.tripU ‹_› (immIs ‹_› (by simp)) | exact Src.tripU ‹_› (immIsZ (by assumption) (by assumption)).3
  refine Eq.trans (b := some (.bgatS c (Dst.ofCode d.code) (Src.ofU (immOf [a, b, e]) a.code) (Src.ofU (immOf [a, b, e]) b.code) (Src.ofU (immOf [a, b, e]) e.code))) ?_ (by simp only [hd, ha, hb, he]; try rfl)
  rw [raw_decodeIntS (by dsimp only; decide)]
  unfold decodeIntS
  dsimp only [Instr.sameWord, Fields.dst, Fields.ua, Fields.ub, Fields.ue]
  all_goals rfl
theorem cmpV (c : Ctl) (w64 : Bool) (cond : ICond) (cmb : Cmb) (pd : Nat) (pc : Nat) (a : Src) (b : Src) : Statement (.cmpV c w64 cond cmb pd pc a b) := by
  intro h
  refine decode_encode rfl rfl h ?_
  simp only [Instr.wellFormed, vv, uu, vvv, uuu, fvv, fuu, fvvv, fuuu, fv, fu, cmpOk, predsOk, Bool.and_eq_true, decide_eq_true_eq] at h
  replace h := And.intro h trivial
  try simp only [and_assoc] at h
  repeat (obtain ⟨_, h⟩ := h)
  have hpd : (codeOf pd).toNat = pd := by exact codeOf_toNat (by omega)
  have hpc : (codeOf pc).toNat = pc := by exact codeOf_toNat (by omega)
  have ha : Src.ofV (immOf [a, b]) a.code = a := by first | exact Src.tripV ‹_› (immIsN ‹_›) | exact Src.tripV ‹_› (immIs ‹_› (by simp)) | exact Src.tripV ‹_› (immIsZ (by assumption) (by assumption)).1
  have hb : Src.ofV (immOf [a, b]) b.code = b := by first | exact Src.tripV ‹_› (immIsN ‹_›) | exact Src.tripV ‹_› (immIs ‹_› (by simp)) | exact Src.tripV ‹_› (immIsZ (by assumption) (by assumption)).2
  refine Eq.trans (b := some (.cmpV c w64 cond cmb ((codeOf pd).toNat) ((codeOf pc).toNat) (Src.ofV (immOf [a, b]) a.code) (Src.ofV (immOf [a, b]) b.code))) ?_ (by simp only [hpd, hpc, ha, hb]; try rfl)
  rw [raw_decodeIntV (by dsimp only; decide)]
  unfold decodeIntV
  dsimp only [Instr.sameWord, Fields.va, Fields.vb, Fields.nd, Fields.ne]
  try simp (disch := omega) only [lo2, hi2, lo3, flMod, scMod, lowMod, cmbMod, ext_hi, ext_lo, bit_hi, bit_lo, Nat.reduceSub, Nat.sub_self, ext_all, bit_one, ext_wide, Option.bind_eq_bind, Option.bind_some, Cmb.trip, ICond.trip]
  all_goals first | rfl | (cases w64 <;> cases cond <;> cases cmb <;> first | rfl | exact absurd ‹(_ != _) = true› (by decide))
theorem cmpS (c : Ctl) (w64 : Bool) (cond : ICond) (cmb : Cmb) (pd : Nat) (pc : Nat) (a : Src) (b : Src) : Statement (.cmpS c w64 cond cmb pd pc a b) := by
  intro h
  refine decode_encode rfl rfl h ?_
  simp only [Instr.wellFormed, vv, uu, vvv, uuu, fvv, fuu, fvvv, fuuu, fv, fu, cmpOk, predsOk, Bool.and_eq_true, decide_eq_true_eq] at h
  replace h := And.intro h trivial
  try simp only [and_assoc] at h
  repeat (obtain ⟨_, h⟩ := h)
  have hpd : (codeOf pd).toNat = pd := by exact codeOf_toNat (by omega)
  have hpc : (codeOf pc).toNat = pc := by exact codeOf_toNat (by omega)
  have ha : Src.ofU (immOf [a, b]) a.code = a := by first | exact Src.tripU ‹_› (immIsN ‹_›) | exact Src.tripU ‹_› (immIs ‹_› (by simp)) | exact Src.tripU ‹_› (immIsZ (by assumption) (by assumption)).1
  have hb : Src.ofU (immOf [a, b]) b.code = b := by first | exact Src.tripU ‹_› (immIsN ‹_›) | exact Src.tripU ‹_› (immIs ‹_› (by simp)) | exact Src.tripU ‹_› (immIsZ (by assumption) (by assumption)).2
  refine Eq.trans (b := some (.cmpS c w64 cond cmb ((codeOf pd).toNat) ((codeOf pc).toNat) (Src.ofU (immOf [a, b]) a.code) (Src.ofU (immOf [a, b]) b.code))) ?_ (by simp only [hpd, hpc, ha, hb]; try rfl)
  rw [raw_decodeIntS (by dsimp only; decide)]
  unfold decodeIntS
  dsimp only [Instr.sameWord, Fields.ua, Fields.ub, Fields.nd, Fields.ne]
  try simp (disch := omega) only [lo2, hi2, lo3, flMod, scMod, lowMod, cmbMod, ext_hi, ext_lo, bit_hi, bit_lo, Nat.reduceSub, Nat.sub_self, ext_all, bit_one, ext_wide, Option.bind_eq_bind, Option.bind_some, Cmb.trip, ICond.trip]
  all_goals first | rfl | (cases w64 <;> cases cond <;> cases cmb <;> first | rfl | exact absurd ‹(_ != _) = true› (by decide))
theorem movV (c : Ctl) (w64 : Bool) (d : Dst) (a : Src) : Statement (.movV c w64 d a) := by
  intro h
  refine decode_encode rfl rfl h ?_
  simp only [Instr.wellFormed, vv, uu, vvv, uuu, fvv, fuu, fvvv, fuuu, fv, fu, cmpOk, predsOk, Bool.and_eq_true, decide_eq_true_eq] at h
  replace h := And.intro h trivial
  try simp only [and_assoc] at h
  repeat (obtain ⟨_, h⟩ := h)
  have hd : Dst.ofCode d.code = d := by first | exact Dst.tripV ‹_› | exact Dst.tripU ‹_› | exact Dst.tripA ‹_›
  have ha : Src.ofV (immOf [a]) a.code = a := by first | exact Src.tripV ‹_› (immIsN ‹_›) | exact Src.tripV ‹_› immIs1
  refine Eq.trans (b := some (.movV c w64 (Dst.ofCode d.code) (Src.ofV (immOf [a]) a.code))) ?_ (by simp only [hd, ha]; try rfl)
  rw [raw_decodeIntV (by dsimp only; decide)]
  unfold decodeIntV
  dsimp only [Instr.sameWord, Fields.dst, Fields.va]
  try simp (disch := omega) only [lo2, hi2, lo3, flMod, scMod, lowMod, cmbMod, ext_hi, ext_lo, bit_hi, bit_lo, Nat.reduceSub, Nat.sub_self, ext_all, bit_one, ext_wide, Option.bind_eq_bind, Option.bind_some]
  all_goals first | rfl | (cases w64 <;> first | rfl | exact absurd ‹(_ != _) = true› (by decide))
theorem movS (c : Ctl) (w64 : Bool) (d : Dst) (a : Src) : Statement (.movS c w64 d a) := by
  intro h
  refine decode_encode rfl rfl h ?_
  simp only [Instr.wellFormed, vv, uu, vvv, uuu, fvv, fuu, fvvv, fuuu, fv, fu, cmpOk, predsOk, Bool.and_eq_true, decide_eq_true_eq] at h
  replace h := And.intro h trivial
  try simp only [and_assoc] at h
  repeat (obtain ⟨_, h⟩ := h)
  have hd : Dst.ofCode d.code = d := by first | exact Dst.tripV ‹_› | exact Dst.tripU ‹_› | exact Dst.tripA ‹_›
  have ha : Src.ofU (immOf [a]) a.code = a := by first | exact Src.tripU ‹_› (immIsN ‹_›) | exact Src.tripU ‹_› immIs1
  refine Eq.trans (b := some (.movS c w64 (Dst.ofCode d.code) (Src.ofU (immOf [a]) a.code))) ?_ (by simp only [hd, ha]; try rfl)
  rw [raw_decodeIntS (by dsimp only; decide)]
  unfold decodeIntS
  dsimp only [Instr.sameWord, Fields.dst, Fields.ua]
  try simp (disch := omega) only [lo2, hi2, lo3, flMod, scMod, lowMod, cmbMod, ext_hi, ext_lo, bit_hi, bit_lo, Nat.reduceSub, Nat.sub_self, ext_all, bit_one, ext_wide, Option.bind_eq_bind, Option.bind_some]
  all_goals first | rfl | (cases w64 <;> first | rfl | exact absurd ‹(_ != _) = true› (by decide))
theorem selV (c : Ctl) (w64 : Bool) (d : Dst) (a : Src) (b : Src) (p : Nat) : Statement (.selV c w64 d a b p) := by
  intro h
  refine decode_encode rfl rfl h ?_
  simp only [Instr.wellFormed, vv, uu, vvv, uuu, fvv, fuu, fvvv, fuuu, fv, fu, cmpOk, predsOk, Bool.and_eq_true, decide_eq_true_eq] at h
  replace h := And.intro h trivial
  try simp only [and_assoc] at h
  repeat (obtain ⟨_, h⟩ := h)
  have hd : Dst.ofCode d.code = d := by first | exact Dst.tripV ‹_› | exact Dst.tripU ‹_› | exact Dst.tripA ‹_›
  have ha : Src.ofV (immOf [a, b]) a.code = a := by first | exact Src.tripV ‹_› (immIsN ‹_›) | exact Src.tripV ‹_› (immIs ‹_› (by simp)) | exact Src.tripV ‹_› (immIsZ (by assumption) (by assumption)).1
  have hb : Src.ofV (immOf [a, b]) b.code = b := by first | exact Src.tripV ‹_› (immIsN ‹_›) | exact Src.tripV ‹_› (immIs ‹_› (by simp)) | exact Src.tripV ‹_› (immIsZ (by assumption) (by assumption)).2
  have hp : (codeOf p).toNat = p := by exact codeOf_toNat (by omega)
  refine Eq.trans (b := some (.selV c w64 (Dst.ofCode d.code) (Src.ofV (immOf [a, b]) a.code) (Src.ofV (immOf [a, b]) b.code) ((codeOf p).toNat))) ?_ (by simp only [hd, ha, hb, hp]; try rfl)
  rw [raw_decodeIntV (by dsimp only; decide)]
  unfold decodeIntV
  dsimp only [Instr.sameWord, Fields.dst, Fields.va, Fields.vb, Fields.ne]
  try simp (disch := omega) only [lo2, hi2, lo3, flMod, scMod, lowMod, cmbMod, ext_hi, ext_lo, bit_hi, bit_lo, Nat.reduceSub, Nat.sub_self, ext_all, bit_one, ext_wide, Option.bind_eq_bind, Option.bind_some]
  all_goals first | rfl | (cases w64 <;> first | rfl | exact absurd ‹(_ != _) = true› (by decide))
theorem divV (c : Ctl) (t : IT) (d : Dst) (a : Src) (b : Src) : Statement (.divV c t d a b) := by
  intro h
  refine decode_encode rfl rfl h ?_
  simp only [Instr.wellFormed, vv, uu, vvv, uuu, fvv, fuu, fvvv, fuuu, fv, fu, cmpOk, predsOk, Bool.and_eq_true, decide_eq_true_eq] at h
  replace h := And.intro h trivial
  try simp only [and_assoc] at h
  repeat (obtain ⟨_, h⟩ := h)
  have hd : Dst.ofCode d.code = d := by first | exact Dst.tripV ‹_› | exact Dst.tripU ‹_› | exact Dst.tripA ‹_›
  have ha : Src.ofV (immOf [a, b]) a.code = a := by first | exact Src.tripV ‹_› (immIsN ‹_›) | exact Src.tripV ‹_› (immIs ‹_› (by simp)) | exact Src.tripV ‹_› (immIsZ (by assumption) (by assumption)).1
  have hb : Src.ofV (immOf [a, b]) b.code = b := by first | exact Src.tripV ‹_› (immIsN ‹_›) | exact Src.tripV ‹_› (immIs ‹_› (by simp)) | exact Src.tripV ‹_› (immIsZ (by assumption) (by assumption)).2
  refine Eq.trans (b := some (.divV c t (Dst.ofCode d.code) (Src.ofV (immOf [a, b]) a.code) (Src.ofV (immOf [a, b]) b.code))) ?_ (by simp only [hd, ha, hb]; try rfl)
  rw [raw_decodeIntV (by dsimp only; decide)]
  unfold decodeIntV
  dsimp only [Instr.sameWord, Fields.dst, Fields.va, Fields.vb]
  try simp (disch := omega) only [lo2, hi2, lo3, flMod, scMod, lowMod, cmbMod, ext_hi, ext_lo, bit_hi, bit_lo, Nat.reduceSub, Nat.sub_self, ext_all, bit_one, ext_wide, Option.bind_eq_bind, Option.bind_some, IT.trip]
  all_goals first | rfl | (cases t <;> first | rfl | exact absurd ‹(_ != _) = true› (by decide))
theorem divS (c : Ctl) (t : IT) (d : Dst) (a : Src) (b : Src) : Statement (.divS c t d a b) := by
  intro h
  refine decode_encode rfl rfl h ?_
  simp only [Instr.wellFormed, vv, uu, vvv, uuu, fvv, fuu, fvvv, fuuu, fv, fu, cmpOk, predsOk, Bool.and_eq_true, decide_eq_true_eq] at h
  replace h := And.intro h trivial
  try simp only [and_assoc] at h
  repeat (obtain ⟨_, h⟩ := h)
  have hd : Dst.ofCode d.code = d := by first | exact Dst.tripV ‹_› | exact Dst.tripU ‹_› | exact Dst.tripA ‹_›
  have ha : Src.ofU (immOf [a, b]) a.code = a := by first | exact Src.tripU ‹_› (immIsN ‹_›) | exact Src.tripU ‹_› (immIs ‹_› (by simp)) | exact Src.tripU ‹_› (immIsZ (by assumption) (by assumption)).1
  have hb : Src.ofU (immOf [a, b]) b.code = b := by first | exact Src.tripU ‹_› (immIsN ‹_›) | exact Src.tripU ‹_› (immIs ‹_› (by simp)) | exact Src.tripU ‹_› (immIsZ (by assumption) (by assumption)).2
  refine Eq.trans (b := some (.divS c t (Dst.ofCode d.code) (Src.ofU (immOf [a, b]) a.code) (Src.ofU (immOf [a, b]) b.code))) ?_ (by simp only [hd, ha, hb]; try rfl)
  rw [raw_decodeIntS (by dsimp only; decide)]
  unfold decodeIntS
  dsimp only [Instr.sameWord, Fields.dst, Fields.ua, Fields.ub]
  try simp (disch := omega) only [lo2, hi2, lo3, flMod, scMod, lowMod, cmbMod, ext_hi, ext_lo, bit_hi, bit_lo, Nat.reduceSub, Nat.sub_self, ext_all, bit_one, ext_wide, Option.bind_eq_bind, Option.bind_some, IT.trip]
  all_goals first | rfl | (cases t <;> first | rfl | exact absurd ‹(_ != _) = true› (by decide))
theorem remV (c : Ctl) (t : IT) (d : Dst) (a : Src) (b : Src) : Statement (.remV c t d a b) := by
  intro h
  refine decode_encode rfl rfl h ?_
  simp only [Instr.wellFormed, vv, uu, vvv, uuu, fvv, fuu, fvvv, fuuu, fv, fu, cmpOk, predsOk, Bool.and_eq_true, decide_eq_true_eq] at h
  replace h := And.intro h trivial
  try simp only [and_assoc] at h
  repeat (obtain ⟨_, h⟩ := h)
  have hd : Dst.ofCode d.code = d := by first | exact Dst.tripV ‹_› | exact Dst.tripU ‹_› | exact Dst.tripA ‹_›
  have ha : Src.ofV (immOf [a, b]) a.code = a := by first | exact Src.tripV ‹_› (immIsN ‹_›) | exact Src.tripV ‹_› (immIs ‹_› (by simp)) | exact Src.tripV ‹_› (immIsZ (by assumption) (by assumption)).1
  have hb : Src.ofV (immOf [a, b]) b.code = b := by first | exact Src.tripV ‹_› (immIsN ‹_›) | exact Src.tripV ‹_› (immIs ‹_› (by simp)) | exact Src.tripV ‹_› (immIsZ (by assumption) (by assumption)).2
  refine Eq.trans (b := some (.remV c t (Dst.ofCode d.code) (Src.ofV (immOf [a, b]) a.code) (Src.ofV (immOf [a, b]) b.code))) ?_ (by simp only [hd, ha, hb]; try rfl)
  rw [raw_decodeIntV (by dsimp only; decide)]
  unfold decodeIntV
  dsimp only [Instr.sameWord, Fields.dst, Fields.va, Fields.vb]
  try simp (disch := omega) only [lo2, hi2, lo3, flMod, scMod, lowMod, cmbMod, ext_hi, ext_lo, bit_hi, bit_lo, Nat.reduceSub, Nat.sub_self, ext_all, bit_one, ext_wide, Option.bind_eq_bind, Option.bind_some, IT.trip]
  all_goals first | rfl | (cases t <;> first | rfl | exact absurd ‹(_ != _) = true› (by decide))
theorem remS (c : Ctl) (t : IT) (d : Dst) (a : Src) (b : Src) : Statement (.remS c t d a b) := by
  intro h
  refine decode_encode rfl rfl h ?_
  simp only [Instr.wellFormed, vv, uu, vvv, uuu, fvv, fuu, fvvv, fuuu, fv, fu, cmpOk, predsOk, Bool.and_eq_true, decide_eq_true_eq] at h
  replace h := And.intro h trivial
  try simp only [and_assoc] at h
  repeat (obtain ⟨_, h⟩ := h)
  have hd : Dst.ofCode d.code = d := by first | exact Dst.tripV ‹_› | exact Dst.tripU ‹_› | exact Dst.tripA ‹_›
  have ha : Src.ofU (immOf [a, b]) a.code = a := by first | exact Src.tripU ‹_› (immIsN ‹_›) | exact Src.tripU ‹_› (immIs ‹_› (by simp)) | exact Src.tripU ‹_› (immIsZ (by assumption) (by assumption)).1
  have hb : Src.ofU (immOf [a, b]) b.code = b := by first | exact Src.tripU ‹_› (immIsN ‹_›) | exact Src.tripU ‹_› (immIs ‹_› (by simp)) | exact Src.tripU ‹_› (immIsZ (by assumption) (by assumption)).2
  refine Eq.trans (b := some (.remS c t (Dst.ofCode d.code) (Src.ofU (immOf [a, b]) a.code) (Src.ofU (immOf [a, b]) b.code))) ?_ (by simp only [hd, ha, hb]; try rfl)
  rw [raw_decodeIntS (by dsimp only; decide)]
  unfold decodeIntS
  dsimp only [Instr.sameWord, Fields.dst, Fields.ua, Fields.ub]
  try simp (disch := omega) only [lo2, hi2, lo3, flMod, scMod, lowMod, cmbMod, ext_hi, ext_lo, bit_hi, bit_lo, Nat.reduceSub, Nat.sub_self, ext_all, bit_one, ext_wide, Option.bind_eq_bind, Option.bind_some, IT.trip]
  all_goals first | rfl | (cases t <;> first | rfl | exact absurd ‹(_ != _) = true› (by decide))
theorem addA (c : Ctl) (sg : Bool) (bu : Bool) (d : Dst) (a : Src) (b : Src) : Statement (.addA c sg bu d a b) := by
  intro h
  refine decode_encode rfl rfl h ?_
  cases bu
  · simp only [Instr.wellFormed, vv, uu, vvv, uuu, fvv, fuu, fvvv, fuuu, fv, fu, cmpOk, predsOk, Bool.and_eq_true, decide_eq_true_eq] at h ; try simp only [Bool.false_eq_true, if_false, if_true, reduceIte] at h
    replace h := And.intro h trivial
    try simp only [and_assoc] at h
    repeat (obtain ⟨_, h⟩ := h)
    have hd : Dst.ofCode d.code = d := by first | exact Dst.tripV ‹_› | exact Dst.tripU ‹_› | exact Dst.tripA ‹_›
    have ha : Src.ofA (immOf [a, b]) a.code = a := by first | exact Src.tripA ‹_› (immIsN ‹_›) | exact Src.tripA ‹_› (immIs ‹_› (by simp)) | exact Src.tripA ‹_› (immIsZ (by assumption) (by assumption)).1
    have hb : Src.ofA (immOf [a, b]) b.code = b := by exact Src.tripA ‹_› (immIs ‹_› (by simp))
    refine Eq.trans (b := some (.addA c sg false (Dst.ofCode d.code) (Src.ofA (immOf [a, b]) a.code) (Src.ofA (immOf [a, b]) b.code))) ?_ (by simp only [hd, ha, hb]; try rfl)
    rw [raw_decodeAffine (by dsimp only; decide)]
    unfold decodeAffine
    dsimp only [Instr.sameWord, Fields.dst, Fields.ub, Fields.aa, Fields.ab, Fields.aub]
    try simp (disch := omega) only [lo2, hi2, lo3, flMod, scMod, lowMod, cmbMod, ext_hi, ext_lo, bit_hi, bit_lo, Nat.reduceSub, Nat.sub_self, ext_all, bit_one, ext_wide, Option.bind_eq_bind, Option.bind_some]
    all_goals first | rfl | (cases sg <;> first | rfl | exact absurd ‹(_ != _) = true› (by decide))
  · simp only [Instr.wellFormed, vv, uu, vvv, uuu, fvv, fuu, fvvv, fuuu, fv, fu, cmpOk, predsOk, Bool.and_eq_true, decide_eq_true_eq] at h ; try simp only [Bool.false_eq_true, if_false, if_true, reduceIte] at h
    replace h := And.intro h trivial
    try simp only [and_assoc] at h
    repeat (obtain ⟨_, h⟩ := h)
    have hd : Dst.ofCode d.code = d := by first | exact Dst.tripV ‹_› | exact Dst.tripU ‹_› | exact Dst.tripA ‹_›
    have ha : Src.ofA (immOf [a, b]) a.code = a := by first | exact Src.tripA ‹_› (immIsN ‹_›) | exact Src.tripA ‹_› (immIs ‹_› (by simp)) | exact Src.tripA ‹_› (immIsZ (by assumption) (by assumption)).1
    have hb : Src.ofU (immOf [a, b]) b.code = b := by exact Src.tripU ‹_› (immIs ‹_› (by simp))
    refine Eq.trans (b := some (.addA c sg true (Dst.ofCode d.code) (Src.ofA (immOf [a, b]) a.code) (Src.ofU (immOf [a, b]) b.code))) ?_ (by simp only [hd, ha, hb]; try rfl)
    rw [raw_decodeAffine (by dsimp only; decide)]
    unfold decodeAffine
    dsimp only [Instr.sameWord, Fields.dst, Fields.ub, Fields.aa, Fields.ab, Fields.aub]
    try simp (disch := omega) only [lo2, hi2, lo3, flMod, scMod, lowMod, cmbMod, ext_hi, ext_lo, bit_hi, bit_lo, Nat.reduceSub, Nat.sub_self, ext_all, bit_one, ext_wide, Option.bind_eq_bind, Option.bind_some]
    all_goals first | rfl | (cases sg <;> first | rfl | exact absurd ‹(_ != _) = true› (by decide))
theorem subA (c : Ctl) (sg : Bool) (bu : Bool) (d : Dst) (a : Src) (b : Src) : Statement (.subA c sg bu d a b) := by
  intro h
  refine decode_encode rfl rfl h ?_
  cases bu
  · simp only [Instr.wellFormed, vv, uu, vvv, uuu, fvv, fuu, fvvv, fuuu, fv, fu, cmpOk, predsOk, Bool.and_eq_true, decide_eq_true_eq] at h ; try simp only [Bool.false_eq_true, if_false, if_true, reduceIte] at h
    replace h := And.intro h trivial
    try simp only [and_assoc] at h
    repeat (obtain ⟨_, h⟩ := h)
    have hd : Dst.ofCode d.code = d := by first | exact Dst.tripV ‹_› | exact Dst.tripU ‹_› | exact Dst.tripA ‹_›
    have ha : Src.ofA (immOf [a, b]) a.code = a := by first | exact Src.tripA ‹_› (immIsN ‹_›) | exact Src.tripA ‹_› (immIs ‹_› (by simp)) | exact Src.tripA ‹_› (immIsZ (by assumption) (by assumption)).1
    have hb : Src.ofA (immOf [a, b]) b.code = b := by exact Src.tripA ‹_› (immIs ‹_› (by simp))
    refine Eq.trans (b := some (.subA c sg false (Dst.ofCode d.code) (Src.ofA (immOf [a, b]) a.code) (Src.ofA (immOf [a, b]) b.code))) ?_ (by simp only [hd, ha, hb]; try rfl)
    rw [raw_decodeAffine (by dsimp only; decide)]
    unfold decodeAffine
    dsimp only [Instr.sameWord, Fields.dst, Fields.ub, Fields.aa, Fields.ab, Fields.aub]
    try simp (disch := omega) only [lo2, hi2, lo3, flMod, scMod, lowMod, cmbMod, ext_hi, ext_lo, bit_hi, bit_lo, Nat.reduceSub, Nat.sub_self, ext_all, bit_one, ext_wide, Option.bind_eq_bind, Option.bind_some]
    all_goals first | rfl | (cases sg <;> first | rfl | exact absurd ‹(_ != _) = true› (by decide))
  · simp only [Instr.wellFormed, vv, uu, vvv, uuu, fvv, fuu, fvvv, fuuu, fv, fu, cmpOk, predsOk, Bool.and_eq_true, decide_eq_true_eq] at h ; try simp only [Bool.false_eq_true, if_false, if_true, reduceIte] at h
    replace h := And.intro h trivial
    try simp only [and_assoc] at h
    repeat (obtain ⟨_, h⟩ := h)
    have hd : Dst.ofCode d.code = d := by first | exact Dst.tripV ‹_› | exact Dst.tripU ‹_› | exact Dst.tripA ‹_›
    have ha : Src.ofA (immOf [a, b]) a.code = a := by first | exact Src.tripA ‹_› (immIsN ‹_›) | exact Src.tripA ‹_› (immIs ‹_› (by simp)) | exact Src.tripA ‹_› (immIsZ (by assumption) (by assumption)).1
    have hb : Src.ofU (immOf [a, b]) b.code = b := by exact Src.tripU ‹_› (immIs ‹_› (by simp))
    refine Eq.trans (b := some (.subA c sg true (Dst.ofCode d.code) (Src.ofA (immOf [a, b]) a.code) (Src.ofU (immOf [a, b]) b.code))) ?_ (by simp only [hd, ha, hb]; try rfl)
    rw [raw_decodeAffine (by dsimp only; decide)]
    unfold decodeAffine
    dsimp only [Instr.sameWord, Fields.dst, Fields.ub, Fields.aa, Fields.ab, Fields.aub]
    try simp (disch := omega) only [lo2, hi2, lo3, flMod, scMod, lowMod, cmbMod, ext_hi, ext_lo, bit_hi, bit_lo, Nat.reduceSub, Nat.sub_self, ext_all, bit_one, ext_wide, Option.bind_eq_bind, Option.bind_some]
    all_goals first | rfl | (cases sg <;> first | rfl | exact absurd ‹(_ != _) = true› (by decide))
theorem mulA (c : Ctl) (sg : Bool) (d : Dst) (a : Src) (b : Src) : Statement (.mulA c sg d a b) := by
  intro h
  refine decode_encode rfl rfl h ?_
  simp only [Instr.wellFormed, vv, uu, vvv, uuu, fvv, fuu, fvvv, fuuu, fv, fu, cmpOk, predsOk, Bool.and_eq_true, decide_eq_true_eq] at h
  replace h := And.intro h trivial
  try simp only [and_assoc] at h
  repeat (obtain ⟨_, h⟩ := h)
  have hd : Dst.ofCode d.code = d := by first | exact Dst.tripV ‹_› | exact Dst.tripU ‹_› | exact Dst.tripA ‹_›
  have ha : Src.ofA (immOf [a, b]) a.code = a := by first | exact Src.tripA ‹_› (immIsN ‹_›) | exact Src.tripA ‹_› (immIs ‹_› (by simp)) | exact Src.tripA ‹_› (immIsZ (by assumption) (by assumption)).1
  have hb : Src.ofU (immOf [a, b]) b.code = b := by first | exact Src.tripU ‹_› (immIsN ‹_›) | exact Src.tripU ‹_› (immIs ‹_› (by simp)) | exact Src.tripU ‹_› (immIsZ (by assumption) (by assumption)).2
  refine Eq.trans (b := some (.mulA c sg (Dst.ofCode d.code) (Src.ofA (immOf [a, b]) a.code) (Src.ofU (immOf [a, b]) b.code))) ?_ (by simp only [hd, ha, hb]; try rfl)
  rw [raw_decodeAffine (by dsimp only; decide)]
  unfold decodeAffine
  dsimp only [Instr.sameWord, Fields.dst, Fields.ub, Fields.aa]
  try simp (disch := omega) only [lo2, hi2, lo3, flMod, scMod, lowMod, cmbMod, ext_hi, ext_lo, bit_hi, bit_lo, Nat.reduceSub, Nat.sub_self, ext_all, bit_one, ext_wide, Option.bind_eq_bind, Option.bind_some]
  all_goals first | rfl | (cases sg <;> first | rfl | exact absurd ‹(_ != _) = true› (by decide))
theorem madA (c : Ctl) (sg : Bool) (d : Dst) (a : Src) (b : Src) (e : Src) : Statement (.madA c sg d a b e) := by
  intro h
  refine decode_encode rfl rfl h ?_
  simp only [Instr.wellFormed, vv, uu, vvv, uuu, fvv, fuu, fvvv, fuuu, fv, fu, cmpOk, predsOk, Bool.and_eq_true, decide_eq_true_eq] at h
  replace h := And.intro h trivial
  try simp only [and_assoc] at h
  repeat (obtain ⟨_, h⟩ := h)
  have hd : Dst.ofCode d.code = d := by first | exact Dst.tripV ‹_› | exact Dst.tripU ‹_› | exact Dst.tripA ‹_›
  have ha : Src.ofA (immOf [a, b, e]) a.code = a := by first | exact Src.tripA ‹_› (immIsN ‹_›) | exact Src.tripA ‹_› (immIs ‹_› (by simp)) | exact Src.tripA ‹_› (immIsZ (by assumption) (by assumption)).1
  have hb : Src.ofU (immOf [a, b, e]) b.code = b := by first | exact Src.tripU ‹_› (immIsN ‹_›) | exact Src.tripU ‹_› (immIs ‹_› (by simp)) | exact Src.tripU ‹_› (immIsZ (by assumption) (by assumption)).2
  have he : Src.ofA (immOf [a, b, e]) e.code = e := by first | exact Src.tripA ‹_› (immIsN ‹_›) | exact Src.tripA ‹_› (immIs ‹_› (by simp)) | exact Src.tripA ‹_› (immIsZ (by assumption) (by assumption)).3
  refine Eq.trans (b := some (.madA c sg (Dst.ofCode d.code) (Src.ofA (immOf [a, b, e]) a.code) (Src.ofU (immOf [a, b, e]) b.code) (Src.ofA (immOf [a, b, e]) e.code))) ?_ (by simp only [hd, ha, hb, he]; try rfl)
  rw [raw_decodeAffine (by dsimp only; decide)]
  unfold decodeAffine
  dsimp only [Instr.sameWord, Fields.dst, Fields.ub, Fields.aa, Fields.ae]
  try simp (disch := omega) only [lo2, hi2, lo3, flMod, scMod, lowMod, cmbMod, ext_hi, ext_lo, bit_hi, bit_lo, Nat.reduceSub, Nat.sub_self, ext_all, bit_one, ext_wide, Option.bind_eq_bind, Option.bind_some]
  all_goals first | rfl | (cases sg <;> first | rfl | exact absurd ‹(_ != _) = true› (by decide))
theorem shlA (c : Ctl) (d : Dst) (a : Src) (b : Src) : Statement (.shlA c d a b) := by
  intro h
  refine decode_encode rfl rfl h ?_
  simp only [Instr.wellFormed, vv, uu, vvv, uuu, fvv, fuu, fvvv, fuuu, fv, fu, cmpOk, predsOk, Bool.and_eq_true, decide_eq_true_eq] at h
  replace h := And.intro h trivial
  try simp only [and_assoc] at h
  repeat (obtain ⟨_, h⟩ := h)
  have hd : Dst.ofCode d.code = d := by first | exact Dst.tripV ‹_› | exact Dst.tripU ‹_› | exact Dst.tripA ‹_›
  have ha : Src.ofA (immOf [a, b]) a.code = a := by first | exact Src.tripA ‹_› (immIsN ‹_›) | exact Src.tripA ‹_› (immIs ‹_› (by simp)) | exact Src.tripA ‹_› (immIsZ (by assumption) (by assumption)).1
  have hb : Src.ofU (immOf [a, b]) b.code = b := by first | exact Src.tripU ‹_› (immIsN ‹_›) | exact Src.tripU ‹_› (immIs ‹_› (by simp)) | exact Src.tripU ‹_› (immIsZ (by assumption) (by assumption)).2
  refine Eq.trans (b := some (.shlA c (Dst.ofCode d.code) (Src.ofA (immOf [a, b]) a.code) (Src.ofU (immOf [a, b]) b.code))) ?_ (by simp only [hd, ha, hb]; try rfl)
  rw [raw_decodeAffine (by dsimp only; decide)]
  unfold decodeAffine
  dsimp only [Instr.sameWord, Fields.dst, Fields.ub, Fields.aa]
  all_goals rfl
theorem cmpA (c : Ctl) (bu : Bool) (cond : ICond) (cmb : Cmb) (pd : Nat) (pc : Nat) (a : Src) (b : Src) : Statement (.cmpA c bu cond cmb pd pc a b) := by
  intro h
  refine decode_encode rfl rfl h ?_
  cases bu
  · simp only [Instr.wellFormed, vv, uu, vvv, uuu, fvv, fuu, fvvv, fuuu, fv, fu, cmpOk, predsOk, Bool.and_eq_true, decide_eq_true_eq] at h ; try simp only [Bool.false_eq_true, if_false, if_true, reduceIte] at h
    replace h := And.intro h trivial
    try simp only [and_assoc] at h
    repeat (obtain ⟨_, h⟩ := h)
    have hpd : (codeOf pd).toNat = pd := by exact codeOf_toNat (by omega)
    have hpc : (codeOf pc).toNat = pc := by exact codeOf_toNat (by omega)
    have ha : Src.ofA (immOf [a, b]) a.code = a := by first | exact Src.tripA ‹_› (immIsN ‹_›) | exact Src.tripA ‹_› (immIs ‹_› (by simp)) | exact Src.tripA ‹_› (immIsZ (by assumption) (by assumption)).1
    have hb : Src.ofA (immOf [a, b]) b.code = b := by exact Src.tripA ‹_› (immIs ‹_› (by simp))
    refine Eq.trans (b := some (.cmpA c false cond cmb ((codeOf pd).toNat) ((codeOf pc).toNat) (Src.ofA (immOf [a, b]) a.code) (Src.ofA (immOf [a, b]) b.code))) ?_ (by simp only [hpd, hpc, ha, hb]; try rfl)
    rw [raw_decodeAffine (by dsimp only; decide)]
    unfold decodeAffine
    dsimp only [Instr.sameWord, Fields.ub, Fields.aa, Fields.ab, Fields.nd, Fields.ne, Fields.aub]
    try simp (disch := omega) only [lo2, hi2, lo3, flMod, scMod, lowMod, cmbMod, ext_hi, ext_lo, bit_hi, bit_lo, Nat.reduceSub, Nat.sub_self, ext_all, bit_one, ext_wide, Option.bind_eq_bind, Option.bind_some, Cmb.trip, ICond.trip]
    all_goals first | rfl | (cases cond <;> cases cmb <;> first | rfl | exact absurd ‹(_ != _) = true› (by decide))
  · simp only [Instr.wellFormed, vv, uu, vvv, uuu, fvv, fuu, fvvv, fuuu, fv, fu, cmpOk, predsOk, Bool.and_eq_true, decide_eq_true_eq] at h ; try simp only [Bool.false_eq_true, if_false, if_true, reduceIte] at h
    replace h := And.intro h trivial
    try simp only [and_assoc] at h
    repeat (obtain ⟨_, h⟩ := h)
    have hpd : (codeOf pd).toNat = pd := by exact codeOf_toNat (by omega)
    have hpc : (codeOf pc).toNat = pc := by exact codeOf_toNat (by omega)
    have ha : Src.ofA (immOf [a, b]) a.code = a := by first | exact Src.tripA ‹_› (immIsN ‹_›) | exact Src.tripA ‹_› (immIs ‹_› (by simp)) | exact Src.tripA ‹_› (immIsZ (by assumption) (by assumption)).1
    have hb : Src.ofU (immOf [a, b]) b.code = b := by exact Src.tripU ‹_› (immIs ‹_› (by simp))
    refine Eq.trans (b := some (.cmpA c true cond cmb ((codeOf pd).toNat) ((codeOf pc).toNat) (Src.ofA (immOf [a, b]) a.code) (Src.ofU (immOf [a, b]) b.code))) ?_ (by simp only [hpd, hpc, ha, hb]; try rfl)
    rw [raw_decodeAffine (by dsimp only; decide)]
    unfold decodeAffine
    dsimp only [Instr.sameWord, Fields.ub, Fields.aa, Fields.ab, Fields.nd, Fields.ne, Fields.aub]
    try simp (disch := omega) only [lo2, hi2, lo3, flMod, scMod, lowMod, cmbMod, ext_hi, ext_lo, bit_hi, bit_lo, Nat.reduceSub, Nat.sub_self, ext_all, bit_one, ext_wide, Option.bind_eq_bind, Option.bind_some, Cmb.trip, ICond.trip]
    all_goals first | rfl | (cases cond <;> cases cmb <;> first | rfl | exact absurd ‹(_ != _) = true› (by decide))
theorem movA (c : Ctl) (d : Dst) (a : Src) : Statement (.movA c d a) := by
  intro h
  refine decode_encode rfl rfl h ?_
  simp only [Instr.wellFormed, vv, uu, vvv, uuu, fvv, fuu, fvvv, fuuu, fv, fu, cmpOk, predsOk, Bool.and_eq_true, decide_eq_true_eq] at h
  replace h := And.intro h trivial
  try simp only [and_assoc] at h
  repeat (obtain ⟨_, h⟩ := h)
  have hd : Dst.ofCode d.code = d := by first | exact Dst.tripV ‹_› | exact Dst.tripU ‹_› | exact Dst.tripA ‹_›
  have ha : Src.ofA (immOf [a]) a.code = a := by first | exact Src.tripA ‹_› (immIsN ‹_›) | exact Src.tripA ‹_› immIs1
  refine Eq.trans (b := some (.movA c (Dst.ofCode d.code) (Src.ofA (immOf [a]) a.code))) ?_ (by simp only [hd, ha]; try rfl)
  rw [raw_decodeAffine (by dsimp only; decide)]
  unfold decodeAffine
  dsimp only [Instr.sameWord, Fields.dst, Fields.aa]
  all_goals rfl
theorem rampA (c : Ctl) (d : Dst) (a : Src) (b : Src) : Statement (.rampA c d a b) := by
  intro h
  refine decode_encode rfl rfl h ?_
  simp only [Instr.wellFormed, vv, uu, vvv, uuu, fvv, fuu, fvvv, fuuu, fv, fu, cmpOk, predsOk, Bool.and_eq_true, decide_eq_true_eq] at h
  replace h := And.intro h trivial
  try simp only [and_assoc] at h
  repeat (obtain ⟨_, h⟩ := h)
  have hd : Dst.ofCode d.code = d := by first | exact Dst.tripV ‹_› | exact Dst.tripU ‹_› | exact Dst.tripA ‹_›
  have ha : Src.ofU (immOf [a, b]) a.code = a := by first | exact Src.tripU ‹_› (immIsN ‹_›) | exact Src.tripU ‹_› (immIs ‹_› (by simp)) | exact Src.tripU ‹_› (immIsZ (by assumption) (by assumption)).1
  have hb : Src.ofU (immOf [a, b]) b.code = b := by first | exact Src.tripU ‹_› (immIsN ‹_›) | exact Src.tripU ‹_› (immIs ‹_› (by simp)) | exact Src.tripU ‹_› (immIsZ (by assumption) (by assumption)).2
  refine Eq.trans (b := some (.rampA c (Dst.ofCode d.code) (Src.ofU (immOf [a, b]) a.code) (Src.ofU (immOf [a, b]) b.code))) ?_ (by simp only [hd, ha, hb]; try rfl)
  rw [raw_decodeAffine (by dsimp only; decide)]
  unfold decodeAffine
  dsimp only [Instr.sameWord, Fields.dst, Fields.ua, Fields.ub]
  all_goals rfl
theorem spread (c : Ctl) (w64 : Bool) (d : Dst) (a : Src) : Statement (.spread c w64 d a) := by
  intro h
  refine decode_encode rfl rfl h ?_
  simp only [Instr.wellFormed, vv, uu, vvv, uuu, fvv, fuu, fvvv, fuuu, fv, fu, cmpOk, predsOk, Bool.and_eq_true, decide_eq_true_eq] at h
  replace h := And.intro h trivial
  try simp only [and_assoc] at h
  repeat (obtain ⟨_, h⟩ := h)
  have hd : Dst.ofCode d.code = d := by first | exact Dst.tripV ‹_› | exact Dst.tripU ‹_› | exact Dst.tripA ‹_›
  have ha : Src.ofU (immOf [a]) a.code = a := by first | exact Src.tripU ‹_› (immIsN ‹_›) | exact Src.tripU ‹_› immIs1
  refine Eq.trans (b := some (.spread c w64 (Dst.ofCode d.code) (Src.ofU (immOf [a]) a.code))) ?_ (by simp only [hd, ha]; try rfl)
  rw [raw_decodeIntV (by dsimp only; decide)]
  unfold decodeIntV
  dsimp only [Instr.sameWord, Fields.dst, Fields.ua]
  try simp (disch := omega) only [lo2, hi2, lo3, flMod, scMod, lowMod, cmbMod, ext_hi, ext_lo, bit_hi, bit_lo, Nat.reduceSub, Nat.sub_self, ext_all, bit_one, ext_wide, Option.bind_eq_bind, Option.bind_some]
  all_goals first | rfl | (cases w64 <;> first | rfl | exact absurd ‹(_ != _) = true› (by decide))
theorem mat (c : Ctl) (w64 : Bool) (d : Dst) (a : Src) : Statement (.mat c w64 d a) := by
  intro h
  refine decode_encode rfl rfl h ?_
  simp only [Instr.wellFormed, vv, uu, vvv, uuu, fvv, fuu, fvvv, fuuu, fv, fu, cmpOk, predsOk, Bool.and_eq_true, decide_eq_true_eq] at h
  replace h := And.intro h trivial
  try simp only [and_assoc] at h
  repeat (obtain ⟨_, h⟩ := h)
  have hd : Dst.ofCode d.code = d := by first | exact Dst.tripV ‹_› | exact Dst.tripU ‹_› | exact Dst.tripA ‹_›
  have ha : Src.ofA (immOf [a]) a.code = a := by first | exact Src.tripA ‹_› (immIsN ‹_›) | exact Src.tripA ‹_› immIs1
  refine Eq.trans (b := some (.mat c w64 (Dst.ofCode d.code) (Src.ofA (immOf [a]) a.code))) ?_ (by simp only [hd, ha]; try rfl)
  rw [raw_decodeIntV (by dsimp only; decide)]
  unfold decodeIntV
  dsimp only [Instr.sameWord, Fields.dst, Fields.aa]
  try simp (disch := omega) only [lo2, hi2, lo3, flMod, scMod, lowMod, cmbMod, ext_hi, ext_lo, bit_hi, bit_lo, Nat.reduceSub, Nat.sub_self, ext_all, bit_one, ext_wide, Option.bind_eq_bind, Option.bind_some]
  all_goals first | rfl | (cases w64 <;> first | rfl | exact absurd ‹(_ != _) = true› (by decide))
theorem agree (c : Ctl) (w64 : Bool) (d : Dst) (a : Src) (p : Nat) : Statement (.agree c w64 d a p) := by
  intro h
  refine decode_encode rfl rfl h ?_
  simp only [Instr.wellFormed, vv, uu, vvv, uuu, fvv, fuu, fvvv, fuuu, fv, fu, cmpOk, predsOk, Bool.and_eq_true, decide_eq_true_eq] at h
  replace h := And.intro h trivial
  try simp only [and_assoc] at h
  repeat (obtain ⟨_, h⟩ := h)
  have hd : Dst.ofCode d.code = d := by first | exact Dst.tripV ‹_› | exact Dst.tripU ‹_› | exact Dst.tripA ‹_›
  have ha : Src.ofV (immOf [a]) a.code = a := by first | exact Src.tripV ‹_› (immIsN ‹_›) | exact Src.tripV ‹_› immIs1
  have hp : (codeOf p).toNat = p := by exact codeOf_toNat (by omega)
  refine Eq.trans (b := some (.agree c w64 (Dst.ofCode d.code) (Src.ofV (immOf [a]) a.code) ((codeOf p).toNat))) ?_ (by simp only [hd, ha, hp]; try rfl)
  rw [raw_decodeIntS (by dsimp only; decide)]
  unfold decodeIntS
  dsimp only [Instr.sameWord, Fields.dst, Fields.va, Fields.ne]
  try simp (disch := omega) only [lo2, hi2, lo3, flMod, scMod, lowMod, cmbMod, ext_hi, ext_lo, bit_hi, bit_lo, Nat.reduceSub, Nat.sub_self, ext_all, bit_one, ext_wide, Option.bind_eq_bind, Option.bind_some]
  all_goals first | rfl | (cases w64 <;> first | rfl | exact absurd ‹(_ != _) = true› (by decide))
theorem firstLane (c : Ctl) (w64 : Bool) (d : Dst) (a : Src) : Statement (.firstLane c w64 d a) := by
  intro h
  refine decode_encode rfl rfl h ?_
  simp only [Instr.wellFormed, vv, uu, vvv, uuu, fvv, fuu, fvvv, fuuu, fv, fu, cmpOk, predsOk, Bool.and_eq_true, decide_eq_true_eq] at h
  replace h := And.intro h trivial
  try simp only [and_assoc] at h
  repeat (obtain ⟨_, h⟩ := h)
  have hd : Dst.ofCode d.code = d := by first | exact Dst.tripV ‹_› | exact Dst.tripU ‹_› | exact Dst.tripA ‹_›
  have ha : Src.ofV (immOf [a]) a.code = a := by first | exact Src.tripV ‹_› (immIsN ‹_›) | exact Src.tripV ‹_› immIs1
  refine Eq.trans (b := some (.firstLane c w64 (Dst.ofCode d.code) (Src.ofV (immOf [a]) a.code))) ?_ (by simp only [hd, ha]; try rfl)
  rw [raw_decodeIntS (by dsimp only; decide)]
  unfold decodeIntS
  dsimp only [Instr.sameWord, Fields.dst, Fields.va]
  try simp (disch := omega) only [lo2, hi2, lo3, flMod, scMod, lowMod, cmbMod, ext_hi, ext_lo, bit_hi, bit_lo, Nat.reduceSub, Nat.sub_self, ext_all, bit_one, ext_wide, Option.bind_eq_bind, Option.bind_some]
  all_goals first | rfl | (cases w64 <;> first | rfl | exact absurd ‹(_ != _) = true› (by decide))
theorem addVF (c : Ctl) (t : FT) (sat : Bool) (r : Rnd) (d : Dst) (a : Src) (b : Src) : Statement (.addVF c t sat r d a b) := by
  intro h
  refine decode_encode rfl rfl h ?_
  simp only [Instr.wellFormed, vv, uu, vvv, uuu, fvv, fuu, fvvv, fuuu, fv, fu, cmpOk, predsOk, Bool.and_eq_true, decide_eq_true_eq] at h
  replace h := And.intro h trivial
  try simp only [and_assoc] at h
  repeat (obtain ⟨_, h⟩ := h)
  have hd : Dst.ofCode d.code = d := by first | exact Dst.tripV ‹_› | exact Dst.tripU ‹_› | exact Dst.tripA ‹_›
  have ha : Src.ofV (immOf [a, b]) a.code = a := by first | exact Src.tripV ‹_› (immIsN ‹_›) | exact Src.tripV ‹_› (immIs ‹_› (by simp)) | exact Src.tripV ‹_› (immIsZ (by assumption) (by assumption)).1
  have hb : Src.ofV (immOf [a, b]) b.code = b := by first | exact Src.tripV ‹_› (immIsN ‹_›) | exact Src.tripV ‹_› (immIs ‹_› (by simp)) | exact Src.tripV ‹_› (immIsZ (by assumption) (by assumption)).2
  refine Eq.trans (b := some (.addVF c t sat r (Dst.ofCode d.code) (Src.ofV (immOf [a, b]) a.code) (Src.ofV (immOf [a, b]) b.code))) ?_ (by simp only [hd, ha, hb]; try rfl)
  rw [raw_decodeFltV (by dsimp only; decide)]
  unfold decodeFltV
  dsimp only [Instr.sameWord, Fields.dst, Fields.va, Fields.vb]
  try simp (disch := omega) only [lo2, hi2, lo3, flMod, scMod, lowMod, cmbMod, ext_hi, ext_lo, bit_hi, bit_lo, Nat.reduceSub, Nat.sub_self, ext_all, bit_one, ext_wide, Option.bind_eq_bind, Option.bind_some, FT.trip, Rnd.trip]
  all_goals first | rfl | (cases t <;> cases sat <;> cases r <;> first | rfl | exact absurd ‹(_ != _) = true› (by decide))
theorem subVF (c : Ctl) (t : FT) (sat : Bool) (r : Rnd) (d : Dst) (a : Src) (b : Src) : Statement (.subVF c t sat r d a b) := by
  intro h
  refine decode_encode rfl rfl h ?_
  simp only [Instr.wellFormed, vv, uu, vvv, uuu, fvv, fuu, fvvv, fuuu, fv, fu, cmpOk, predsOk, Bool.and_eq_true, decide_eq_true_eq] at h
  replace h := And.intro h trivial
  try simp only [and_assoc] at h
  repeat (obtain ⟨_, h⟩ := h)
  have hd : Dst.ofCode d.code = d := by first | exact Dst.tripV ‹_› | exact Dst.tripU ‹_› | exact Dst.tripA ‹_›
  have ha : Src.ofV (immOf [a, b]) a.code = a := by first | exact Src.tripV ‹_› (immIsN ‹_›) | exact Src.tripV ‹_› (immIs ‹_› (by simp)) | exact Src.tripV ‹_› (immIsZ (by assumption) (by assumption)).1
  have hb : Src.ofV (immOf [a, b]) b.code = b := by first | exact Src.tripV ‹_› (immIsN ‹_›) | exact Src.tripV ‹_› (immIs ‹_› (by simp)) | exact Src.tripV ‹_› (immIsZ (by assumption) (by assumption)).2
  refine Eq.trans (b := some (.subVF c t sat r (Dst.ofCode d.code) (Src.ofV (immOf [a, b]) a.code) (Src.ofV (immOf [a, b]) b.code))) ?_ (by simp only [hd, ha, hb]; try rfl)
  rw [raw_decodeFltV (by dsimp only; decide)]
  unfold decodeFltV
  dsimp only [Instr.sameWord, Fields.dst, Fields.va, Fields.vb]
  try simp (disch := omega) only [lo2, hi2, lo3, flMod, scMod, lowMod, cmbMod, ext_hi, ext_lo, bit_hi, bit_lo, Nat.reduceSub, Nat.sub_self, ext_all, bit_one, ext_wide, Option.bind_eq_bind, Option.bind_some, FT.trip, Rnd.trip]
  all_goals first | rfl | (cases t <;> cases sat <;> cases r <;> first | rfl | exact absurd ‹(_ != _) = true› (by decide))
theorem mulVF (c : Ctl) (t : FT) (sat : Bool) (r : Rnd) (d : Dst) (a : Src) (b : Src) : Statement (.mulVF c t sat r d a b) := by
  intro h
  refine decode_encode rfl rfl h ?_
  simp only [Instr.wellFormed, vv, uu, vvv, uuu, fvv, fuu, fvvv, fuuu, fv, fu, cmpOk, predsOk, Bool.and_eq_true, decide_eq_true_eq] at h
  replace h := And.intro h trivial
  try simp only [and_assoc] at h
  repeat (obtain ⟨_, h⟩ := h)
  have hd : Dst.ofCode d.code = d := by first | exact Dst.tripV ‹_› | exact Dst.tripU ‹_› | exact Dst.tripA ‹_›
  have ha : Src.ofV (immOf [a, b]) a.code = a := by first | exact Src.tripV ‹_› (immIsN ‹_›) | exact Src.tripV ‹_› (immIs ‹_› (by simp)) | exact Src.tripV ‹_› (immIsZ (by assumption) (by assumption)).1
  have hb : Src.ofV (immOf [a, b]) b.code = b := by first | exact Src.tripV ‹_› (immIsN ‹_›) | exact Src.tripV ‹_› (immIs ‹_› (by simp)) | exact Src.tripV ‹_› (immIsZ (by assumption) (by assumption)).2
  refine Eq.trans (b := some (.mulVF c t sat r (Dst.ofCode d.code) (Src.ofV (immOf [a, b]) a.code) (Src.ofV (immOf [a, b]) b.code))) ?_ (by simp only [hd, ha, hb]; try rfl)
  rw [raw_decodeFltV (by dsimp only; decide)]
  unfold decodeFltV
  dsimp only [Instr.sameWord, Fields.dst, Fields.va, Fields.vb]
  try simp (disch := omega) only [lo2, hi2, lo3, flMod, scMod, lowMod, cmbMod, ext_hi, ext_lo, bit_hi, bit_lo, Nat.reduceSub, Nat.sub_self, ext_all, bit_one, ext_wide, Option.bind_eq_bind, Option.bind_some, FT.trip, Rnd.trip]
  all_goals first | rfl | (cases t <;> cases sat <;> cases r <;> first | rfl | exact absurd ‹(_ != _) = true› (by decide))
theorem fmaV (c : Ctl) (t : FT) (sat : Bool) (r : Rnd) (d : Dst) (a : Src) (b : Src) (e : Src) : Statement (.fmaV c t sat r d a b e) := by
  intro h
  refine decode_encode rfl rfl h ?_
  simp only [Instr.wellFormed, vv, uu, vvv, uuu, fvv, fuu, fvvv, fuuu, fv, fu, cmpOk, predsOk, Bool.and_eq_true, decide_eq_true_eq] at h
  replace h := And.intro h trivial
  try simp only [and_assoc] at h
  repeat (obtain ⟨_, h⟩ := h)
  have hd : Dst.ofCode d.code = d := by first | exact Dst.tripV ‹_› | exact Dst.tripU ‹_› | exact Dst.tripA ‹_›
  have ha : Src.ofV (immOf [a, b, e]) a.code = a := by first | exact Src.tripV ‹_› (immIsN ‹_›) | exact Src.tripV ‹_› (immIs ‹_› (by simp)) | exact Src.tripV ‹_› (immIsZ (by assumption) (by assumption)).1
  have hb : Src.ofV (immOf [a, b, e]) b.code = b := by first | exact Src.tripV ‹_› (immIsN ‹_›) | exact Src.tripV ‹_› (immIs ‹_› (by simp)) | exact Src.tripV ‹_› (immIsZ (by assumption) (by assumption)).2
  have he : Src.ofV (immOf [a, b, e]) e.code = e := by first | exact Src.tripV ‹_› (immIsN ‹_›) | exact Src.tripV ‹_› (immIs ‹_› (by simp)) | exact Src.tripV ‹_› (immIsZ (by assumption) (by assumption)).3
  refine Eq.trans (b := some (.fmaV c t sat r (Dst.ofCode d.code) (Src.ofV (immOf [a, b, e]) a.code) (Src.ofV (immOf [a, b, e]) b.code) (Src.ofV (immOf [a, b, e]) e.code))) ?_ (by simp only [hd, ha, hb, he]; try rfl)
  rw [raw_decodeFltV (by dsimp only; decide)]
  unfold decodeFltV
  dsimp only [Instr.sameWord, Fields.dst, Fields.va, Fields.vb, Fields.ve]
  try simp (disch := omega) only [lo2, hi2, lo3, flMod, scMod, lowMod, cmbMod, ext_hi, ext_lo, bit_hi, bit_lo, Nat.reduceSub, Nat.sub_self, ext_all, bit_one, ext_wide, Option.bind_eq_bind, Option.bind_some, FT.trip, Rnd.trip]
  all_goals first | rfl | (cases t <;> cases sat <;> cases r <;> first | rfl | exact absurd ‹(_ != _) = true› (by decide))
theorem minVF (c : Ctl) (t : FT) (d : Dst) (a : Src) (b : Src) : Statement (.minVF c t d a b) := by
  intro h
  refine decode_encode rfl rfl h ?_
  simp only [Instr.wellFormed, vv, uu, vvv, uuu, fvv, fuu, fvvv, fuuu, fv, fu, cmpOk, predsOk, Bool.and_eq_true, decide_eq_true_eq] at h
  replace h := And.intro h trivial
  try simp only [and_assoc] at h
  repeat (obtain ⟨_, h⟩ := h)
  have hd : Dst.ofCode d.code = d := by first | exact Dst.tripV ‹_› | exact Dst.tripU ‹_› | exact Dst.tripA ‹_›
  have ha : Src.ofV (immOf [a, b]) a.code = a := by first | exact Src.tripV ‹_› (immIsN ‹_›) | exact Src.tripV ‹_› (immIs ‹_› (by simp)) | exact Src.tripV ‹_› (immIsZ (by assumption) (by assumption)).1
  have hb : Src.ofV (immOf [a, b]) b.code = b := by first | exact Src.tripV ‹_› (immIsN ‹_›) | exact Src.tripV ‹_› (immIs ‹_› (by simp)) | exact Src.tripV ‹_› (immIsZ (by assumption) (by assumption)).2
  refine Eq.trans (b := some (.minVF c t (Dst.ofCode d.code) (Src.ofV (immOf [a, b]) a.code) (Src.ofV (immOf [a, b]) b.code))) ?_ (by simp only [hd, ha, hb]; try rfl)
  rw [raw_decodeFltV (by dsimp only; decide)]
  unfold decodeFltV
  dsimp only [Instr.sameWord, Fields.dst, Fields.va, Fields.vb]
  try simp (disch := omega) only [lo2, hi2, lo3, flMod, scMod, lowMod, cmbMod, ext_hi, ext_lo, bit_hi, bit_lo, Nat.reduceSub, Nat.sub_self, ext_all, bit_one, ext_wide, Option.bind_eq_bind, Option.bind_some, FT.trip]
  all_goals first | rfl | (cases t <;> first | rfl | exact absurd ‹(_ != _) = true› (by decide))
theorem maxVF (c : Ctl) (t : FT) (d : Dst) (a : Src) (b : Src) : Statement (.maxVF c t d a b) := by
  intro h
  refine decode_encode rfl rfl h ?_
  simp only [Instr.wellFormed, vv, uu, vvv, uuu, fvv, fuu, fvvv, fuuu, fv, fu, cmpOk, predsOk, Bool.and_eq_true, decide_eq_true_eq] at h
  replace h := And.intro h trivial
  try simp only [and_assoc] at h
  repeat (obtain ⟨_, h⟩ := h)
  have hd : Dst.ofCode d.code = d := by first | exact Dst.tripV ‹_› | exact Dst.tripU ‹_› | exact Dst.tripA ‹_›
  have ha : Src.ofV (immOf [a, b]) a.code = a := by first | exact Src.tripV ‹_› (immIsN ‹_›) | exact Src.tripV ‹_› (immIs ‹_› (by simp)) | exact Src.tripV ‹_› (immIsZ (by assumption) (by assumption)).1
  have hb : Src.ofV (immOf [a, b]) b.code = b := by first | exact Src.tripV ‹_› (immIsN ‹_›) | exact Src.tripV ‹_› (immIs ‹_› (by simp)) | exact Src.tripV ‹_› (immIsZ (by assumption) (by assumption)).2
  refine Eq.trans (b := some (.maxVF c t (Dst.ofCode d.code) (Src.ofV (immOf [a, b]) a.code) (Src.ofV (immOf [a, b]) b.code))) ?_ (by simp only [hd, ha, hb]; try rfl)
  rw [raw_decodeFltV (by dsimp only; decide)]
  unfold decodeFltV
  dsimp only [Instr.sameWord, Fields.dst, Fields.va, Fields.vb]
  try simp (disch := omega) only [lo2, hi2, lo3, flMod, scMod, lowMod, cmbMod, ext_hi, ext_lo, bit_hi, bit_lo, Nat.reduceSub, Nat.sub_self, ext_all, bit_one, ext_wide, Option.bind_eq_bind, Option.bind_some, FT.trip]
  all_goals first | rfl | (cases t <;> first | rfl | exact absurd ‹(_ != _) = true› (by decide))
theorem minnumV (c : Ctl) (t : FT) (d : Dst) (a : Src) (b : Src) : Statement (.minnumV c t d a b) := by
  intro h
  refine decode_encode rfl rfl h ?_
  simp only [Instr.wellFormed, vv, uu, vvv, uuu, fvv, fuu, fvvv, fuuu, fv, fu, cmpOk, predsOk, Bool.and_eq_true, decide_eq_true_eq] at h
  replace h := And.intro h trivial
  try simp only [and_assoc] at h
  repeat (obtain ⟨_, h⟩ := h)
  have hd : Dst.ofCode d.code = d := by first | exact Dst.tripV ‹_› | exact Dst.tripU ‹_› | exact Dst.tripA ‹_›
  have ha : Src.ofV (immOf [a, b]) a.code = a := by first | exact Src.tripV ‹_› (immIsN ‹_›) | exact Src.tripV ‹_› (immIs ‹_› (by simp)) | exact Src.tripV ‹_› (immIsZ (by assumption) (by assumption)).1
  have hb : Src.ofV (immOf [a, b]) b.code = b := by first | exact Src.tripV ‹_› (immIsN ‹_›) | exact Src.tripV ‹_› (immIs ‹_› (by simp)) | exact Src.tripV ‹_› (immIsZ (by assumption) (by assumption)).2
  refine Eq.trans (b := some (.minnumV c t (Dst.ofCode d.code) (Src.ofV (immOf [a, b]) a.code) (Src.ofV (immOf [a, b]) b.code))) ?_ (by simp only [hd, ha, hb]; try rfl)
  rw [raw_decodeFltV (by dsimp only; decide)]
  unfold decodeFltV
  dsimp only [Instr.sameWord, Fields.dst, Fields.va, Fields.vb]
  try simp (disch := omega) only [lo2, hi2, lo3, flMod, scMod, lowMod, cmbMod, ext_hi, ext_lo, bit_hi, bit_lo, Nat.reduceSub, Nat.sub_self, ext_all, bit_one, ext_wide, Option.bind_eq_bind, Option.bind_some, FT.trip]
  all_goals first | rfl | (cases t <;> first | rfl | exact absurd ‹(_ != _) = true› (by decide))
theorem maxnumV (c : Ctl) (t : FT) (d : Dst) (a : Src) (b : Src) : Statement (.maxnumV c t d a b) := by
  intro h
  refine decode_encode rfl rfl h ?_
  simp only [Instr.wellFormed, vv, uu, vvv, uuu, fvv, fuu, fvvv, fuuu, fv, fu, cmpOk, predsOk, Bool.and_eq_true, decide_eq_true_eq] at h
  replace h := And.intro h trivial
  try simp only [and_assoc] at h
  repeat (obtain ⟨_, h⟩ := h)
  have hd : Dst.ofCode d.code = d := by first | exact Dst.tripV ‹_› | exact Dst.tripU ‹_› | exact Dst.tripA ‹_›
  have ha : Src.ofV (immOf [a, b]) a.code = a := by first | exact Src.tripV ‹_› (immIsN ‹_›) | exact Src.tripV ‹_› (immIs ‹_› (by simp)) | exact Src.tripV ‹_› (immIsZ (by assumption) (by assumption)).1
  have hb : Src.ofV (immOf [a, b]) b.code = b := by first | exact Src.tripV ‹_› (immIsN ‹_›) | exact Src.tripV ‹_› (immIs ‹_› (by simp)) | exact Src.tripV ‹_› (immIsZ (by assumption) (by assumption)).2
  refine Eq.trans (b := some (.maxnumV c t (Dst.ofCode d.code) (Src.ofV (immOf [a, b]) a.code) (Src.ofV (immOf [a, b]) b.code))) ?_ (by simp only [hd, ha, hb]; try rfl)
  rw [raw_decodeFltV (by dsimp only; decide)]
  unfold decodeFltV
  dsimp only [Instr.sameWord, Fields.dst, Fields.va, Fields.vb]
  try simp (disch := omega) only [lo2, hi2, lo3, flMod, scMod, lowMod, cmbMod, ext_hi, ext_lo, bit_hi, bit_lo, Nat.reduceSub, Nat.sub_self, ext_all, bit_one, ext_wide, Option.bind_eq_bind, Option.bind_some, FT.trip]
  all_goals first | rfl | (cases t <;> first | rfl | exact absurd ‹(_ != _) = true› (by decide))
theorem cmpVF (c : Ctl) (ty : Bool) (cond : FCond) (cmb : Cmb) (pd : Nat) (pc : Nat) (a : Src) (b : Src) : Statement (.cmpVF c ty cond cmb pd pc a b) := by
  intro h
  refine decode_encode rfl rfl h ?_
  simp only [Instr.wellFormed, vv, uu, vvv, uuu, fvv, fuu, fvvv, fuuu, fv, fu, cmpOk, predsOk, Bool.and_eq_true, decide_eq_true_eq] at h
  replace h := And.intro h trivial
  try simp only [and_assoc] at h
  repeat (obtain ⟨_, h⟩ := h)
  have hpd : (codeOf pd).toNat = pd := by exact codeOf_toNat (by omega)
  have hpc : (codeOf pc).toNat = pc := by exact codeOf_toNat (by omega)
  have ha : Src.ofV (immOf [a, b]) a.code = a := by first | exact Src.tripV ‹_› (immIsN ‹_›) | exact Src.tripV ‹_› (immIs ‹_› (by simp)) | exact Src.tripV ‹_› (immIsZ (by assumption) (by assumption)).1
  have hb : Src.ofV (immOf [a, b]) b.code = b := by first | exact Src.tripV ‹_› (immIsN ‹_›) | exact Src.tripV ‹_› (immIs ‹_› (by simp)) | exact Src.tripV ‹_› (immIsZ (by assumption) (by assumption)).2
  refine Eq.trans (b := some (.cmpVF c ty cond cmb ((codeOf pd).toNat) ((codeOf pc).toNat) (Src.ofV (immOf [a, b]) a.code) (Src.ofV (immOf [a, b]) b.code))) ?_ (by simp only [hpd, hpc, ha, hb]; try rfl)
  rw [raw_decodeFltV (by dsimp only; decide)]
  unfold decodeFltV
  dsimp only [Instr.sameWord, Fields.va, Fields.vb, Fields.nd, Fields.ne]
  try simp (disch := omega) only [lo2, hi2, lo3, flMod, scMod, lowMod, cmbMod, ext_hi, ext_lo, bit_hi, bit_lo, Nat.reduceSub, Nat.sub_self, ext_all, bit_one, ext_wide, Option.bind_eq_bind, Option.bind_some, Cmb.trip, FCond.trip]
  all_goals first | rfl | (cases ty <;> cases cond <;> cases cmb <;> first | rfl | exact absurd ‹(_ != _) = true› (by decide))
theorem cmpVF16 (c : Ctl) (ty : Bool) (cond : FCond) (cmb : Cmb) (pd : Nat) (pc : Nat) (a : Src) (b : Src) : Statement (.cmpVF16 c ty cond cmb pd pc a b) := by
  intro h
  refine decode_encode rfl rfl h ?_
  simp only [Instr.wellFormed, vv, uu, vvv, uuu, fvv, fuu, fvvv, fuuu, fv, fu, cmpOk, predsOk, Bool.and_eq_true, decide_eq_true_eq] at h
  replace h := And.intro h trivial
  try simp only [and_assoc] at h
  repeat (obtain ⟨_, h⟩ := h)
  have hpd : (codeOf pd).toNat = pd := by exact codeOf_toNat (by omega)
  have hpc : (codeOf pc).toNat = pc := by exact codeOf_toNat (by omega)
  have ha : Src.ofV (immOf [a, b]) a.code = a := by first | exact Src.tripV ‹_› (immIsN ‹_›) | exact Src.tripV ‹_› (immIs ‹_› (by simp)) | exact Src.tripV ‹_› (immIsZ (by assumption) (by assumption)).1
  have hb : Src.ofV (immOf [a, b]) b.code = b := by first | exact Src.tripV ‹_› (immIsN ‹_›) | exact Src.tripV ‹_› (immIs ‹_› (by simp)) | exact Src.tripV ‹_› (immIsZ (by assumption) (by assumption)).2
  refine Eq.trans (b := some (.cmpVF16 c ty cond cmb ((codeOf pd).toNat) ((codeOf pc).toNat) (Src.ofV (immOf [a, b]) a.code) (Src.ofV (immOf [a, b]) b.code))) ?_ (by simp only [hpd, hpc, ha, hb]; try rfl)
  rw [raw_decodeFltV (by dsimp only; decide)]
  unfold decodeFltV
  dsimp only [Instr.sameWord, Fields.va, Fields.vb, Fields.nd, Fields.ne]
  try simp (disch := omega) only [lo2, hi2, lo3, flMod, scMod, lowMod, cmbMod, ext_hi, ext_lo, bit_hi, bit_lo, Nat.reduceSub, Nat.sub_self, ext_all, bit_one, ext_wide, Option.bind_eq_bind, Option.bind_some, Cmb.trip, FCond.trip]
  all_goals first | rfl | (cases ty <;> cases cond <;> cases cmb <;> first | rfl | exact absurd ‹(_ != _) = true› (by decide))
theorem rndV (c : Ctl) (t : FT) (r : Rnd) (d : Dst) (a : Src) : Statement (.rndV c t r d a) := by
  intro h
  refine decode_encode rfl rfl h ?_
  simp only [Instr.wellFormed, vv, uu, vvv, uuu, fvv, fuu, fvvv, fuuu, fv, fu, cmpOk, predsOk, Bool.and_eq_true, decide_eq_true_eq] at h
  replace h := And.intro h trivial
  try simp only [and_assoc] at h
  repeat (obtain ⟨_, h⟩ := h)
  have hd : Dst.ofCode d.code = d := by first | exact Dst.tripV ‹_› | exact Dst.tripU ‹_› | exact Dst.tripA ‹_›
  have ha : Src.ofV (immOf [a]) a.code = a := by first | exact Src.tripV ‹_› (immIsN ‹_›) | exact Src.tripV ‹_› immIs1
  refine Eq.trans (b := some (.rndV c t r (Dst.ofCode d.code) (Src.ofV (immOf [a]) a.code))) ?_ (by simp only [hd, ha]; try rfl)
  rw [raw_decodeFltV (by dsimp only; decide)]
  unfold decodeFltV
  dsimp only [Instr.sameWord, Fields.dst, Fields.va]
  try simp (disch := omega) only [lo2, hi2, lo3, flMod, scMod, lowMod, cmbMod, ext_hi, ext_lo, bit_hi, bit_lo, Nat.reduceSub, Nat.sub_self, ext_all, bit_one, ext_wide, Option.bind_eq_bind, Option.bind_some, FT.trip, Rnd.trip]
  all_goals first | rfl | (cases t <;> cases r <;> first | rfl | exact absurd ‹(_ != _) = true› (by decide))
theorem rcpV (c : Ctl) (t : FT) (r : Rnd) (d : Dst) (a : Src) : Statement (.rcpV c t r d a) := by
  intro h
  refine decode_encode rfl rfl h ?_
  simp only [Instr.wellFormed, vv, uu, vvv, uuu, fvv, fuu, fvvv, fuuu, fv, fu, cmpOk, predsOk, Bool.and_eq_true, decide_eq_true_eq] at h
  replace h := And.intro h trivial
  try simp only [and_assoc] at h
  repeat (obtain ⟨_, h⟩ := h)
  have hd : Dst.ofCode d.code = d := by first | exact Dst.tripV ‹_› | exact Dst.tripU ‹_› | exact Dst.tripA ‹_›
  have ha : Src.ofV (immOf [a]) a.code = a := by first | exact Src.tripV ‹_› (immIsN ‹_›) | exact Src.tripV ‹_› immIs1
  refine Eq.trans (b := some (.rcpV c t r (Dst.ofCode d.code) (Src.ofV (immOf [a]) a.code))) ?_ (by simp only [hd, ha]; try rfl)
  rw [raw_decodeFltV (by dsimp only; decide)]
  unfold decodeFltV
  dsimp only [Instr.sameWord, Fields.dst, Fields.va]
  try simp (disch := omega) only [lo2, hi2, lo3, flMod, scMod, lowMod, cmbMod, ext_hi, ext_lo, bit_hi, bit_lo, Nat.reduceSub, Nat.sub_self, ext_all, bit_one, ext_wide, Option.bind_eq_bind, Option.bind_some, FT.trip, Rnd.trip]
  all_goals first | rfl | (cases t <;> cases r <;> first | rfl | exact absurd ‹(_ != _) = true› (by decide))
theorem sqrtV (c : Ctl) (t : FT) (r : Rnd) (d : Dst) (a : Src) : Statement (.sqrtV c t r d a) := by
  intro h
  refine decode_encode rfl rfl h ?_
  simp only [Instr.wellFormed, vv, uu, vvv, uuu, fvv, fuu, fvvv, fuuu, fv, fu, cmpOk, predsOk, Bool.and_eq_true, decide_eq_true_eq] at h
  replace h := And.intro h trivial
  try simp only [and_assoc] at h
  repeat (obtain ⟨_, h⟩ := h)
  have hd : Dst.ofCode d.code = d := by first | exact Dst.tripV ‹_› | exact Dst.tripU ‹_› | exact Dst.tripA ‹_›
  have ha : Src.ofV (immOf [a]) a.code = a := by first | exact Src.tripV ‹_› (immIsN ‹_›) | exact Src.tripV ‹_› immIs1
  refine Eq.trans (b := some (.sqrtV c t r (Dst.ofCode d.code) (Src.ofV (immOf [a]) a.code))) ?_ (by simp only [hd, ha]; try rfl)
  rw [raw_decodeFltV (by dsimp only; decide)]
  unfold decodeFltV
  dsimp only [Instr.sameWord, Fields.dst, Fields.va]
  try simp (disch := omega) only [lo2, hi2, lo3, flMod, scMod, lowMod, cmbMod, ext_hi, ext_lo, bit_hi, bit_lo, Nat.reduceSub, Nat.sub_self, ext_all, bit_one, ext_wide, Option.bind_eq_bind, Option.bind_some, FT.trip, Rnd.trip]
  all_goals first | rfl | (cases t <;> cases r <;> first | rfl | exact absurd ‹(_ != _) = true› (by decide))
theorem divVF (c : Ctl) (t : FT) (r : Rnd) (d : Dst) (a : Src) (b : Src) : Statement (.divVF c t r d a b) := by
  intro h
  refine decode_encode rfl rfl h ?_
  simp only [Instr.wellFormed, vv, uu, vvv, uuu, fvv, fuu, fvvv, fuuu, fv, fu, cmpOk, predsOk, Bool.and_eq_true, decide_eq_true_eq] at h
  replace h := And.intro h trivial
  try simp only [and_assoc] at h
  repeat (obtain ⟨_, h⟩ := h)
  have hd : Dst.ofCode d.code = d := by first | exact Dst.tripV ‹_› | exact Dst.tripU ‹_› | exact Dst.tripA ‹_›
  have ha : Src.ofV (immOf [a, b]) a.code = a := by first | exact Src.tripV ‹_› (immIsN ‹_›) | exact Src.tripV ‹_› (immIs ‹_› (by simp)) | exact Src.tripV ‹_› (immIsZ (by assumption) (by assumption)).1
  have hb : Src.ofV (immOf [a, b]) b.code = b := by first | exact Src.tripV ‹_› (immIsN ‹_›) | exact Src.tripV ‹_› (immIs ‹_› (by simp)) | exact Src.tripV ‹_› (immIsZ (by assumption) (by assumption)).2
  refine Eq.trans (b := some (.divVF c t r (Dst.ofCode d.code) (Src.ofV (immOf [a, b]) a.code) (Src.ofV (immOf [a, b]) b.code))) ?_ (by simp only [hd, ha, hb]; try rfl)
  rw [raw_decodeFltV (by dsimp only; decide)]
  unfold decodeFltV
  dsimp only [Instr.sameWord, Fields.dst, Fields.va, Fields.vb]
  try simp (disch := omega) only [lo2, hi2, lo3, flMod, scMod, lowMod, cmbMod, ext_hi, ext_lo, bit_hi, bit_lo, Nat.reduceSub, Nat.sub_self, ext_all, bit_one, ext_wide, Option.bind_eq_bind, Option.bind_some, FT.trip, Rnd.trip]
  all_goals first | rfl | (cases t <;> cases r <;> first | rfl | exact absurd ‹(_ != _) = true› (by decide))
theorem ex2 (c : Ctl) (half : Bool) (d : Dst) (a : Src) : Statement (.ex2 c half d a) := by
  intro h
  refine decode_encode rfl rfl h ?_
  simp only [Instr.wellFormed, vv, uu, vvv, uuu, fvv, fuu, fvvv, fuuu, fv, fu, cmpOk, predsOk, Bool.and_eq_true, decide_eq_true_eq] at h
  replace h := And.intro h trivial
  try simp only [and_assoc] at h
  repeat (obtain ⟨_, h⟩ := h)
  have hd : Dst.ofCode d.code = d := by first | exact Dst.tripV ‹_› | exact Dst.tripU ‹_› | exact Dst.tripA ‹_›
  have ha : Src.ofV (immOf [a]) a.code = a := by first | exact Src.tripV ‹_› (immIsN ‹_›) | exact Src.tripV ‹_› immIs1
  refine Eq.trans (b := some (.ex2 c half (Dst.ofCode d.code) (Src.ofV (immOf [a]) a.code))) ?_ (by simp only [hd, ha]; try rfl)
  rw [raw_decodeFltV (by dsimp only; decide)]
  unfold decodeFltV
  dsimp only [Instr.sameWord, Fields.dst, Fields.va]
  try simp (disch := omega) only [lo2, hi2, lo3, flMod, scMod, lowMod, cmbMod, ext_hi, ext_lo, bit_hi, bit_lo, Nat.reduceSub, Nat.sub_self, ext_all, bit_one, ext_wide, Option.bind_eq_bind, Option.bind_some]
  all_goals first | rfl | (cases half <;> first | rfl | exact absurd ‹(_ != _) = true› (by decide))
theorem lg2 (c : Ctl) (half : Bool) (d : Dst) (a : Src) : Statement (.lg2 c half d a) := by
  intro h
  refine decode_encode rfl rfl h ?_
  simp only [Instr.wellFormed, vv, uu, vvv, uuu, fvv, fuu, fvvv, fuuu, fv, fu, cmpOk, predsOk, Bool.and_eq_true, decide_eq_true_eq] at h
  replace h := And.intro h trivial
  try simp only [and_assoc] at h
  repeat (obtain ⟨_, h⟩ := h)
  have hd : Dst.ofCode d.code = d := by first | exact Dst.tripV ‹_› | exact Dst.tripU ‹_› | exact Dst.tripA ‹_›
  have ha : Src.ofV (immOf [a]) a.code = a := by first | exact Src.tripV ‹_› (immIsN ‹_›) | exact Src.tripV ‹_› immIs1
  refine Eq.trans (b := some (.lg2 c half (Dst.ofCode d.code) (Src.ofV (immOf [a]) a.code))) ?_ (by simp only [hd, ha]; try rfl)
  rw [raw_decodeFltV (by dsimp only; decide)]
  unfold decodeFltV
  dsimp only [Instr.sameWord, Fields.dst, Fields.va]
  try simp (disch := omega) only [lo2, hi2, lo3, flMod, scMod, lowMod, cmbMod, ext_hi, ext_lo, bit_hi, bit_lo, Nat.reduceSub, Nat.sub_self, ext_all, bit_one, ext_wide, Option.bind_eq_bind, Option.bind_some]
  all_goals first | rfl | (cases half <;> first | rfl | exact absurd ‹(_ != _) = true› (by decide))
theorem sinpi (c : Ctl) (half : Bool) (d : Dst) (a : Src) : Statement (.sinpi c half d a) := by
  intro h
  refine decode_encode rfl rfl h ?_
  simp only [Instr.wellFormed, vv, uu, vvv, uuu, fvv, fuu, fvvv, fuuu, fv, fu, cmpOk, predsOk, Bool.and_eq_true, decide_eq_true_eq] at h
  replace h := And.intro h trivial
  try simp only [and_assoc] at h
  repeat (obtain ⟨_, h⟩ := h)
  have hd : Dst.ofCode d.code = d := by first | exact Dst.tripV ‹_› | exact Dst.tripU ‹_› | exact Dst.tripA ‹_›
  have ha : Src.ofV (immOf [a]) a.code = a := by first | exact Src.tripV ‹_› (immIsN ‹_›) | exact Src.tripV ‹_› immIs1
  refine Eq.trans (b := some (.sinpi c half (Dst.ofCode d.code) (Src.ofV (immOf [a]) a.code))) ?_ (by simp only [hd, ha]; try rfl)
  rw [raw_decodeFltV (by dsimp only; decide)]
  unfold decodeFltV
  dsimp only [Instr.sameWord, Fields.dst, Fields.va]
  try simp (disch := omega) only [lo2, hi2, lo3, flMod, scMod, lowMod, cmbMod, ext_hi, ext_lo, bit_hi, bit_lo, Nat.reduceSub, Nat.sub_self, ext_all, bit_one, ext_wide, Option.bind_eq_bind, Option.bind_some]
  all_goals first | rfl | (cases half <;> first | rfl | exact absurd ‹(_ != _) = true› (by decide))
theorem cospi (c : Ctl) (half : Bool) (d : Dst) (a : Src) : Statement (.cospi c half d a) := by
  intro h
  refine decode_encode rfl rfl h ?_
  simp only [Instr.wellFormed, vv, uu, vvv, uuu, fvv, fuu, fvvv, fuuu, fv, fu, cmpOk, predsOk, Bool.and_eq_true, decide_eq_true_eq] at h
  replace h := And.intro h trivial
  try simp only [and_assoc] at h
  repeat (obtain ⟨_, h⟩ := h)
  have hd : Dst.ofCode d.code = d := by first | exact Dst.tripV ‹_› | exact Dst.tripU ‹_› | exact Dst.tripA ‹_›
  have ha : Src.ofV (immOf [a]) a.code = a := by first | exact Src.tripV ‹_› (immIsN ‹_›) | exact Src.tripV ‹_› immIs1
  refine Eq.trans (b := some (.cospi c half (Dst.ofCode d.code) (Src.ofV (immOf [a]) a.code))) ?_ (by simp only [hd, ha]; try rfl)
  rw [raw_decodeFltV (by dsimp only; decide)]
  unfold decodeFltV
  dsimp only [Instr.sameWord, Fields.dst, Fields.va]
  try simp (disch := omega) only [lo2, hi2, lo3, flMod, scMod, lowMod, cmbMod, ext_hi, ext_lo, bit_hi, bit_lo, Nat.reduceSub, Nat.sub_self, ext_all, bit_one, ext_wide, Option.bind_eq_bind, Option.bind_some]
  all_goals first | rfl | (cases half <;> first | rfl | exact absurd ‹(_ != _) = true› (by decide))
theorem dotV (c : Ctl) (bf : Bool) (r : Rnd) (d : Dst) (a : Src) (b : Src) (e : Src) : Statement (.dotV c bf r d a b e) := by
  intro h
  refine decode_encode rfl rfl h ?_
  simp only [Instr.wellFormed, vv, uu, vvv, uuu, fvv, fuu, fvvv, fuuu, fv, fu, cmpOk, predsOk, Bool.and_eq_true, decide_eq_true_eq] at h
  replace h := And.intro h trivial
  try simp only [and_assoc] at h
  repeat (obtain ⟨_, h⟩ := h)
  have hd : Dst.ofCode d.code = d := by first | exact Dst.tripV ‹_› | exact Dst.tripU ‹_› | exact Dst.tripA ‹_›
  have ha : Src.ofV (immOf [a, b, e]) a.code = a := by first | exact Src.tripV ‹_› (immIsN ‹_›) | exact Src.tripV ‹_› (immIs ‹_› (by simp)) | exact Src.tripV ‹_› (immIsZ (by assumption) (by assumption)).1
  have hb : Src.ofV (immOf [a, b, e]) b.code = b := by first | exact Src.tripV ‹_› (immIsN ‹_›) | exact Src.tripV ‹_› (immIs ‹_› (by simp)) | exact Src.tripV ‹_› (immIsZ (by assumption) (by assumption)).2
  have he : Src.ofV (immOf [a, b, e]) e.code = e := by first | exact Src.tripV ‹_› (immIsN ‹_›) | exact Src.tripV ‹_› (immIs ‹_› (by simp)) | exact Src.tripV ‹_› (immIsZ (by assumption) (by assumption)).3
  refine Eq.trans (b := some (.dotV c bf r (Dst.ofCode d.code) (Src.ofV (immOf [a, b, e]) a.code) (Src.ofV (immOf [a, b, e]) b.code) (Src.ofV (immOf [a, b, e]) e.code))) ?_ (by simp only [hd, ha, hb, he]; try rfl)
  rw [raw_decodeFltV (by dsimp only; decide)]
  unfold decodeFltV
  dsimp only [Instr.sameWord, Fields.dst, Fields.va, Fields.vb, Fields.ve]
  try simp (disch := omega) only [lo2, hi2, lo3, flMod, scMod, lowMod, cmbMod, ext_hi, ext_lo, bit_hi, bit_lo, Nat.reduceSub, Nat.sub_self, ext_all, bit_one, ext_wide, Option.bind_eq_bind, Option.bind_some, Rnd.trip]
  all_goals first | rfl | (cases bf <;> cases r <;> first | rfl | exact absurd ‹(_ != _) = true› (by decide))
theorem absVF (c : Ctl) (t : FT) (d : Dst) (a : Src) : Statement (.absVF c t d a) := by
  intro h
  refine decode_encode rfl rfl h ?_
  simp only [Instr.wellFormed, vv, uu, vvv, uuu, fvv, fuu, fvvv, fuuu, fv, fu, cmpOk, predsOk, Bool.and_eq_true, decide_eq_true_eq] at h
  replace h := And.intro h trivial
  try simp only [and_assoc] at h
  repeat (obtain ⟨_, h⟩ := h)
  have hd : Dst.ofCode d.code = d := by first | exact Dst.tripV ‹_› | exact Dst.tripU ‹_› | exact Dst.tripA ‹_›
  have ha : Src.ofV (immOf [a]) a.code = a := by first | exact Src.tripV ‹_› (immIsN ‹_›) | exact Src.tripV ‹_› immIs1
  refine Eq.trans (b := some (.absVF c t (Dst.ofCode d.code) (Src.ofV (immOf [a]) a.code))) ?_ (by simp only [hd, ha]; try rfl)
  rw [raw_decodeFltV (by dsimp only; decide)]
  unfold decodeFltV
  dsimp only [Instr.sameWord, Fields.dst, Fields.va]
  try simp (disch := omega) only [lo2, hi2, lo3, flMod, scMod, lowMod, cmbMod, ext_hi, ext_lo, bit_hi, bit_lo, Nat.reduceSub, Nat.sub_self, ext_all, bit_one, ext_wide, Option.bind_eq_bind, Option.bind_some, FT.trip]
  all_goals first | rfl | (cases t <;> first | rfl | exact absurd ‹(_ != _) = true› (by decide))
theorem negVF (c : Ctl) (t : FT) (d : Dst) (a : Src) : Statement (.negVF c t d a) := by
  intro h
  refine decode_encode rfl rfl h ?_
  simp only [Instr.wellFormed, vv, uu, vvv, uuu, fvv, fuu, fvvv, fuuu, fv, fu, cmpOk, predsOk, Bool.and_eq_true, decide_eq_true_eq] at h
  replace h := And.intro h trivial
  try simp only [and_assoc] at h
  repeat (obtain ⟨_, h⟩ := h)
  have hd : Dst.ofCode d.code = d := by first | exact Dst.tripV ‹_› | exact Dst.tripU ‹_› | exact Dst.tripA ‹_›
  have ha : Src.ofV (immOf [a]) a.code = a := by first | exact Src.tripV ‹_› (immIsN ‹_›) | exact Src.tripV ‹_› immIs1
  refine Eq.trans (b := some (.negVF c t (Dst.ofCode d.code) (Src.ofV (immOf [a]) a.code))) ?_ (by simp only [hd, ha]; try rfl)
  rw [raw_decodeFltV (by dsimp only; decide)]
  unfold decodeFltV
  dsimp only [Instr.sameWord, Fields.dst, Fields.va]
  try simp (disch := omega) only [lo2, hi2, lo3, flMod, scMod, lowMod, cmbMod, ext_hi, ext_lo, bit_hi, bit_lo, Nat.reduceSub, Nat.sub_self, ext_all, bit_one, ext_wide, Option.bind_eq_bind, Option.bind_some, FT.trip]
  all_goals first | rfl | (cases t <;> first | rfl | exact absurd ‹(_ != _) = true› (by decide))
theorem copysignV (c : Ctl) (t : FT) (d : Dst) (a : Src) (b : Src) : Statement (.copysignV c t d a b) := by
  intro h
  refine decode_encode rfl rfl h ?_
  simp only [Instr.wellFormed, vv, uu, vvv, uuu, fvv, fuu, fvvv, fuuu, fv, fu, cmpOk, predsOk, Bool.and_eq_true, decide_eq_true_eq] at h
  replace h := And.intro h trivial
  try simp only [and_assoc] at h
  repeat (obtain ⟨_, h⟩ := h)
  have hd : Dst.ofCode d.code = d := by first | exact Dst.tripV ‹_› | exact Dst.tripU ‹_› | exact Dst.tripA ‹_›
  have ha : Src.ofV (immOf [a, b]) a.code = a := by first | exact Src.tripV ‹_› (immIsN ‹_›) | exact Src.tripV ‹_› (immIs ‹_› (by simp)) | exact Src.tripV ‹_› (immIsZ (by assumption) (by assumption)).1
  have hb : Src.ofV (immOf [a, b]) b.code = b := by first | exact Src.tripV ‹_› (immIsN ‹_›) | exact Src.tripV ‹_› (immIs ‹_› (by simp)) | exact Src.tripV ‹_› (immIsZ (by assumption) (by assumption)).2
  refine Eq.trans (b := some (.copysignV c t (Dst.ofCode d.code) (Src.ofV (immOf [a, b]) a.code) (Src.ofV (immOf [a, b]) b.code))) ?_ (by simp only [hd, ha, hb]; try rfl)
  rw [raw_decodeFltV (by dsimp only; decide)]
  unfold decodeFltV
  dsimp only [Instr.sameWord, Fields.dst, Fields.va, Fields.vb]
  try simp (disch := omega) only [lo2, hi2, lo3, flMod, scMod, lowMod, cmbMod, ext_hi, ext_lo, bit_hi, bit_lo, Nat.reduceSub, Nat.sub_self, ext_all, bit_one, ext_wide, Option.bind_eq_bind, Option.bind_some, FT.trip]
  all_goals first | rfl | (cases t <;> first | rfl | exact absurd ‹(_ != _) = true› (by decide))
theorem classV (c : Ctl) (t : FT) (p : Nat) (a : Src) (k : BitVec 10) : Statement (.classV c t p a k) := by
  intro h
  refine decode_encode rfl rfl h ?_
  simp only [Instr.wellFormed, vv, uu, vvv, uuu, fvv, fuu, fvvv, fuuu, fv, fu, cmpOk, predsOk, Bool.and_eq_true, decide_eq_true_eq] at h
  replace h := And.intro h trivial
  try simp only [and_assoc] at h
  repeat (obtain ⟨_, h⟩ := h)
  have hp : (codeOf p).toNat = p := by exact codeOf_toNat (by omega)
  have ha : Src.ofV (k.setWidth 32) a.code = a := by first | exact Src.tripV ‹_› (immIsN ‹_›)
  have hk : BitVec.extractLsb' 0 10 (k.setWidth 32) = k := by simp (disch := omega) only [lo2, lowMod, ext_hi, ext_lo, bit_hi, bit_lo, Nat.reduceSub, Nat.sub_self, ext_all, bit_one, ext_wide]
  refine Eq.trans (b := some (.classV c t ((codeOf p).toNat) (Src.ofV (k.setWidth 32) a.code) (BitVec.extractLsb' 0 10 (k.setWidth 32)))) ?_ (by simp only [hp, ha, hk]; try rfl)
  rw [raw_decodeFltV (by dsimp only; decide)]
  unfold decodeFltV
  dsimp only [Instr.sameWord, Fields.va, Fields.nd]
  try simp (disch := omega) only [lo2, hi2, lo3, flMod, scMod, lowMod, cmbMod, ext_hi, ext_lo, bit_hi, bit_lo, Nat.reduceSub, Nat.sub_self, ext_all, bit_one, ext_wide, Option.bind_eq_bind, Option.bind_some, FT.trip]
  all_goals first | rfl | (cases t <;> first | rfl | exact absurd ‹(_ != _) = true› (by decide))
theorem addVQ (c : Ctl) (sat : Bool) (fm : BitVec 2) (d : Dst) (a : Src) (b : Src) : Statement (.addVQ c sat fm d a b) := by
  intro h
  refine decode_encode rfl rfl h ?_
  simp only [Instr.wellFormed, vv, uu, vvv, uuu, fvv, fuu, fvvv, fuuu, fv, fu, cmpOk, predsOk, Bool.and_eq_true, decide_eq_true_eq] at h
  replace h := And.intro h trivial
  try simp only [and_assoc] at h
  repeat (obtain ⟨_, h⟩ := h)
  have hfm : lo2 (lowMod fm) = fm := by simp (disch := omega) only [lo2, lowMod, ext_hi, ext_lo, bit_hi, bit_lo, Nat.reduceSub, Nat.sub_self, ext_all, bit_one, ext_wide]
  have hd : Dst.ofCode d.code = d := by first | exact Dst.tripV ‹_› | exact Dst.tripU ‹_› | exact Dst.tripA ‹_›
  have ha : Src.ofV (immOf [a, b]) a.code = a := by first | exact Src.tripV ‹_› (immIsN ‹_›) | exact Src.tripV ‹_› (immIs ‹_› (by simp)) | exact Src.tripV ‹_› (immIsZ (by assumption) (by assumption)).1
  have hb : Src.ofV (immOf [a, b]) b.code = b := by first | exact Src.tripV ‹_› (immIsN ‹_›) | exact Src.tripV ‹_› (immIs ‹_› (by simp)) | exact Src.tripV ‹_› (immIsZ (by assumption) (by assumption)).2
  refine Eq.trans (b := some (.addVQ c sat (lo2 (lowMod fm)) (Dst.ofCode d.code) (Src.ofV (immOf [a, b]) a.code) (Src.ofV (immOf [a, b]) b.code))) ?_ (by simp only [hfm, hd, ha, hb]; try rfl)
  rw [raw_decodePack (by dsimp only; decide)]
  unfold decodePack
  dsimp only [Instr.sameWord, Fields.dst, Fields.va, Fields.vb]
  try simp (disch := omega) only [lo2, hi2, lo3, flMod, scMod, lowMod, cmbMod, ext_hi, ext_lo, bit_hi, bit_lo, Nat.reduceSub, Nat.sub_self, ext_all, bit_one, ext_wide, Option.bind_eq_bind, Option.bind_some]
  all_goals first | rfl | (cases sat <;> first | rfl | exact absurd ‹(_ != _) = true› (by decide))
theorem subVQ (c : Ctl) (sat : Bool) (fm : BitVec 2) (d : Dst) (a : Src) (b : Src) : Statement (.subVQ c sat fm d a b) := by
  intro h
  refine decode_encode rfl rfl h ?_
  simp only [Instr.wellFormed, vv, uu, vvv, uuu, fvv, fuu, fvvv, fuuu, fv, fu, cmpOk, predsOk, Bool.and_eq_true, decide_eq_true_eq] at h
  replace h := And.intro h trivial
  try simp only [and_assoc] at h
  repeat (obtain ⟨_, h⟩ := h)
  have hfm : lo2 (lowMod fm) = fm := by simp (disch := omega) only [lo2, lowMod, ext_hi, ext_lo, bit_hi, bit_lo, Nat.reduceSub, Nat.sub_self, ext_all, bit_one, ext_wide]
  have hd : Dst.ofCode d.code = d := by first | exact Dst.tripV ‹_› | exact Dst.tripU ‹_› | exact Dst.tripA ‹_›
  have ha : Src.ofV (immOf [a, b]) a.code = a := by first | exact Src.tripV ‹_› (immIsN ‹_›) | exact Src.tripV ‹_› (immIs ‹_› (by simp)) | exact Src.tripV ‹_› (immIsZ (by assumption) (by assumption)).1
  have hb : Src.ofV (immOf [a, b]) b.code = b := by first | exact Src.tripV ‹_› (immIsN ‹_›) | exact Src.tripV ‹_› (immIs ‹_› (by simp)) | exact Src.tripV ‹_› (immIsZ (by assumption) (by assumption)).2
  refine Eq.trans (b := some (.subVQ c sat (lo2 (lowMod fm)) (Dst.ofCode d.code) (Src.ofV (immOf [a, b]) a.code) (Src.ofV (immOf [a, b]) b.code))) ?_ (by simp only [hfm, hd, ha, hb]; try rfl)
  rw [raw_decodePack (by dsimp only; decide)]
  unfold decodePack
  dsimp only [Instr.sameWord, Fields.dst, Fields.va, Fields.vb]
  try simp (disch := omega) only [lo2, hi2, lo3, flMod, scMod, lowMod, cmbMod, ext_hi, ext_lo, bit_hi, bit_lo, Nat.reduceSub, Nat.sub_self, ext_all, bit_one, ext_wide, Option.bind_eq_bind, Option.bind_some]
  all_goals first | rfl | (cases sat <;> first | rfl | exact absurd ‹(_ != _) = true› (by decide))
theorem mulVQ (c : Ctl) (sat : Bool) (fm : BitVec 2) (d : Dst) (a : Src) (b : Src) : Statement (.mulVQ c sat fm d a b) := by
  intro h
  refine decode_encode rfl rfl h ?_
  simp only [Instr.wellFormed, vv, uu, vvv, uuu, fvv, fuu, fvvv, fuuu, fv, fu, cmpOk, predsOk, Bool.and_eq_true, decide_eq_true_eq] at h
  replace h := And.intro h trivial
  try simp only [and_assoc] at h
  repeat (obtain ⟨_, h⟩ := h)
  have hfm : lo2 (lowMod fm) = fm := by simp (disch := omega) only [lo2, lowMod, ext_hi, ext_lo, bit_hi, bit_lo, Nat.reduceSub, Nat.sub_self, ext_all, bit_one, ext_wide]
  have hd : Dst.ofCode d.code = d := by first | exact Dst.tripV ‹_› | exact Dst.tripU ‹_› | exact Dst.tripA ‹_›
  have ha : Src.ofV (immOf [a, b]) a.code = a := by first | exact Src.tripV ‹_› (immIsN ‹_›) | exact Src.tripV ‹_› (immIs ‹_› (by simp)) | exact Src.tripV ‹_› (immIsZ (by assumption) (by assumption)).1
  have hb : Src.ofV (immOf [a, b]) b.code = b := by first | exact Src.tripV ‹_› (immIsN ‹_›) | exact Src.tripV ‹_› (immIs ‹_› (by simp)) | exact Src.tripV ‹_› (immIsZ (by assumption) (by assumption)).2
  refine Eq.trans (b := some (.mulVQ c sat (lo2 (lowMod fm)) (Dst.ofCode d.code) (Src.ofV (immOf [a, b]) a.code) (Src.ofV (immOf [a, b]) b.code))) ?_ (by simp only [hfm, hd, ha, hb]; try rfl)
  rw [raw_decodePack (by dsimp only; decide)]
  unfold decodePack
  dsimp only [Instr.sameWord, Fields.dst, Fields.va, Fields.vb]
  try simp (disch := omega) only [lo2, hi2, lo3, flMod, scMod, lowMod, cmbMod, ext_hi, ext_lo, bit_hi, bit_lo, Nat.reduceSub, Nat.sub_self, ext_all, bit_one, ext_wide, Option.bind_eq_bind, Option.bind_some]
  all_goals first | rfl | (cases sat <;> first | rfl | exact absurd ‹(_ != _) = true› (by decide))
theorem fmaVQ (c : Ctl) (sat : Bool) (fm : BitVec 2) (d : Dst) (a : Src) (b : Src) (e : Src) : Statement (.fmaVQ c sat fm d a b e) := by
  intro h
  refine decode_encode rfl rfl h ?_
  simp only [Instr.wellFormed, vv, uu, vvv, uuu, fvv, fuu, fvvv, fuuu, fv, fu, cmpOk, predsOk, Bool.and_eq_true, decide_eq_true_eq] at h
  replace h := And.intro h trivial
  try simp only [and_assoc] at h
  repeat (obtain ⟨_, h⟩ := h)
  have hfm : lo2 (lowMod fm) = fm := by simp (disch := omega) only [lo2, lowMod, ext_hi, ext_lo, bit_hi, bit_lo, Nat.reduceSub, Nat.sub_self, ext_all, bit_one, ext_wide]
  have hd : Dst.ofCode d.code = d := by first | exact Dst.tripV ‹_› | exact Dst.tripU ‹_› | exact Dst.tripA ‹_›
  have ha : Src.ofV (immOf [a, b, e]) a.code = a := by first | exact Src.tripV ‹_› (immIsN ‹_›) | exact Src.tripV ‹_› (immIs ‹_› (by simp)) | exact Src.tripV ‹_› (immIsZ (by assumption) (by assumption)).1
  have hb : Src.ofV (immOf [a, b, e]) b.code = b := by first | exact Src.tripV ‹_› (immIsN ‹_›) | exact Src.tripV ‹_› (immIs ‹_› (by simp)) | exact Src.tripV ‹_› (immIsZ (by assumption) (by assumption)).2
  have he : Src.ofV (immOf [a, b, e]) e.code = e := by first | exact Src.tripV ‹_› (immIsN ‹_›) | exact Src.tripV ‹_› (immIs ‹_› (by simp)) | exact Src.tripV ‹_› (immIsZ (by assumption) (by assumption)).3
  refine Eq.trans (b := some (.fmaVQ c sat (lo2 (lowMod fm)) (Dst.ofCode d.code) (Src.ofV (immOf [a, b, e]) a.code) (Src.ofV (immOf [a, b, e]) b.code) (Src.ofV (immOf [a, b, e]) e.code))) ?_ (by simp only [hfm, hd, ha, hb, he]; try rfl)
  rw [raw_decodePack (by dsimp only; decide)]
  unfold decodePack
  dsimp only [Instr.sameWord, Fields.dst, Fields.va, Fields.vb, Fields.ve]
  try simp (disch := omega) only [lo2, hi2, lo3, flMod, scMod, lowMod, cmbMod, ext_hi, ext_lo, bit_hi, bit_lo, Nat.reduceSub, Nat.sub_self, ext_all, bit_one, ext_wide, Option.bind_eq_bind, Option.bind_some]
  all_goals first | rfl | (cases sat <;> first | rfl | exact absurd ‹(_ != _) = true› (by decide))
theorem minVQ (c : Ctl) (fm : BitVec 2) (d : Dst) (a : Src) (b : Src) : Statement (.minVQ c fm d a b) := by
  intro h
  refine decode_encode rfl rfl h ?_
  simp only [Instr.wellFormed, vv, uu, vvv, uuu, fvv, fuu, fvvv, fuuu, fv, fu, cmpOk, predsOk, Bool.and_eq_true, decide_eq_true_eq] at h
  replace h := And.intro h trivial
  try simp only [and_assoc] at h
  repeat (obtain ⟨_, h⟩ := h)
  have hfm : lo2 (lowMod fm) = fm := by simp (disch := omega) only [lo2, lowMod, ext_hi, ext_lo, bit_hi, bit_lo, Nat.reduceSub, Nat.sub_self, ext_all, bit_one, ext_wide]
  have hd : Dst.ofCode d.code = d := by first | exact Dst.tripV ‹_› | exact Dst.tripU ‹_› | exact Dst.tripA ‹_›
  have ha : Src.ofV (immOf [a, b]) a.code = a := by first | exact Src.tripV ‹_› (immIsN ‹_›) | exact Src.tripV ‹_› (immIs ‹_› (by simp)) | exact Src.tripV ‹_› (immIsZ (by assumption) (by assumption)).1
  have hb : Src.ofV (immOf [a, b]) b.code = b := by first | exact Src.tripV ‹_› (immIsN ‹_›) | exact Src.tripV ‹_› (immIs ‹_› (by simp)) | exact Src.tripV ‹_› (immIsZ (by assumption) (by assumption)).2
  refine Eq.trans (b := some (.minVQ c (lo2 (lowMod fm)) (Dst.ofCode d.code) (Src.ofV (immOf [a, b]) a.code) (Src.ofV (immOf [a, b]) b.code))) ?_ (by simp only [hfm, hd, ha, hb]; try rfl)
  rw [raw_decodePack (by dsimp only; decide)]
  unfold decodePack
  dsimp only [Instr.sameWord, Fields.dst, Fields.va, Fields.vb]
  try simp (disch := omega) only [lo2, hi2, lo3, flMod, scMod, lowMod, cmbMod, ext_hi, ext_lo, bit_hi, bit_lo, Nat.reduceSub, Nat.sub_self, ext_all, bit_one, ext_wide, Option.bind_eq_bind, Option.bind_some]
  all_goals rfl
theorem maxVQ (c : Ctl) (fm : BitVec 2) (d : Dst) (a : Src) (b : Src) : Statement (.maxVQ c fm d a b) := by
  intro h
  refine decode_encode rfl rfl h ?_
  simp only [Instr.wellFormed, vv, uu, vvv, uuu, fvv, fuu, fvvv, fuuu, fv, fu, cmpOk, predsOk, Bool.and_eq_true, decide_eq_true_eq] at h
  replace h := And.intro h trivial
  try simp only [and_assoc] at h
  repeat (obtain ⟨_, h⟩ := h)
  have hfm : lo2 (lowMod fm) = fm := by simp (disch := omega) only [lo2, lowMod, ext_hi, ext_lo, bit_hi, bit_lo, Nat.reduceSub, Nat.sub_self, ext_all, bit_one, ext_wide]
  have hd : Dst.ofCode d.code = d := by first | exact Dst.tripV ‹_› | exact Dst.tripU ‹_› | exact Dst.tripA ‹_›
  have ha : Src.ofV (immOf [a, b]) a.code = a := by first | exact Src.tripV ‹_› (immIsN ‹_›) | exact Src.tripV ‹_› (immIs ‹_› (by simp)) | exact Src.tripV ‹_› (immIsZ (by assumption) (by assumption)).1
  have hb : Src.ofV (immOf [a, b]) b.code = b := by first | exact Src.tripV ‹_› (immIsN ‹_›) | exact Src.tripV ‹_› (immIs ‹_› (by simp)) | exact Src.tripV ‹_› (immIsZ (by assumption) (by assumption)).2
  refine Eq.trans (b := some (.maxVQ c (lo2 (lowMod fm)) (Dst.ofCode d.code) (Src.ofV (immOf [a, b]) a.code) (Src.ofV (immOf [a, b]) b.code))) ?_ (by simp only [hfm, hd, ha, hb]; try rfl)
  rw [raw_decodePack (by dsimp only; decide)]
  unfold decodePack
  dsimp only [Instr.sameWord, Fields.dst, Fields.va, Fields.vb]
  try simp (disch := omega) only [lo2, hi2, lo3, flMod, scMod, lowMod, cmbMod, ext_hi, ext_lo, bit_hi, bit_lo, Nat.reduceSub, Nat.sub_self, ext_all, bit_one, ext_wide, Option.bind_eq_bind, Option.bind_some]
  all_goals rfl
theorem dotVQ (c : Ctl) (fm : BitVec 2) (d : Dst) (a : Src) (b : Src) (e : Src) : Statement (.dotVQ c fm d a b e) := by
  intro h
  refine decode_encode rfl rfl h ?_
  simp only [Instr.wellFormed, vv, uu, vvv, uuu, fvv, fuu, fvvv, fuuu, fv, fu, cmpOk, predsOk, Bool.and_eq_true, decide_eq_true_eq] at h
  replace h := And.intro h trivial
  try simp only [and_assoc] at h
  repeat (obtain ⟨_, h⟩ := h)
  have hfm : lo2 (lowMod fm) = fm := by simp (disch := omega) only [lo2, lowMod, ext_hi, ext_lo, bit_hi, bit_lo, Nat.reduceSub, Nat.sub_self, ext_all, bit_one, ext_wide]
  have hd : Dst.ofCode d.code = d := by first | exact Dst.tripV ‹_› | exact Dst.tripU ‹_› | exact Dst.tripA ‹_›
  have ha : Src.ofV (immOf [a, b, e]) a.code = a := by first | exact Src.tripV ‹_› (immIsN ‹_›) | exact Src.tripV ‹_› (immIs ‹_› (by simp)) | exact Src.tripV ‹_› (immIsZ (by assumption) (by assumption)).1
  have hb : Src.ofV (immOf [a, b, e]) b.code = b := by first | exact Src.tripV ‹_› (immIsN ‹_›) | exact Src.tripV ‹_› (immIs ‹_› (by simp)) | exact Src.tripV ‹_› (immIsZ (by assumption) (by assumption)).2
  have he : Src.ofV (immOf [a, b, e]) e.code = e := by first | exact Src.tripV ‹_› (immIsN ‹_›) | exact Src.tripV ‹_› (immIs ‹_› (by simp)) | exact Src.tripV ‹_› (immIsZ (by assumption) (by assumption)).3
  refine Eq.trans (b := some (.dotVQ c (lo2 (lowMod fm)) (Dst.ofCode d.code) (Src.ofV (immOf [a, b, e]) a.code) (Src.ofV (immOf [a, b, e]) b.code) (Src.ofV (immOf [a, b, e]) e.code))) ?_ (by simp only [hfm, hd, ha, hb, he]; try rfl)
  rw [raw_decodePack (by dsimp only; decide)]
  unfold decodePack
  dsimp only [Instr.sameWord, Fields.dst, Fields.va, Fields.vb, Fields.ve]
  try simp (disch := omega) only [lo2, hi2, lo3, flMod, scMod, lowMod, cmbMod, ext_hi, ext_lo, bit_hi, bit_lo, Nat.reduceSub, Nat.sub_self, ext_all, bit_one, ext_wide, Option.bind_eq_bind, Option.bind_some]
  all_goals rfl
theorem absVQ (c : Ctl) (fm : BitVec 2) (d : Dst) (a : Src) : Statement (.absVQ c fm d a) := by
  intro h
  refine decode_encode rfl rfl h ?_
  simp only [Instr.wellFormed, vv, uu, vvv, uuu, fvv, fuu, fvvv, fuuu, fv, fu, cmpOk, predsOk, Bool.and_eq_true, decide_eq_true_eq] at h
  replace h := And.intro h trivial
  try simp only [and_assoc] at h
  repeat (obtain ⟨_, h⟩ := h)
  have hfm : lo2 (lowMod fm) = fm := by simp (disch := omega) only [lo2, lowMod, ext_hi, ext_lo, bit_hi, bit_lo, Nat.reduceSub, Nat.sub_self, ext_all, bit_one, ext_wide]
  have hd : Dst.ofCode d.code = d := by first | exact Dst.tripV ‹_› | exact Dst.tripU ‹_› | exact Dst.tripA ‹_›
  have ha : Src.ofV (immOf [a]) a.code = a := by first | exact Src.tripV ‹_› (immIsN ‹_›) | exact Src.tripV ‹_› immIs1
  refine Eq.trans (b := some (.absVQ c (lo2 (lowMod fm)) (Dst.ofCode d.code) (Src.ofV (immOf [a]) a.code))) ?_ (by simp only [hfm, hd, ha]; try rfl)
  rw [raw_decodePack (by dsimp only; decide)]
  unfold decodePack
  dsimp only [Instr.sameWord, Fields.dst, Fields.va]
  try simp (disch := omega) only [lo2, hi2, lo3, flMod, scMod, lowMod, cmbMod, ext_hi, ext_lo, bit_hi, bit_lo, Nat.reduceSub, Nat.sub_self, ext_all, bit_one, ext_wide, Option.bind_eq_bind, Option.bind_some]
  all_goals rfl
theorem negVQ (c : Ctl) (fm : BitVec 2) (d : Dst) (a : Src) : Statement (.negVQ c fm d a) := by
  intro h
  refine decode_encode rfl rfl h ?_
  simp only [Instr.wellFormed, vv, uu, vvv, uuu, fvv, fuu, fvvv, fuuu, fv, fu, cmpOk, predsOk, Bool.and_eq_true, decide_eq_true_eq] at h
  replace h := And.intro h trivial
  try simp only [and_assoc] at h
  repeat (obtain ⟨_, h⟩ := h)
  have hfm : lo2 (lowMod fm) = fm := by simp (disch := omega) only [lo2, lowMod, ext_hi, ext_lo, bit_hi, bit_lo, Nat.reduceSub, Nat.sub_self, ext_all, bit_one, ext_wide]
  have hd : Dst.ofCode d.code = d := by first | exact Dst.tripV ‹_› | exact Dst.tripU ‹_› | exact Dst.tripA ‹_›
  have ha : Src.ofV (immOf [a]) a.code = a := by first | exact Src.tripV ‹_› (immIsN ‹_›) | exact Src.tripV ‹_› immIs1
  refine Eq.trans (b := some (.negVQ c (lo2 (lowMod fm)) (Dst.ofCode d.code) (Src.ofV (immOf [a]) a.code))) ?_ (by simp only [hfm, hd, ha]; try rfl)
  rw [raw_decodePack (by dsimp only; decide)]
  unfold decodePack
  dsimp only [Instr.sameWord, Fields.dst, Fields.va]
  try simp (disch := omega) only [lo2, hi2, lo3, flMod, scMod, lowMod, cmbMod, ext_hi, ext_lo, bit_hi, bit_lo, Nat.reduceSub, Nat.sub_self, ext_all, bit_one, ext_wide, Option.bind_eq_bind, Option.bind_some]
  all_goals rfl
theorem cvtFloatFloat (c : Ctl) (dt : FT) (st : FT) (r : Rnd) (d : Dst) (a : Src) : Statement (.cvtFloatFloat c dt st r d a) := by
  intro h
  refine decode_encode rfl rfl h ?_
  simp only [Instr.wellFormed, vv, uu, vvv, uuu, fvv, fuu, fvvv, fuuu, fv, fu, cmpOk, predsOk, Bool.and_eq_true, decide_eq_true_eq] at h
  replace h := And.intro h trivial
  try simp only [and_assoc] at h
  repeat (obtain ⟨_, h⟩ := h)
  have hd : Dst.ofCode d.code = d := by first | exact Dst.tripV ‹_› | exact Dst.tripU ‹_› | exact Dst.tripA ‹_›
  have ha : Src.ofV (immOf [a]) a.code = a := by first | exact Src.tripV ‹_› (immIsN ‹_›) | exact Src.tripV ‹_› immIs1
  refine Eq.trans (b := some (.cvtFloatFloat c dt st r (Dst.ofCode d.code) (Src.ofV (immOf [a]) a.code))) ?_ (by simp only [hd, ha]; try rfl)
  rw [raw_decodeCvt (by dsimp only; decide)]
  unfold decodeCvt
  dsimp only [Instr.sameWord, Fields.dst, Fields.va]
  try simp (disch := omega) only [lo2, hi2, lo3, flMod, scMod, lowMod, cmbMod, ext_hi, ext_lo, bit_hi, bit_lo, Nat.reduceSub, Nat.sub_self, ext_all, bit_one, ext_wide, Option.bind_eq_bind, Option.bind_some, FT.trip, Rnd.trip]
  all_goals first | rfl | (cases dt <;> cases st <;> cases r <;> first | rfl | exact absurd ‹(_ != _) = true› (by decide))
theorem cvtFloatInt (c : Ctl) (dt : IT) (st : FT) (r : Rnd) (d : Dst) (a : Src) : Statement (.cvtFloatInt c dt st r d a) := by
  intro h
  refine decode_encode rfl rfl h ?_
  simp only [Instr.wellFormed, vv, uu, vvv, uuu, fvv, fuu, fvvv, fuuu, fv, fu, cmpOk, predsOk, Bool.and_eq_true, decide_eq_true_eq] at h
  replace h := And.intro h trivial
  try simp only [and_assoc] at h
  repeat (obtain ⟨_, h⟩ := h)
  have hd : Dst.ofCode d.code = d := by first | exact Dst.tripV ‹_› | exact Dst.tripU ‹_› | exact Dst.tripA ‹_›
  have ha : Src.ofV (immOf [a]) a.code = a := by first | exact Src.tripV ‹_› (immIsN ‹_›) | exact Src.tripV ‹_› immIs1
  refine Eq.trans (b := some (.cvtFloatInt c dt st r (Dst.ofCode d.code) (Src.ofV (immOf [a]) a.code))) ?_ (by simp only [hd, ha]; try rfl)
  rw [raw_decodeCvt (by dsimp only; decide)]
  unfold decodeCvt
  dsimp only [Instr.sameWord, Fields.dst, Fields.va]
  try simp (disch := omega) only [lo2, hi2, lo3, flMod, scMod, lowMod, cmbMod, ext_hi, ext_lo, bit_hi, bit_lo, Nat.reduceSub, Nat.sub_self, ext_all, bit_one, ext_wide, Option.bind_eq_bind, Option.bind_some, IT.trip, FT.trip, Rnd.trip]
  all_goals first | rfl | (cases dt <;> cases st <;> cases r <;> first | rfl | exact absurd ‹(_ != _) = true› (by decide))
theorem cvtIntFloat (c : Ctl) (dt : FT) (st : IT) (r : Rnd) (d : Dst) (a : Src) : Statement (.cvtIntFloat c dt st r d a) := by
  intro h
  refine decode_encode rfl rfl h ?_
  simp only [Instr.wellFormed, vv, uu, vvv, uuu, fvv, fuu, fvvv, fuuu, fv, fu, cmpOk, predsOk, Bool.and_eq_true, decide_eq_true_eq] at h
  replace h := And.intro h trivial
  try simp only [and_assoc] at h
  repeat (obtain ⟨_, h⟩ := h)
  have hd : Dst.ofCode d.code = d := by first | exact Dst.tripV ‹_› | exact Dst.tripU ‹_› | exact Dst.tripA ‹_›
  have ha : Src.ofV (immOf [a]) a.code = a := by first | exact Src.tripV ‹_› (immIsN ‹_›) | exact Src.tripV ‹_› immIs1
  refine Eq.trans (b := some (.cvtIntFloat c dt st r (Dst.ofCode d.code) (Src.ofV (immOf [a]) a.code))) ?_ (by simp only [hd, ha]; try rfl)
  rw [raw_decodeCvt (by dsimp only; decide)]
  unfold decodeCvt
  dsimp only [Instr.sameWord, Fields.dst, Fields.va]
  try simp (disch := omega) only [lo2, hi2, lo3, flMod, scMod, lowMod, cmbMod, ext_hi, ext_lo, bit_hi, bit_lo, Nat.reduceSub, Nat.sub_self, ext_all, bit_one, ext_wide, Option.bind_eq_bind, Option.bind_some, IT.trip, FT.trip, Rnd.trip]
  all_goals first | rfl | (cases dt <;> cases st <;> cases r <;> first | rfl | exact absurd ‹(_ != _) = true› (by decide))
theorem cvtQFloat (c : Ctl) (st : FT) (fm : BitVec 2) (idx : BitVec 3) (d : Dst) (a : Src) (e : Src) : Statement (.cvtQFloat c st fm idx d a e) := by
  intro h
  refine decode_encode rfl rfl h ?_
  simp only [Instr.wellFormed, vv, uu, vvv, uuu, fvv, fuu, fvvv, fuuu, fv, fu, cmpOk, predsOk, Bool.and_eq_true, decide_eq_true_eq] at h
  replace h := And.intro h trivial
  try simp only [and_assoc] at h
  repeat (obtain ⟨_, h⟩ := h)
  have hfm : lo2 (lowMod fm) = fm := by simp (disch := omega) only [lo2, lowMod, ext_hi, ext_lo, bit_hi, bit_lo, Nat.reduceSub, Nat.sub_self, ext_all, bit_one, ext_wide]
  have hidx : BitVec.extractLsb' 0 3 (idx.setWidth 32) = idx := by simp (disch := omega) only [lo2, lowMod, ext_hi, ext_lo, bit_hi, bit_lo, Nat.reduceSub, Nat.sub_self, ext_all, bit_one, ext_wide]
  have hd : Dst.ofCode d.code = d := by first | exact Dst.tripV ‹_› | exact Dst.tripU ‹_› | exact Dst.tripA ‹_›
  have ha : Src.ofV (idx.setWidth 32) a.code = a := by first | exact Src.tripV ‹_› (immIsN ‹_›)
  have he : Src.ofV (idx.setWidth 32) e.code = e := by first | exact Src.tripV ‹_› (immIsN ‹_›)
  refine Eq.trans (b := some (.cvtQFloat c st (lo2 (lowMod fm)) (BitVec.extractLsb' 0 3 (idx.setWidth 32)) (Dst.ofCode d.code) (Src.ofV (idx.setWidth 32) a.code) (Src.ofV (idx.setWidth 32) e.code))) ?_ (by simp only [hfm, hidx, hd, ha, he]; try rfl)
  rw [raw_decodeCvt (by dsimp only; decide)]
  unfold decodeCvt
  dsimp only [Instr.sameWord, Fields.dst, Fields.va, Fields.ve]
  try simp (disch := omega) only [lo2, hi2, lo3, flMod, scMod, lowMod, cmbMod, ext_hi, ext_lo, bit_hi, bit_lo, Nat.reduceSub, Nat.sub_self, ext_all, bit_one, ext_wide, Option.bind_eq_bind, Option.bind_some, FT.trip]
  all_goals first | rfl | (cases st <;> first | rfl | exact absurd ‹(_ != _) = true› (by decide))
theorem cvtFloatQ (c : Ctl) (dt : FT) (fm : BitVec 2) (idx : BitVec 3) (d : Dst) (a : Src) : Statement (.cvtFloatQ c dt fm idx d a) := by
  intro h
  refine decode_encode rfl rfl h ?_
  simp only [Instr.wellFormed, vv, uu, vvv, uuu, fvv, fuu, fvvv, fuuu, fv, fu, cmpOk, predsOk, Bool.and_eq_true, decide_eq_true_eq] at h
  replace h := And.intro h trivial
  try simp only [and_assoc] at h
  repeat (obtain ⟨_, h⟩ := h)
  have hfm : lo2 (lowMod fm) = fm := by simp (disch := omega) only [lo2, lowMod, ext_hi, ext_lo, bit_hi, bit_lo, Nat.reduceSub, Nat.sub_self, ext_all, bit_one, ext_wide]
  have hidx : BitVec.extractLsb' 0 3 (idx.setWidth 32) = idx := by simp (disch := omega) only [lo2, lowMod, ext_hi, ext_lo, bit_hi, bit_lo, Nat.reduceSub, Nat.sub_self, ext_all, bit_one, ext_wide]
  have hd : Dst.ofCode d.code = d := by first | exact Dst.tripV ‹_› | exact Dst.tripU ‹_› | exact Dst.tripA ‹_›
  have ha : Src.ofV (idx.setWidth 32) a.code = a := by first | exact Src.tripV ‹_› (immIsN ‹_›)
  refine Eq.trans (b := some (.cvtFloatQ c dt (lo2 (lowMod fm)) (BitVec.extractLsb' 0 3 (idx.setWidth 32)) (Dst.ofCode d.code) (Src.ofV (idx.setWidth 32) a.code))) ?_ (by simp only [hfm, hidx, hd, ha]; try rfl)
  rw [raw_decodeCvt (by dsimp only; decide)]
  unfold decodeCvt
  dsimp only [Instr.sameWord, Fields.dst, Fields.va]
  try simp (disch := omega) only [lo2, hi2, lo3, flMod, scMod, lowMod, cmbMod, ext_hi, ext_lo, bit_hi, bit_lo, Nat.reduceSub, Nat.sub_self, ext_all, bit_one, ext_wide, Option.bind_eq_bind, Option.bind_some, FT.trip]
  all_goals first | rfl | (cases dt <;> first | rfl | exact absurd ‹(_ != _) = true› (by decide))
theorem cvtNarrow (c : Ctl) (sat : Bool) (un : Bool) (dt : NT) (d : Dst) (a : Src) : Statement (.cvtNarrow c sat un dt d a) := by
  intro h
  refine decode_encode rfl rfl h ?_
  simp only [Instr.wellFormed, vv, uu, vvv, uuu, fvv, fuu, fvvv, fuuu, fv, fu, cmpOk, predsOk, Bool.and_eq_true, decide_eq_true_eq] at h
  replace h := And.intro h trivial
  try simp only [and_assoc] at h
  repeat (obtain ⟨_, h⟩ := h)
  have hd : Dst.ofCode d.code = d := by first | exact Dst.tripV ‹_› | exact Dst.tripU ‹_› | exact Dst.tripA ‹_›
  have ha : Src.ofV (immOf [a]) a.code = a := by first | exact Src.tripV ‹_› (immIsN ‹_›) | exact Src.tripV ‹_› immIs1
  refine Eq.trans (b := some (.cvtNarrow c sat un dt (Dst.ofCode d.code) (Src.ofV (immOf [a]) a.code))) ?_ (by simp only [hd, ha]; try rfl)
  rw [raw_decodeCvt (by dsimp only; decide)]
  unfold decodeCvt
  dsimp only [Instr.sameWord, Fields.dst, Fields.va]
  try simp (disch := omega) only [lo2, hi2, lo3, flMod, scMod, lowMod, cmbMod, ext_hi, ext_lo, bit_hi, bit_lo, Nat.reduceSub, Nat.sub_self, ext_all, bit_one, ext_wide, Option.bind_eq_bind, Option.bind_some, NT.trip]
  all_goals first | rfl | (cases sat <;> cases un <;> cases dt <;> first | rfl | exact absurd ‹(_ != _) = true› (by decide))
theorem addSF (c : Ctl) (t : FT) (sat : Bool) (r : Rnd) (d : Dst) (a : Src) (b : Src) : Statement (.addSF c t sat r d a b) := by
  intro h
  refine decode_encode rfl rfl h ?_
  simp only [Instr.wellFormed, vv, uu, vvv, uuu, fvv, fuu, fvvv, fuuu, fv, fu, cmpOk, predsOk, Bool.and_eq_true, decide_eq_true_eq] at h
  replace h := And.intro h trivial
  try simp only [and_assoc] at h
  repeat (obtain ⟨_, h⟩ := h)
  have hd : Dst.ofCode d.code = d := by first | exact Dst.tripV ‹_› | exact Dst.tripU ‹_› | exact Dst.tripA ‹_›
  have ha : Src.ofU (immOf [a, b]) a.code = a := by first | exact Src.tripU ‹_› (immIsN ‹_›) | exact Src.tripU ‹_› (immIs ‹_› (by simp)) | exact Src.tripU ‹_› (immIsZ (by assumption) (by assumption)).1
  have hb : Src.ofU (immOf [a, b]) b.code = b := by first | exact Src.tripU ‹_› (immIsN ‹_›) | exact Src.tripU ‹_› (immIs ‹_› (by simp)) | exact Src.tripU ‹_› (immIsZ (by assumption) (by assumption)).2
  refine Eq.trans (b := some (.addSF c t sat r (Dst.ofCode d.code) (Src.ofU (immOf [a, b]) a.code) (Src.ofU (immOf [a, b]) b.code))) ?_ (by simp only [hd, ha, hb]; try rfl)
  rw [raw_decodeFltS (by dsimp only; decide)]
  unfold decodeFltS
  dsimp only [Instr.sameWord, Fields.dst, Fields.ua, Fields.ub]
  try simp (disch := omega) only [lo2, hi2, lo3, flMod, scMod, lowMod, cmbMod, ext_hi, ext_lo, bit_hi, bit_lo, Nat.reduceSub, Nat.sub_self, ext_all, bit_one, ext_wide, Option.bind_eq_bind, Option.bind_some, FT.trip, Rnd.trip]
  all_goals first | rfl | (cases t <;> cases sat <;> cases r <;> first | rfl | exact absurd ‹(_ != _) = true› (by decide))
theorem subSF (c : Ctl) (t : FT) (sat : Bool) (r : Rnd) (d : Dst) (a : Src) (b : Src) : Statement (.subSF c t sat r d a b) := by
  intro h
  refine decode_encode rfl rfl h ?_
  simp only [Instr.wellFormed, vv, uu, vvv, uuu, fvv, fuu, fvvv, fuuu, fv, fu, cmpOk, predsOk, Bool.and_eq_true, decide_eq_true_eq] at h
  replace h := And.intro h trivial
  try simp only [and_assoc] at h
  repeat (obtain ⟨_, h⟩ := h)
  have hd : Dst.ofCode d.code = d := by first | exact Dst.tripV ‹_› | exact Dst.tripU ‹_› | exact Dst.tripA ‹_›
  have ha : Src.ofU (immOf [a, b]) a.code = a := by first | exact Src.tripU ‹_› (immIsN ‹_›) | exact Src.tripU ‹_› (immIs ‹_› (by simp)) | exact Src.tripU ‹_› (immIsZ (by assumption) (by assumption)).1
  have hb : Src.ofU (immOf [a, b]) b.code = b := by first | exact Src.tripU ‹_› (immIsN ‹_›) | exact Src.tripU ‹_› (immIs ‹_› (by simp)) | exact Src.tripU ‹_› (immIsZ (by assumption) (by assumption)).2
  refine Eq.trans (b := some (.subSF c t sat r (Dst.ofCode d.code) (Src.ofU (immOf [a, b]) a.code) (Src.ofU (immOf [a, b]) b.code))) ?_ (by simp only [hd, ha, hb]; try rfl)
  rw [raw_decodeFltS (by dsimp only; decide)]
  unfold decodeFltS
  dsimp only [Instr.sameWord, Fields.dst, Fields.ua, Fields.ub]
  try simp (disch := omega) only [lo2, hi2, lo3, flMod, scMod, lowMod, cmbMod, ext_hi, ext_lo, bit_hi, bit_lo, Nat.reduceSub, Nat.sub_self, ext_all, bit_one, ext_wide, Option.bind_eq_bind, Option.bind_some, FT.trip, Rnd.trip]
  all_goals first | rfl | (cases t <;> cases sat <;> cases r <;> first | rfl | exact absurd ‹(_ != _) = true› (by decide))
theorem mulSF (c : Ctl) (t : FT) (sat : Bool) (r : Rnd) (d : Dst) (a : Src) (b : Src) : Statement (.mulSF c t sat r d a b) := by
  intro h
  refine decode_encode rfl rfl h ?_
  simp only [Instr.wellFormed, vv, uu, vvv, uuu, fvv, fuu, fvvv, fuuu, fv, fu, cmpOk, predsOk, Bool.and_eq_true, decide_eq_true_eq] at h
  replace h := And.intro h trivial
  try simp only [and_assoc] at h
  repeat (obtain ⟨_, h⟩ := h)
  have hd : Dst.ofCode d.code = d := by first | exact Dst.tripV ‹_› | exact Dst.tripU ‹_› | exact Dst.tripA ‹_›
  have ha : Src.ofU (immOf [a, b]) a.code = a := by first | exact Src.tripU ‹_› (immIsN ‹_›) | exact Src.tripU ‹_› (immIs ‹_› (by simp)) | exact Src.tripU ‹_› (immIsZ (by assumption) (by assumption)).1
  have hb : Src.ofU (immOf [a, b]) b.code = b := by first | exact Src.tripU ‹_› (immIsN ‹_›) | exact Src.tripU ‹_› (immIs ‹_› (by simp)) | exact Src.tripU ‹_› (immIsZ (by assumption) (by assumption)).2
  refine Eq.trans (b := some (.mulSF c t sat r (Dst.ofCode d.code) (Src.ofU (immOf [a, b]) a.code) (Src.ofU (immOf [a, b]) b.code))) ?_ (by simp only [hd, ha, hb]; try rfl)
  rw [raw_decodeFltS (by dsimp only; decide)]
  unfold decodeFltS
  dsimp only [Instr.sameWord, Fields.dst, Fields.ua, Fields.ub]
  try simp (disch := omega) only [lo2, hi2, lo3, flMod, scMod, lowMod, cmbMod, ext_hi, ext_lo, bit_hi, bit_lo, Nat.reduceSub, Nat.sub_self, ext_all, bit_one, ext_wide, Option.bind_eq_bind, Option.bind_some, FT.trip, Rnd.trip]
  all_goals first | rfl | (cases t <;> cases sat <;> cases r <;> first | rfl | exact absurd ‹(_ != _) = true› (by decide))
theorem fmaS (c : Ctl) (t : FT) (sat : Bool) (r : Rnd) (d : Dst) (a : Src) (b : Src) (e : Src) : Statement (.fmaS c t sat r d a b e) := by
  intro h
  refine decode_encode rfl rfl h ?_
  simp only [Instr.wellFormed, vv, uu, vvv, uuu, fvv, fuu, fvvv, fuuu, fv, fu, cmpOk, predsOk, Bool.and_eq_true, decide_eq_true_eq] at h
  replace h := And.intro h trivial
  try simp only [and_assoc] at h
  repeat (obtain ⟨_, h⟩ := h)
  have hd : Dst.ofCode d.code = d := by first | exact Dst.tripV ‹_› | exact Dst.tripU ‹_› | exact Dst.tripA ‹_›
  have ha : Src.ofU (immOf [a, b, e]) a.code = a := by first | exact Src.tripU ‹_› (immIsN ‹_›) | exact Src.tripU ‹_› (immIs ‹_› (by simp)) | exact Src.tripU ‹_› (immIsZ (by assumption) (by assumption)).1
  have hb : Src.ofU (immOf [a, b, e]) b.code = b := by first | exact Src.tripU ‹_› (immIsN ‹_›) | exact Src.tripU ‹_› (immIs ‹_› (by simp)) | exact Src.tripU ‹_› (immIsZ (by assumption) (by assumption)).2
  have he : Src.ofU (immOf [a, b, e]) e.code = e := by first | exact Src.tripU ‹_› (immIsN ‹_›) | exact Src.tripU ‹_› (immIs ‹_› (by simp)) | exact Src.tripU ‹_› (immIsZ (by assumption) (by assumption)).3
  refine Eq.trans (b := some (.fmaS c t sat r (Dst.ofCode d.code) (Src.ofU (immOf [a, b, e]) a.code) (Src.ofU (immOf [a, b, e]) b.code) (Src.ofU (immOf [a, b, e]) e.code))) ?_ (by simp only [hd, ha, hb, he]; try rfl)
  rw [raw_decodeFltS (by dsimp only; decide)]
  unfold decodeFltS
  dsimp only [Instr.sameWord, Fields.dst, Fields.ua, Fields.ub, Fields.ue]
  try simp (disch := omega) only [lo2, hi2, lo3, flMod, scMod, lowMod, cmbMod, ext_hi, ext_lo, bit_hi, bit_lo, Nat.reduceSub, Nat.sub_self, ext_all, bit_one, ext_wide, Option.bind_eq_bind, Option.bind_some, FT.trip, Rnd.trip]
  all_goals first | rfl | (cases t <;> cases sat <;> cases r <;> first | rfl | exact absurd ‹(_ != _) = true› (by decide))
theorem minSF (c : Ctl) (t : FT) (d : Dst) (a : Src) (b : Src) : Statement (.minSF c t d a b) := by
  intro h
  refine decode_encode rfl rfl h ?_
  simp only [Instr.wellFormed, vv, uu, vvv, uuu, fvv, fuu, fvvv, fuuu, fv, fu, cmpOk, predsOk, Bool.and_eq_true, decide_eq_true_eq] at h
  replace h := And.intro h trivial
  try simp only [and_assoc] at h
  repeat (obtain ⟨_, h⟩ := h)
  have hd : Dst.ofCode d.code = d := by first | exact Dst.tripV ‹_› | exact Dst.tripU ‹_› | exact Dst.tripA ‹_›
  have ha : Src.ofU (immOf [a, b]) a.code = a := by first | exact Src.tripU ‹_› (immIsN ‹_›) | exact Src.tripU ‹_› (immIs ‹_› (by simp)) | exact Src.tripU ‹_› (immIsZ (by assumption) (by assumption)).1
  have hb : Src.ofU (immOf [a, b]) b.code = b := by first | exact Src.tripU ‹_› (immIsN ‹_›) | exact Src.tripU ‹_› (immIs ‹_› (by simp)) | exact Src.tripU ‹_› (immIsZ (by assumption) (by assumption)).2
  refine Eq.trans (b := some (.minSF c t (Dst.ofCode d.code) (Src.ofU (immOf [a, b]) a.code) (Src.ofU (immOf [a, b]) b.code))) ?_ (by simp only [hd, ha, hb]; try rfl)
  rw [raw_decodeFltS (by dsimp only; decide)]
  unfold decodeFltS
  dsimp only [Instr.sameWord, Fields.dst, Fields.ua, Fields.ub]
  try simp (disch := omega) only [lo2, hi2, lo3, flMod, scMod, lowMod, cmbMod, ext_hi, ext_lo, bit_hi, bit_lo, Nat.reduceSub, Nat.sub_self, ext_all, bit_one, ext_wide, Option.bind_eq_bind, Option.bind_some, FT.trip]
  all_goals first | rfl | (cases t <;> first | rfl | exact absurd ‹(_ != _) = true› (by decide))
theorem maxSF (c : Ctl) (t : FT) (d : Dst) (a : Src) (b : Src) : Statement (.maxSF c t d a b) := by
  intro h
  refine decode_encode rfl rfl h ?_
  simp only [Instr.wellFormed, vv, uu, vvv, uuu, fvv, fuu, fvvv, fuuu, fv, fu, cmpOk, predsOk, Bool.and_eq_true, decide_eq_true_eq] at h
  replace h := And.intro h trivial
  try simp only [and_assoc] at h
  repeat (obtain ⟨_, h⟩ := h)
  have hd : Dst.ofCode d.code = d := by first | exact Dst.tripV ‹_› | exact Dst.tripU ‹_› | exact Dst.tripA ‹_›
  have ha : Src.ofU (immOf [a, b]) a.code = a := by first | exact Src.tripU ‹_› (immIsN ‹_›) | exact Src.tripU ‹_› (immIs ‹_› (by simp)) | exact Src.tripU ‹_› (immIsZ (by assumption) (by assumption)).1
  have hb : Src.ofU (immOf [a, b]) b.code = b := by first | exact Src.tripU ‹_› (immIsN ‹_›) | exact Src.tripU ‹_› (immIs ‹_› (by simp)) | exact Src.tripU ‹_› (immIsZ (by assumption) (by assumption)).2
  refine Eq.trans (b := some (.maxSF c t (Dst.ofCode d.code) (Src.ofU (immOf [a, b]) a.code) (Src.ofU (immOf [a, b]) b.code))) ?_ (by simp only [hd, ha, hb]; try rfl)
  rw [raw_decodeFltS (by dsimp only; decide)]
  unfold decodeFltS
  dsimp only [Instr.sameWord, Fields.dst, Fields.ua, Fields.ub]
  try simp (disch := omega) only [lo2, hi2, lo3, flMod, scMod, lowMod, cmbMod, ext_hi, ext_lo, bit_hi, bit_lo, Nat.reduceSub, Nat.sub_self, ext_all, bit_one, ext_wide, Option.bind_eq_bind, Option.bind_some, FT.trip]
  all_goals first | rfl | (cases t <;> first | rfl | exact absurd ‹(_ != _) = true› (by decide))
theorem minnumS (c : Ctl) (t : FT) (d : Dst) (a : Src) (b : Src) : Statement (.minnumS c t d a b) := by
  intro h
  refine decode_encode rfl rfl h ?_
  simp only [Instr.wellFormed, vv, uu, vvv, uuu, fvv, fuu, fvvv, fuuu, fv, fu, cmpOk, predsOk, Bool.and_eq_true, decide_eq_true_eq] at h
  replace h := And.intro h trivial
  try simp only [and_assoc] at h
  repeat (obtain ⟨_, h⟩ := h)
  have hd : Dst.ofCode d.code = d := by first | exact Dst.tripV ‹_› | exact Dst.tripU ‹_› | exact Dst.tripA ‹_›
  have ha : Src.ofU (immOf [a, b]) a.code = a := by first | exact Src.tripU ‹_› (immIsN ‹_›) | exact Src.tripU ‹_› (immIs ‹_› (by simp)) | exact Src.tripU ‹_› (immIsZ (by assumption) (by assumption)).1
  have hb : Src.ofU (immOf [a, b]) b.code = b := by first | exact Src.tripU ‹_› (immIsN ‹_›) | exact Src.tripU ‹_› (immIs ‹_› (by simp)) | exact Src.tripU ‹_› (immIsZ (by assumption) (by assumption)).2
  refine Eq.trans (b := some (.minnumS c t (Dst.ofCode d.code) (Src.ofU (immOf [a, b]) a.code) (Src.ofU (immOf [a, b]) b.code))) ?_ (by simp only [hd, ha, hb]; try rfl)
  rw [raw_decodeFltS (by dsimp only; decide)]
  unfold decodeFltS
  dsimp only [Instr.sameWord, Fields.dst, Fields.ua, Fields.ub]
  try simp (disch := omega) only [lo2, hi2, lo3, flMod, scMod, lowMod, cmbMod, ext_hi, ext_lo, bit_hi, bit_lo, Nat.reduceSub, Nat.sub_self, ext_all, bit_one, ext_wide, Option.bind_eq_bind, Option.bind_some, FT.trip]
  all_goals first | rfl | (cases t <;> first | rfl | exact absurd ‹(_ != _) = true› (by decide))
theorem maxnumS (c : Ctl) (t : FT) (d : Dst) (a : Src) (b : Src) : Statement (.maxnumS c t d a b) := by
  intro h
  refine decode_encode rfl rfl h ?_
  simp only [Instr.wellFormed, vv, uu, vvv, uuu, fvv, fuu, fvvv, fuuu, fv, fu, cmpOk, predsOk, Bool.and_eq_true, decide_eq_true_eq] at h
  replace h := And.intro h trivial
  try simp only [and_assoc] at h
  repeat (obtain ⟨_, h⟩ := h)
  have hd : Dst.ofCode d.code = d := by first | exact Dst.tripV ‹_› | exact Dst.tripU ‹_› | exact Dst.tripA ‹_›
  have ha : Src.ofU (immOf [a, b]) a.code = a := by first | exact Src.tripU ‹_› (immIsN ‹_›) | exact Src.tripU ‹_› (immIs ‹_› (by simp)) | exact Src.tripU ‹_› (immIsZ (by assumption) (by assumption)).1
  have hb : Src.ofU (immOf [a, b]) b.code = b := by first | exact Src.tripU ‹_› (immIsN ‹_›) | exact Src.tripU ‹_› (immIs ‹_› (by simp)) | exact Src.tripU ‹_› (immIsZ (by assumption) (by assumption)).2
  refine Eq.trans (b := some (.maxnumS c t (Dst.ofCode d.code) (Src.ofU (immOf [a, b]) a.code) (Src.ofU (immOf [a, b]) b.code))) ?_ (by simp only [hd, ha, hb]; try rfl)
  rw [raw_decodeFltS (by dsimp only; decide)]
  unfold decodeFltS
  dsimp only [Instr.sameWord, Fields.dst, Fields.ua, Fields.ub]
  try simp (disch := omega) only [lo2, hi2, lo3, flMod, scMod, lowMod, cmbMod, ext_hi, ext_lo, bit_hi, bit_lo, Nat.reduceSub, Nat.sub_self, ext_all, bit_one, ext_wide, Option.bind_eq_bind, Option.bind_some, FT.trip]
  all_goals first | rfl | (cases t <;> first | rfl | exact absurd ‹(_ != _) = true› (by decide))
theorem cmpSF (c : Ctl) (ty : Bool) (cond : FCond) (cmb : Cmb) (pd : Nat) (pc : Nat) (a : Src) (b : Src) : Statement (.cmpSF c ty cond cmb pd pc a b) := by
  intro h
  refine decode_encode rfl rfl h ?_
  simp only [Instr.wellFormed, vv, uu, vvv, uuu, fvv, fuu, fvvv, fuuu, fv, fu, cmpOk, predsOk, Bool.and_eq_true, decide_eq_true_eq] at h
  replace h := And.intro h trivial
  try simp only [and_assoc] at h
  repeat (obtain ⟨_, h⟩ := h)
  have hpd : (codeOf pd).toNat = pd := by exact codeOf_toNat (by omega)
  have hpc : (codeOf pc).toNat = pc := by exact codeOf_toNat (by omega)
  have ha : Src.ofU (immOf [a, b]) a.code = a := by first | exact Src.tripU ‹_› (immIsN ‹_›) | exact Src.tripU ‹_› (immIs ‹_› (by simp)) | exact Src.tripU ‹_› (immIsZ (by assumption) (by assumption)).1
  have hb : Src.ofU (immOf [a, b]) b.code = b := by first | exact Src.tripU ‹_› (immIsN ‹_›) | exact Src.tripU ‹_› (immIs ‹_› (by simp)) | exact Src.tripU ‹_› (immIsZ (by assumption) (by assumption)).2
  refine Eq.trans (b := some (.cmpSF c ty cond cmb ((codeOf pd).toNat) ((codeOf pc).toNat) (Src.ofU (immOf [a, b]) a.code) (Src.ofU (immOf [a, b]) b.code))) ?_ (by simp only [hpd, hpc, ha, hb]; try rfl)
  rw [raw_decodeFltS (by dsimp only; decide)]
  unfold decodeFltS
  dsimp only [Instr.sameWord, Fields.ua, Fields.ub, Fields.nd, Fields.ne]
  try simp (disch := omega) only [lo2, hi2, lo3, flMod, scMod, lowMod, cmbMod, ext_hi, ext_lo, bit_hi, bit_lo, Nat.reduceSub, Nat.sub_self, ext_all, bit_one, ext_wide, Option.bind_eq_bind, Option.bind_some, Cmb.trip, FCond.trip]
  all_goals first | rfl | (cases ty <;> cases cond <;> cases cmb <;> first | rfl | exact absurd ‹(_ != _) = true› (by decide))
theorem rcpS (c : Ctl) (t : FT) (r : Rnd) (d : Dst) (a : Src) : Statement (.rcpS c t r d a) := by
  intro h
  refine decode_encode rfl rfl h ?_
  simp only [Instr.wellFormed, vv, uu, vvv, uuu, fvv, fuu, fvvv, fuuu, fv, fu, cmpOk, predsOk, Bool.and_eq_true, decide_eq_true_eq] at h
  replace h := And.intro h trivial
  try simp only [and_assoc] at h
  repeat (obtain ⟨_, h⟩ := h)
  have hd : Dst.ofCode d.code = d := by first | exact Dst.tripV ‹_› | exact Dst.tripU ‹_› | exact Dst.tripA ‹_›
  have ha : Src.ofU (immOf [a]) a.code = a := by first | exact Src.tripU ‹_› (immIsN ‹_›) | exact Src.tripU ‹_› immIs1
  refine Eq.trans (b := some (.rcpS c t r (Dst.ofCode d.code) (Src.ofU (immOf [a]) a.code))) ?_ (by simp only [hd, ha]; try rfl)
  rw [raw_decodeFltS (by dsimp only; decide)]
  unfold decodeFltS
  dsimp only [Instr.sameWord, Fields.dst, Fields.ua]
  try simp (disch := omega) only [lo2, hi2, lo3, flMod, scMod, lowMod, cmbMod, ext_hi, ext_lo, bit_hi, bit_lo, Nat.reduceSub, Nat.sub_self, ext_all, bit_one, ext_wide, Option.bind_eq_bind, Option.bind_some, FT.trip, Rnd.trip]
  all_goals first | rfl | (cases t <;> cases r <;> first | rfl | exact absurd ‹(_ != _) = true› (by decide))
theorem sqrtS (c : Ctl) (t : FT) (r : Rnd) (d : Dst) (a : Src) : Statement (.sqrtS c t r d a) := by
  intro h
  refine decode_encode rfl rfl h ?_
  simp only [Instr.wellFormed, vv, uu, vvv, uuu, fvv, fuu, fvvv, fuuu, fv, fu, cmpOk, predsOk, Bool.and_eq_true, decide_eq_true_eq] at h
  replace h := And.intro h trivial
  try simp only [and_assoc] at h
  repeat (obtain ⟨_, h⟩ := h)
  have hd : Dst.ofCode d.code = d := by first | exact Dst.tripV ‹_› | exact Dst.tripU ‹_› | exact Dst.tripA ‹_›
  have ha : Src.ofU (immOf [a]) a.code = a := by first | exact Src.tripU ‹_› (immIsN ‹_›) | exact Src.tripU ‹_› immIs1
  refine Eq.trans (b := some (.sqrtS c t r (Dst.ofCode d.code) (Src.ofU (immOf [a]) a.code))) ?_ (by simp only [hd, ha]; try rfl)
  rw [raw_decodeFltS (by dsimp only; decide)]
  unfold decodeFltS
  dsimp only [Instr.sameWord, Fields.dst, Fields.ua]
  try simp (disch := omega) only [lo2, hi2, lo3, flMod, scMod, lowMod, cmbMod, ext_hi, ext_lo, bit_hi, bit_lo, Nat.reduceSub, Nat.sub_self, ext_all, bit_one, ext_wide, Option.bind_eq_bind, Option.bind_some, FT.trip, Rnd.trip]
  all_goals first | rfl | (cases t <;> cases r <;> first | rfl | exact absurd ‹(_ != _) = true› (by decide))
theorem divSF (c : Ctl) (t : FT) (r : Rnd) (d : Dst) (a : Src) (b : Src) : Statement (.divSF c t r d a b) := by
  intro h
  refine decode_encode rfl rfl h ?_
  simp only [Instr.wellFormed, vv, uu, vvv, uuu, fvv, fuu, fvvv, fuuu, fv, fu, cmpOk, predsOk, Bool.and_eq_true, decide_eq_true_eq] at h
  replace h := And.intro h trivial
  try simp only [and_assoc] at h
  repeat (obtain ⟨_, h⟩ := h)
  have hd : Dst.ofCode d.code = d := by first | exact Dst.tripV ‹_› | exact Dst.tripU ‹_› | exact Dst.tripA ‹_›
  have ha : Src.ofU (immOf [a, b]) a.code = a := by first | exact Src.tripU ‹_› (immIsN ‹_›) | exact Src.tripU ‹_› (immIs ‹_› (by simp)) | exact Src.tripU ‹_› (immIsZ (by assumption) (by assumption)).1
  have hb : Src.ofU (immOf [a, b]) b.code = b := by first | exact Src.tripU ‹_› (immIsN ‹_›) | exact Src.tripU ‹_› (immIs ‹_› (by simp)) | exact Src.tripU ‹_› (immIsZ (by assumption) (by assumption)).2
  refine Eq.trans (b := some (.divSF c t r (Dst.ofCode d.code) (Src.ofU (immOf [a, b]) a.code) (Src.ofU (immOf [a, b]) b.code))) ?_ (by simp only [hd, ha, hb]; try rfl)
  rw [raw_decodeFltS (by dsimp only; decide)]
  unfold decodeFltS
  dsimp only [Instr.sameWord, Fields.dst, Fields.ua, Fields.ub]
  try simp (disch := omega) only [lo2, hi2, lo3, flMod, scMod, lowMod, cmbMod, ext_hi, ext_lo, bit_hi, bit_lo, Nat.reduceSub, Nat.sub_self, ext_all, bit_one, ext_wide, Option.bind_eq_bind, Option.bind_some, FT.trip, Rnd.trip]
  all_goals first | rfl | (cases t <;> cases r <;> first | rfl | exact absurd ‹(_ != _) = true› (by decide))
theorem absSF (c : Ctl) (t : FT) (d : Dst) (a : Src) : Statement (.absSF c t d a) := by
  intro h
  refine decode_encode rfl rfl h ?_
  simp only [Instr.wellFormed, vv, uu, vvv, uuu, fvv, fuu, fvvv, fuuu, fv, fu, cmpOk, predsOk, Bool.and_eq_true, decide_eq_true_eq] at h
  replace h := And.intro h trivial
  try simp only [and_assoc] at h
  repeat (obtain ⟨_, h⟩ := h)
  have hd : Dst.ofCode d.code = d := by first | exact Dst.tripV ‹_› | exact Dst.tripU ‹_› | exact Dst.tripA ‹_›
  have ha : Src.ofU (immOf [a]) a.code = a := by first | exact Src.tripU ‹_› (immIsN ‹_›) | exact Src.tripU ‹_› immIs1
  refine Eq.trans (b := some (.absSF c t (Dst.ofCode d.code) (Src.ofU (immOf [a]) a.code))) ?_ (by simp only [hd, ha]; try rfl)
  rw [raw_decodeFltS (by dsimp only; decide)]
  unfold decodeFltS
  dsimp only [Instr.sameWord, Fields.dst, Fields.ua]
  try simp (disch := omega) only [lo2, hi2, lo3, flMod, scMod, lowMod, cmbMod, ext_hi, ext_lo, bit_hi, bit_lo, Nat.reduceSub, Nat.sub_self, ext_all, bit_one, ext_wide, Option.bind_eq_bind, Option.bind_some, FT.trip]
  all_goals first | rfl | (cases t <;> first | rfl | exact absurd ‹(_ != _) = true› (by decide))
theorem negSF (c : Ctl) (t : FT) (d : Dst) (a : Src) : Statement (.negSF c t d a) := by
  intro h
  refine decode_encode rfl rfl h ?_
  simp only [Instr.wellFormed, vv, uu, vvv, uuu, fvv, fuu, fvvv, fuuu, fv, fu, cmpOk, predsOk, Bool.and_eq_true, decide_eq_true_eq] at h
  replace h := And.intro h trivial
  try simp only [and_assoc] at h
  repeat (obtain ⟨_, h⟩ := h)
  have hd : Dst.ofCode d.code = d := by first | exact Dst.tripV ‹_› | exact Dst.tripU ‹_› | exact Dst.tripA ‹_›
  have ha : Src.ofU (immOf [a]) a.code = a := by first | exact Src.tripU ‹_› (immIsN ‹_›) | exact Src.tripU ‹_› immIs1
  refine Eq.trans (b := some (.negSF c t (Dst.ofCode d.code) (Src.ofU (immOf [a]) a.code))) ?_ (by simp only [hd, ha]; try rfl)
  rw [raw_decodeFltS (by dsimp only; decide)]
  unfold decodeFltS
  dsimp only [Instr.sameWord, Fields.dst, Fields.ua]
  try simp (disch := omega) only [lo2, hi2, lo3, flMod, scMod, lowMod, cmbMod, ext_hi, ext_lo, bit_hi, bit_lo, Nat.reduceSub, Nat.sub_self, ext_all, bit_one, ext_wide, Option.bind_eq_bind, Option.bind_some, FT.trip]
  all_goals first | rfl | (cases t <;> first | rfl | exact absurd ‹(_ != _) = true› (by decide))
theorem copysignS (c : Ctl) (t : FT) (d : Dst) (a : Src) (b : Src) : Statement (.copysignS c t d a b) := by
  intro h
  refine decode_encode rfl rfl h ?_
  simp only [Instr.wellFormed, vv, uu, vvv, uuu, fvv, fuu, fvvv, fuuu, fv, fu, cmpOk, predsOk, Bool.and_eq_true, decide_eq_true_eq] at h
  replace h := And.intro h trivial
  try simp only [and_assoc] at h
  repeat (obtain ⟨_, h⟩ := h)
  have hd : Dst.ofCode d.code = d := by first | exact Dst.tripV ‹_› | exact Dst.tripU ‹_› | exact Dst.tripA ‹_›
  have ha : Src.ofU (immOf [a, b]) a.code = a := by first | exact Src.tripU ‹_› (immIsN ‹_›) | exact Src.tripU ‹_› (immIs ‹_› (by simp)) | exact Src.tripU ‹_› (immIsZ (by assumption) (by assumption)).1
  have hb : Src.ofU (immOf [a, b]) b.code = b := by first | exact Src.tripU ‹_› (immIsN ‹_›) | exact Src.tripU ‹_› (immIs ‹_› (by simp)) | exact Src.tripU ‹_› (immIsZ (by assumption) (by assumption)).2
  refine Eq.trans (b := some (.copysignS c t (Dst.ofCode d.code) (Src.ofU (immOf [a, b]) a.code) (Src.ofU (immOf [a, b]) b.code))) ?_ (by simp only [hd, ha, hb]; try rfl)
  rw [raw_decodeFltS (by dsimp only; decide)]
  unfold decodeFltS
  dsimp only [Instr.sameWord, Fields.dst, Fields.ua, Fields.ub]
  try simp (disch := omega) only [lo2, hi2, lo3, flMod, scMod, lowMod, cmbMod, ext_hi, ext_lo, bit_hi, bit_lo, Nat.reduceSub, Nat.sub_self, ext_all, bit_one, ext_wide, Option.bind_eq_bind, Option.bind_some, FT.trip]
  all_goals first | rfl | (cases t <;> first | rfl | exact absurd ‹(_ != _) = true› (by decide))
theorem shfl (c : Ctl) (w64 : Bool) (md : ShflMode) (d : Dst) (a : Src) (b : Src) : Statement (.shfl c w64 md d a b) := by
  intro h
  refine decode_encode rfl rfl h ?_
  simp only [Instr.wellFormed, vv, uu, vvv, uuu, fvv, fuu, fvvv, fuuu, fv, fu, cmpOk, predsOk, Bool.and_eq_true, decide_eq_true_eq] at h
  replace h := And.intro h trivial
  try simp only [and_assoc] at h
  repeat (obtain ⟨_, h⟩ := h)
  have hd : Dst.ofCode d.code = d := by first | exact Dst.tripV ‹_› | exact Dst.tripU ‹_› | exact Dst.tripA ‹_›
  have ha : Src.ofV (immOf [a, b]) a.code = a := by first | exact Src.tripV ‹_› (immIsN ‹_›) | exact Src.tripV ‹_› (immIs ‹_› (by simp)) | exact Src.tripV ‹_› (immIsZ (by assumption) (by assumption)).1
  have hb : Src.ofV (immOf [a, b]) b.code = b := by first | exact Src.tripV ‹_› (immIsN ‹_›) | exact Src.tripV ‹_› (immIs ‹_› (by simp)) | exact Src.tripV ‹_› (immIsZ (by assumption) (by assumption)).2
  refine Eq.trans (b := some (.shfl c w64 md (Dst.ofCode d.code) (Src.ofV (immOf [a, b]) a.code) (Src.ofV (immOf [a, b]) b.code))) ?_ (by simp only [hd, ha, hb]; try rfl)
  rw [raw_decodeCross (by dsimp only; decide)]
  unfold decodeCross
  dsimp only [Instr.sameWord, Fields.dst, Fields.va, Fields.vb]
  try simp (disch := omega) only [lo2, hi2, lo3, flMod, scMod, lowMod, cmbMod, ext_hi, ext_lo, bit_hi, bit_lo, Nat.reduceSub, Nat.sub_self, ext_all, bit_one, ext_wide, Option.bind_eq_bind, Option.bind_some, ShflMode.trip]
  all_goals first | rfl | (cases w64 <;> cases md <;> first | rfl | exact absurd ‹(_ != _) = true› (by decide))
theorem voteAll (c : Ctl) (pd : Nat) (pa : Nat) : Statement (.voteAll c pd pa) := by
  intro h
  refine decode_encode rfl rfl h ?_
  simp only [Instr.wellFormed, vv, uu, vvv, uuu, fvv, fuu, fvvv, fuuu, fv, fu, cmpOk, predsOk, Bool.and_eq_true, decide_eq_true_eq] at h
  replace h := And.intro h trivial
  try simp only [and_assoc] at h
  repeat (obtain ⟨_, h⟩ := h)
  have hpd : (codeOf pd).toNat = pd := by exact codeOf_toNat (by omega)
  have hpa : (codeOf pa).toNat = pa := by exact codeOf_toNat (by omega)
  refine Eq.trans (b := some (.voteAll c ((codeOf pd).toNat) ((codeOf pa).toNat))) ?_ (by simp only [hpd, hpa]; try rfl)
  rw [raw_decodeCross (by dsimp only; decide)]
  unfold decodeCross
  dsimp only [Instr.sameWord, Fields.nd, Fields.na]
  all_goals rfl
theorem voteAny (c : Ctl) (pd : Nat) (pa : Nat) : Statement (.voteAny c pd pa) := by
  intro h
  refine decode_encode rfl rfl h ?_
  simp only [Instr.wellFormed, vv, uu, vvv, uuu, fvv, fuu, fvvv, fuuu, fv, fu, cmpOk, predsOk, Bool.and_eq_true, decide_eq_true_eq] at h
  replace h := And.intro h trivial
  try simp only [and_assoc] at h
  repeat (obtain ⟨_, h⟩ := h)
  have hpd : (codeOf pd).toNat = pd := by exact codeOf_toNat (by omega)
  have hpa : (codeOf pa).toNat = pa := by exact codeOf_toNat (by omega)
  refine Eq.trans (b := some (.voteAny c ((codeOf pd).toNat) ((codeOf pa).toNat))) ?_ (by simp only [hpd, hpa]; try rfl)
  rw [raw_decodeCross (by dsimp only; decide)]
  unfold decodeCross
  dsimp only [Instr.sameWord, Fields.nd, Fields.na]
  all_goals rfl
theorem voteEq (c : Ctl) (pd : Nat) (pa : Nat) : Statement (.voteEq c pd pa) := by
  intro h
  refine decode_encode rfl rfl h ?_
  simp only [Instr.wellFormed, vv, uu, vvv, uuu, fvv, fuu, fvvv, fuuu, fv, fu, cmpOk, predsOk, Bool.and_eq_true, decide_eq_true_eq] at h
  replace h := And.intro h trivial
  try simp only [and_assoc] at h
  repeat (obtain ⟨_, h⟩ := h)
  have hpd : (codeOf pd).toNat = pd := by exact codeOf_toNat (by omega)
  have hpa : (codeOf pa).toNat = pa := by exact codeOf_toNat (by omega)
  refine Eq.trans (b := some (.voteEq c ((codeOf pd).toNat) ((codeOf pa).toNat))) ?_ (by simp only [hpd, hpa]; try rfl)
  rw [raw_decodeCross (by dsimp only; decide)]
  unfold decodeCross
  dsimp only [Instr.sameWord, Fields.nd, Fields.na]
  all_goals rfl
theorem voteBallot (c : Ctl) (d : Dst) (pa : Nat) : Statement (.voteBallot c d pa) := by
  intro h
  refine decode_encode rfl rfl h ?_
  simp only [Instr.wellFormed, vv, uu, vvv, uuu, fvv, fuu, fvvv, fuuu, fv, fu, cmpOk, predsOk, Bool.and_eq_true, decide_eq_true_eq] at h
  replace h := And.intro h trivial
  try simp only [and_assoc] at h
  repeat (obtain ⟨_, h⟩ := h)
  have hd : Dst.ofCode d.code = d := by first | exact Dst.tripV ‹_› | exact Dst.tripU ‹_› | exact Dst.tripA ‹_›
  have hpa : (codeOf pa).toNat = pa := by exact codeOf_toNat (by omega)
  refine Eq.trans (b := some (.voteBallot c (Dst.ofCode d.code) ((codeOf pa).toNat))) ?_ (by simp only [hd, hpa]; try rfl)
  rw [raw_decodeCross (by dsimp only; decide)]
  unfold decodeCross
  dsimp only [Instr.sameWord, Fields.dst, Fields.na]
  all_goals rfl
theorem reduceInt (c : Ctl) (op : RedOp) (d : Dst) (a : Src) : Statement (.reduceInt c op d a) := by
  intro h
  refine decode_encode rfl rfl h ?_
  simp only [Instr.wellFormed, vv, uu, vvv, uuu, fvv, fuu, fvvv, fuuu, fv, fu, cmpOk, predsOk, Bool.and_eq_true, decide_eq_true_eq] at h
  replace h := And.intro h trivial
  try simp only [and_assoc] at h
  repeat (obtain ⟨_, h⟩ := h)
  have hd : Dst.ofCode d.code = d := by first | exact Dst.tripV ‹_› | exact Dst.tripU ‹_› | exact Dst.tripA ‹_›
  have ha : Src.ofV (immOf [a]) a.code = a := by first | exact Src.tripV ‹_› (immIsN ‹_›) | exact Src.tripV ‹_› immIs1
  refine Eq.trans (b := some (.reduceInt c op (Dst.ofCode d.code) (Src.ofV (immOf [a]) a.code))) ?_ (by simp only [hd, ha]; try rfl)
  rw [raw_decodeCross (by dsimp only; decide)]
  unfold decodeCross
  dsimp only [Instr.sameWord, Fields.dst, Fields.va]
  try simp (disch := omega) only [lo2, hi2, lo3, flMod, scMod, lowMod, cmbMod, ext_hi, ext_lo, bit_hi, bit_lo, Nat.reduceSub, Nat.sub_self, ext_all, bit_one, ext_wide, Option.bind_eq_bind, Option.bind_some, RedOp.trip]
  all_goals first | rfl | (cases op <;> first | rfl | exact absurd ‹(_ != _) = true› (by decide))
theorem reduceFloat (c : Ctl) (f64 : Bool) (op : FRedOp) (d : Dst) (a : Src) : Statement (.reduceFloat c f64 op d a) := by
  intro h
  refine decode_encode rfl rfl h ?_
  simp only [Instr.wellFormed, vv, uu, vvv, uuu, fvv, fuu, fvvv, fuuu, fv, fu, cmpOk, predsOk, Bool.and_eq_true, decide_eq_true_eq] at h
  replace h := And.intro h trivial
  try simp only [and_assoc] at h
  repeat (obtain ⟨_, h⟩ := h)
  have hd : Dst.ofCode d.code = d := by first | exact Dst.tripV ‹_› | exact Dst.tripU ‹_› | exact Dst.tripA ‹_›
  have ha : Src.ofV (immOf [a]) a.code = a := by first | exact Src.tripV ‹_› (immIsN ‹_›) | exact Src.tripV ‹_› immIs1
  refine Eq.trans (b := some (.reduceFloat c f64 op (Dst.ofCode d.code) (Src.ofV (immOf [a]) a.code))) ?_ (by simp only [hd, ha]; try rfl)
  rw [raw_decodeCross (by dsimp only; decide)]
  unfold decodeCross
  dsimp only [Instr.sameWord, Fields.dst, Fields.va]
  try simp (disch := omega) only [lo2, hi2, lo3, flMod, scMod, lowMod, cmbMod, ext_hi, ext_lo, bit_hi, bit_lo, Nat.reduceSub, Nat.sub_self, ext_all, bit_one, ext_wide, Option.bind_eq_bind, Option.bind_some, FRedOp.trip]
  all_goals first | rfl | (cases f64 <;> cases op <;> first | rfl | exact absurd ‹(_ != _) = true› (by decide))
theorem scanInt (c : Ctl) (excl : Bool) (op : RedOp) (d : Dst) (a : Src) : Statement (.scanInt c excl op d a) := by
  intro h
  refine decode_encode rfl rfl h ?_
  simp only [Instr.wellFormed, vv, uu, vvv, uuu, fvv, fuu, fvvv, fuuu, fv, fu, cmpOk, predsOk, Bool.and_eq_true, decide_eq_true_eq] at h
  replace h := And.intro h trivial
  try simp only [and_assoc] at h
  repeat (obtain ⟨_, h⟩ := h)
  have hd : Dst.ofCode d.code = d := by first | exact Dst.tripV ‹_› | exact Dst.tripU ‹_› | exact Dst.tripA ‹_›
  have ha : Src.ofV (immOf [a]) a.code = a := by first | exact Src.tripV ‹_› (immIsN ‹_›) | exact Src.tripV ‹_› immIs1
  refine Eq.trans (b := some (.scanInt c excl op (Dst.ofCode d.code) (Src.ofV (immOf [a]) a.code))) ?_ (by simp only [hd, ha]; try rfl)
  rw [raw_decodeCross (by dsimp only; decide)]
  unfold decodeCross
  dsimp only [Instr.sameWord, Fields.dst, Fields.va]
  try simp (disch := omega) only [lo2, hi2, lo3, flMod, scMod, lowMod, cmbMod, ext_hi, ext_lo, bit_hi, bit_lo, Nat.reduceSub, Nat.sub_self, ext_all, bit_one, ext_wide, Option.bind_eq_bind, Option.bind_some, RedOp.trip]
  all_goals first | rfl | (cases excl <;> cases op <;> first | rfl | exact absurd ‹(_ != _) = true› (by decide))
theorem scanFloat (c : Ctl) (excl : Bool) (f64 : Bool) (op : FRedOp) (d : Dst) (a : Src) : Statement (.scanFloat c excl f64 op d a) := by
  intro h
  refine decode_encode rfl rfl h ?_
  simp only [Instr.wellFormed, vv, uu, vvv, uuu, fvv, fuu, fvvv, fuuu, fv, fu, cmpOk, predsOk, Bool.and_eq_true, decide_eq_true_eq] at h
  replace h := And.intro h trivial
  try simp only [and_assoc] at h
  repeat (obtain ⟨_, h⟩ := h)
  have hd : Dst.ofCode d.code = d := by first | exact Dst.tripV ‹_› | exact Dst.tripU ‹_› | exact Dst.tripA ‹_›
  have ha : Src.ofV (immOf [a]) a.code = a := by first | exact Src.tripV ‹_› (immIsN ‹_›) | exact Src.tripV ‹_› immIs1
  refine Eq.trans (b := some (.scanFloat c excl f64 op (Dst.ofCode d.code) (Src.ofV (immOf [a]) a.code))) ?_ (by simp only [hd, ha]; try rfl)
  rw [raw_decodeCross (by dsimp only; decide)]
  unfold decodeCross
  dsimp only [Instr.sameWord, Fields.dst, Fields.va]
  try simp (disch := omega) only [lo2, hi2, lo3, flMod, scMod, lowMod, cmbMod, ext_hi, ext_lo, bit_hi, bit_lo, Nat.reduceSub, Nat.sub_self, ext_all, bit_one, ext_wide, Option.bind_eq_bind, Option.bind_some, FRedOp.trip]
  all_goals first | rfl | (cases excl <;> cases f64 <;> cases op <;> first | rfl | exact absurd ‹(_ != _) = true› (by decide))
theorem matchLanes (c : Ctl) (ty : MatchTy) (d : Dst) (a : Src) : Statement (.matchLanes c ty d a) := by
  intro h
  refine decode_encode rfl rfl h ?_
  simp only [Instr.wellFormed, vv, uu, vvv, uuu, fvv, fuu, fvvv, fuuu, fv, fu, cmpOk, predsOk, Bool.and_eq_true, decide_eq_true_eq] at h
  replace h := And.intro h trivial
  try simp only [and_assoc] at h
  repeat (obtain ⟨_, h⟩ := h)
  have hd : Dst.ofCode d.code = d := by first | exact Dst.tripV ‹_› | exact Dst.tripU ‹_› | exact Dst.tripA ‹_›
  have ha : Src.ofV (immOf [a]) a.code = a := by first | exact Src.tripV ‹_› (immIsN ‹_›) | exact Src.tripV ‹_› immIs1
  refine Eq.trans (b := some (.matchLanes c ty (Dst.ofCode d.code) (Src.ofV (immOf [a]) a.code))) ?_ (by simp only [hd, ha]; try rfl)
  rw [raw_decodeCross (by dsimp only; decide)]
  unfold decodeCross
  dsimp only [Instr.sameWord, Fields.dst, Fields.va]
  try simp (disch := omega) only [lo2, hi2, lo3, flMod, scMod, lowMod, cmbMod, ext_hi, ext_lo, bit_hi, bit_lo, Nat.reduceSub, Nat.sub_self, ext_all, bit_one, ext_wide, Option.bind_eq_bind, Option.bind_some, MatchTy.trip]
  all_goals first | rfl | (cases ty <;> first | rfl | exact absurd ‹(_ != _) = true› (by decide))
theorem ldgV (c : Ctl) (fl : Flg) (ac : AC) (m : MemOp) (d : Dst) (a : Src) : Statement (.ldgV c fl ac m d a) := by
  intro h
  refine decode_encode rfl rfl h ?_
  simp only [Instr.wellFormed, vv, uu, vvv, uuu, fvv, fuu, fvvv, fuuu, fv, fu, cmpOk, predsOk, Bool.and_eq_true, decide_eq_true_eq] at h
  replace h := And.intro h trivial
  try simp only [and_assoc] at h
  repeat (obtain ⟨_, h⟩ := h)
  have hd : Dst.ofCode d.code = d := by first | exact Dst.tripV ‹_› | exact Dst.tripU ‹_› | exact Dst.tripA ‹_›
  have ha : Src.ofBase m.bits ac a.code = a := by first | exact Src.tripBaseG ‹_› | exact Src.tripBaseT ‹_›
  refine Eq.trans (b := some (.ldgV c fl ac m (Dst.ofCode d.code) (Src.ofBase m.bits ac a.code))) ?_ (by simp only [hd, ha]; try rfl)
  rw [raw_decodeMem (by dsimp only; decide)]
  unfold decodeMem
  dsimp only [Instr.sameWord, Fields.dst]
  try simp (disch := omega) only [lo2, hi2, lo3, flMod, scMod, lowMod, cmbMod, ext_hi, ext_lo, bit_hi, bit_lo, Nat.reduceSub, Nat.sub_self, ext_all, bit_one, ext_wide, Option.bind_eq_bind, Option.bind_some, Flg.trip, AC.trip, MemOp.trip]
  all_goals first | rfl | (cases fl <;> cases ac <;> first | rfl | exact absurd ‹(_ != _) = true› (by decide))
theorem ldgS (c : Ctl) (fl : Flg) (m : MemOp) (d : Dst) (a : Src) : Statement (.ldgS c fl m d a) := by
  intro h
  refine decode_encode rfl rfl h ?_
  simp only [Instr.wellFormed, vv, uu, vvv, uuu, fvv, fuu, fvvv, fuuu, fv, fu, cmpOk, predsOk, Bool.and_eq_true, decide_eq_true_eq] at h
  replace h := And.intro h trivial
  try simp only [and_assoc] at h
  repeat (obtain ⟨_, h⟩ := h)
  have hd : Dst.ofCode d.code = d := by first | exact Dst.tripV ‹_› | exact Dst.tripU ‹_› | exact Dst.tripA ‹_›
  have ha : Src.ofU m.bits a.code = a := by first | exact Src.tripBaseG (ac := .uni) ‹_› | exact Src.tripBaseT (ac := .uni) ‹_›
  refine Eq.trans (b := some (.ldgS c fl m (Dst.ofCode d.code) (Src.ofU m.bits a.code))) ?_ (by simp only [hd, ha]; try rfl)
  rw [raw_decodeMem (by dsimp only; decide)]
  unfold decodeMem
  dsimp only [Instr.sameWord, Fields.dst, Fields.ua]
  try simp (disch := omega) only [lo2, hi2, lo3, flMod, scMod, lowMod, cmbMod, ext_hi, ext_lo, bit_hi, bit_lo, Nat.reduceSub, Nat.sub_self, ext_all, bit_one, ext_wide, Option.bind_eq_bind, Option.bind_some, Flg.trip, MemOp.trip]
  rw [show AC.ofBits (BitVec.extractLsb' 0 2 6#4) = some .uni from rfl]; exact (if_pos (by decide)).trans (if_pos rfl)
theorem stgV (c : Ctl) (fl : Flg) (ac : AC) (m : MemOp) (a : Src) (b : Src) : Statement (.stgV c fl ac m a b) := by
  intro h
  refine decode_encode rfl rfl h ?_
  simp only [Instr.wellFormed, vv, uu, vvv, uuu, fvv, fuu, fvvv, fuuu, fv, fu, cmpOk, predsOk, Bool.and_eq_true, decide_eq_true_eq] at h
  replace h := And.intro h trivial
  try simp only [and_assoc] at h
  repeat (obtain ⟨_, h⟩ := h)
  have ha : Src.ofBase m.bits ac a.code = a := by first | exact Src.tripBaseG ‹_› | exact Src.tripBaseT ‹_›
  have hb : Src.ofV m.bits b.code = b := by first | exact Src.tripV ‹_› (immIsN ‹_›)
  refine Eq.trans (b := some (.stgV c fl ac m (Src.ofBase m.bits ac a.code) (Src.ofV m.bits b.code))) ?_ (by simp only [ha, hb]; try rfl)
  rw [raw_decodeMem (by dsimp only; decide)]
  unfold decodeMem
  dsimp only [Instr.sameWord, Fields.vb]
  try simp (disch := omega) only [lo2, hi2, lo3, flMod, scMod, lowMod, cmbMod, ext_hi, ext_lo, bit_hi, bit_lo, Nat.reduceSub, Nat.sub_self, ext_all, bit_one, ext_wide, Option.bind_eq_bind, Option.bind_some, Flg.trip, AC.trip, MemOp.trip]
  all_goals first | rfl | (cases fl <;> cases ac <;> first | rfl | exact absurd ‹(_ != _) = true› (by decide))
theorem stgS (c : Ctl) (fl : Flg) (ac : AC) (m : MemOp) (a : Src) (b : Src) : Statement (.stgS c fl ac m a b) := by
  intro h
  refine decode_encode rfl rfl h ?_
  simp only [Instr.wellFormed, vv, uu, vvv, uuu, fvv, fuu, fvvv, fuuu, fv, fu, cmpOk, predsOk, Bool.and_eq_true, decide_eq_true_eq] at h
  replace h := And.intro h trivial
  try simp only [and_assoc] at h
  repeat (obtain ⟨_, h⟩ := h)
  have ha : Src.ofBase m.bits ac a.code = a := by first | exact Src.tripBaseG ‹_› | exact Src.tripBaseT ‹_›
  have hb : Src.ofU m.bits b.code = b := by first | exact Src.tripU ‹_› (immIsN ‹_›)
  refine Eq.trans (b := some (.stgS c fl ac m (Src.ofBase m.bits ac a.code) (Src.ofU m.bits b.code))) ?_ (by simp only [ha, hb]; try rfl)
  rw [raw_decodeMem (by dsimp only; decide)]
  unfold decodeMem
  dsimp only [Instr.sameWord, Fields.ub]
  try simp (disch := omega) only [lo2, hi2, lo3, flMod, scMod, lowMod, cmbMod, ext_hi, ext_lo, bit_hi, bit_lo, Nat.reduceSub, Nat.sub_self, ext_all, bit_one, ext_wide, Option.bind_eq_bind, Option.bind_some, Flg.trip, AC.trip, MemOp.trip]
  all_goals first | rfl | (cases fl <;> cases ac <;> first | rfl | exact absurd ‹(_ != _) = true› (by decide))
theorem ldtmV (c : Ctl) (fl : Flg) (ac : AC) (m : MemOp) (d : Dst) (a : Src) : Statement (.ldtmV c fl ac m d a) := by
  intro h
  refine decode_encode rfl rfl h ?_
  simp only [Instr.wellFormed, vv, uu, vvv, uuu, fvv, fuu, fvvv, fuuu, fv, fu, cmpOk, predsOk, Bool.and_eq_true, decide_eq_true_eq] at h
  replace h := And.intro h trivial
  try simp only [and_assoc] at h
  repeat (obtain ⟨_, h⟩ := h)
  have hd : Dst.ofCode d.code = d := by first | exact Dst.tripV ‹_› | exact Dst.tripU ‹_› | exact Dst.tripA ‹_›
  have ha : Src.ofBase m.bits ac a.code = a := by first | exact Src.tripBaseG ‹_› | exact Src.tripBaseT ‹_›
  refine Eq.trans (b := some (.ldtmV c fl ac m (Dst.ofCode d.code) (Src.ofBase m.bits ac a.code))) ?_ (by simp only [hd, ha]; try rfl)
  rw [raw_decodeMem (by dsimp only; decide)]
  unfold decodeMem
  dsimp only [Instr.sameWord, Fields.dst]
  try simp (disch := omega) only [lo2, hi2, lo3, flMod, scMod, lowMod, cmbMod, ext_hi, ext_lo, bit_hi, bit_lo, Nat.reduceSub, Nat.sub_self, ext_all, bit_one, ext_wide, Option.bind_eq_bind, Option.bind_some, Flg.trip, AC.trip, MemOp.trip]
  all_goals first | rfl | (cases fl <;> cases ac <;> first | rfl | exact absurd ‹(_ != _) = true› (by decide))
theorem ldtmS (c : Ctl) (fl : Flg) (m : MemOp) (d : Dst) (a : Src) : Statement (.ldtmS c fl m d a) := by
  intro h
  refine decode_encode rfl rfl h ?_
  simp only [Instr.wellFormed, vv, uu, vvv, uuu, fvv, fuu, fvvv, fuuu, fv, fu, cmpOk, predsOk, Bool.and_eq_true, decide_eq_true_eq] at h
  replace h := And.intro h trivial
  try simp only [and_assoc] at h
  repeat (obtain ⟨_, h⟩ := h)
  have hd : Dst.ofCode d.code = d := by first | exact Dst.tripV ‹_› | exact Dst.tripU ‹_› | exact Dst.tripA ‹_›
  have ha : Src.ofU m.bits a.code = a := by first | exact Src.tripBaseG (ac := .uni) ‹_› | exact Src.tripBaseT (ac := .uni) ‹_›
  refine Eq.trans (b := some (.ldtmS c fl m (Dst.ofCode d.code) (Src.ofU m.bits a.code))) ?_ (by simp only [hd, ha]; try rfl)
  rw [raw_decodeMem (by dsimp only; decide)]
  unfold decodeMem
  dsimp only [Instr.sameWord, Fields.dst, Fields.ua]
  try simp (disch := omega) only [lo2, hi2, lo3, flMod, scMod, lowMod, cmbMod, ext_hi, ext_lo, bit_hi, bit_lo, Nat.reduceSub, Nat.sub_self, ext_all, bit_one, ext_wide, Option.bind_eq_bind, Option.bind_some, Flg.trip, MemOp.trip]
  rw [show AC.ofBits (BitVec.extractLsb' 0 2 6#4) = some .uni from rfl]; exact (if_pos (by decide)).trans (if_pos rfl)
theorem sttmV (c : Ctl) (fl : Flg) (ac : AC) (m : MemOp) (a : Src) (b : Src) : Statement (.sttmV c fl ac m a b) := by
  intro h
  refine decode_encode rfl rfl h ?_
  simp only [Instr.wellFormed, vv, uu, vvv, uuu, fvv, fuu, fvvv, fuuu, fv, fu, cmpOk, predsOk, Bool.and_eq_true, decide_eq_true_eq] at h
  replace h := And.intro h trivial
  try simp only [and_assoc] at h
  repeat (obtain ⟨_, h⟩ := h)
  have ha : Src.ofBase m.bits ac a.code = a := by first | exact Src.tripBaseG ‹_› | exact Src.tripBaseT ‹_›
  have hb : Src.ofV m.bits b.code = b := by first | exact Src.tripV ‹_› (immIsN ‹_›)
  refine Eq.trans (b := some (.sttmV c fl ac m (Src.ofBase m.bits ac a.code) (Src.ofV m.bits b.code))) ?_ (by simp only [ha, hb]; try rfl)
  rw [raw_decodeMem (by dsimp only; decide)]
  unfold decodeMem
  dsimp only [Instr.sameWord, Fields.vb]
  try simp (disch := omega) only [lo2, hi2, lo3, flMod, scMod, lowMod, cmbMod, ext_hi, ext_lo, bit_hi, bit_lo, Nat.reduceSub, Nat.sub_self, ext_all, bit_one, ext_wide, Option.bind_eq_bind, Option.bind_some, Flg.trip, AC.trip, MemOp.trip]
  all_goals first | rfl | (cases fl <;> cases ac <;> first | rfl | exact absurd ‹(_ != _) = true› (by decide))
theorem sttmS (c : Ctl) (fl : Flg) (ac : AC) (m : MemOp) (a : Src) (b : Src) : Statement (.sttmS c fl ac m a b) := by
  intro h
  refine decode_encode rfl rfl h ?_
  simp only [Instr.wellFormed, vv, uu, vvv, uuu, fvv, fuu, fvvv, fuuu, fv, fu, cmpOk, predsOk, Bool.and_eq_true, decide_eq_true_eq] at h
  replace h := And.intro h trivial
  try simp only [and_assoc] at h
  repeat (obtain ⟨_, h⟩ := h)
  have ha : Src.ofBase m.bits ac a.code = a := by first | exact Src.tripBaseG ‹_› | exact Src.tripBaseT ‹_›
  have hb : Src.ofU m.bits b.code = b := by first | exact Src.tripU ‹_› (immIsN ‹_›)
  refine Eq.trans (b := some (.sttmS c fl ac m (Src.ofBase m.bits ac a.code) (Src.ofU m.bits b.code))) ?_ (by simp only [ha, hb]; try rfl)
  rw [raw_decodeMem (by dsimp only; decide)]
  unfold decodeMem
  dsimp only [Instr.sameWord, Fields.ub]
  try simp (disch := omega) only [lo2, hi2, lo3, flMod, scMod, lowMod, cmbMod, ext_hi, ext_lo, bit_hi, bit_lo, Nat.reduceSub, Nat.sub_self, ext_all, bit_one, ext_wide, Option.bind_eq_bind, Option.bind_some, Flg.trip, AC.trip, MemOp.trip]
  all_goals first | rfl | (cases fl <;> cases ac <;> first | rfl | exact absurd ‹(_ != _) = true› (by decide))
theorem ldcV (c : Ctl) (fl : Flg) (ac : AC) (m : MemOp) (d : Dst) (a : Src) : Statement (.ldcV c fl ac m d a) := by
  intro h
  refine decode_encode rfl rfl h ?_
  simp only [Instr.wellFormed, vv, uu, vvv, uuu, fvv, fuu, fvvv, fuuu, fv, fu, cmpOk, predsOk, Bool.and_eq_true, decide_eq_true_eq] at h
  replace h := And.intro h trivial
  try simp only [and_assoc] at h
  repeat (obtain ⟨_, h⟩ := h)
  have hd : Dst.ofCode d.code = d := by first | exact Dst.tripV ‹_› | exact Dst.tripU ‹_› | exact Dst.tripA ‹_›
  have ha : Src.ofBase m.bits ac a.code = a := by first | exact Src.tripBaseG ‹_› | exact Src.tripBaseT ‹_›
  refine Eq.trans (b := some (.ldcV c fl ac m (Dst.ofCode d.code) (Src.ofBase m.bits ac a.code))) ?_ (by simp only [hd, ha]; try rfl)
  rw [raw_decodeMem (by dsimp only; decide)]
  unfold decodeMem
  dsimp only [Instr.sameWord, Fields.dst]
  try simp (disch := omega) only [lo2, hi2, lo3, flMod, scMod, lowMod, cmbMod, ext_hi, ext_lo, bit_hi, bit_lo, Nat.reduceSub, Nat.sub_self, ext_all, bit_one, ext_wide, Option.bind_eq_bind, Option.bind_some, Flg.trip, AC.trip, MemOp.trip]
  all_goals first | rfl | (cases fl <;> cases ac <;> first | rfl | exact absurd ‹(_ != _) = true› (by decide))
theorem ldcS (c : Ctl) (fl : Flg) (m : MemOp) (d : Dst) (a : Src) : Statement (.ldcS c fl m d a) := by
  intro h
  refine decode_encode rfl rfl h ?_
  simp only [Instr.wellFormed, vv, uu, vvv, uuu, fvv, fuu, fvvv, fuuu, fv, fu, cmpOk, predsOk, Bool.and_eq_true, decide_eq_true_eq] at h
  replace h := And.intro h trivial
  try simp only [and_assoc] at h
  repeat (obtain ⟨_, h⟩ := h)
  have hd : Dst.ofCode d.code = d := by first | exact Dst.tripV ‹_› | exact Dst.tripU ‹_› | exact Dst.tripA ‹_›
  have ha : Src.ofU m.bits a.code = a := by first | exact Src.tripBaseG (ac := .uni) ‹_› | exact Src.tripBaseT (ac := .uni) ‹_›
  refine Eq.trans (b := some (.ldcS c fl m (Dst.ofCode d.code) (Src.ofU m.bits a.code))) ?_ (by simp only [hd, ha]; try rfl)
  rw [raw_decodeMem (by dsimp only; decide)]
  unfold decodeMem
  dsimp only [Instr.sameWord, Fields.dst, Fields.ua]
  try simp (disch := omega) only [lo2, hi2, lo3, flMod, scMod, lowMod, cmbMod, ext_hi, ext_lo, bit_hi, bit_lo, Nat.reduceSub, Nat.sub_self, ext_all, bit_one, ext_wide, Option.bind_eq_bind, Option.bind_some, Flg.trip, MemOp.trip]
  rw [show AC.ofBits (BitVec.extractLsb' 0 2 6#4) = some .uni from rfl]; exact (if_pos (by decide)).trans (if_pos rfl)
theorem stmsk (c : Ctl) (fl : Flg) (ac : AC) (m : MemOp) (a : Src) (b : Src) (e : Src) : Statement (.stmsk c fl ac m a b e) := by
  intro h
  refine decode_encode rfl rfl h ?_
  simp only [Instr.wellFormed, vv, uu, vvv, uuu, fvv, fuu, fvvv, fuuu, fv, fu, cmpOk, predsOk, Bool.and_eq_true, decide_eq_true_eq] at h
  replace h := And.intro h trivial
  try simp only [and_assoc] at h
  repeat (obtain ⟨_, h⟩ := h)
  have ha : Src.ofBase m.bits ac a.code = a := by first | exact Src.tripBaseG ‹_› | exact Src.tripBaseT ‹_›
  have hb : Src.ofV m.bits b.code = b := by first | exact Src.tripV ‹_› (immIsN ‹_›)
  have he : Src.ofV m.bits e.code = e := by first | exact Src.tripV ‹_› (immIsN ‹_›)
  refine Eq.trans (b := some (.stmsk c fl ac m (Src.ofBase m.bits ac a.code) (Src.ofV m.bits b.code) (Src.ofV m.bits e.code))) ?_ (by simp only [ha, hb, he]; try rfl)
  rw [raw_decodeMem (by dsimp only; decide)]
  unfold decodeMem
  dsimp only [Instr.sameWord, Fields.vb, Fields.ve]
  try simp (disch := omega) only [lo2, hi2, lo3, flMod, scMod, lowMod, cmbMod, ext_hi, ext_lo, bit_hi, bit_lo, Nat.reduceSub, Nat.sub_self, ext_all, bit_one, ext_wide, Option.bind_eq_bind, Option.bind_some, Flg.trip, AC.trip, MemOp.trip]
  all_goals first | rfl | (cases fl <;> cases ac <;> first | rfl | exact absurd ‹(_ != _) = true› (by decide))
theorem atom (c : Ctl) (fl : Flg) (op : AtomOp) (m : AtomFld) (d : Dst) (a : Src) (b : Src) (e : Src) : Statement (.atom c fl op m d a b e) := by
  intro h
  refine decode_encode rfl rfl h ?_
  simp only [Instr.wellFormed, vv, uu, vvv, uuu, fvv, fuu, fvvv, fuuu, fv, fu, cmpOk, predsOk, Bool.and_eq_true, decide_eq_true_eq] at h
  replace h := And.intro h trivial
  try simp only [and_assoc] at h
  repeat (obtain ⟨_, h⟩ := h)
  have hd : Dst.ofCode d.code = d := by first | exact Dst.tripV ‹_› | exact Dst.tripU ‹_› | exact Dst.tripA ‹_›
  have ha : Src.ofBase m.bits m.ac a.code = a := by first | exact Src.tripBaseG ‹_› | exact Src.tripBaseT ‹_›
  have hb : Src.ofV m.bits b.code = b := by first | exact Src.tripV ‹_› (immIsN ‹_›)
  have he : Src.ofV m.bits e.code = e := by exact Src.tripCas ‹_›
  refine Eq.trans (b := some (.atom c fl op m (Dst.ofCode d.code) (Src.ofBase m.bits m.ac a.code) (Src.ofV m.bits b.code) (Src.ofV m.bits e.code))) ?_ (by simp only [hd, ha, hb, he]; try rfl)
  rw [raw_decodeMem (by dsimp only; decide)]
  unfold decodeMem
  dsimp only [Instr.sameWord, Fields.dst, Fields.vb, Fields.ve]
  try simp (disch := omega) only [lo2, hi2, lo3, flMod, scMod, lowMod, cmbMod, ext_hi, ext_lo, bit_hi, bit_lo, Nat.reduceSub, Nat.sub_self, ext_all, bit_one, ext_wide, Option.bind_eq_bind, Option.bind_some, Flg.trip, AtomOp.trip, AtomFld.trip]
  all_goals first | rfl | (cases fl <;> cases op <;> first | rfl | exact absurd ‹(_ != _) = true› (by decide))
theorem red (c : Ctl) (fl : Flg) (op : AtomOp) (m : AtomFld) (a : Src) (b : Src) : Statement (.red c fl op m a b) := by
  intro h
  refine decode_encode rfl rfl h ?_
  simp only [Instr.wellFormed, vv, uu, vvv, uuu, fvv, fuu, fvvv, fuuu, fv, fu, cmpOk, predsOk, Bool.and_eq_true, decide_eq_true_eq] at h
  replace h := And.intro h trivial
  try simp only [and_assoc] at h
  repeat (obtain ⟨_, h⟩ := h)
  have ha : Src.ofBase m.bits m.ac a.code = a := by first | exact Src.tripBaseG ‹_› | exact Src.tripBaseT ‹_›
  have hb : Src.ofV m.bits b.code = b := by first | exact Src.tripV ‹_› (immIsN ‹_›)
  refine Eq.trans (b := some (.red c fl op m (Src.ofBase m.bits m.ac a.code) (Src.ofV m.bits b.code))) ?_ (by simp only [ha, hb]; try rfl)
  rw [raw_decodeMem (by dsimp only; decide)]
  unfold decodeMem
  dsimp only [Instr.sameWord, Fields.vb]
  try simp (disch := omega) only [lo2, hi2, lo3, flMod, scMod, lowMod, cmbMod, ext_hi, ext_lo, bit_hi, bit_lo, Nat.reduceSub, Nat.sub_self, ext_all, bit_one, ext_wide, Option.bind_eq_bind, Option.bind_some, Flg.trip, AtomOp.trip, AtomFld.trip]
  all_goals first | rfl | (cases fl <;> cases op <;> first | rfl | exact absurd ‹(_ != _) = true› (by decide))
theorem atomtm (c : Ctl) (fl : Flg) (op : AtomOp) (m : AtomFld) (d : Dst) (a : Src) (b : Src) (e : Src) : Statement (.atomtm c fl op m d a b e) := by
  intro h
  refine decode_encode rfl rfl h ?_
  simp only [Instr.wellFormed, vv, uu, vvv, uuu, fvv, fuu, fvvv, fuuu, fv, fu, cmpOk, predsOk, Bool.and_eq_true, decide_eq_true_eq] at h
  replace h := And.intro h trivial
  try simp only [and_assoc] at h
  repeat (obtain ⟨_, h⟩ := h)
  have hd : Dst.ofCode d.code = d := by first | exact Dst.tripV ‹_› | exact Dst.tripU ‹_› | exact Dst.tripA ‹_›
  have ha : Src.ofBase m.bits m.ac a.code = a := by first | exact Src.tripBaseG ‹_› | exact Src.tripBaseT ‹_›
  have hb : Src.ofV m.bits b.code = b := by first | exact Src.tripV ‹_› (immIsN ‹_›)
  have he : Src.ofV m.bits e.code = e := by exact Src.tripCas ‹_›
  refine Eq.trans (b := some (.atomtm c fl op m (Dst.ofCode d.code) (Src.ofBase m.bits m.ac a.code) (Src.ofV m.bits b.code) (Src.ofV m.bits e.code))) ?_ (by simp only [hd, ha, hb, he]; try rfl)
  rw [raw_decodeMem (by dsimp only; decide)]
  unfold decodeMem
  dsimp only [Instr.sameWord, Fields.dst, Fields.vb, Fields.ve]
  try simp (disch := omega) only [lo2, hi2, lo3, flMod, scMod, lowMod, cmbMod, ext_hi, ext_lo, bit_hi, bit_lo, Nat.reduceSub, Nat.sub_self, ext_all, bit_one, ext_wide, Option.bind_eq_bind, Option.bind_some, Flg.trip, AtomOp.trip, AtomFld.trip]
  all_goals first | rfl | (cases fl <;> cases op <;> first | rfl | exact absurd ‹(_ != _) = true› (by decide))
theorem publish (c : Ctl) (sc : Scope) : Statement (.publish c sc) := by
  intro h
  refine decode_encode rfl rfl h ?_
  rw [raw_decodeMem (by dsimp only; decide)]
  unfold decodeMem
  dsimp only [Instr.sameWord]
  try simp (disch := omega) only [lo2, hi2, lo3, flMod, scMod, lowMod, cmbMod, ext_hi, ext_lo, bit_hi, bit_lo, Nat.reduceSub, Nat.sub_self, ext_all, bit_one, ext_wide, Option.bind_eq_bind, Option.bind_some, Scope.trip]
  all_goals first | rfl | (cases sc <;> first | rfl | exact absurd ‹(_ != _) = true› (by decide))
theorem adopt (c : Ctl) (sc : Scope) : Statement (.adopt c sc) := by
  intro h
  refine decode_encode rfl rfl h ?_
  rw [raw_decodeMem (by dsimp only; decide)]
  unfold decodeMem
  dsimp only [Instr.sameWord]
  try simp (disch := omega) only [lo2, hi2, lo3, flMod, scMod, lowMod, cmbMod, ext_hi, ext_lo, bit_hi, bit_lo, Nat.reduceSub, Nat.sub_self, ext_all, bit_one, ext_wide, Option.bind_eq_bind, Option.bind_some, Scope.trip]
  all_goals first | rfl | (cases sc <;> first | rfl | exact absurd ‹(_ != _) = true› (by decide))
theorem fence (c : Ctl) (sc : Scope) : Statement (.fence c sc) := by
  intro h
  refine decode_encode rfl rfl h ?_
  rw [raw_decodeMem (by dsimp only; decide)]
  unfold decodeMem
  dsimp only [Instr.sameWord]
  try simp (disch := omega) only [lo2, hi2, lo3, flMod, scMod, lowMod, cmbMod, ext_hi, ext_lo, bit_hi, bit_lo, Nat.reduceSub, Nat.sub_self, ext_all, bit_one, ext_wide, Option.bind_eq_bind, Option.bind_some, Scope.trip]
  all_goals first | rfl | (cases sc <;> first | rfl | exact absurd ‹(_ != _) = true› (by decide))
theorem pinLines (c : Ctl) (fl : Flg) (d : Dst) (a : Src) (b : Src) : Statement (.pinLines c fl d a b) := by
  intro h
  refine decode_encode rfl rfl h ?_
  simp only [Instr.wellFormed, vv, uu, vvv, uuu, fvv, fuu, fvvv, fuuu, fv, fu, cmpOk, predsOk, Bool.and_eq_true, decide_eq_true_eq] at h
  replace h := And.intro h trivial
  try simp only [and_assoc] at h
  repeat (obtain ⟨_, h⟩ := h)
  have hd : Dst.ofCode d.code = d := by first | exact Dst.tripV ‹_› | exact Dst.tripU ‹_› | exact Dst.tripA ‹_›
  have ha : Src.ofU (immOf [a, b]) a.code = a := by first | exact Src.tripU ‹_› (immIsN ‹_›) | exact Src.tripU ‹_› (immIs ‹_› (by simp)) | exact Src.tripU ‹_› (immIsZ (by assumption) (by assumption)).1
  have hb : Src.ofU (immOf [a, b]) b.code = b := by first | exact Src.tripU ‹_› (immIsN ‹_›) | exact Src.tripU ‹_› (immIs ‹_› (by simp)) | exact Src.tripU ‹_› (immIsZ (by assumption) (by assumption)).2
  refine Eq.trans (b := some (.pinLines c fl (Dst.ofCode d.code) (Src.ofU (immOf [a, b]) a.code) (Src.ofU (immOf [a, b]) b.code))) ?_ (by simp only [hd, ha, hb]; try rfl)
  rw [raw_decodeMem (by dsimp only; decide)]
  unfold decodeMem
  dsimp only [Instr.sameWord, Fields.dst, Fields.ua, Fields.ub]
  try simp (disch := omega) only [lo2, hi2, lo3, flMod, scMod, lowMod, cmbMod, ext_hi, ext_lo, bit_hi, bit_lo, Nat.reduceSub, Nat.sub_self, ext_all, bit_one, ext_wide, Option.bind_eq_bind, Option.bind_some, Flg.trip]
  all_goals first | rfl | (cases fl <;> first | rfl | exact absurd ‹(_ != _) = true› (by decide))
theorem unpinLines (c : Ctl) (fl : Flg) (d : Dst) (a : Src) (b : Src) : Statement (.unpinLines c fl d a b) := by
  intro h
  refine decode_encode rfl rfl h ?_
  simp only [Instr.wellFormed, vv, uu, vvv, uuu, fvv, fuu, fvvv, fuuu, fv, fu, cmpOk, predsOk, Bool.and_eq_true, decide_eq_true_eq] at h
  replace h := And.intro h trivial
  try simp only [and_assoc] at h
  repeat (obtain ⟨_, h⟩ := h)
  have hd : Dst.ofCode d.code = d := by first | exact Dst.tripV ‹_› | exact Dst.tripU ‹_› | exact Dst.tripA ‹_›
  have ha : Src.ofU (immOf [a, b]) a.code = a := by first | exact Src.tripU ‹_› (immIsN ‹_›) | exact Src.tripU ‹_› (immIs ‹_› (by simp)) | exact Src.tripU ‹_› (immIsZ (by assumption) (by assumption)).1
  have hb : Src.ofU (immOf [a, b]) b.code = b := by first | exact Src.tripU ‹_› (immIsN ‹_›) | exact Src.tripU ‹_› (immIs ‹_› (by simp)) | exact Src.tripU ‹_› (immIsZ (by assumption) (by assumption)).2
  refine Eq.trans (b := some (.unpinLines c fl (Dst.ofCode d.code) (Src.ofU (immOf [a, b]) a.code) (Src.ofU (immOf [a, b]) b.code))) ?_ (by simp only [hd, ha, hb]; try rfl)
  rw [raw_decodeMem (by dsimp only; decide)]
  unfold decodeMem
  dsimp only [Instr.sameWord, Fields.dst, Fields.ua, Fields.ub]
  try simp (disch := omega) only [lo2, hi2, lo3, flMod, scMod, lowMod, cmbMod, ext_hi, ext_lo, bit_hi, bit_lo, Nat.reduceSub, Nat.sub_self, ext_all, bit_one, ext_wide, Option.bind_eq_bind, Option.bind_some, Flg.trip]
  all_goals first | rfl | (cases fl <;> first | rfl | exact absurd ‹(_ != _) = true› (by decide))
theorem barInit (c : Ctl) (a : Src) (b : Src) : Statement (.barInit c a b) := by
  intro h
  refine decode_encode rfl rfl h ?_
  simp only [Instr.wellFormed, vv, uu, vvv, uuu, fvv, fuu, fvvv, fuuu, fv, fu, cmpOk, predsOk, Bool.and_eq_true, decide_eq_true_eq] at h
  replace h := And.intro h trivial
  try simp only [and_assoc] at h
  repeat (obtain ⟨_, h⟩ := h)
  have ha : Src.ofU (immOf [a, b]) a.code = a := by first | exact Src.tripU ‹_› (immIsN ‹_›) | exact Src.tripU ‹_› (immIs ‹_› (by simp)) | exact Src.tripU ‹_› (immIsZ (by assumption) (by assumption)).1
  have hb : Src.ofU (immOf [a, b]) b.code = b := by first | exact Src.tripU ‹_› (immIsN ‹_›) | exact Src.tripU ‹_› (immIs ‹_› (by simp)) | exact Src.tripU ‹_› (immIsZ (by assumption) (by assumption)).2
  refine Eq.trans (b := some (.barInit c (Src.ofU (immOf [a, b]) a.code) (Src.ofU (immOf [a, b]) b.code))) ?_ (by simp only [ha, hb]; try rfl)
  rw [raw_decodeMem (by dsimp only; decide)]
  unfold decodeMem
  dsimp only [Instr.sameWord, Fields.ua, Fields.ub]
  all_goals rfl
theorem barArrive (c : Ctl) (sc : Scope) (a : Src) : Statement (.barArrive c sc a) := by
  intro h
  refine decode_encode rfl rfl h ?_
  simp only [Instr.wellFormed, vv, uu, vvv, uuu, fvv, fuu, fvvv, fuuu, fv, fu, cmpOk, predsOk, Bool.and_eq_true, decide_eq_true_eq] at h
  replace h := And.intro h trivial
  try simp only [and_assoc] at h
  repeat (obtain ⟨_, h⟩ := h)
  have ha : Src.ofU (immOf [a]) a.code = a := by first | exact Src.tripU ‹_› (immIsN ‹_›) | exact Src.tripU ‹_› immIs1
  refine Eq.trans (b := some (.barArrive c sc (Src.ofU (immOf [a]) a.code))) ?_ (by simp only [ha]; try rfl)
  rw [raw_decodeMem (by dsimp only; decide)]
  unfold decodeMem
  dsimp only [Instr.sameWord, Fields.ua]
  try simp (disch := omega) only [lo2, hi2, lo3, flMod, scMod, lowMod, cmbMod, ext_hi, ext_lo, bit_hi, bit_lo, Nat.reduceSub, Nat.sub_self, ext_all, bit_one, ext_wide, Option.bind_eq_bind, Option.bind_some, Scope.trip]
  all_goals first | rfl | (cases sc <;> first | rfl | exact absurd ‹(_ != _) = true› (by decide))
theorem barExpect (c : Ctl) (a : Src) (b : Src) : Statement (.barExpect c a b) := by
  intro h
  refine decode_encode rfl rfl h ?_
  simp only [Instr.wellFormed, vv, uu, vvv, uuu, fvv, fuu, fvvv, fuuu, fv, fu, cmpOk, predsOk, Bool.and_eq_true, decide_eq_true_eq] at h
  replace h := And.intro h trivial
  try simp only [and_assoc] at h
  repeat (obtain ⟨_, h⟩ := h)
  have ha : Src.ofU (immOf [a, b]) a.code = a := by first | exact Src.tripU ‹_› (immIsN ‹_›) | exact Src.tripU ‹_› (immIs ‹_› (by simp)) | exact Src.tripU ‹_› (immIsZ (by assumption) (by assumption)).1
  have hb : Src.ofU (immOf [a, b]) b.code = b := by first | exact Src.tripU ‹_› (immIsN ‹_›) | exact Src.tripU ‹_› (immIs ‹_› (by simp)) | exact Src.tripU ‹_› (immIsZ (by assumption) (by assumption)).2
  refine Eq.trans (b := some (.barExpect c (Src.ofU (immOf [a, b]) a.code) (Src.ofU (immOf [a, b]) b.code))) ?_ (by simp only [ha, hb]; try rfl)
  rw [raw_decodeMem (by dsimp only; decide)]
  unfold decodeMem
  dsimp only [Instr.sameWord, Fields.ua, Fields.ub]
  all_goals rfl
theorem barWait (c : Ctl) (sc : Scope) (a : Src) : Statement (.barWait c sc a) := by
  intro h
  refine decode_encode rfl rfl h ?_
  simp only [Instr.wellFormed, vv, uu, vvv, uuu, fvv, fuu, fvvv, fuuu, fv, fu, cmpOk, predsOk, Bool.and_eq_true, decide_eq_true_eq] at h
  replace h := And.intro h trivial
  try simp only [and_assoc] at h
  repeat (obtain ⟨_, h⟩ := h)
  have ha : Src.ofU (immOf [a]) a.code = a := by first | exact Src.tripU ‹_› (immIsN ‹_›) | exact Src.tripU ‹_› immIs1
  refine Eq.trans (b := some (.barWait c sc (Src.ofU (immOf [a]) a.code))) ?_ (by simp only [ha]; try rfl)
  rw [raw_decodeMem (by dsimp only; decide)]
  unfold decodeMem
  dsimp only [Instr.sameWord, Fields.ua]
  try simp (disch := omega) only [lo2, hi2, lo3, flMod, scMod, lowMod, cmbMod, ext_hi, ext_lo, bit_hi, bit_lo, Nat.reduceSub, Nat.sub_self, ext_all, bit_one, ext_wide, Option.bind_eq_bind, Option.bind_some, Scope.trip]
  all_goals first | rfl | (cases sc <;> first | rfl | exact absurd ‹(_ != _) = true› (by decide))
theorem barTest (c : Ctl) (sc : Scope) (p : Nat) (a : Src) : Statement (.barTest c sc p a) := by
  intro h
  refine decode_encode rfl rfl h ?_
  simp only [Instr.wellFormed, vv, uu, vvv, uuu, fvv, fuu, fvvv, fuuu, fv, fu, cmpOk, predsOk, Bool.and_eq_true, decide_eq_true_eq] at h
  replace h := And.intro h trivial
  try simp only [and_assoc] at h
  repeat (obtain ⟨_, h⟩ := h)
  have hp : (codeOf p).toNat = p := by exact codeOf_toNat (by omega)
  have ha : Src.ofU (immOf [a]) a.code = a := by first | exact Src.tripU ‹_› (immIsN ‹_›) | exact Src.tripU ‹_› immIs1
  refine Eq.trans (b := some (.barTest c sc ((codeOf p).toNat) (Src.ofU (immOf [a]) a.code))) ?_ (by simp only [hp, ha]; try rfl)
  rw [raw_decodeMem (by dsimp only; decide)]
  unfold decodeMem
  dsimp only [Instr.sameWord, Fields.ua, Fields.nd]
  try simp (disch := omega) only [lo2, hi2, lo3, flMod, scMod, lowMod, cmbMod, ext_hi, ext_lo, bit_hi, bit_lo, Nat.reduceSub, Nat.sub_self, ext_all, bit_one, ext_wide, Option.bind_eq_bind, Option.bind_some, Scope.trip]
  all_goals first | rfl | (cases sc <;> first | rfl | exact absurd ‹(_ != _) = true› (by decide))
theorem chinit (c : Ctl) (ch : Nat) (a : Src) (b : Src) : Statement (.chinit c ch a b) := by
  intro h
  refine decode_encode rfl rfl h ?_
  simp only [Instr.wellFormed, vv, uu, vvv, uuu, fvv, fuu, fvvv, fuuu, fv, fu, cmpOk, predsOk, Bool.and_eq_true, decide_eq_true_eq] at h
  replace h := And.intro h trivial
  try simp only [and_assoc] at h
  repeat (obtain ⟨_, h⟩ := h)
  have hch : (codeOf ch).toNat = ch := by exact codeOf_toNat (by omega)
  have ha : Src.ofU (immOf [a, b]) a.code = a := by first | exact Src.tripU ‹_› (immIsN ‹_›) | exact Src.tripU ‹_› (immIs ‹_› (by simp)) | exact Src.tripU ‹_› (immIsZ (by assumption) (by assumption)).1
  have hb : Src.ofU (immOf [a, b]) b.code = b := by first | exact Src.tripU ‹_› (immIsN ‹_›) | exact Src.tripU ‹_› (immIs ‹_› (by simp)) | exact Src.tripU ‹_› (immIsZ (by assumption) (by assumption)).2
  refine Eq.trans (b := some (.chinit c ((codeOf ch).toNat) (Src.ofU (immOf [a, b]) a.code) (Src.ofU (immOf [a, b]) b.code))) ?_ (by simp only [hch, ha, hb]; try rfl)
  rw [raw_decodeMem (by dsimp only; decide)]
  unfold decodeMem
  dsimp only [Instr.sameWord, Fields.ua, Fields.ub, Fields.ne]
  all_goals rfl
theorem chres (c : Ctl) (ch : Nat) (d : Dst) : Statement (.chres c ch d) := by
  intro h
  refine decode_encode rfl rfl h ?_
  simp only [Instr.wellFormed, vv, uu, vvv, uuu, fvv, fuu, fvvv, fuuu, fv, fu, cmpOk, predsOk, Bool.and_eq_true, decide_eq_true_eq] at h
  replace h := And.intro h trivial
  try simp only [and_assoc] at h
  repeat (obtain ⟨_, h⟩ := h)
  have hch : (codeOf ch).toNat = ch := by exact codeOf_toNat (by omega)
  have hd : Dst.ofCode d.code = d := by first | exact Dst.tripV ‹_› | exact Dst.tripU ‹_› | exact Dst.tripA ‹_›
  refine Eq.trans (b := some (.chres c ((codeOf ch).toNat) (Dst.ofCode d.code))) ?_ (by simp only [hch, hd]; try rfl)
  rw [raw_decodeMem (by dsimp only; decide)]
  unfold decodeMem
  dsimp only [Instr.sameWord, Fields.dst, Fields.ne]
  all_goals rfl
theorem chcommit (c : Ctl) (sc : Scope) (ch : Nat) : Statement (.chcommit c sc ch) := by
  intro h
  refine decode_encode rfl rfl h ?_
  simp only [Instr.wellFormed, vv, uu, vvv, uuu, fvv, fuu, fvvv, fuuu, fv, fu, cmpOk, predsOk, Bool.and_eq_true, decide_eq_true_eq] at h
  replace h := And.intro h trivial
  try simp only [and_assoc] at h
  repeat (obtain ⟨_, h⟩ := h)
  have hch : (codeOf ch).toNat = ch := by exact codeOf_toNat (by omega)
  refine Eq.trans (b := some (.chcommit c sc ((codeOf ch).toNat))) ?_ (by simp only [hch]; try rfl)
  rw [raw_decodeMem (by dsimp only; decide)]
  unfold decodeMem
  dsimp only [Instr.sameWord, Fields.ne]
  try simp (disch := omega) only [lo2, hi2, lo3, flMod, scMod, lowMod, cmbMod, ext_hi, ext_lo, bit_hi, bit_lo, Nat.reduceSub, Nat.sub_self, ext_all, bit_one, ext_wide, Option.bind_eq_bind, Option.bind_some, Scope.trip]
  all_goals first | rfl | (cases sc <;> first | rfl | exact absurd ‹(_ != _) = true› (by decide))
theorem chtake (c : Ctl) (sc : Scope) (ch : Nat) (d : Dst) : Statement (.chtake c sc ch d) := by
  intro h
  refine decode_encode rfl rfl h ?_
  simp only [Instr.wellFormed, vv, uu, vvv, uuu, fvv, fuu, fvvv, fuuu, fv, fu, cmpOk, predsOk, Bool.and_eq_true, decide_eq_true_eq] at h
  replace h := And.intro h trivial
  try simp only [and_assoc] at h
  repeat (obtain ⟨_, h⟩ := h)
  have hch : (codeOf ch).toNat = ch := by exact codeOf_toNat (by omega)
  have hd : Dst.ofCode d.code = d := by first | exact Dst.tripV ‹_› | exact Dst.tripU ‹_› | exact Dst.tripA ‹_›
  refine Eq.trans (b := some (.chtake c sc ((codeOf ch).toNat) (Dst.ofCode d.code))) ?_ (by simp only [hch, hd]; try rfl)
  rw [raw_decodeMem (by dsimp only; decide)]
  unfold decodeMem
  dsimp only [Instr.sameWord, Fields.dst, Fields.ne]
  try simp (disch := omega) only [lo2, hi2, lo3, flMod, scMod, lowMod, cmbMod, ext_hi, ext_lo, bit_hi, bit_lo, Nat.reduceSub, Nat.sub_self, ext_all, bit_one, ext_wide, Option.bind_eq_bind, Option.bind_some, Scope.trip]
  all_goals first | rfl | (cases sc <;> first | rfl | exact absurd ‹(_ != _) = true› (by decide))
theorem chfree (c : Ctl) (ch : Nat) : Statement (.chfree c ch) := by
  intro h
  refine decode_encode rfl rfl h ?_
  simp only [Instr.wellFormed, vv, uu, vvv, uuu, fvv, fuu, fvvv, fuuu, fv, fu, cmpOk, predsOk, Bool.and_eq_true, decide_eq_true_eq] at h
  replace h := And.intro h trivial
  try simp only [and_assoc] at h
  repeat (obtain ⟨_, h⟩ := h)
  have hch : (codeOf ch).toNat = ch := by exact codeOf_toNat (by omega)
  refine Eq.trans (b := some (.chfree c ((codeOf ch).toNat))) ?_ (by simp only [hch]; try rfl)
  rw [raw_decodeMem (by dsimp only; decide)]
  unfold decodeMem
  dsimp only [Instr.sameWord, Fields.ne]
  all_goals rfl
theorem cpyG2t (c : Ctl) (a : Src) (b : Src) (e : Src) (bar : BitVec 18) : Statement (.cpyG2t c a b e bar) := by
  intro h
  refine decode_encode rfl rfl h ?_
  simp only [Instr.wellFormed, vv, uu, vvv, uuu, fvv, fuu, fvvv, fuuu, fv, fu, cmpOk, predsOk, Bool.and_eq_true, decide_eq_true_eq] at h
  replace h := And.intro h trivial
  try simp only [and_assoc] at h
  repeat (obtain ⟨_, h⟩ := h)
  have ha : Src.ofU (bar.setWidth 32) a.code = a := by first | exact Src.tripU ‹_› (immIsN ‹_›)
  have hb : Src.ofU (bar.setWidth 32) b.code = b := by first | exact Src.tripU ‹_› (immIsN ‹_›)
  have he : Src.ofU (bar.setWidth 32) e.code = e := by first | exact Src.tripU ‹_› (immIsN ‹_›)
  have hbar : BitVec.extractLsb' 0 18 (bar.setWidth 32) = bar := by simp (disch := omega) only [lo2, lowMod, ext_hi, ext_lo, bit_hi, bit_lo, Nat.reduceSub, Nat.sub_self, ext_all, bit_one, ext_wide]
  refine Eq.trans (b := some (.cpyG2t c (Src.ofU (bar.setWidth 32) a.code) (Src.ofU (bar.setWidth 32) b.code) (Src.ofU (bar.setWidth 32) e.code) (BitVec.extractLsb' 0 18 (bar.setWidth 32)))) ?_ (by simp only [ha, hb, he, hbar]; try rfl)
  rw [raw_decodeMem (by dsimp only; decide)]
  unfold decodeMem
  dsimp only [Instr.sameWord, Fields.ua, Fields.ub, Fields.ue]
  try simp (disch := omega) only [lo2, hi2, lo3, flMod, scMod, lowMod, cmbMod, ext_hi, ext_lo, bit_hi, bit_lo, Nat.reduceSub, Nat.sub_self, ext_all, bit_one, ext_wide, Option.bind_eq_bind, Option.bind_some]
  all_goals rfl
theorem cpyT2g (c : Ctl) (a : Src) (b : Src) (e : Src) (bar : BitVec 18) : Statement (.cpyT2g c a b e bar) := by
  intro h
  refine decode_encode rfl rfl h ?_
  simp only [Instr.wellFormed, vv, uu, vvv, uuu, fvv, fuu, fvvv, fuuu, fv, fu, cmpOk, predsOk, Bool.and_eq_true, decide_eq_true_eq] at h
  replace h := And.intro h trivial
  try simp only [and_assoc] at h
  repeat (obtain ⟨_, h⟩ := h)
  have ha : Src.ofU (bar.setWidth 32) a.code = a := by first | exact Src.tripU ‹_› (immIsN ‹_›)
  have hb : Src.ofU (bar.setWidth 32) b.code = b := by first | exact Src.tripU ‹_› (immIsN ‹_›)
  have he : Src.ofU (bar.setWidth 32) e.code = e := by first | exact Src.tripU ‹_› (immIsN ‹_›)
  have hbar : BitVec.extractLsb' 0 18 (bar.setWidth 32) = bar := by simp (disch := omega) only [lo2, lowMod, ext_hi, ext_lo, bit_hi, bit_lo, Nat.reduceSub, Nat.sub_self, ext_all, bit_one, ext_wide]
  refine Eq.trans (b := some (.cpyT2g c (Src.ofU (bar.setWidth 32) a.code) (Src.ofU (bar.setWidth 32) b.code) (Src.ofU (bar.setWidth 32) e.code) (BitVec.extractLsb' 0 18 (bar.setWidth 32)))) ?_ (by simp only [ha, hb, he, hbar]; try rfl)
  rw [raw_decodeMem (by dsimp only; decide)]
  unfold decodeMem
  dsimp only [Instr.sameWord, Fields.ua, Fields.ub, Fields.ue]
  try simp (disch := omega) only [lo2, hi2, lo3, flMod, scMod, lowMod, cmbMod, ext_hi, ext_lo, bit_hi, bit_lo, Nat.reduceSub, Nat.sub_self, ext_all, bit_one, ext_wide, Option.bind_eq_bind, Option.bind_some]
  all_goals rfl
theorem cpyG2g (c : Ctl) (a : Src) (b : Src) (e : Src) (bar : BitVec 18) : Statement (.cpyG2g c a b e bar) := by
  intro h
  refine decode_encode rfl rfl h ?_
  simp only [Instr.wellFormed, vv, uu, vvv, uuu, fvv, fuu, fvvv, fuuu, fv, fu, cmpOk, predsOk, Bool.and_eq_true, decide_eq_true_eq] at h
  replace h := And.intro h trivial
  try simp only [and_assoc] at h
  repeat (obtain ⟨_, h⟩ := h)
  have ha : Src.ofU (bar.setWidth 32) a.code = a := by first | exact Src.tripU ‹_› (immIsN ‹_›)
  have hb : Src.ofU (bar.setWidth 32) b.code = b := by first | exact Src.tripU ‹_› (immIsN ‹_›)
  have he : Src.ofU (bar.setWidth 32) e.code = e := by first | exact Src.tripU ‹_› (immIsN ‹_›)
  have hbar : BitVec.extractLsb' 0 18 (bar.setWidth 32) = bar := by simp (disch := omega) only [lo2, lowMod, ext_hi, ext_lo, bit_hi, bit_lo, Nat.reduceSub, Nat.sub_self, ext_all, bit_one, ext_wide]
  refine Eq.trans (b := some (.cpyG2g c (Src.ofU (bar.setWidth 32) a.code) (Src.ofU (bar.setWidth 32) b.code) (Src.ofU (bar.setWidth 32) e.code) (BitVec.extractLsb' 0 18 (bar.setWidth 32)))) ?_ (by simp only [ha, hb, he, hbar]; try rfl)
  rw [raw_decodeMem (by dsimp only; decide)]
  unfold decodeMem
  dsimp only [Instr.sameWord, Fields.ua, Fields.ub, Fields.ue]
  try simp (disch := omega) only [lo2, hi2, lo3, flMod, scMod, lowMod, cmbMod, ext_hi, ext_lo, bit_hi, bit_lo, Nat.reduceSub, Nat.sub_self, ext_all, bit_one, ext_wide, Option.bind_eq_bind, Option.bind_some]
  all_goals rfl
theorem cpyT2t (c : Ctl) (a : Src) (b : Src) (e : Src) (bar : BitVec 18) : Statement (.cpyT2t c a b e bar) := by
  intro h
  refine decode_encode rfl rfl h ?_
  simp only [Instr.wellFormed, vv, uu, vvv, uuu, fvv, fuu, fvvv, fuuu, fv, fu, cmpOk, predsOk, Bool.and_eq_true, decide_eq_true_eq] at h
  replace h := And.intro h trivial
  try simp only [and_assoc] at h
  repeat (obtain ⟨_, h⟩ := h)
  have ha : Src.ofU (bar.setWidth 32) a.code = a := by first | exact Src.tripU ‹_› (immIsN ‹_›)
  have hb : Src.ofU (bar.setWidth 32) b.code = b := by first | exact Src.tripU ‹_› (immIsN ‹_›)
  have he : Src.ofU (bar.setWidth 32) e.code = e := by first | exact Src.tripU ‹_› (immIsN ‹_›)
  have hbar : BitVec.extractLsb' 0 18 (bar.setWidth 32) = bar := by simp (disch := omega) only [lo2, lowMod, ext_hi, ext_lo, bit_hi, bit_lo, Nat.reduceSub, Nat.sub_self, ext_all, bit_one, ext_wide]
  refine Eq.trans (b := some (.cpyT2t c (Src.ofU (bar.setWidth 32) a.code) (Src.ofU (bar.setWidth 32) b.code) (Src.ofU (bar.setWidth 32) e.code) (BitVec.extractLsb' 0 18 (bar.setWidth 32)))) ?_ (by simp only [ha, hb, he, hbar]; try rfl)
  rw [raw_decodeMem (by dsimp only; decide)]
  unfold decodeMem
  dsimp only [Instr.sameWord, Fields.ua, Fields.ub, Fields.ue]
  try simp (disch := omega) only [lo2, hi2, lo3, flMod, scMod, lowMod, cmbMod, ext_hi, ext_lo, bit_hi, bit_lo, Nat.reduceSub, Nat.sub_self, ext_all, bit_one, ext_wide, Option.bind_eq_bind, Option.bind_some]
  all_goals rfl
theorem vgrow (c : Ctl) (a : Src) : Statement (.vgrow c a) := by
  intro h
  refine decode_encode rfl rfl h ?_
  simp only [Instr.wellFormed, vv, uu, vvv, uuu, fvv, fuu, fvvv, fuuu, fv, fu, cmpOk, predsOk, Bool.and_eq_true, decide_eq_true_eq] at h
  replace h := And.intro h trivial
  try simp only [and_assoc] at h
  repeat (obtain ⟨_, h⟩ := h)
  have ha : Src.ofU (immOf [a]) a.code = a := by first | exact Src.tripU ‹_› (immIsN ‹_›) | exact Src.tripU ‹_› immIs1
  refine Eq.trans (b := some (.vgrow c (Src.ofU (immOf [a]) a.code))) ?_ (by simp only [ha]; try rfl)
  rw [raw_decodeMem (by dsimp only; decide)]
  unfold decodeMem
  dsimp only [Instr.sameWord, Fields.ua]
  all_goals rfl
theorem vshrink (c : Ctl) (a : Src) : Statement (.vshrink c a) := by
  intro h
  refine decode_encode rfl rfl h ?_
  simp only [Instr.wellFormed, vv, uu, vvv, uuu, fvv, fuu, fvvv, fuuu, fv, fu, cmpOk, predsOk, Bool.and_eq_true, decide_eq_true_eq] at h
  replace h := And.intro h trivial
  try simp only [and_assoc] at h
  repeat (obtain ⟨_, h⟩ := h)
  have ha : Src.ofU (immOf [a]) a.code = a := by first | exact Src.tripU ‹_› (immIsN ‹_›) | exact Src.tripU ‹_› immIs1
  refine Eq.trans (b := some (.vshrink c (Src.ofU (immOf [a]) a.code))) ?_ (by simp only [ha]; try rfl)
  rw [raw_decodeMem (by dsimp only; decide)]
  unfold decodeMem
  dsimp only [Instr.sameWord, Fields.ua]
  all_goals rfl
theorem obres (c : Ctl) (o : Nat) (a : Src) : Statement (.obres c o a) := by
  intro h
  refine decode_encode rfl rfl h ?_
  simp only [Instr.wellFormed, vv, uu, vvv, uuu, fvv, fuu, fvvv, fuuu, fv, fu, cmpOk, predsOk, Bool.and_eq_true, decide_eq_true_eq] at h
  replace h := And.intro h trivial
  try simp only [and_assoc] at h
  repeat (obtain ⟨_, h⟩ := h)
  have ho : (codeOf o).toNat = o := by exact codeOf_toNat (by omega)
  have ha : Src.ofU (immOf [a]) a.code = a := by first | exact Src.tripU ‹_› (immIsN ‹_›) | exact Src.tripU ‹_› immIs1
  refine Eq.trans (b := some (.obres c ((codeOf o).toNat) (Src.ofU (immOf [a]) a.code))) ?_ (by simp only [ho, ha]; try rfl)
  rw [raw_decodeSys (by dsimp only; decide)]
  unfold decodeSys
  dsimp only [Instr.sameWord, Fields.ua, Fields.ne]
  all_goals rfl
theorem obrel (c : Ctl) (o : Nat) : Statement (.obrel c o) := by
  intro h
  refine decode_encode rfl rfl h ?_
  simp only [Instr.wellFormed, vv, uu, vvv, uuu, fvv, fuu, fvvv, fuuu, fv, fu, cmpOk, predsOk, Bool.and_eq_true, decide_eq_true_eq] at h
  replace h := And.intro h trivial
  try simp only [and_assoc] at h
  repeat (obtain ⟨_, h⟩ := h)
  have ho : (codeOf o).toNat = o := by exact codeOf_toNat (by omega)
  refine Eq.trans (b := some (.obrel c ((codeOf o).toNat))) ?_ (by simp only [ho]; try rfl)
  rw [raw_decodeSys (by dsimp only; decide)]
  unfold decodeSys
  dsimp only [Instr.sameWord, Fields.ne]
  all_goals rfl
theorem obldG (c : Ctl) (o : Nat) (a : Src) (bar : BitVec 18) : Statement (.obldG c o a bar) := by
  intro h
  refine decode_encode rfl rfl h ?_
  simp only [Instr.wellFormed, vv, uu, vvv, uuu, fvv, fuu, fvvv, fuuu, fv, fu, cmpOk, predsOk, Bool.and_eq_true, decide_eq_true_eq] at h
  replace h := And.intro h trivial
  try simp only [and_assoc] at h
  repeat (obtain ⟨_, h⟩ := h)
  have ho : (codeOf o).toNat = o := by exact codeOf_toNat (by omega)
  have ha : Src.ofU (bar.setWidth 32) a.code = a := by first | exact Src.tripU ‹_› (immIsN ‹_›)
  have hbar : BitVec.extractLsb' 0 18 (bar.setWidth 32) = bar := by simp (disch := omega) only [lo2, lowMod, ext_hi, ext_lo, bit_hi, bit_lo, Nat.reduceSub, Nat.sub_self, ext_all, bit_one, ext_wide]
  refine Eq.trans (b := some (.obldG c ((codeOf o).toNat) (Src.ofU (bar.setWidth 32) a.code) (BitVec.extractLsb' 0 18 (bar.setWidth 32)))) ?_ (by simp only [ho, ha, hbar]; try rfl)
  rw [raw_decodeSys (by dsimp only; decide)]
  unfold decodeSys
  dsimp only [Instr.sameWord, Fields.ua, Fields.ne]
  try simp (disch := omega) only [lo2, hi2, lo3, flMod, scMod, lowMod, cmbMod, ext_hi, ext_lo, bit_hi, bit_lo, Nat.reduceSub, Nat.sub_self, ext_all, bit_one, ext_wide, Option.bind_eq_bind, Option.bind_some]
  all_goals rfl
theorem obldTm (c : Ctl) (o : Nat) (a : Src) (bar : BitVec 18) : Statement (.obldTm c o a bar) := by
  intro h
  refine decode_encode rfl rfl h ?_
  simp only [Instr.wellFormed, vv, uu, vvv, uuu, fvv, fuu, fvvv, fuuu, fv, fu, cmpOk, predsOk, Bool.and_eq_true, decide_eq_true_eq] at h
  replace h := And.intro h trivial
  try simp only [and_assoc] at h
  repeat (obtain ⟨_, h⟩ := h)
  have ho : (codeOf o).toNat = o := by exact codeOf_toNat (by omega)
  have ha : Src.ofU (bar.setWidth 32) a.code = a := by first | exact Src.tripU ‹_› (immIsN ‹_›)
  have hbar : BitVec.extractLsb' 0 18 (bar.setWidth 32) = bar := by simp (disch := omega) only [lo2, lowMod, ext_hi, ext_lo, bit_hi, bit_lo, Nat.reduceSub, Nat.sub_self, ext_all, bit_one, ext_wide]
  refine Eq.trans (b := some (.obldTm c ((codeOf o).toNat) (Src.ofU (bar.setWidth 32) a.code) (BitVec.extractLsb' 0 18 (bar.setWidth 32)))) ?_ (by simp only [ho, ha, hbar]; try rfl)
  rw [raw_decodeSys (by dsimp only; decide)]
  unfold decodeSys
  dsimp only [Instr.sameWord, Fields.ua, Fields.ne]
  try simp (disch := omega) only [lo2, hi2, lo3, flMod, scMod, lowMod, cmbMod, ext_hi, ext_lo, bit_hi, bit_lo, Nat.reduceSub, Nat.sub_self, ext_all, bit_one, ext_wide, Option.bind_eq_bind, Option.bind_some]
  all_goals rfl
theorem ldfrag (c : Ctl) (fl : Flg) (un : Bool) (tr : Bool) (cnt : Cnt) (pitch : BitVec 12) (off : BitVec 18) (d : Dst) (a : Src) : Statement (.ldfrag c fl un tr cnt pitch off d a) := by
  intro h
  refine decode_encode rfl rfl h ?_
  cases un
  · simp only [Instr.wellFormed, vv, uu, vvv, uuu, fvv, fuu, fvvv, fuuu, fv, fu, cmpOk, predsOk, Bool.and_eq_true, decide_eq_true_eq] at h ; try simp only [Bool.false_eq_true, if_false, if_true, reduceIte] at h
    replace h := And.intro h trivial
    try simp only [and_assoc] at h
    repeat (obtain ⟨_, h⟩ := h)
    have hpitch : BitVec.extractLsb' 18 12 (cnt.bits ++ pitch ++ off) = pitch := by simp (disch := omega) only [lo2, lowMod, ext_hi, ext_lo, bit_hi, bit_lo, Nat.reduceSub, Nat.sub_self, ext_all, bit_one, ext_wide]
    have hoff : BitVec.extractLsb' 0 18 (cnt.bits ++ pitch ++ off) = off := by simp (disch := omega) only [lo2, lowMod, ext_hi, ext_lo, bit_hi, bit_lo, Nat.reduceSub, Nat.sub_self, ext_all, bit_one, ext_wide]
    have hd : Dst.ofCode d.code = d := by first | exact Dst.tripV ‹_› | exact Dst.tripU ‹_› | exact Dst.tripA ‹_›
    have ha : Src.ofA (cnt.bits ++ pitch ++ off) a.code = a := by exact Src.tripA ‹_› (immIsN ‹_›)
    refine Eq.trans (b := some (.ldfrag c fl false tr cnt (BitVec.extractLsb' 18 12 (cnt.bits ++ pitch ++ off)) (BitVec.extractLsb' 0 18 (cnt.bits ++ pitch ++ off)) (Dst.ofCode d.code) (Src.ofA (cnt.bits ++ pitch ++ off) a.code))) ?_ (by simp only [hpitch, hoff, hd, ha]; try rfl)
    rw [raw_decodeSys (by dsimp only; decide)]
    unfold decodeSys
    dsimp only [Instr.sameWord, Fields.dst, Fields.ua, Fields.aa, Fields.aua]
    try simp (disch := omega) only [lo2, hi2, lo3, flMod, scMod, lowMod, cmbMod, ext_hi, ext_lo, bit_hi, bit_lo, Nat.reduceSub, Nat.sub_self, ext_all, bit_one, ext_wide, Option.bind_eq_bind, Option.bind_some, Flg.trip, Cnt.trip]
    all_goals first | rfl | (cases fl <;> cases tr <;> cases cnt <;> first | rfl | exact absurd ‹(_ != _) = true› (by decide))
  · simp only [Instr.wellFormed, vv, uu, vvv, uuu, fvv, fuu, fvvv, fuuu, fv, fu, cmpOk, predsOk, Bool.and_eq_true, decide_eq_true_eq] at h ; try simp only [Bool.false_eq_true, if_false, if_true, reduceIte] at h
    replace h := And.intro h trivial
    try simp only [and_assoc] at h
    repeat (obtain ⟨_, h⟩ := h)
    have hpitch : BitVec.extractLsb' 18 12 (cnt.bits ++ pitch ++ off) = pitch := by simp (disch := omega) only [lo2, lowMod, ext_hi, ext_lo, bit_hi, bit_lo, Nat.reduceSub, Nat.sub_self, ext_all, bit_one, ext_wide]
    have hoff : BitVec.extractLsb' 0 18 (cnt.bits ++ pitch ++ off) = off := by simp (disch := omega) only [lo2, lowMod, ext_hi, ext_lo, bit_hi, bit_lo, Nat.reduceSub, Nat.sub_self, ext_all, bit_one, ext_wide]
    have hd : Dst.ofCode d.code = d := by first | exact Dst.tripV ‹_› | exact Dst.tripU ‹_› | exact Dst.tripA ‹_›
    have ha : Src.ofU (cnt.bits ++ pitch ++ off) a.code = a := by exact Src.tripU ‹_› (immIsN ‹_›)
    refine Eq.trans (b := some (.ldfrag c fl true tr cnt (BitVec.extractLsb' 18 12 (cnt.bits ++ pitch ++ off)) (BitVec.extractLsb' 0 18 (cnt.bits ++ pitch ++ off)) (Dst.ofCode d.code) (Src.ofU (cnt.bits ++ pitch ++ off) a.code))) ?_ (by simp only [hpitch, hoff, hd, ha]; try rfl)
    rw [raw_decodeSys (by dsimp only; decide)]
    unfold decodeSys
    dsimp only [Instr.sameWord, Fields.dst, Fields.ua, Fields.aa, Fields.aua]
    try simp (disch := omega) only [lo2, hi2, lo3, flMod, scMod, lowMod, cmbMod, ext_hi, ext_lo, bit_hi, bit_lo, Nat.reduceSub, Nat.sub_self, ext_all, bit_one, ext_wide, Option.bind_eq_bind, Option.bind_some, Flg.trip, Cnt.trip]
    all_goals first | rfl | (cases fl <;> cases tr <;> cases cnt <;> first | rfl | exact absurd ‹(_ != _) = true› (by decide))
theorem mma (c : Ctl) (fl : Flg) (int : Bool) (k : BitVec 2) (nz : Bool) (ga : BitVec 8) (gb : BitVec 8) (x : Nat) (oa : Nat) (ob : Nat) : Statement (.mma c fl int k nz ga gb x oa ob) := by
  intro h
  refine decode_encode rfl rfl h ?_
  simp only [Instr.wellFormed, vv, uu, vvv, uuu, fvv, fuu, fvvv, fuuu, fv, fu, cmpOk, predsOk, Bool.and_eq_true, decide_eq_true_eq] at h
  replace h := And.intro h trivial
  try simp only [and_assoc] at h
  repeat (obtain ⟨_, h⟩ := h)
  have hk : lo2 (0#1 ++ BitVec.ofBool int ++ k) = k := by simp (disch := omega) only [lo2, lowMod, ext_hi, ext_lo, bit_hi, bit_lo, Nat.reduceSub, Nat.sub_self, ext_all, bit_one, ext_wide]
  have hga : BitVec.extractLsb' 0 8 (0#16 ++ gb ++ ga) = ga := by simp (disch := omega) only [lo2, lowMod, ext_hi, ext_lo, bit_hi, bit_lo, Nat.reduceSub, Nat.sub_self, ext_all, bit_one, ext_wide]
  have hgb : BitVec.extractLsb' 8 8 (0#16 ++ gb ++ ga) = gb := by simp (disch := omega) only [lo2, lowMod, ext_hi, ext_lo, bit_hi, bit_lo, Nat.reduceSub, Nat.sub_self, ext_all, bit_one, ext_wide]
  have hx : (codeOf x).toNat = x := by exact codeOf_toNat (by omega)
  have hoa : (codeOf oa).toNat = oa := by exact codeOf_toNat (by omega)
  have hob : (codeOf ob).toNat = ob := by exact codeOf_toNat (by omega)
  refine Eq.trans (b := some (.mma c fl int (lo2 (0#1 ++ BitVec.ofBool int ++ k)) nz (BitVec.extractLsb' 0 8 (0#16 ++ gb ++ ga)) (BitVec.extractLsb' 8 8 (0#16 ++ gb ++ ga)) ((codeOf x).toNat) ((codeOf oa).toNat) ((codeOf ob).toNat))) ?_ (by simp only [hk, hga, hgb, hx, hoa, hob]; try rfl)
  rw [raw_decodeSys (by dsimp only; decide)]
  unfold decodeSys
  dsimp only [Instr.sameWord, Fields.nd, Fields.na, Fields.nb]
  try simp (disch := omega) only [lo2, hi2, lo3, flMod, scMod, lowMod, cmbMod, ext_hi, ext_lo, bit_hi, bit_lo, Nat.reduceSub, Nat.sub_self, ext_all, bit_one, ext_wide, Option.bind_eq_bind, Option.bind_some, Flg.trip]
  all_goals first | rfl | (cases fl <;> cases int <;> cases nz <;> first | rfl | exact absurd ‹(_ != _) = true› (by decide))
theorem drainF64 (c : Ctl) (fl : Flg) (pitch : BitVec 20) (x : Nat) (b : Src) : Statement (.drainF64 c fl pitch x b) := by
  intro h
  refine decode_encode rfl rfl h ?_
  simp only [Instr.wellFormed, vv, uu, vvv, uuu, fvv, fuu, fvvv, fuuu, fv, fu, cmpOk, predsOk, Bool.and_eq_true, decide_eq_true_eq] at h
  replace h := And.intro h trivial
  try simp only [and_assoc] at h
  repeat (obtain ⟨_, h⟩ := h)
  have hpitch : BitVec.extractLsb' 0 20 (pitch.setWidth 32) = pitch := by simp (disch := omega) only [lo2, lowMod, ext_hi, ext_lo, bit_hi, bit_lo, Nat.reduceSub, Nat.sub_self, ext_all, bit_one, ext_wide]
  have hx : (codeOf x).toNat = x := by exact codeOf_toNat (by omega)
  have hb : Src.ofU (pitch.setWidth 32) b.code = b := by first | exact Src.tripU ‹_› (immIsN ‹_›)
  refine Eq.trans (b := some (.drainF64 c fl (BitVec.extractLsb' 0 20 (pitch.setWidth 32)) ((codeOf x).toNat) (Src.ofU (pitch.setWidth 32) b.code))) ?_ (by simp only [hpitch, hx, hb]; try rfl)
  rw [raw_decodeSys (by dsimp only; decide)]
  unfold decodeSys
  dsimp only [Instr.sameWord, Fields.ub, Fields.na]
  try simp (disch := omega) only [lo2, hi2, lo3, flMod, scMod, lowMod, cmbMod, ext_hi, ext_lo, bit_hi, bit_lo, Nat.reduceSub, Nat.sub_self, ext_all, bit_one, ext_wide, Option.bind_eq_bind, Option.bind_some, Flg.trip]
  all_goals first | rfl | (cases fl <;> first | rfl | exact absurd ‹(_ != _) = true› (by decide))
theorem drainQ (c : Ctl) (fl : Flg) (fm : BitVec 2) (pitch : BitVec 20) (ltv : Bool) (obn : BitVec 4) (ltn : BitVec 2) (x : Nat) (b : Src) : Statement (.drainQ c fl fm pitch ltv obn ltn x b) := by
  intro h
  refine decode_encode rfl rfl h ?_
  simp only [Instr.wellFormed, vv, uu, vvv, uuu, fvv, fuu, fvvv, fuuu, fv, fu, cmpOk, predsOk, Bool.and_eq_true, decide_eq_true_eq] at h
  replace h := And.intro h trivial
  try simp only [and_assoc] at h
  repeat (obtain ⟨_, h⟩ := h)
  have hfm : lo2 (fl.bits ++ fm) = fm := by simp (disch := omega) only [lo2, lowMod, ext_hi, ext_lo, bit_hi, bit_lo, Nat.reduceSub, Nat.sub_self, ext_all, bit_one, ext_wide]
  have hpitch : BitVec.extractLsb' 0 20 (obn ++ BitVec.ofBool ltv ++ ltn ++ 0#5 ++ pitch) = pitch := by simp (disch := omega) only [lo2, lowMod, ext_hi, ext_lo, bit_hi, bit_lo, Nat.reduceSub, Nat.sub_self, ext_all, bit_one, ext_wide]
  have hltv : BitVec.getLsbD (obn ++ BitVec.ofBool ltv ++ ltn ++ 0#5 ++ pitch) 27 = ltv := by simp (disch := omega) only [lo2, lowMod, ext_hi, ext_lo, bit_hi, bit_lo, Nat.reduceSub, Nat.sub_self, ext_all, bit_one, ext_wide]
  have hobn : BitVec.extractLsb' 28 4 (obn ++ BitVec.ofBool ltv ++ ltn ++ 0#5 ++ pitch) = obn := by simp (disch := omega) only [lo2, lowMod, ext_hi, ext_lo, bit_hi, bit_lo, Nat.reduceSub, Nat.sub_self, ext_all, bit_one, ext_wide]
  have hltn : BitVec.extractLsb' 25 2 (obn ++ BitVec.ofBool ltv ++ ltn ++ 0#5 ++ pitch) = ltn := by simp (disch := omega) only [lo2, lowMod, ext_hi, ext_lo, bit_hi, bit_lo, Nat.reduceSub, Nat.sub_self, ext_all, bit_one, ext_wide]
  have hx : (codeOf x).toNat = x := by exact codeOf_toNat (by omega)
  have hb : Src.ofU (obn ++ BitVec.ofBool ltv ++ ltn ++ 0#5 ++ pitch) b.code = b := by first | exact Src.tripU ‹_› (immIsN ‹_›)
  refine Eq.trans (b := some (.drainQ c fl (lo2 (fl.bits ++ fm)) (BitVec.extractLsb' 0 20 (obn ++ BitVec.ofBool ltv ++ ltn ++ 0#5 ++ pitch)) (BitVec.getLsbD (obn ++ BitVec.ofBool ltv ++ ltn ++ 0#5 ++ pitch) 27) (BitVec.extractLsb' 28 4 (obn ++ BitVec.ofBool ltv ++ ltn ++ 0#5 ++ pitch)) (BitVec.extractLsb' 25 2 (obn ++ BitVec.ofBool ltv ++ ltn ++ 0#5 ++ pitch)) ((codeOf x).toNat) (Src.ofU (obn ++ BitVec.ofBool ltv ++ ltn ++ 0#5 ++ pitch) b.code))) ?_ (by simp only [hfm, hpitch, hltv, hobn, hltn, hx, hb]; try rfl)
  rw [raw_decodeSys (by dsimp only; decide)]
  unfold decodeSys
  dsimp only [Instr.sameWord, Fields.ub, Fields.na]
  try simp (disch := omega) only [lo2, hi2, lo3, flMod, scMod, lowMod, cmbMod, ext_hi, ext_lo, bit_hi, bit_lo, Nat.reduceSub, Nat.sub_self, ext_all, bit_one, ext_wide, Option.bind_eq_bind, Option.bind_some, Flg.trip]
  all_goals first | rfl | (cases fl <;> first | rfl | exact absurd ‹(_ != _) = true› (by decide))
theorem drainI64 (c : Ctl) (fl : Flg) (pitch : BitVec 20) (x : Nat) (b : Src) : Statement (.drainI64 c fl pitch x b) := by
  intro h
  refine decode_encode rfl rfl h ?_
  simp only [Instr.wellFormed, vv, uu, vvv, uuu, fvv, fuu, fvvv, fuuu, fv, fu, cmpOk, predsOk, Bool.and_eq_true, decide_eq_true_eq] at h
  replace h := And.intro h trivial
  try simp only [and_assoc] at h
  repeat (obtain ⟨_, h⟩ := h)
  have hpitch : BitVec.extractLsb' 0 20 (pitch.setWidth 32) = pitch := by simp (disch := omega) only [lo2, lowMod, ext_hi, ext_lo, bit_hi, bit_lo, Nat.reduceSub, Nat.sub_self, ext_all, bit_one, ext_wide]
  have hx : (codeOf x).toNat = x := by exact codeOf_toNat (by omega)
  have hb : Src.ofU (pitch.setWidth 32) b.code = b := by first | exact Src.tripU ‹_› (immIsN ‹_›)
  refine Eq.trans (b := some (.drainI64 c fl (BitVec.extractLsb' 0 20 (pitch.setWidth 32)) ((codeOf x).toNat) (Src.ofU (pitch.setWidth 32) b.code))) ?_ (by simp only [hpitch, hx, hb]; try rfl)
  rw [raw_decodeSys (by dsimp only; decide)]
  unfold decodeSys
  dsimp only [Instr.sameWord, Fields.ub, Fields.na]
  try simp (disch := omega) only [lo2, hi2, lo3, flMod, scMod, lowMod, cmbMod, ext_hi, ext_lo, bit_hi, bit_lo, Nat.reduceSub, Nat.sub_self, ext_all, bit_one, ext_wide, Option.bind_eq_bind, Option.bind_some, Flg.trip]
  all_goals first | rfl | (cases fl <;> first | rfl | exact absurd ‹(_ != _) = true› (by decide))
theorem xzero (c : Ctl) (x : Nat) : Statement (.xzero c x) := by
  intro h
  refine decode_encode rfl rfl h ?_
  simp only [Instr.wellFormed, vv, uu, vvv, uuu, fvv, fuu, fvvv, fuuu, fv, fu, cmpOk, predsOk, Bool.and_eq_true, decide_eq_true_eq] at h
  replace h := And.intro h trivial
  try simp only [and_assoc] at h
  repeat (obtain ⟨_, h⟩ := h)
  have hx : (codeOf x).toNat = x := by exact codeOf_toNat (by omega)
  refine Eq.trans (b := some (.xzero c ((codeOf x).toNat))) ?_ (by simp only [hx]; try rfl)
  rw [raw_decodeSys (by dsimp only; decide)]
  unfold decodeSys
  dsimp only [Instr.sameWord, Fields.nd]
  all_goals rfl
theorem xstatNan (c : Ctl) (d : Dst) (x : Nat) : Statement (.xstatNan c d x) := by
  intro h
  refine decode_encode rfl rfl h ?_
  simp only [Instr.wellFormed, vv, uu, vvv, uuu, fvv, fuu, fvvv, fuuu, fv, fu, cmpOk, predsOk, Bool.and_eq_true, decide_eq_true_eq] at h
  replace h := And.intro h trivial
  try simp only [and_assoc] at h
  repeat (obtain ⟨_, h⟩ := h)
  have hd : Dst.ofCode d.code = d := by first | exact Dst.tripV ‹_› | exact Dst.tripU ‹_› | exact Dst.tripA ‹_›
  have hx : (codeOf x).toNat = x := by exact codeOf_toNat (by omega)
  refine Eq.trans (b := some (.xstatNan c (Dst.ofCode d.code) ((codeOf x).toNat))) ?_ (by simp only [hd, hx]; try rfl)
  rw [raw_decodeSys (by dsimp only; decide)]
  unfold decodeSys
  dsimp only [Instr.sameWord, Fields.dst, Fields.na]
  all_goals rfl
theorem xstatOvf (c : Ctl) (d : Dst) (x : Nat) : Statement (.xstatOvf c d x) := by
  intro h
  refine decode_encode rfl rfl h ?_
  simp only [Instr.wellFormed, vv, uu, vvv, uuu, fvv, fuu, fvvv, fuuu, fv, fu, cmpOk, predsOk, Bool.and_eq_true, decide_eq_true_eq] at h
  replace h := And.intro h trivial
  try simp only [and_assoc] at h
  repeat (obtain ⟨_, h⟩ := h)
  have hd : Dst.ofCode d.code = d := by first | exact Dst.tripV ‹_› | exact Dst.tripU ‹_› | exact Dst.tripA ‹_›
  have hx : (codeOf x).toNat = x := by exact codeOf_toNat (by omega)
  refine Eq.trans (b := some (.xstatOvf c (Dst.ofCode d.code) ((codeOf x).toNat))) ?_ (by simp only [hd, hx]; try rfl)
  rw [raw_decodeSys (by dsimp only; decide)]
  unfold decodeSys
  dsimp only [Instr.sameWord, Fields.dst, Fields.na]
  all_goals rfl
theorem xget (c : Ctl) (fl : Flg) (d : Dst) (x : Nat) (b : Src) : Statement (.xget c fl d x b) := by
  intro h
  refine decode_encode rfl rfl h ?_
  simp only [Instr.wellFormed, vv, uu, vvv, uuu, fvv, fuu, fvvv, fuuu, fv, fu, cmpOk, predsOk, Bool.and_eq_true, decide_eq_true_eq] at h
  replace h := And.intro h trivial
  try simp only [and_assoc] at h
  repeat (obtain ⟨_, h⟩ := h)
  have hd : Dst.ofCode d.code = d := by first | exact Dst.tripV ‹_› | exact Dst.tripU ‹_› | exact Dst.tripA ‹_›
  have hx : (codeOf x).toNat = x := by exact codeOf_toNat (by omega)
  have hb : Src.ofU (immOf [b]) b.code = b := by first | exact Src.tripU ‹_› (immIsN ‹_›) | exact Src.tripU ‹_› immIs1
  refine Eq.trans (b := some (.xget c fl (Dst.ofCode d.code) ((codeOf x).toNat) (Src.ofU (immOf [b]) b.code))) ?_ (by simp only [hd, hx, hb]; try rfl)
  rw [raw_decodeSys (by dsimp only; decide)]
  unfold decodeSys
  dsimp only [Instr.sameWord, Fields.dst, Fields.ub, Fields.na]
  try simp (disch := omega) only [lo2, hi2, lo3, flMod, scMod, lowMod, cmbMod, ext_hi, ext_lo, bit_hi, bit_lo, Nat.reduceSub, Nat.sub_self, ext_all, bit_one, ext_wide, Option.bind_eq_bind, Option.bind_some, Flg.trip]
  all_goals first | rfl | (cases fl <;> first | rfl | exact absurd ‹(_ != _) = true› (by decide))
theorem xput (c : Ctl) (x : Nat) (a : Src) (b : Src) : Statement (.xput c x a b) := by
  intro h
  refine decode_encode rfl rfl h ?_
  simp only [Instr.wellFormed, vv, uu, vvv, uuu, fvv, fuu, fvvv, fuuu, fv, fu, cmpOk, predsOk, Bool.and_eq_true, decide_eq_true_eq] at h
  replace h := And.intro h trivial
  try simp only [and_assoc] at h
  repeat (obtain ⟨_, h⟩ := h)
  have hx : (codeOf x).toNat = x := by exact codeOf_toNat (by omega)
  have ha : Src.ofV (immOf [a, b]) a.code = a := by first | exact Src.tripV ‹_› (immIsN ‹_›) | exact Src.tripV ‹_› (immIs ‹_› (by simp)) | exact Src.tripV ‹_› (immIsZ (by assumption) (by assumption)).1
  have hb : Src.ofU (immOf [a, b]) b.code = b := by first | exact Src.tripU ‹_› (immIsN ‹_›) | exact Src.tripU ‹_› (immIs ‹_› (by simp)) | exact Src.tripU ‹_› (immIsZ (by assumption) (by assumption)).2
  refine Eq.trans (b := some (.xput c ((codeOf x).toNat) (Src.ofV (immOf [a, b]) a.code) (Src.ofU (immOf [a, b]) b.code))) ?_ (by simp only [hx, ha, hb]; try rfl)
  rw [raw_decodeSys (by dsimp only; decide)]
  unfold decodeSys
  dsimp only [Instr.sameWord, Fields.va, Fields.ub, Fields.nd]
  all_goals rfl
theorem ccall (c : Ctl) (ch : Nat) (b : Src) : Statement (.ccall c ch b) := by
  intro h
  refine decode_encode rfl rfl h ?_
  simp only [Instr.wellFormed, vv, uu, vvv, uuu, fvv, fuu, fvvv, fuuu, fv, fu, cmpOk, predsOk, Bool.and_eq_true, decide_eq_true_eq] at h
  replace h := And.intro h trivial
  try simp only [and_assoc] at h
  repeat (obtain ⟨_, h⟩ := h)
  have hch : (codeOf ch).toNat = ch := by exact codeOf_toNat (by omega)
  have hb : Src.ofU (immOf [b]) b.code = b := by first | exact Src.tripU ‹_› (immIsN ‹_›) | exact Src.tripU ‹_› immIs1
  refine Eq.trans (b := some (.ccall c ((codeOf ch).toNat) (Src.ofU (immOf [b]) b.code))) ?_ (by simp only [hch, hb]; try rfl)
  rw [raw_decodeSys (by dsimp only; decide)]
  unfold decodeSys
  dsimp only [Instr.sameWord, Fields.ub, Fields.na]
  all_goals rfl
theorem crecv (c : Ctl) (fl : Flg) (d : Dst) (ch : Nat) : Statement (.crecv c fl d ch) := by
  intro h
  refine decode_encode rfl rfl h ?_
  simp only [Instr.wellFormed, vv, uu, vvv, uuu, fvv, fuu, fvvv, fuuu, fv, fu, cmpOk, predsOk, Bool.and_eq_true, decide_eq_true_eq] at h
  replace h := And.intro h trivial
  try simp only [and_assoc] at h
  repeat (obtain ⟨_, h⟩ := h)
  have hd : Dst.ofCode d.code = d := by first | exact Dst.tripV ‹_› | exact Dst.tripU ‹_› | exact Dst.tripA ‹_›
  have hch : (codeOf ch).toNat = ch := by exact codeOf_toNat (by omega)
  refine Eq.trans (b := some (.crecv c fl (Dst.ofCode d.code) ((codeOf ch).toNat))) ?_ (by simp only [hd, hch]; try rfl)
  rw [raw_decodeSys (by dsimp only; decide)]
  unfold decodeSys
  dsimp only [Instr.sameWord, Fields.dst, Fields.na]
  try simp (disch := omega) only [lo2, hi2, lo3, flMod, scMod, lowMod, cmbMod, ext_hi, ext_lo, bit_hi, bit_lo, Nat.reduceSub, Nat.sub_self, ext_all, bit_one, ext_wide, Option.bind_eq_bind, Option.bind_some, Flg.trip]
  all_goals first | rfl | (cases fl <;> first | rfl | exact absurd ‹(_ != _) = true› (by decide))
theorem tokWait (c : Ctl) (a : Src) : Statement (.tokWait c a) := by
  intro h
  refine decode_encode rfl rfl h ?_
  simp only [Instr.wellFormed, vv, uu, vvv, uuu, fvv, fuu, fvvv, fuuu, fv, fu, cmpOk, predsOk, Bool.and_eq_true, decide_eq_true_eq] at h
  replace h := And.intro h trivial
  try simp only [and_assoc] at h
  repeat (obtain ⟨_, h⟩ := h)
  have ha : Src.ofU (immOf [a]) a.code = a := by first | exact Src.tripU ‹_› (immIsN ‹_›) | exact Src.tripU ‹_› immIs1
  refine Eq.trans (b := some (.tokWait c (Src.ofU (immOf [a]) a.code))) ?_ (by simp only [ha]; try rfl)
  rw [raw_decodeSys (by dsimp only; decide)]
  unfold decodeSys
  dsimp only [Instr.sameWord, Fields.ua]
  all_goals rfl
theorem tokRead (c : Ctl) (d : Dst) : Statement (.tokRead c d) := by
  intro h
  refine decode_encode rfl rfl h ?_
  simp only [Instr.wellFormed, vv, uu, vvv, uuu, fvv, fuu, fvvv, fuuu, fv, fu, cmpOk, predsOk, Bool.and_eq_true, decide_eq_true_eq] at h
  replace h := And.intro h trivial
  try simp only [and_assoc] at h
  repeat (obtain ⟨_, h⟩ := h)
  have hd : Dst.ofCode d.code = d := by first | exact Dst.tripV ‹_› | exact Dst.tripU ‹_› | exact Dst.tripA ‹_›
  refine Eq.trans (b := some (.tokRead c (Dst.ofCode d.code))) ?_ (by simp only [hd]; try rfl)
  rw [raw_decodeSys (by dsimp only; decide)]
  unfold decodeSys
  dsimp only [Instr.sameWord, Fields.dst]
  all_goals rfl
theorem tokResume (c : Ctl) (d : Dst) (a : Src) (b : Src) : Statement (.tokResume c d a b) := by
  intro h
  refine decode_encode rfl rfl h ?_
  simp only [Instr.wellFormed, vv, uu, vvv, uuu, fvv, fuu, fvvv, fuuu, fv, fu, cmpOk, predsOk, Bool.and_eq_true, decide_eq_true_eq] at h
  replace h := And.intro h trivial
  try simp only [and_assoc] at h
  repeat (obtain ⟨_, h⟩ := h)
  have hd : Dst.ofCode d.code = d := by first | exact Dst.tripV ‹_› | exact Dst.tripU ‹_› | exact Dst.tripA ‹_›
  have ha : Src.ofU (immOf [a, b]) a.code = a := by first | exact Src.tripU ‹_› (immIsN ‹_›) | exact Src.tripU ‹_› (immIs ‹_› (by simp)) | exact Src.tripU ‹_› (immIsZ (by assumption) (by assumption)).1
  have hb : Src.ofU (immOf [a, b]) b.code = b := by first | exact Src.tripU ‹_› (immIsN ‹_›) | exact Src.tripU ‹_› (immIs ‹_› (by simp)) | exact Src.tripU ‹_› (immIsZ (by assumption) (by assumption)).2
  refine Eq.trans (b := some (.tokResume c (Dst.ofCode d.code) (Src.ofU (immOf [a, b]) a.code) (Src.ofU (immOf [a, b]) b.code))) ?_ (by simp only [hd, ha, hb]; try rfl)
  rw [raw_decodeSys (by dsimp only; decide)]
  unfold decodeSys
  dsimp only [Instr.sameWord, Fields.dst, Fields.ua, Fields.ub]
  all_goals rfl
theorem cbarArrive (c : Ctl) (sc : Scope) (a : Src) : Statement (.cbarArrive c sc a) := by
  intro h
  refine decode_encode rfl rfl h ?_
  simp only [Instr.wellFormed, vv, uu, vvv, uuu, fvv, fuu, fvvv, fuuu, fv, fu, cmpOk, predsOk, Bool.and_eq_true, decide_eq_true_eq] at h
  replace h := And.intro h trivial
  try simp only [and_assoc] at h
  repeat (obtain ⟨_, h⟩ := h)
  have ha : Src.ofU (immOf [a]) a.code = a := by first | exact Src.tripU ‹_› (immIsN ‹_›) | exact Src.tripU ‹_› immIs1
  refine Eq.trans (b := some (.cbarArrive c sc (Src.ofU (immOf [a]) a.code))) ?_ (by simp only [ha]; try rfl)
  rw [raw_decodeSys (by dsimp only; decide)]
  unfold decodeSys
  dsimp only [Instr.sameWord, Fields.ua]
  try simp (disch := omega) only [lo2, hi2, lo3, flMod, scMod, lowMod, cmbMod, ext_hi, ext_lo, bit_hi, bit_lo, Nat.reduceSub, Nat.sub_self, ext_all, bit_one, ext_wide, Option.bind_eq_bind, Option.bind_some, Scope.trip]
  all_goals first | rfl | (cases sc <;> first | rfl | exact absurd ‹(_ != _) = true› (by decide))
theorem cbarWait (c : Ctl) (sc : Scope) (a : Src) : Statement (.cbarWait c sc a) := by
  intro h
  refine decode_encode rfl rfl h ?_
  simp only [Instr.wellFormed, vv, uu, vvv, uuu, fvv, fuu, fvvv, fuuu, fv, fu, cmpOk, predsOk, Bool.and_eq_true, decide_eq_true_eq] at h
  replace h := And.intro h trivial
  try simp only [and_assoc] at h
  repeat (obtain ⟨_, h⟩ := h)
  have ha : Src.ofU (immOf [a]) a.code = a := by first | exact Src.tripU ‹_› (immIsN ‹_›) | exact Src.tripU ‹_› immIs1
  refine Eq.trans (b := some (.cbarWait c sc (Src.ofU (immOf [a]) a.code))) ?_ (by simp only [ha]; try rfl)
  rw [raw_decodeSys (by dsimp only; decide)]
  unfold decodeSys
  dsimp only [Instr.sameWord, Fields.ua]
  try simp (disch := omega) only [lo2, hi2, lo3, flMod, scMod, lowMod, cmbMod, ext_hi, ext_lo, bit_hi, bit_lo, Nat.reduceSub, Nat.sub_self, ext_all, bit_one, ext_wide, Option.bind_eq_bind, Option.bind_some, Scope.trip]
  all_goals first | rfl | (cases sc <;> first | rfl | exact absurd ‹(_ != _) = true› (by decide))
theorem enq (c : Ctl) (fl : Flg) (d : Dst) (a : Src) (b : Src) : Statement (.enq c fl d a b) := by
  intro h
  refine decode_encode rfl rfl h ?_
  simp only [Instr.wellFormed, vv, uu, vvv, uuu, fvv, fuu, fvvv, fuuu, fv, fu, cmpOk, predsOk, Bool.and_eq_true, decide_eq_true_eq] at h
  replace h := And.intro h trivial
  try simp only [and_assoc] at h
  repeat (obtain ⟨_, h⟩ := h)
  have hd : Dst.ofCode d.code = d := by first | exact Dst.tripV ‹_› | exact Dst.tripU ‹_› | exact Dst.tripA ‹_›
  have ha : Src.ofU (immOf [a, b]) a.code = a := by first | exact Src.tripU ‹_› (immIsN ‹_›) | exact Src.tripU ‹_› (immIs ‹_› (by simp)) | exact Src.tripU ‹_› (immIsZ (by assumption) (by assumption)).1
  have hb : Src.ofU (immOf [a, b]) b.code = b := by first | exact Src.tripU ‹_› (immIsN ‹_›) | exact Src.tripU ‹_› (immIs ‹_› (by simp)) | exact Src.tripU ‹_› (immIsZ (by assumption) (by assumption)).2
  refine Eq.trans (b := some (.enq c fl (Dst.ofCode d.code) (Src.ofU (immOf [a, b]) a.code) (Src.ofU (immOf [a, b]) b.code))) ?_ (by simp only [hd, ha, hb]; try rfl)
  rw [raw_decodeSys (by dsimp only; decide)]
  unfold decodeSys
  dsimp only [Instr.sameWord, Fields.dst, Fields.ua, Fields.ub]
  try simp (disch := omega) only [lo2, hi2, lo3, flMod, scMod, lowMod, cmbMod, ext_hi, ext_lo, bit_hi, bit_lo, Nat.reduceSub, Nat.sub_self, ext_all, bit_one, ext_wide, Option.bind_eq_bind, Option.bind_some, Flg.trip]
  all_goals first | rfl | (cases fl <;> first | rfl | exact absurd ‹(_ != _) = true› (by decide))
theorem launchGrid (c : Ctl) (fl : Flg) (d : Dst) (a : Src) (b : Src) : Statement (.launchGrid c fl d a b) := by
  intro h
  refine decode_encode rfl rfl h ?_
  simp only [Instr.wellFormed, vv, uu, vvv, uuu, fvv, fuu, fvvv, fuuu, fv, fu, cmpOk, predsOk, Bool.and_eq_true, decide_eq_true_eq] at h
  replace h := And.intro h trivial
  try simp only [and_assoc] at h
  repeat (obtain ⟨_, h⟩ := h)
  have hd : Dst.ofCode d.code = d := by first | exact Dst.tripV ‹_› | exact Dst.tripU ‹_› | exact Dst.tripA ‹_›
  have ha : Src.ofU (immOf [a, b]) a.code = a := by first | exact Src.tripU ‹_› (immIsN ‹_›) | exact Src.tripU ‹_› (immIs ‹_› (by simp)) | exact Src.tripU ‹_› (immIsZ (by assumption) (by assumption)).1
  have hb : Src.ofU (immOf [a, b]) b.code = b := by first | exact Src.tripU ‹_› (immIsN ‹_›) | exact Src.tripU ‹_› (immIs ‹_› (by simp)) | exact Src.tripU ‹_› (immIsZ (by assumption) (by assumption)).2
  refine Eq.trans (b := some (.launchGrid c fl (Dst.ofCode d.code) (Src.ofU (immOf [a, b]) a.code) (Src.ofU (immOf [a, b]) b.code))) ?_ (by simp only [hd, ha, hb]; try rfl)
  rw [raw_decodeSys (by dsimp only; decide)]
  unfold decodeSys
  dsimp only [Instr.sameWord, Fields.dst, Fields.ua, Fields.ub]
  try simp (disch := omega) only [lo2, hi2, lo3, flMod, scMod, lowMod, cmbMod, ext_hi, ext_lo, bit_hi, bit_lo, Nat.reduceSub, Nat.sub_self, ext_all, bit_one, ext_wide, Option.bind_eq_bind, Option.bind_some, Flg.trip]
  all_goals first | rfl | (cases fl <;> first | rfl | exact absurd ‹(_ != _) = true› (by decide))
theorem waitv (c : Ctl) (cond : WCond) (p : Nat) (a : Src) (b : Src) (e : Src) : Statement (.waitv c cond p a b e) := by
  intro h
  refine decode_encode rfl rfl h ?_
  simp only [Instr.wellFormed, vv, uu, vvv, uuu, fvv, fuu, fvvv, fuuu, fv, fu, cmpOk, predsOk, Bool.and_eq_true, decide_eq_true_eq] at h
  replace h := And.intro h trivial
  try simp only [and_assoc] at h
  repeat (obtain ⟨_, h⟩ := h)
  have hp : (codeOf p).toNat = p := by exact codeOf_toNat (by omega)
  have ha : Src.ofU (immOf [a, b, e]) a.code = a := by first | exact Src.tripU ‹_› (immIsN ‹_›) | exact Src.tripU ‹_› (immIs ‹_› (by simp)) | exact Src.tripU ‹_› (immIsZ (by assumption) (by assumption)).1
  have hb : Src.ofU (immOf [a, b, e]) b.code = b := by first | exact Src.tripU ‹_› (immIsN ‹_›) | exact Src.tripU ‹_› (immIs ‹_› (by simp)) | exact Src.tripU ‹_› (immIsZ (by assumption) (by assumption)).2
  have he : Src.ofU (immOf [a, b, e]) e.code = e := by first | exact Src.tripU ‹_› (immIsN ‹_›) | exact Src.tripU ‹_› (immIs ‹_› (by simp)) | exact Src.tripU ‹_› (immIsZ (by assumption) (by assumption)).3
  refine Eq.trans (b := some (.waitv c cond ((codeOf p).toNat) (Src.ofU (immOf [a, b, e]) a.code) (Src.ofU (immOf [a, b, e]) b.code) (Src.ofU (immOf [a, b, e]) e.code))) ?_ (by simp only [hp, ha, hb, he]; try rfl)
  rw [raw_decodeSys (by dsimp only; decide)]
  unfold decodeSys
  dsimp only [Instr.sameWord, Fields.ua, Fields.ub, Fields.ue, Fields.nd]
  try simp (disch := omega) only [lo2, hi2, lo3, flMod, scMod, lowMod, cmbMod, ext_hi, ext_lo, bit_hi, bit_lo, Nat.reduceSub, Nat.sub_self, ext_all, bit_one, ext_wide, Option.bind_eq_bind, Option.bind_some, WCond.trip]
  all_goals first | rfl | (cases cond <;> first | rfl | exact absurd ‹(_ != _) = true› (by decide))
theorem setdl (c : Ctl) (a : Src) : Statement (.setdl c a) := by
  intro h
  refine decode_encode rfl rfl h ?_
  simp only [Instr.wellFormed, vv, uu, vvv, uuu, fvv, fuu, fvvv, fuuu, fv, fu, cmpOk, predsOk, Bool.and_eq_true, decide_eq_true_eq] at h
  replace h := And.intro h trivial
  try simp only [and_assoc] at h
  repeat (obtain ⟨_, h⟩ := h)
  have ha : Src.ofU (immOf [a]) a.code = a := by first | exact Src.tripU ‹_› (immIsN ‹_›) | exact Src.tripU ‹_› immIs1
  refine Eq.trans (b := some (.setdl c (Src.ofU (immOf [a]) a.code))) ?_ (by simp only [ha]; try rfl)
  rw [raw_decodeSys (by dsimp only; decide)]
  unfold decodeSys
  dsimp only [Instr.sameWord, Fields.ua]
  all_goals rfl
theorem getsr (c : Ctl) (d : Dst) (n : BitVec 12) : Statement (.getsr c d n) := by
  intro h
  refine decode_encode rfl rfl h ?_
  simp only [Instr.wellFormed, vv, uu, vvv, uuu, fvv, fuu, fvvv, fuuu, fv, fu, cmpOk, predsOk, Bool.and_eq_true, decide_eq_true_eq] at h
  replace h := And.intro h trivial
  try simp only [and_assoc] at h
  repeat (obtain ⟨_, h⟩ := h)
  have hd : Dst.ofCode d.code = d := by first | exact Dst.tripV ‹_› | exact Dst.tripU ‹_› | exact Dst.tripA ‹_›
  have hn : BitVec.extractLsb' 0 12 (n.setWidth 32) = n := by simp (disch := omega) only [lo2, lowMod, ext_hi, ext_lo, bit_hi, bit_lo, Nat.reduceSub, Nat.sub_self, ext_all, bit_one, ext_wide]
  refine Eq.trans (b := some (.getsr c (Dst.ofCode d.code) (BitVec.extractLsb' 0 12 (n.setWidth 32)))) ?_ (by simp only [hd, hn]; try rfl)
  rw [raw_decodeSys (by dsimp only; decide)]
  unfold decodeSys
  dsimp only [Instr.sameWord, Fields.dst]
  try simp (disch := omega) only [lo2, hi2, lo3, flMod, scMod, lowMod, cmbMod, ext_hi, ext_lo, bit_hi, bit_lo, Nat.reduceSub, Nat.sub_self, ext_all, bit_one, ext_wide, Option.bind_eq_bind, Option.bind_some]
  all_goals rfl
theorem setsr (c : Ctl) (n : BitVec 12) (a : Src) : Statement (.setsr c n a) := by
  intro h
  refine decode_encode rfl rfl h ?_
  simp only [Instr.wellFormed, vv, uu, vvv, uuu, fvv, fuu, fvvv, fuuu, fv, fu, cmpOk, predsOk, Bool.and_eq_true, decide_eq_true_eq] at h
  replace h := And.intro h trivial
  try simp only [and_assoc] at h
  repeat (obtain ⟨_, h⟩ := h)
  have hn : BitVec.extractLsb' 0 12 (n.setWidth 32) = n := by simp (disch := omega) only [lo2, lowMod, ext_hi, ext_lo, bit_hi, bit_lo, Nat.reduceSub, Nat.sub_self, ext_all, bit_one, ext_wide]
  have ha : Src.ofU (n.setWidth 32) a.code = a := by first | exact Src.tripU ‹_› (immIsN ‹_›)
  refine Eq.trans (b := some (.setsr c (BitVec.extractLsb' 0 12 (n.setWidth 32)) (Src.ofU (n.setWidth 32) a.code))) ?_ (by simp only [hn, ha]; try rfl)
  rw [raw_decodeSys (by dsimp only; decide)]
  unfold decodeSys
  dsimp only [Instr.sameWord, Fields.ua]
  try simp (disch := omega) only [lo2, hi2, lo3, flMod, scMod, lowMod, cmbMod, ext_hi, ext_lo, bit_hi, bit_lo, Nat.reduceSub, Nat.sub_self, ext_all, bit_one, ext_wide, Option.bind_eq_bind, Option.bind_some]
  all_goals rfl
theorem tlbinvAsid (c : Ctl) (a : Src) : Statement (.tlbinvAsid c a) := by
  intro h
  refine decode_encode rfl rfl h ?_
  simp only [Instr.wellFormed, vv, uu, vvv, uuu, fvv, fuu, fvvv, fuuu, fv, fu, cmpOk, predsOk, Bool.and_eq_true, decide_eq_true_eq] at h
  replace h := And.intro h trivial
  try simp only [and_assoc] at h
  repeat (obtain ⟨_, h⟩ := h)
  have ha : Src.ofU (immOf [a]) a.code = a := by first | exact Src.tripU ‹_› (immIsN ‹_›) | exact Src.tripU ‹_› immIs1
  refine Eq.trans (b := some (.tlbinvAsid c (Src.ofU (immOf [a]) a.code))) ?_ (by simp only [ha]; try rfl)
  rw [raw_decodeSys (by dsimp only; decide)]
  unfold decodeSys
  dsimp only [Instr.sameWord, Fields.ua]
  all_goals rfl
theorem tlbinvPage (c : Ctl) (a : Src) (b : Src) : Statement (.tlbinvPage c a b) := by
  intro h
  refine decode_encode rfl rfl h ?_
  simp only [Instr.wellFormed, vv, uu, vvv, uuu, fvv, fuu, fvvv, fuuu, fv, fu, cmpOk, predsOk, Bool.and_eq_true, decide_eq_true_eq] at h
  replace h := And.intro h trivial
  try simp only [and_assoc] at h
  repeat (obtain ⟨_, h⟩ := h)
  have ha : Src.ofU (immOf [a, b]) a.code = a := by first | exact Src.tripU ‹_› (immIsN ‹_›) | exact Src.tripU ‹_› (immIs ‹_› (by simp)) | exact Src.tripU ‹_› (immIsZ (by assumption) (by assumption)).1
  have hb : Src.ofU (immOf [a, b]) b.code = b := by first | exact Src.tripU ‹_› (immIsN ‹_›) | exact Src.tripU ‹_› (immIs ‹_› (by simp)) | exact Src.tripU ‹_› (immIsZ (by assumption) (by assumption)).2
  refine Eq.trans (b := some (.tlbinvPage c (Src.ofU (immOf [a, b]) a.code) (Src.ofU (immOf [a, b]) b.code))) ?_ (by simp only [ha, hb]; try rfl)
  rw [raw_decodeSys (by dsimp only; decide)]
  unfold decodeSys
  dsimp only [Instr.sameWord, Fields.ua, Fields.ub]
  all_goals rfl
theorem tlbinvSlice (c : Ctl) (a : Src) : Statement (.tlbinvSlice c a) := by
  intro h
  refine decode_encode rfl rfl h ?_
  simp only [Instr.wellFormed, vv, uu, vvv, uuu, fvv, fuu, fvvv, fuuu, fv, fu, cmpOk, predsOk, Bool.and_eq_true, decide_eq_true_eq] at h
  replace h := And.intro h trivial
  try simp only [and_assoc] at h
  repeat (obtain ⟨_, h⟩ := h)
  have ha : Src.ofU (immOf [a]) a.code = a := by first | exact Src.tripU ‹_› (immIsN ‹_›) | exact Src.tripU ‹_› immIs1
  refine Eq.trans (b := some (.tlbinvSlice c (Src.ofU (immOf [a]) a.code))) ?_ (by simp only [ha]; try rfl)
  rw [raw_decodeSys (by dsimp only; decide)]
  unfold decodeSys
  dsimp only [Instr.sameWord, Fields.ua]
  all_goals rfl
theorem xlat (c : Ctl) (fl : Flg) (d : Dst) (a : Src) (b : Src) : Statement (.xlat c fl d a b) := by
  intro h
  refine decode_encode rfl rfl h ?_
  simp only [Instr.wellFormed, vv, uu, vvv, uuu, fvv, fuu, fvvv, fuuu, fv, fu, cmpOk, predsOk, Bool.and_eq_true, decide_eq_true_eq] at h
  replace h := And.intro h trivial
  try simp only [and_assoc] at h
  repeat (obtain ⟨_, h⟩ := h)
  have hd : Dst.ofCode d.code = d := by first | exact Dst.tripV ‹_› | exact Dst.tripU ‹_› | exact Dst.tripA ‹_›
  have ha : Src.ofU (immOf [a, b]) a.code = a := by first | exact Src.tripU ‹_› (immIsN ‹_›) | exact Src.tripU ‹_› (immIs ‹_› (by simp)) | exact Src.tripU ‹_› (immIsZ (by assumption) (by assumption)).1
  have hb : Src.ofU (immOf [a, b]) b.code = b := by first | exact Src.tripU ‹_› (immIsN ‹_›) | exact Src.tripU ‹_› (immIs ‹_› (by simp)) | exact Src.tripU ‹_› (immIsZ (by assumption) (by assumption)).2
  refine Eq.trans (b := some (.xlat c fl (Dst.ofCode d.code) (Src.ofU (immOf [a, b]) a.code) (Src.ofU (immOf [a, b]) b.code))) ?_ (by simp only [hd, ha, hb]; try rfl)
  rw [raw_decodeSys (by dsimp only; decide)]
  unfold decodeSys
  dsimp only [Instr.sameWord, Fields.dst, Fields.ua, Fields.ub]
  try simp (disch := omega) only [lo2, hi2, lo3, flMod, scMod, lowMod, cmbMod, ext_hi, ext_lo, bit_hi, bit_lo, Nat.reduceSub, Nat.sub_self, ext_all, bit_one, ext_wide, Option.bind_eq_bind, Option.bind_some, Flg.trip]
  all_goals first | rfl | (cases fl <;> first | rfl | exact absurd ‹(_ != _) = true› (by decide))
theorem dbgStop (c : Ctl) (d : Dst) (a : Src) : Statement (.dbgStop c d a) := by
  intro h
  refine decode_encode rfl rfl h ?_
  simp only [Instr.wellFormed, vv, uu, vvv, uuu, fvv, fuu, fvvv, fuuu, fv, fu, cmpOk, predsOk, Bool.and_eq_true, decide_eq_true_eq] at h
  replace h := And.intro h trivial
  try simp only [and_assoc] at h
  repeat (obtain ⟨_, h⟩ := h)
  have hd : Dst.ofCode d.code = d := by first | exact Dst.tripV ‹_› | exact Dst.tripU ‹_› | exact Dst.tripA ‹_›
  have ha : Src.ofU 0#32 a.code = a := by first | exact Src.tripU ‹_› (immIsN ‹_›)
  refine Eq.trans (b := some (.dbgStop c (Dst.ofCode d.code) (Src.ofU 0#32 a.code))) ?_ (by simp only [hd, ha]; try rfl)
  rw [raw_decodeSys (by dsimp only; decide)]
  unfold decodeSys
  dsimp only [Instr.sameWord, Fields.dst, Fields.ua]
  all_goals rfl
theorem dbgResume (c : Ctl) (d : Dst) (a : Src) : Statement (.dbgResume c d a) := by
  intro h
  refine decode_encode rfl rfl h ?_
  simp only [Instr.wellFormed, vv, uu, vvv, uuu, fvv, fuu, fvvv, fuuu, fv, fu, cmpOk, predsOk, Bool.and_eq_true, decide_eq_true_eq] at h
  replace h := And.intro h trivial
  try simp only [and_assoc] at h
  repeat (obtain ⟨_, h⟩ := h)
  have hd : Dst.ofCode d.code = d := by first | exact Dst.tripV ‹_› | exact Dst.tripU ‹_› | exact Dst.tripA ‹_›
  have ha : Src.ofU 0#32 a.code = a := by first | exact Src.tripU ‹_› (immIsN ‹_›)
  refine Eq.trans (b := some (.dbgResume c (Dst.ofCode d.code) (Src.ofU 0#32 a.code))) ?_ (by simp only [hd, ha]; try rfl)
  rw [raw_decodeSys (by dsimp only; decide)]
  unfold decodeSys
  dsimp only [Instr.sameWord, Fields.dst, Fields.ua]
  all_goals rfl
theorem dbgRd (c : Ctl) (file : BitVec 4) (r : BitVec 8) (d : Dst) (a : Src) : Statement (.dbgRd c file r d a) := by
  intro h
  refine decode_encode rfl rfl h ?_
  simp only [Instr.wellFormed, vv, uu, vvv, uuu, fvv, fuu, fvvv, fuuu, fv, fu, cmpOk, predsOk, Bool.and_eq_true, decide_eq_true_eq] at h
  replace h := And.intro h trivial
  try simp only [and_assoc] at h
  repeat (obtain ⟨_, h⟩ := h)
  have hfile : BitVec.extractLsb' 20 4 (0#8 ++ file ++ 0#12 ++ r) = file := by simp (disch := omega) only [lo2, lowMod, ext_hi, ext_lo, bit_hi, bit_lo, Nat.reduceSub, Nat.sub_self, ext_all, bit_one, ext_wide]
  have hr : BitVec.extractLsb' 0 8 (0#8 ++ file ++ 0#12 ++ r) = r := by simp (disch := omega) only [lo2, lowMod, ext_hi, ext_lo, bit_hi, bit_lo, Nat.reduceSub, Nat.sub_self, ext_all, bit_one, ext_wide]
  have hd : Dst.ofCode d.code = d := by first | exact Dst.tripV ‹_› | exact Dst.tripU ‹_› | exact Dst.tripA ‹_›
  have ha : Src.ofU (0#8 ++ file ++ 0#12 ++ r) a.code = a := by first | exact Src.tripU ‹_› (immIsN ‹_›)
  refine Eq.trans (b := some (.dbgRd c (BitVec.extractLsb' 20 4 (0#8 ++ file ++ 0#12 ++ r)) (BitVec.extractLsb' 0 8 (0#8 ++ file ++ 0#12 ++ r)) (Dst.ofCode d.code) (Src.ofU (0#8 ++ file ++ 0#12 ++ r) a.code))) ?_ (by simp only [hfile, hr, hd, ha]; try rfl)
  rw [raw_decodeSys (by dsimp only; decide)]
  unfold decodeSys
  dsimp only [Instr.sameWord, Fields.dst, Fields.ua]
  try simp (disch := omega) only [lo2, hi2, lo3, flMod, scMod, lowMod, cmbMod, ext_hi, ext_lo, bit_hi, bit_lo, Nat.reduceSub, Nat.sub_self, ext_all, bit_one, ext_wide, Option.bind_eq_bind, Option.bind_some]
  all_goals rfl
theorem dbgWr (c : Ctl) (file : BitVec 4) (r : BitVec 8) (d : Dst) (a : Src) (b : Src) : Statement (.dbgWr c file r d a b) := by
  intro h
  refine decode_encode rfl rfl h ?_
  simp only [Instr.wellFormed, vv, uu, vvv, uuu, fvv, fuu, fvvv, fuuu, fv, fu, cmpOk, predsOk, Bool.and_eq_true, decide_eq_true_eq] at h
  replace h := And.intro h trivial
  try simp only [and_assoc] at h
  repeat (obtain ⟨_, h⟩ := h)
  have hfile : BitVec.extractLsb' 20 4 (0#8 ++ file ++ 0#12 ++ r) = file := by simp (disch := omega) only [lo2, lowMod, ext_hi, ext_lo, bit_hi, bit_lo, Nat.reduceSub, Nat.sub_self, ext_all, bit_one, ext_wide]
  have hr : BitVec.extractLsb' 0 8 (0#8 ++ file ++ 0#12 ++ r) = r := by simp (disch := omega) only [lo2, lowMod, ext_hi, ext_lo, bit_hi, bit_lo, Nat.reduceSub, Nat.sub_self, ext_all, bit_one, ext_wide]
  have hd : Dst.ofCode d.code = d := by first | exact Dst.tripV ‹_› | exact Dst.tripU ‹_› | exact Dst.tripA ‹_›
  have ha : Src.ofU (0#8 ++ file ++ 0#12 ++ r) a.code = a := by first | exact Src.tripU ‹_› (immIsN ‹_›)
  have hb : Src.ofU (0#8 ++ file ++ 0#12 ++ r) b.code = b := by first | exact Src.tripU ‹_› (immIsN ‹_›)
  refine Eq.trans (b := some (.dbgWr c (BitVec.extractLsb' 20 4 (0#8 ++ file ++ 0#12 ++ r)) (BitVec.extractLsb' 0 8 (0#8 ++ file ++ 0#12 ++ r)) (Dst.ofCode d.code) (Src.ofU (0#8 ++ file ++ 0#12 ++ r) a.code) (Src.ofU (0#8 ++ file ++ 0#12 ++ r) b.code))) ?_ (by simp only [hfile, hr, hd, ha, hb]; try rfl)
  rw [raw_decodeSys (by dsimp only; decide)]
  unfold decodeSys
  dsimp only [Instr.sameWord, Fields.dst, Fields.ua, Fields.ub]
  try simp (disch := omega) only [lo2, hi2, lo3, flMod, scMod, lowMod, cmbMod, ext_hi, ext_lo, bit_hi, bit_lo, Nat.reduceSub, Nat.sub_self, ext_all, bit_one, ext_wide, Option.bind_eq_bind, Option.bind_some]
  all_goals rfl
theorem dbgWrForce (c : Ctl) (file : BitVec 4) (r : BitVec 8) (d : Dst) (a : Src) (b : Src) : Statement (.dbgWrForce c file r d a b) := by
  intro h
  refine decode_encode rfl rfl h ?_
  simp only [Instr.wellFormed, vv, uu, vvv, uuu, fvv, fuu, fvvv, fuuu, fv, fu, cmpOk, predsOk, Bool.and_eq_true, decide_eq_true_eq] at h
  replace h := And.intro h trivial
  try simp only [and_assoc] at h
  repeat (obtain ⟨_, h⟩ := h)
  have hfile : BitVec.extractLsb' 20 4 (0#8 ++ file ++ 0#12 ++ r) = file := by simp (disch := omega) only [lo2, lowMod, ext_hi, ext_lo, bit_hi, bit_lo, Nat.reduceSub, Nat.sub_self, ext_all, bit_one, ext_wide]
  have hr : BitVec.extractLsb' 0 8 (0#8 ++ file ++ 0#12 ++ r) = r := by simp (disch := omega) only [lo2, lowMod, ext_hi, ext_lo, bit_hi, bit_lo, Nat.reduceSub, Nat.sub_self, ext_all, bit_one, ext_wide]
  have hd : Dst.ofCode d.code = d := by first | exact Dst.tripV ‹_› | exact Dst.tripU ‹_› | exact Dst.tripA ‹_›
  have ha : Src.ofU (0#8 ++ file ++ 0#12 ++ r) a.code = a := by first | exact Src.tripU ‹_› (immIsN ‹_›)
  have hb : Src.ofU (0#8 ++ file ++ 0#12 ++ r) b.code = b := by first | exact Src.tripU ‹_› (immIsN ‹_›)
  refine Eq.trans (b := some (.dbgWrForce c (BitVec.extractLsb' 20 4 (0#8 ++ file ++ 0#12 ++ r)) (BitVec.extractLsb' 0 8 (0#8 ++ file ++ 0#12 ++ r)) (Dst.ofCode d.code) (Src.ofU (0#8 ++ file ++ 0#12 ++ r) a.code) (Src.ofU (0#8 ++ file ++ 0#12 ++ r) b.code))) ?_ (by simp only [hfile, hr, hd, ha, hb]; try rfl)
  rw [raw_decodeSys (by dsimp only; decide)]
  unfold decodeSys
  dsimp only [Instr.sameWord, Fields.dst, Fields.ua, Fields.ub]
  try simp (disch := omega) only [lo2, hi2, lo3, flMod, scMod, lowMod, cmbMod, ext_hi, ext_lo, bit_hi, bit_lo, Nat.reduceSub, Nat.sub_self, ext_all, bit_one, ext_wide, Option.bind_eq_bind, Option.bind_some]
  all_goals rfl
theorem dbgActResume (c : Ctl) (d : Dst) (a : Src) (b : Src) : Statement (.dbgActResume c d a b) := by
  intro h
  refine decode_encode rfl rfl h ?_
  simp only [Instr.wellFormed, vv, uu, vvv, uuu, fvv, fuu, fvvv, fuuu, fv, fu, cmpOk, predsOk, Bool.and_eq_true, decide_eq_true_eq] at h
  replace h := And.intro h trivial
  try simp only [and_assoc] at h
  repeat (obtain ⟨_, h⟩ := h)
  have hd : Dst.ofCode d.code = d := by first | exact Dst.tripV ‹_› | exact Dst.tripU ‹_› | exact Dst.tripA ‹_›
  have ha : Src.ofU 0#32 a.code = a := by first | exact Src.tripU ‹_› (immIsN ‹_›)
  have hb : Src.ofU 0#32 b.code = b := by first | exact Src.tripU ‹_› (immIsN ‹_›)
  refine Eq.trans (b := some (.dbgActResume c (Dst.ofCode d.code) (Src.ofU 0#32 a.code) (Src.ofU 0#32 b.code))) ?_ (by simp only [hd, ha, hb]; try rfl)
  rw [raw_decodeSys (by dsimp only; decide)]
  unfold decodeSys
  dsimp only [Instr.sameWord, Fields.dst, Fields.ua, Fields.ub]
  all_goals rfl
theorem dbgActExit (c : Ctl) (d : Dst) (a : Src) (b : Src) : Statement (.dbgActExit c d a b) := by
  intro h
  refine decode_encode rfl rfl h ?_
  simp only [Instr.wellFormed, vv, uu, vvv, uuu, fvv, fuu, fvvv, fuuu, fv, fu, cmpOk, predsOk, Bool.and_eq_true, decide_eq_true_eq] at h
  replace h := And.intro h trivial
  try simp only [and_assoc] at h
  repeat (obtain ⟨_, h⟩ := h)
  have hd : Dst.ofCode d.code = d := by first | exact Dst.tripV ‹_› | exact Dst.tripU ‹_› | exact Dst.tripA ‹_›
  have ha : Src.ofU 0#32 a.code = a := by first | exact Src.tripU ‹_› (immIsN ‹_›)
  have hb : Src.ofU 0#32 b.code = b := by first | exact Src.tripU ‹_› (immIsN ‹_›)
  refine Eq.trans (b := some (.dbgActResume c (Dst.ofCode d.code) (Src.ofU 0#32 a.code) (Src.ofU 0#32 b.code))) ?_ (by simp only [hd, ha, hb]; try rfl)
  rw [raw_decodeSys (by dsimp only; decide)]
  unfold decodeSys
  dsimp only [Instr.sameWord, Fields.dst, Fields.ua, Fields.ub]
  all_goals rfl
theorem endgrid (c : Ctl) (d : Dst) (a : Src) (b : Src) : Statement (.endgrid c d a b) := by
  intro h
  refine decode_encode rfl rfl h ?_
  simp only [Instr.wellFormed, vv, uu, vvv, uuu, fvv, fuu, fvvv, fuuu, fv, fu, cmpOk, predsOk, Bool.and_eq_true, decide_eq_true_eq] at h
  replace h := And.intro h trivial
  try simp only [and_assoc] at h
  repeat (obtain ⟨_, h⟩ := h)
  have hd : Dst.ofCode d.code = d := by first | exact Dst.tripV ‹_› | exact Dst.tripU ‹_› | exact Dst.tripA ‹_›
  have ha : Src.ofU 0#32 a.code = a := by first | exact Src.tripU ‹_› (immIsN ‹_›)
  have hb : Src.ofU 0#32 b.code = b := by first | exact Src.tripU ‹_› (immIsN ‹_›)
  refine Eq.trans (b := some (.dbgActResume c (Dst.ofCode d.code) (Src.ofU 0#32 a.code) (Src.ofU 0#32 b.code))) ?_ (by simp only [hd, ha, hb]; try rfl)
  rw [raw_decodeSys (by dsimp only; decide)]
  unfold decodeSys
  dsimp only [Instr.sameWord, Fields.dst, Fields.ua, Fields.ub]
  all_goals rfl
theorem collAllreduce (c : Ctl) (fl : Flg) (d : Dst) (a : Src) : Statement (.collAllreduce c fl d a) := by
  intro h
  refine decode_encode rfl rfl h ?_
  simp only [Instr.wellFormed, vv, uu, vvv, uuu, fvv, fuu, fvvv, fuuu, fv, fu, cmpOk, predsOk, Bool.and_eq_true, decide_eq_true_eq] at h
  replace h := And.intro h trivial
  try simp only [and_assoc] at h
  repeat (obtain ⟨_, h⟩ := h)
  have hd : Dst.ofCode d.code = d := by first | exact Dst.tripV ‹_› | exact Dst.tripU ‹_› | exact Dst.tripA ‹_›
  have ha : Src.ofU (immOf [a]) a.code = a := by first | exact Src.tripU ‹_› (immIsN ‹_›) | exact Src.tripU ‹_› immIs1
  refine Eq.trans (b := some (.collAllreduce c fl (Dst.ofCode d.code) (Src.ofU (immOf [a]) a.code))) ?_ (by simp only [hd, ha]; try rfl)
  rw [raw_decodeSys (by dsimp only; decide)]
  unfold decodeSys
  dsimp only [Instr.sameWord, Fields.dst, Fields.ua]
  try simp (disch := omega) only [lo2, hi2, lo3, flMod, scMod, lowMod, cmbMod, ext_hi, ext_lo, bit_hi, bit_lo, Nat.reduceSub, Nat.sub_self, ext_all, bit_one, ext_wide, Option.bind_eq_bind, Option.bind_some, Flg.trip]
  all_goals first | rfl | (cases fl <;> first | rfl | exact absurd ‹(_ != _) = true› (by decide))
theorem collAllgather (c : Ctl) (fl : Flg) (d : Dst) (a : Src) : Statement (.collAllgather c fl d a) := by
  intro h
  refine decode_encode rfl rfl h ?_
  simp only [Instr.wellFormed, vv, uu, vvv, uuu, fvv, fuu, fvvv, fuuu, fv, fu, cmpOk, predsOk, Bool.and_eq_true, decide_eq_true_eq] at h
  replace h := And.intro h trivial
  try simp only [and_assoc] at h
  repeat (obtain ⟨_, h⟩ := h)
  have hd : Dst.ofCode d.code = d := by first | exact Dst.tripV ‹_› | exact Dst.tripU ‹_› | exact Dst.tripA ‹_›
  have ha : Src.ofU (immOf [a]) a.code = a := by first | exact Src.tripU ‹_› (immIsN ‹_›) | exact Src.tripU ‹_› immIs1
  refine Eq.trans (b := some (.collAllgather c fl (Dst.ofCode d.code) (Src.ofU (immOf [a]) a.code))) ?_ (by simp only [hd, ha]; try rfl)
  rw [raw_decodeSys (by dsimp only; decide)]
  unfold decodeSys
  dsimp only [Instr.sameWord, Fields.dst, Fields.ua]
  try simp (disch := omega) only [lo2, hi2, lo3, flMod, scMod, lowMod, cmbMod, ext_hi, ext_lo, bit_hi, bit_lo, Nat.reduceSub, Nat.sub_self, ext_all, bit_one, ext_wide, Option.bind_eq_bind, Option.bind_some, Flg.trip]
  all_goals first | rfl | (cases fl <;> first | rfl | exact absurd ‹(_ != _) = true› (by decide))
theorem collRedscat (c : Ctl) (fl : Flg) (d : Dst) (a : Src) : Statement (.collRedscat c fl d a) := by
  intro h
  refine decode_encode rfl rfl h ?_
  simp only [Instr.wellFormed, vv, uu, vvv, uuu, fvv, fuu, fvvv, fuuu, fv, fu, cmpOk, predsOk, Bool.and_eq_true, decide_eq_true_eq] at h
  replace h := And.intro h trivial
  try simp only [and_assoc] at h
  repeat (obtain ⟨_, h⟩ := h)
  have hd : Dst.ofCode d.code = d := by first | exact Dst.tripV ‹_› | exact Dst.tripU ‹_› | exact Dst.tripA ‹_›
  have ha : Src.ofU (immOf [a]) a.code = a := by first | exact Src.tripU ‹_› (immIsN ‹_›) | exact Src.tripU ‹_› immIs1
  refine Eq.trans (b := some (.collRedscat c fl (Dst.ofCode d.code) (Src.ofU (immOf [a]) a.code))) ?_ (by simp only [hd, ha]; try rfl)
  rw [raw_decodeSys (by dsimp only; decide)]
  unfold decodeSys
  dsimp only [Instr.sameWord, Fields.dst, Fields.ua]
  try simp (disch := omega) only [lo2, hi2, lo3, flMod, scMod, lowMod, cmbMod, ext_hi, ext_lo, bit_hi, bit_lo, Nat.reduceSub, Nat.sub_self, ext_all, bit_one, ext_wide, Option.bind_eq_bind, Option.bind_some, Flg.trip]
  all_goals first | rfl | (cases fl <;> first | rfl | exact absurd ‹(_ != _) = true› (by decide))
theorem collBcast (c : Ctl) (fl : Flg) (d : Dst) (a : Src) : Statement (.collBcast c fl d a) := by
  intro h
  refine decode_encode rfl rfl h ?_
  simp only [Instr.wellFormed, vv, uu, vvv, uuu, fvv, fuu, fvvv, fuuu, fv, fu, cmpOk, predsOk, Bool.and_eq_true, decide_eq_true_eq] at h
  replace h := And.intro h trivial
  try simp only [and_assoc] at h
  repeat (obtain ⟨_, h⟩ := h)
  have hd : Dst.ofCode d.code = d := by first | exact Dst.tripV ‹_› | exact Dst.tripU ‹_› | exact Dst.tripA ‹_›
  have ha : Src.ofU (immOf [a]) a.code = a := by first | exact Src.tripU ‹_› (immIsN ‹_›) | exact Src.tripU ‹_› immIs1
  refine Eq.trans (b := some (.collBcast c fl (Dst.ofCode d.code) (Src.ofU (immOf [a]) a.code))) ?_ (by simp only [hd, ha]; try rfl)
  rw [raw_decodeSys (by dsimp only; decide)]
  unfold decodeSys
  dsimp only [Instr.sameWord, Fields.dst, Fields.ua]
  try simp (disch := omega) only [lo2, hi2, lo3, flMod, scMod, lowMod, cmbMod, ext_hi, ext_lo, bit_hi, bit_lo, Nat.reduceSub, Nat.sub_self, ext_all, bit_one, ext_wide, Option.bind_eq_bind, Option.bind_some, Flg.trip]
  all_goals first | rfl | (cases fl <;> first | rfl | exact absurd ‹(_ != _) = true› (by decide))
theorem clauseStart (t : Nat) (g : Nat) (m : Mask) : Statement (.clauseStart t g m) := by intro h; cases h
theorem rejoinRelease (t : Nat) (g : Nat) (j : Nat) : Statement (.rejoinRelease t g j) := by intro h; cases h
theorem rejoinTimeout (t : Nat) (g : Nat) : Statement (.rejoinTimeout t g) := by intro h; cases h
theorem rejoinDeadlock (t : Nat) (g : Nat) : Statement (.rejoinDeadlock t g) := by intro h; cases h
theorem barWaitComplete (t : Nat) (g : Nat) (h : Nat) : Statement (.barWaitComplete t g h) := by intro h; cases h
theorem chresGrant (t : Nat) (g : Nat) (h : Nat) : Statement (.chresGrant t g h) := by intro h; cases h
theorem chtakeGrant (t : Nat) (g : Nat) (h : Nat) : Statement (.chtakeGrant t g h) := by intro h; cases h
theorem engineByteCount (op : Nat) (off : Nat) (n : Nat) : Statement (.engineByteCount op off n) := by intro h; cases h
theorem accessCheck (op : Nat) : Statement (.accessCheck op) := by intro h; cases h
theorem lateFaultPark (t : Nat) (g : Nat) : Statement (.lateFaultPark t g) := by intro h; cases h
theorem poisonFound (op : Nat) : Statement (.poisonFound op) := by intro h; cases h
theorem poisonPark (t : Nat) (g : Nat) : Statement (.poisonPark t g) := by intro h; cases h
theorem loadCompletion (op : Nat) (asOf : Nat) : Statement (.loadCompletion op asOf) := by intro h; cases h
theorem storeCompletion (op : Nat) : Statement (.storeCompletion op) := by intro h; cases h
theorem atomicCompletion (op : Nat) : Statement (.atomicCompletion op) := by intro h; cases h
theorem reductionCompletion (op : Nat) : Statement (.reductionCompletion op) := by intro h; cases h
theorem pinCompletion (op : Nat) : Statement (.pinCompletion op) := by intro h; cases h
theorem mmaAccumulate (op : Nat) : Statement (.mmaAccumulate op) := by intro h; cases h
theorem drainCompletion (op : Nat) : Statement (.drainCompletion op) := by intro h; cases h
theorem routerDispatch (t : Nat) (ch : Nat) : Statement (.routerDispatch t ch) := by intro h; cases h
theorem crecvTake (op : Nat) : Statement (.crecvTake op) := by intro h; cases h
theorem tokWaitDrained (t : Nat) (g : Nat) (h : Nat) : Statement (.tokWaitDrained t g h) := by intro h; cases h
theorem cbarWaitComplete (t : Nat) (g : Nat) (h : Nat) : Statement (.cbarWaitComplete t g h) := by intro h; cases h
theorem queueDepthExchange (cl : Nat) : Statement (.queueDepthExchange cl) := by intro h; cases h
theorem binnerCall (call : Nat) : Statement (.binnerCall call) := by intro h; cases h
theorem rasteriserCall (call : Nat) : Statement (.rasteriserCall call) := by intro h; cases h
theorem streamBind (call : Nat) : Statement (.streamBind call) := by intro h; cases h
theorem streamClear (call : Nat) : Statement (.streamClear call) := by intro h; cases h
theorem depthStencilCommit (call : Nat) : Statement (.depthStencilCommit call) := by intro h; cases h
theorem blendCommit (call : Nat) : Statement (.blendCommit call) := by intro h; cases h
theorem tessellatorCall (call : Nat) : Statement (.tessellatorCall call) := by intro h; cases h
theorem textureCall (call : Nat) : Statement (.textureCall call) := by intro h; cases h
theorem traceRays (call : Nat) : Statement (.traceRays call) := by intro h; cases h
theorem verdict (call : Nat) : Statement (.verdict call) := by intro h; cases h
theorem encoderConfig (call : Nat) : Statement (.encoderConfig call) := by intro h; cases h
theorem encoderEncode (call : Nat) : Statement (.encoderEncode call) := by intro h; cases h
theorem waitvTest (t : Nat) (g : Nat) (h : Nat) : Statement (.waitvTest t g h) := by intro h; cases h
theorem waitvTimeout (t : Nat) (g : Nat) (h : Nat) : Statement (.waitvTimeout t g h) := by intro h; cases h
theorem queueTake (sl : Nat) (qid : Nat) : Statement (.queueTake sl qid) := by intro h; cases h
theorem bestEffortFill (sl : Nat) (die : Nat) : Statement (.bestEffortFill sl die) := by intro h; cases h
theorem teamAdmit (sl : Nat) (die : Nat) : Statement (.teamAdmit sl die) := by intro h; cases h
theorem teamPreempt (sl : Nat) (die : Nat) : Statement (.teamPreempt sl die) := by intro h; cases h
theorem registerCacheAllocate (core : Nat) (t : Nat) (line : Nat) : Statement (.registerCacheAllocate core t line) := by intro h; cases h
theorem displayTrigger (gr : Nat) : Statement (.displayTrigger gr) := by intro h; cases h
theorem idleSwap (t : Nat) : Statement (.idleSwap t) := by intro h; cases h
theorem teamWake (t : Nat) : Statement (.teamWake t) := by intro h; cases h
theorem faultRecordDelivery (sl : Nat) (die : Nat) (kind : Nat) (src : Nat) : Statement (.faultRecordDelivery sl die kind src) := by intro h; cases h
theorem collectiveCompletion (op : Nat) : Statement (.collectiveCompletion op) := by intro h; cases h
theorem remoteRequest (id : Nat) : Statement (.remoteRequest id) := by intro h; cases h
theorem remoteTimeout (op : Nat) : Statement (.remoteTimeout op) := by intro h; cases h
theorem flitCrcFail (port : Nat) : Statement (.flitCrcFail port) := by intro h; cases h
theorem portLaneLoss (port : Nat) (lanes : Nat) : Statement (.portLaneLoss port lanes) := by intro h; cases h
theorem portUpChange (port : Nat) (up : Bool) (lanes : Nat) (peer : Nat) : Statement (.portUpChange port up lanes peer) := by intro h; cases h
theorem cmdTail (sl : Nat) (v : Word) : Statement (.cmdTail sl v) := by intro h; cases h
theorem launchCmd (sl : Nat) : Statement (.launchCmd sl) := by intro h; cases h
theorem write32 (sl : Nat) : Statement (.write32 sl) := by intro h; cases h
theorem wait32 (sl : Nat) : Statement (.wait32 sl) := by intro h; cases h
theorem wait32Satisfied (sl : Nat) (n : Nat) : Statement (.wait32Satisfied sl n) := by intro h; cases h
theorem nopCmd (sl : Nat) : Statement (.nopCmd sl) := by intro h; cases h
theorem bindQueue  : Statement (.bindQueue ) := by intro h; cases h
theorem unbindQueue  : Statement (.unbindQueue ) := by intro h; cases h
theorem reshape  : Statement (.reshape ) := by intro h; cases h
theorem lease  : Statement (.lease ) := by intro h; cases h
theorem leaseEnd  : Statement (.leaseEnd ) := by intro h; cases h
theorem leaseTermExpiry (core : Nat) : Statement (.leaseTermExpiry core) := by intro h; cases h
theorem collgrp  : Statement (.collgrp ) := by intro h; cases h
theorem remap  : Statement (.remap ) := by intro h; cases h
theorem unremap  : Statement (.unremap ) := by intro h; cases h
theorem sliceReset (sl : Nat) : Statement (.sliceReset sl) := by intro h; cases h
theorem sliceResetDone (sl : Nat) : Statement (.sliceResetDone sl) := by intro h; cases h
theorem sliceFreeze (sl : Nat) : Statement (.sliceFreeze sl) := by intro h; cases h
theorem freezeComplete (sl : Nat) : Statement (.freezeComplete sl) := by intro h; cases h
theorem sliceThaw (sl : Nat) : Statement (.sliceThaw sl) := by intro h; cases h
theorem vfFlr (sl : Nat) : Statement (.vfFlr sl) := by intro h; cases h
theorem pfFlr  : Statement (.pfFlr ) := by intro h; cases h
theorem deviceReset  : Statement (.deviceReset ) := by intro h; cases h
theorem getVersion (req : List Byte) : Statement (.getVersion req) := by intro h; cases h
theorem getCapabilities (req : List Byte) : Statement (.getCapabilities req) := by intro h; cases h
theorem negotiateAlgorithms (req : List Byte) : Statement (.negotiateAlgorithms req) := by intro h; cases h
theorem getDigests (req : List Byte) : Statement (.getDigests req) := by intro h; cases h
theorem getCertificate (req : List Byte) : Statement (.getCertificate req) := by intro h; cases h
theorem challenge (req : List Byte) : Statement (.challenge req) := by intro h; cases h
theorem getMeasurements (blocks : List Nat) : Statement (.getMeasurements blocks) := by intro h; cases h
theorem unsupportedRequest (req : List Byte) : Statement (.unsupportedRequest req) := by intro h; cases h
theorem mrExtend (ix : BitVec 3) : Statement (.mrExtend ix) := by intro h; cases h
theorem mrExtendDone  : Statement (.mrExtendDone ) := by intro h; cases h
theorem memCrcError (ch : Nat) (retries : Nat) : Statement (.memCrcError ch retries) := by intro h; cases h
theorem channelRetrain (ch : Nat) (ok : Bool) : Statement (.channelRetrain ch ok) := by intro h; cases h
theorem correctedError (ch : Nat) : Statement (.correctedError ch) := by intro h; cases h
theorem uncorrectableError (pa : Nat) : Statement (.uncorrectableError pa) := by intro h; cases h
theorem patrolScrub (ch : Nat) (ce : Nat) (ue : List Nat) : Statement (.patrolScrub ch ce ue) := by intro h; cases h
theorem powerWindow (watts : Nat) : Statement (.powerWindow watts) := by intro h; cases h
theorem droopStretch (cl : Nat) : Statement (.droopStretch cl) := by intro h; cases h
theorem droopRelease (cl : Nat) : Statement (.droopRelease cl) := by intro h; cases h
theorem fmtWrite (n : BitVec 2) (v : Word) : Statement (.fmtWrite n v) := by intro h; cases h
theorem fpCtlWrite (v : Word) : Statement (.fpCtlWrite v) := by intro h; cases h
theorem fpStatusClear (v : Word) : Statement (.fpStatusClear v) := by intro h; cases h
theorem pinQuotaWrite (sl : Nat) (cl : Nat) (v : Word) : Statement (.pinQuotaWrite sl cl v) := by intro h; cases h
theorem clReorderWrite (sl : Nat) (cl : Nat) (v : Word) : Statement (.clReorderWrite sl cl v) := by intro h; cases h
theorem clWaysWrite (sl : Nat) (cl : Nat) (v : Word) : Statement (.clWaysWrite sl cl v) := by intro h; cases h
theorem frHeadWrite (sl : Nat) (die : Nat) (v : Word) : Statement (.frHeadWrite sl die v) := by intro h; cases h
theorem frBaseWrite (sl : Nat) (die : Nat) (hi : Bool) (v : Word) : Statement (.frBaseWrite sl die hi v) := by intro h; cases h
theorem frTailRead (d : Dst) : Statement (.frTailRead d) := by intro h; cases h
theorem cmdCtlWrite (sl : Nat) (v : Word) : Statement (.cmdCtlWrite sl v) := by intro h; cases h
theorem memStatClear (v : Word) : Statement (.memStatClear v) := by intro h; cases h
theorem pwrCapWrite (v : Word) : Statement (.pwrCapWrite v) := by intro h; cases h
theorem domCtlWrite (v : Word) : Statement (.domCtlWrite v) := by intro h; cases h
theorem domExpcntWrite (v : Word) : Statement (.domExpcntWrite v) := by intro h; cases h
theorem memSelWrite (v : Word) : Statement (.memSelWrite v) := by intro h; cases h
theorem registerWrite (x : RegPlace) (priv : Bool) (n : BitVec 12) (v : Word) : Statement (.registerWrite x priv n v) := by intro h; cases h
theorem enqCompletion (op : Nat) : Statement (.enqCompletion op) := by intro h; cases h
theorem launchCompletion (op : Nat) : Statement (.launchCompletion op) := by intro h; cases h
theorem xlatCompletion (op : Nat) : Statement (.xlatCompletion op) := by intro h; cases h
theorem transitEntryReceived (gr : Nat) (k : Nat) : Statement (.transitEntryReceived gr k) := by intro h; cases h

end Sys2Proof.Laws.RoundTrip
end

