-- ==== Sys2Proof/Laws/Works.lean ====
section
/-!
SUPPORT. States in which the issuing group has its registers, lanes and records as they were: what flushing, publishing, adopting, holding
and a team's own changes leave of it; from there an instruction's completion follows.
-/
namespace Sys2Proof.Machine

/-- The group `b` holds for the path has the registers, lanes and records of `x.g`. -/
structure Same (x : Ctx) (b : State) (T : Team) (g : Group) : Prop where
  team : b.teams.find? x.cur.team = some T
  group : T.groups.find? x.cur.grp = some g
  lanes : g.lanes = x.g.lanes
  recs : g.recs = x.g.recs
  v : g.v = x.g.v
  preds : g.preds = x.g.preds
  jm : g.jm = x.g.jm
  fp : g.fpStatus = x.g.fpStatus
/-- The group is there as it was. -/
def Ctx.stands (x : Ctx) (b : State) : Prop := ∃ T g, Same x b T g

theorem Due.stands {i : Instr} {s : State} {x : Ctx} (h : Due i s x) : x.stands x.s := ⟨x.tm, x.g, h.team, h.group, rfl, rfl, rfl, rfl, rfl, rfl⟩
theorem Ctx.stands.group? {x : Ctx} {b : State} {T : Team} {g : Group} (h : Same x b T g) : b.group? x.cur.team x.cur.grp = some g := by
  simp [State.group?, State.team?, h.team, Team.group?, h.group]

/-- A state with the same teams. -/
theorem Ctx.stands.of_teams {x : Ctx} {b c : State} (h : x.stands b) (e : c.teams = b.teams) : x.stands c := by
  obtain ⟨T, g, h⟩ := h; exact ⟨T, g, ⟨e ▸ h.team, h.group, h.lanes, h.recs, h.v, h.preds, h.jm, h.fp⟩⟩
theorem Ctx.stands.setTeam_ne {x : Ctx} {b : State} (h : x.stands b) {t : Nat} (T' : Team) (ht : t ≠ x.cur.team) : x.stands (b.setTeam t T') := by
  obtain ⟨T, g, h⟩ := h
  exact ⟨T, g, by simp only [State.setTeam]; rw [SMap.find?_put_ne _ _ ht]; exact h.team, h.group, h.lanes, h.recs, h.v, h.preds, h.jm, h.fp⟩

/-- A change of one team that leaves its groups. -/
theorem Ctx.stands.setTeam {x : Ctx} {b : State} (h : x.stands b) {t : Nat} {T' : Team}
    (hT : t = x.cur.team → ∀ T, b.teams.find? t = some T → T'.groups = T.groups) : x.stands (b.setTeam t T') := by
  by_cases ht : t = x.cur.team
  · obtain ⟨T, g, h⟩ := h
    subst ht
    exact ⟨T', g, find?_setTeam .., by rw [hT rfl T h.team]; exact h.group, h.lanes, h.recs, h.v, h.preds, h.jm, h.fp⟩
  · exact h.setTeam_ne T' ht
theorem Ctx.stands.updTeam {x : Ctx} {b : State} (h : x.stands b) (t : Nat) {f : Team → Team} (hf : ∀ T, (f T).groups = T.groups) : x.stands (b.updTeam t f) := by
  unfold State.updTeam State.team?
  split
  · rename_i T hT
    exact h.setTeam fun _ T' hT' => by rw [hT] at hT'; cases hT'; exact hf _
  · exact h
theorem Ctx.stands.updGroup {x : Ctx} {b : State} (h : x.stands b) (t gi : Nat) {f : Group → Group}
    (hf : ∀ g, (f g).lanes = g.lanes ∧ (f g).recs = g.recs ∧ (f g).v = g.v ∧ (f g).preds = g.preds ∧ (f g).jm = g.jm ∧ (f g).fpStatus = g.fpStatus) :
    x.stands (b.updGroup t gi f) := by
  obtain ⟨T, g, h⟩ := h
  by_cases ht : t = x.cur.team
  · subst ht
    by_cases hg : gi = x.cur.grp
    · subst hg
      obtain ⟨h1, h2, h3, h4, h5, h6⟩ := hf g
      rw [updGroup_of h.team h.group]
      exact ⟨T.setGroup x.cur.grp (f g), f g, find?_setTeam .., find?_setGroup .., h1.trans h.lanes, h2.trans h.recs, h3.trans h.v, h4.trans h.preds,
        h5.trans h.jm, h6.trans h.fp⟩
    · unfold State.updGroup State.updTeam State.team?
      rw [h.team]
      simp only [Team.group?]
      split
      · exact ⟨_, g, find?_setTeam .., by simp only [Team.setGroup]; rw [SMap.find?_put_ne _ _ hg]; exact h.group,
          h.lanes, h.recs, h.v, h.preds, h.jm, h.fp⟩
      · exact ⟨T, g, find?_setTeam .., h.group, h.lanes, h.recs, h.v, h.preds, h.jm, h.fp⟩
  · unfold State.updGroup State.updTeam
    split
    · exact Ctx.stands.setTeam_ne ⟨T, g, h⟩ _ ht
    · exact ⟨T, g, h⟩

/-! ## Team accesses, publications, adopts -/

theorem twrite_tmem (T : Team) (a n v : Nat) : ∃ m, T.twrite a n v = { T with tmem := m } := ⟨_, rfl⟩
theorem tmem_trans {a b c : Team} (h : ∃ m, b = { a with tmem := m }) (k : ∃ m, c = { b with tmem := m }) : ∃ m, c = { a with tmem := m } := by
  obtain ⟨m, rfl⟩ := h; exact k
theorem setBar_tmem (x : Team) (t : Nat) (b : Bar) : ∃ m, x.setBar t b = { x with tmem := m } := by
  unfold Team.setBar
  exact tmem_trans (tmem_trans (tmem_trans (tmem_trans (twrite_tmem x t 4 b.phase) (twrite_tmem _ _ 2 b.init)) (twrite_tmem _ _ 2 b.left))
    (twrite_tmem _ _ 4 _)) (twrite_tmem _ _ 4 _)
/-- Barrier objects stand in team memory: completing phases changes nothing else. -/
theorem settleBars_tmem (T : Team) : ∃ m, T.settleBars = { T with tmem := m } := by
  have one : ∀ (c : Bool) (x : Team) (t : Nat) (b : Bar), ∃ m, (if c then x.setBar t b else x) = { x with tmem := m } := by
    intro c x t b; cases c
    · exact ⟨x.tmem, rfl⟩
    · exact setBar_tmem x t b
  have go : ∀ (l : List Nat) (x : Team), (∃ m, x = { T with tmem := m }) →
      ∃ m, l.foldl (fun x t => if (x.bar t).valid && (x.bar t).left == 0 && (x.bar t).bytes == 0 then x.setBar t (x.bar t).settle else x) x = { T with tmem := m } := by
    intro l
    induction l with
    | nil => exact fun x h => h
    | cons t l ih =>
      exact fun x h => ih _ (tmem_trans h (one ((x.bar t).valid && (x.bar t).left == 0 && (x.bar t).bytes == 0) x t (x.bar t).settle))
  exact go _ T ⟨T.tmem, rfl⟩
/-- The same of an object's first use. -/
theorem nameBar_groups (T : Team) (t : Nat) : (T.nameBar t).groups = T.groups := by
  unfold Team.nameBar
  split
  · rfl
  · obtain ⟨m, h⟩ := settleBars_tmem { T with bars := t :: T.bars }
    rw [h]
theorem settleBars_groups (T : Team) : T.settleBars.groups = T.groups := by obtain ⟨m, h⟩ := settleBars_tmem T; rw [h]
theorem performItems_groups (k : OpKind) (T : Team) (its : List Item) : (performItems k T its).1.groups = T.groups := by
  induction its generalizing T with
  | nil => rfl
  | cons it rest ih =>
    simp only [performItems]
    rw [ih]
    cases k
    case tstore => simp only [settleBars_groups, Team.twrite]
    case tatomic op w =>
      simp only
      split
      · simp only [settleBars_groups, Team.twrite]
      · rfl
    all_goals rfl
theorem Ctx.stands.performTeam {x : Ctx} {b : State} (h : x.stands b) (o : Op) : x.stands (b.performTeam o) := by
  unfold State.performTeam
  split
  · exact h
  · split
    · exact h
    · rename_i T hT
      refine (h.setTeam (t := o.team) (T' := (performItems o.kind T o.items).1) fun _ T' hT' => ?_).of_teams rfl
      rw [State.team?, hT'] at hT; cases hT; exact performItems_groups ..
theorem Ctx.stands.foldl {x : Ctx} {α : Type} (xs : List α) {f : State → α → State} (hf : ∀ b a, x.stands b → x.stands (f b a)) {b : State} (h : x.stands b) :
    x.stands (xs.foldl f b) := by
  induction xs generalizing b with
  | nil => exact h
  | cons a as ih => exact ih (hf b a h)
theorem Ctx.stands.flushTeam {x : Ctx} {b : State} (h : x.stands b) (t g : Nat) : x.stands (b.flushTeam t g) :=
  Ctx.stands.foldl _ (fun _ o h => h.performTeam o) h
theorem Ctx.stands.publishAt {x : Ctx} {b : State} (h : x.stands b) (t g : Nat) (sc : Scope) (tag : PubTag) (n : Nat) :
    x.stands (b.publishAt t g sc tag n) := by
  unfold State.publishAt
  split
  · rename_i X Y _ _
    exact (h.of_teams (c := { b with pubs := b.pubs ++ [{ place := X.place t g, agent := agentOf t g, stamp := pubStamp n, sc, tag, view := Y.lb }] })
      rfl).updGroup t g fun _ => ⟨rfl, rfl, rfl, rfl, rfl, rfl⟩
  · exact h
theorem Ctx.stands.publish {x : Ctx} {b : State} (h : x.stands b) (t g : Nat) (sc : Scope) (tag : PubTag) : x.stands (b.publish t g sc tag) :=
  h.publishAt ..
theorem Ctx.stands.adoptAt {x : Ctx} {b : State} (h : x.stands b) (t g : Nat) (sc : Scope) (ps : List Nat) (k : Nat) :
    x.stands (b.adoptAt t g sc ps k) := by
  unfold State.adoptAt
  split
  · rename_i X Y _ _
    let n := max (adoptPosition b.pubs Y sc (X.place t g) ps) (b.pubs.length - b.adoptBack.get (agentOf t g))
    exact (h.updGroup t g (f := fun y => { y with lb := joinView y.lb (snapshotAt b.pubs sc (X.place t g) n), adoptPos := n })
      fun _ => ⟨rfl, rfl, rfl, rfl, rfl, rfl⟩).of_teams rfl
  · exact h
theorem Ctx.stands.seen {x : Ctx} {b : State} (h : x.stands b) (t g op pa seq ag st : Nat) : x.stands (b.seen t g op pa seq ag st) := by
  unfold State.seen
  exact (h.updGroup t g (f := fun x => { x with lb := joinView x.lb [(pa, seq)], readFrom := joinView x.readFrom [(ag, st)] })
    fun _ => ⟨rfl, rfl, rfl, rfl, rfl, rfl⟩).of_teams rfl
theorem Ctx.stands.adopt {x : Ctx} {b : State} (h : x.stands b) (t g : Nat) (sc : Scope) (ps : List Nat) : x.stands (b.adopt t g sc ps) :=
  h.adoptAt ..
theorem Ctx.stands.orderEvents {x : Ctx} {b : State} (h : x.stands b) (t g : Nat) (pub adp : Option Scope) (k : Nat) :
    x.stands (b.orderEvents t g pub adp k) := by
  unfold State.orderEvents
  cases pub <;> cases adp <;> first | exact h | exact h.publishAt .. | exact h.adoptAt .. | exact (h.publishAt ..).adoptAt ..
theorem Ctx.stands.seeBytes {x : Ctx} {b : State} (h : x.stands b) (t g op pa n : Nat) : x.stands (b.seeBytes t g op pa n) :=
  Ctx.stands.foldl _ (fun _ _ h => h.seen ..) h
theorem Ctx.stands.observe {x : Ctx} {b : State} (h : x.stands b) (t g : Nat) (sc : Scope) (a : Nat) : x.stands (b.observe t g sc a) := by
  unfold State.observe
  split
  · exact h
  · exact ((h.flushTeam t g).adopt t g sc _).updGroup t g fun _ => ⟨rfl, rfl, rfl, rfl, rfl, rfl⟩
theorem Ctx.stands.cobserve {x : Ctx} {b : State} (h : x.stands b) (t g : Nat) (sc : Scope) (pa : Nat) : x.stands (b.cobserve t g sc pa) :=
  (((h.flushTeam t g).seeBytes ..).adopt t g sc _).updGroup t g fun _ => ⟨rfl, rfl, rfl, rfl, rfl, rfl⟩
theorem Ctx.stands.tokAdopt {x : Ctx} {b : State} (h : x.stands b) (t g m : Nat) : x.stands (b.tokAdopt t g m) := by
  unfold State.tokAdopt
  split
  · exact h
  · exact (h.flushTeam t g).adopt ..
theorem Ctx.stands.waitAdopt {x : Ctx} {b : State} (h : x.stands b) (t g op pa : Nat) : x.stands (b.waitAdopt t g op pa) :=
  ((h.flushTeam t g).seeBytes ..).adopt ..
theorem Ctx.stands.into {x : Ctx} {b : State} (h : x.stands b) (F : Flight) (m : Mask) : x.stands (F.into x b m) := by
  unfold Flight.into
  have h' : ∀ o, x.stands { b with ops := b.ops ++ [o] } := fun o => h.of_teams rfl
  simp only
  split
  · exact (h' _).updGroup _ _ fun _ => ⟨rfl, rfl, rfl, rfl, rfl, rfl⟩
  · exact h' _
theorem Ctx.stands.synced {i : Instr} {s : State} {x : Ctx} (h : Due i s x) : x.stands x.synced := h.stands.flushTeam ..
theorem Ctx.stands.published {i : Instr} {s : State} {x : Ctx} (h : Due i s x) (sc : Scope) (tag : PubTag) : x.stands (x.published sc tag) :=
  (Ctx.stands.synced h).publish ..

/-- Flushing changes the team's memory and the operations, and nothing else: every operand and every register reads as before. -/
structure Flushed (x : Ctx) (b : State) (m : SMap Byte) : Prop where
  state : b = { x.s with teams := b.teams, ops := b.ops }
  team : b.teams.find? x.cur.team = some { x.tm with tmem := m }
theorem like_upd {b c : State} (h : b = { c with teams := b.teams, ops := b.ops }) (T : SMap Team) (O : List Op) :
    ({ b with teams := T, ops := O } : State) = { c with teams := T, ops := O } := by
  have : ∀ T' O', b = { c with teams := T', ops := O' } → ({ b with teams := T, ops := O } : State) = { c with teams := T, ops := O } :=
    fun _ _ e => by subst e; rfl
  exact this _ _ h
theorem performItems_tmem (k : OpKind) (T : Team) (its : List Item) : ∃ m, (performItems k T its).1 = { T with tmem := m } := by
  induction its generalizing T with
  | nil => exact ⟨T.tmem, rfl⟩
  | cons it rest ih =>
    have hw : ∀ a n v, ∃ m, (performItems k (T.twrite a n v).settleBars rest).1 = { T with tmem := m } := by
      intro a n v
      obtain ⟨m0, h0⟩ := twrite_tmem T a n v
      obtain ⟨m1, h1⟩ := settleBars_tmem (T.twrite a n v)
      obtain ⟨m, hm⟩ := ih (T.twrite a n v).settleBars
      exact ⟨m, by rw [hm, h1, h0]⟩
    simp only [performItems]
    cases k
    case tstore => exact hw ..
    case tatomic op w =>
      simp only
      split
      · exact hw ..
      · exact ih T
    all_goals exact ih T
theorem Flushed.performTeam {x : Ctx} {b : State} {m : SMap Byte} (h : Flushed x b m) {o : Op} (ho : o.team = x.cur.team) : ∃ m', Flushed x (b.performTeam o) m' := by
  unfold State.performTeam
  split
  · exact ⟨m, h⟩
  · rw [State.team?, ho, h.team]
    obtain ⟨m', hm⟩ := performItems_tmem o.kind { x.tm with tmem := m } o.items
    refine ⟨m', ?_, ?_⟩
    · exact like_upd h.state _ _
    · simp only [hm]; exact find?_setTeam ..
theorem Due.flushed {i : Instr} {s : State} {x : Ctx} (h : Due i s x) : ∃ m, Flushed x x.synced m := by
  have go : ∀ (l : List Op) (b : State) (m : SMap Byte), (∀ o ∈ l, o.team = x.cur.team) → Flushed x b m → ∃ m, Flushed x (l.foldl State.performTeam b) m := by
    intro l
    induction l with
    | nil => exact fun b m _ k => ⟨m, k⟩
    | cons o os ih =>
      intro b m hl k
      obtain ⟨m', k'⟩ := k.performTeam (hl o (List.mem_cons_self ..))
      exact ih _ m' (fun o ho => hl o (List.mem_cons_of_mem _ ho)) k'
  refine go _ x.s x.tm.tmem (fun o ho => ?_) ⟨rfl, h.team⟩
  have := (List.mem_filter.mp ho).2
  simp only [Bool.and_eq_true, beq_iff_eq] at this
  exact this.1
/-- An operand is read alike in a flushed state. -/
theorem Flushed.rdU {x : Ctx} {b : State} {m : SMap Byte} (h : Flushed x b m) (k : Nat) (ik : ImmKind) (a : Src) :
    ({ x with s := b, tm := { x.tm with tmem := m } } : Ctx).rdU k ik a = x.rdU k ik a := by
  have go : ∀ T O, b = { x.s with teams := T, ops := O } → ({ x with s := b, tm := { x.tm with tmem := m } } : Ctx).rdU k ik a = x.rdU k ik a :=
    fun _ _ e => by subst e; cases a <;> rfl
  exact go _ _ h.state

/-! ## Completion -/

theorem Same.wrote {i : Instr} {s : State} {x : Ctx} {b : State} {T : Team} {g : Group} (h : Due i s x) (k : Same x b T g) (E : Eff)
    (hE : E = { stay := E.stay, go := E.go }) : Wrote x E g where
  lanes l _ := by rw [hE]; simp [Eff.laneOf, Group.lane, k.lanes]
  v n l _ := by rw [hE]; simp [Group.getV, k.v, Eff.vAfter]
  p n l _ := by rw [hE]; simp [Group.getP, k.preds, Eff.pAfter]
  j n := by rw [hE]; simp [Group.getJ, k.jm, Eff.jAfter]
  fp := by rw [hE]; simp [k.fp]
  record := ⟨x.st, fun j => by
      rw [k.recs]; split
      · rename_i e; rw [← e]; exact h.record
      · rfl, fun n => by rw [hE]; rfl, fun n => by rw [hE]; rfl, by rw [hE]⟩
/-- Nothing is written in the group: the state the instruction leaves is the rule's. -/
theorem completes_plain {i : Instr} {s : State} {x : Ctx} {w : Work} (h : Issues i s x) {f : Ctx → Res} (he : exec i s = issue i s f)
    (hE : w.eff = { stay := w.eff.stay }) (hs : (f x).s = w.s) (hb : x.stands w.s) (hf : ∀ f' ∈ (f x).flts, f'.lanes = 0#32)
    (hst : (f x).stay = w.eff.stay) (hn : (f x).nxt = fun _ => .seq) : Completes i s x w := by
  obtain ⟨T, g, k⟩ := hb
  have hgo : w.eff.go = fun _ => .seq := by rw [hE]
  obtain ⟨y, hy⟩ := finish_leaves (b := w.s) (g := g) (k.wrote h.toDue w.eff (by rw [hE])) (f x) T (by rw [hs]; exact k.team) k.group (by rw [hs]) rfl hf hst
    (by rw [hE]) (by rw [hn, hgo])
  exact ⟨_, y, g, by rw [he, issue_next h], Ctx.stands.group? k, hy⟩

/-- The state's record is written in the rule's state. -/
theorem completes_rec {i : Instr} {s : State} {x : Ctx} {w : Work} (h : Issues i s x) {f : Ctx → Res} (he : exec i s = issue i s f) {T : Team} {g : Group}
    (k : Same x w.s T g) (hE : w.eff = { u := w.eff.u, r := w.eff.r }) (r : StRec)
    (hs : (f x).s = w.s.setTeam x.cur.team (T.setGroup x.cur.grp (g.setRec x.cur.rc r)))
    (hr1 : ∀ n, r.getS n = w.eff.sAfter n (x.st.getS n)) (hr2 : ∀ n, r.getA n = x.st.getA n)
    (hr3 : ({ r with s := [], a := [] } : StRec) = { w.eff.r x.st with s := [], a := [] })
    (hf : ∀ f' ∈ (f x).flts, f'.lanes = 0#32) (hst : (f x).stay = false) (hn : (f x).nxt = fun _ => .seq) : Completes i s x w := by
  have wr : Wrote x w.eff (g.setRec x.cur.rc r) := by
    have w0 := k.wrote h.toDue {} rfl
    exact {
      lanes := fun l hl => by rw [hE]; exact w0.lanes l hl
      v := fun n l hl => by rw [hE]; exact w0.v n l hl
      p := fun n l hl => by rw [hE]; exact w0.p n l hl
      j := fun n => by rw [hE]; exact w0.j n
      fp := by rw [hE]; exact w0.fp
      record := ⟨r, fun k' => by rw [find?_setRec, k.recs], hr1, fun n => by rw [hE, hr2]; rfl, hr3⟩ }
  have hgo : w.eff.go = fun _ => .seq := by rw [hE]
  have hstay : w.eff.stay = false := by rw [hE]
  obtain ⟨y, hy⟩ := finish_leaves (b := w.s) (g := g) wr (f x) (T.setGroup x.cur.grp (g.setRec x.cur.rc r)) (by rw [hs]; exact find?_setTeam ..)
    (find?_setGroup ..) (by rw [hs]; exact rest_put w.s x.cur.team x.cur.grp T.lastTick T (g.setRec x.cur.rc r) k.team) rfl hf (by rw [hst, hstay]) (by rw [hE])
    (by rw [hn, hgo])
  exact ⟨_, y, g, by rw [he, issue_next h], Ctx.stands.group? k, hy⟩

end Sys2Proof.Machine
end

