-- ==== Sys2Proof/Tests/Slice0.lean ====
section
/-!
SUPPORT. Tests: well-formedness refuses what the encoding tables do not admit, words written field by field decode to their instructions,
and the hypotheses of the statements about instructions are met by concrete states.
-/
namespace Sys2Proof.Tests
open Sys2Proof.Machine
set_option Elab.async false

abbrev c0 : Ctl := Ctl.plain
/-- A transfer ends its clause. -/
abbrev cT : Ctl := { Ctl.plain with fin := true }
abbrev d : Dst := .reg 4
abbrev a : Src := .reg 8
abbrev b : Src := .reg 12
abbrev e : Src := .reg 16
abbrev m0 : MemOp := { pol := .dflt, cnt := .x1, ty := .b32, off := 0#24 }
abbrev at0 : AtomFld := { sc := .dom, ord := .rlx, w64 := false, ac := .uni, off := 0#24 }

/-! ## Well-formedness: one ill-formed term for each check -/

theorem test_not_well_formed : ([
    -- the guard p15 negated (R18)
    .nop { Ctl.plain with gn := true },
    -- a run at an odd register, one past the class, a register past the class (R16, R48)
    .movV c0 true (.reg 3) a, .movS c0 true d (.reg 127), .addS c0 .i32 false (.reg 128) a b, .movA c0 (.reg 64) .lane,
    -- sources of another class (R16, R86)
    .movV c0 false d .lane, .movV c0 false d (.sys 0), .movS c0 false d (.sys 10), .movS c0 false d .lane, .movA c0 d (.sys 1),
    -- two immediates that differ; one where IMM holds extended fields; a 16-bit float's; one where IMM is fixed to 0 (R17)
    .addV c0 .i32 false d (.imm 1#32) (.imm 2#32), .ldgV c0 .set0 .uni m0 d (.imm 0#32), .absVF c0 .f16 d (.imm 0x10000#32),
    .cbarWait c0 .clu (.imm 1#32), .setsr c0 0x101#12 (.imm 1#32),
    -- predicates, rejoin masks, channels, reservations and tiles past their files; one predicate twice (R48, R134)
    .selV c0 false d a b 16, .cmpV c0 false .eq .set 1 1 a b, .jset c0 8, .chfree c0 16, .obrel c0 16, .xzero c0 8,
    -- a target that is no multiple of 4 (R175)
    .bra cT 2#32,
    -- counts, data types and policies of accesses (R61, R234)
    .ldgV c0 .set0 .uni { m0 with cnt := .x2, ty := .n8 } d a, .stgV c0 .none .uni { m0 with ty := .i8 } a b,
    .ldtmV c0 .set0 .uni { m0 with pol := .strm } d a, .stmsk c0 .none .uni { m0 with ty := .b64 } a b e,
    -- bases: a pair at an odd register, a class without it
    .ldgV c0 .set0 .var m0 d (.reg 3), .ldgV c0 .set0 .aff m0 d (.reg 64),
    -- no flag where one is needed (R21, R233)
    .ldgV c0 .none .uni m0 d a,
    -- atomics: an operand C without cas, operations and orders that red lacks, scope and order of atomtm (R62, R240)
    .atom c0 .set0 .add at0 d a b e, .red c0 .none .exch at0 a b, .red c0 .none .add { at0 with ord := .acq } a b,
    .atomtm c0 .set0 .add { at0 with sc := .team } d a b (.reg 0),
    -- equal float types, formats of tiles (R58, R273, R275, R283)
    .cvtFloatFloat c0 .f32 .f32 .rne d a, .ldfrag c0 .set0 true false .x1 0#12 0#18 d a,
    .mma c0 .set0 true 0#2 true 0#8 0#8 0 0 1, .drainQ c0 .set0 0#2 0#20 false 1#4 0#2 0 a,
    -- scopes of cluster barriers, special registers, debug files (R322, R64, R422)
    .cbarWait c0 .team a, .getsr c0 d 0x00A#12, .dbgRd c0 8#4 0#8 d a, .dbgWr c0 7#4 0#8 d a b,
    -- a step of another agent is no instruction word
    .pfFlr] : List Instr).all (fun i => !i.wellFormed) = true := by decide +kernel

/-! ## Decoding: words written out field by field from the tables of spec/02 -/

/-- A word of R15: MAJ, MIN, GP = 15, GN = 0, D, A, B, C, MOD, END, no hints, IMM. -/
def word (maj : BitVec 8) (min : BitVec 4) (d a b e : BitVec 9) (md : BitVec 4) (imm : BitVec 32) (fin : BitVec 1) : BitVec 96 :=
  maj ++ min ++ 15#4 ++ 0#1 ++ d ++ a ++ b ++ e ++ md ++ fin ++ 0#6 ++ imm
abbrev reads (w : BitVec 96) (i : Instr) : Prop := (match decode w with | .ok j => decide (j = i) | .error _ => false) = true
abbrev refused (w : BitVec 96) : Prop := (match decode w with | .ok _ => false | .error _ => true) = true

theorem test_decode_control :
    reads (word 0x02 1 0 2 0 0 0 0 1) (.brxS cT (.reg 2)) ∧
    reads (word 0x03 0 4 0 0 0 0 0xffffffd0 1) (.call cT (.reg 4) 0xFFFFFFD0#32) ∧
    reads (word 0x04 0 0 6 0 0 0 0 1) (.ret cT (.reg 6)) ∧
    reads (word 0x07 4 3 5 0 0 0 0 0) (.jput c0 3 (.reg 5)) ∧
    reads (word 0x08 1 2 3 6 0 0 0 1) (.rejoinTmo cT 2 3 (.reg 6)) ∧
    reads (word 0x0A 0 0 0 0 0 0 0x1234 0) (.trap c0 0x1234#16) ∧
    reads (word 0x0B 0 0 0 0 0 0 0 1) (.hret cT) := by decide +kernel
theorem test_decode_integer :
    reads (word 0x10 7 2 4 6 0 0 0 0) (.addV c0 .n64 true (.reg 2) (.reg 4) (.reg 6)) ∧
    reads (word 0x32 4 1 2 3 0 0 0 0) (.mulS c0 .i32 true (.reg 1) (.reg 2) (.reg 3)) ∧
    reads (word 0x14 5 1 2 3 7 0 0 0) (.subcV c0 .n32 (.reg 1) (.reg 2) (.reg 3) 7) ∧
    reads (word 0x15 14 2 4 0 0 0 0 0) (.negV c0 true (.reg 2) (.reg 4)) ∧
    reads (word 0x36 11 2 4 6 0 0 0 0) (.andnS c0 true (.reg 2) (.reg 4) (.reg 6)) ∧
    reads (word 0x17 10 2 4 511 0 0 0 0) (.sarV c0 true (.reg 2) (.reg 4) .zero) ∧
    reads (word 0x18 3 1 2 3 5 0 0 0) (.shfV c0 true true (.reg 1) (.reg 2) (.reg 3) (.reg 5)) ∧
    reads (word 0x39 1 1 2 3 5 0 0 0) (.bfeS c0 false (.reg 1) (.reg 2) (.reg 3) (.reg 5)) ∧
    reads (word 0x1A 5 1 4 0 0 0 0 0) (.clzV c0 true (.reg 1) (.reg 4)) ∧
    reads (word 0x1C 7 1 4 6 2 9 0 0) (.cmpV c0 true .nle .and 1 2 (.reg 4) (.reg 6)) ∧
    reads (word 0x1D 9 2 4 510 3 0 0x80000000 0) (.selV c0 true (.reg 2) (.reg 4) (.imm 0x80000000#32) 3) ∧
    reads (word 0x3D 0 511 129 0 0 0 0 0) (.movS c0 false .discard (.sys 1)) ∧
    reads (word 0x1F 6 2 4 6 0 0 0 0) (.remV c0 .i64 (.reg 2) (.reg 4) (.reg 6)) ∧
    reads (word 0x1E 3 2 64 0 0 0 0 0) (.mat c0 true (.reg 2) .lane) ∧
    reads (word 0x3E 1 2 4 0 5 0 0 0) (.agree c0 true (.reg 2) (.reg 4) 5) := by decide +kernel
theorem test_decode_affine :
    reads (word 0x21 3 1 2 3 0 0 0 0) (.subA c0 false false (.reg 1) (.reg 2) (.reg 3)) ∧
    reads (word 0x23 10 1 2 3 4 0 0 0) (.madA c0 true (.reg 1) (.reg 2) (.reg 3) (.reg 4)) ∧
    reads (word 0x27 8 1 64 3 0 0 0 0) (.shlA c0 (.reg 1) .lane (.reg 3)) ∧
    reads (word 0x2C 3 1 4 6 2 8 0 0) (.cmpA c0 true .ile .set 1 2 (.reg 4) (.reg 6)) ∧
    reads (word 0x2E 0 1 2 3 0 0 0 0) (.rampA c0 (.reg 1) (.reg 2) (.reg 3)) := by decide +kernel
theorem test_decode_float :
    reads (word 0x43 5 2 4 6 8 3 0 0) (.fmaV c0 .f64 true .rup (.reg 2) (.reg 4) (.reg 6) (.reg 8)) ∧
    reads (word 0x64 14 1 2 3 0 0 0 0) (.maxnumS c0 .f16 (.reg 1) (.reg 2) (.reg 3)) ∧
    reads (word 0x46 13 1 4 6 2 8 0 0) (.cmpVF16 c0 true .geu .set 1 2 (.reg 4) (.reg 6)) ∧
    reads (word 0x48 10 1 2 3 0 1 0 0) (.divVF c0 .f16 .rtz (.reg 1) (.reg 2) (.reg 3)) ∧
    reads (word 0x66 5 2 4 0 0 2 0 0) (.sqrtS c0 .f64 .rdn (.reg 2) (.reg 4)) ∧
    reads (word 0x49 14 1 2 0 0 0 0 0) (.cospi c0 true (.reg 1) (.reg 2)) ∧
    reads (word 0x4A 1 1 2 3 4 0 0 0) (.dotV c0 true .rne (.reg 1) (.reg 2) (.reg 3) (.reg 4)) ∧
    reads (word 0x4B 9 2 4 6 0 0 0 0) (.copysignV c0 .f64 (.reg 2) (.reg 4) (.reg 6)) ∧
    reads (word 0x4C 0 9 2 0 0 0 0x204 0) (.classV c0 .f32 9 (.reg 2) 0x204#10) ∧
    reads (word 0x53 1 1 2 3 4 3 0 0) (.fmaVQ c0 true 3#2 (.reg 1) (.reg 2) (.reg 3) (.reg 4)) ∧
    reads (word 0x56 1 1 2 0 0 1 0 0) (.negVQ c0 1#2 (.reg 1) (.reg 2)) := by decide +kernel
theorem test_decode_conversion :
    reads (word 0x58 4 2 4 0 0 2 0 0) (.cvtFloatFloat c0 .f64 .f32 .rdn (.reg 2) (.reg 4)) ∧
    reads (word 0x59 13 2 4 0 0 1 0 0) (.cvtFloatInt c0 .n64 .f64 .rtz (.reg 2) (.reg 4)) ∧
    reads (word 0x5A 6 2 4 0 0 0 0 0) (.cvtIntFloat c0 .f64 .i64 .rne (.reg 2) (.reg 4)) ∧
    reads (word 0x5B 0 5 1 0 5 0 2 0) (.cvtQFloat c0 .f32 0#2 2#3 (.reg 5) (.reg 1) (.reg 5)) ∧
    reads (word 0x5C 8 5 1 0 0 3 7 0) (.cvtFloatQ c0 .f16 3#2 7#3 (.reg 5) (.reg 1)) := by decide +kernel
theorem test_decode_cross_lane :
    reads (word 0x68 3 5 4 510 0 0 1 0) (.shfl c0 false .bfly (.reg 5) (.reg 4) (.imm 1#32)) ∧
    reads (word 0x69 2 5 4 0 0 0 0 0) (.voteEq c0 5 4) ∧
    reads (word 0x6A 6 5 4 0 0 0 0 0) (.reduceInt c0 .minN (.reg 5) (.reg 4)) ∧
    reads (word 0x6D 14 6 4 0 0 0 0 0) (.scanFloat c0 true true .max (.reg 6) (.reg 4)) ∧
    reads (word 0x6E 3 5 4 0 0 0 0 0) (.matchLanes c0 .f64 (.reg 5) (.reg 4)) := by decide +kernel
theorem test_decode_memory :
    reads (word 0x70 6 8 2 0 0 4 0x35fffff0 0) (.ldgS c0 .set0 { pol := .strm, cnt := .x4, ty := .b64, off := 0xFFFFF0#24 } (.reg 8) (.reg 2)) ∧
    reads (word 0x71 1 0 2 7 0 0 0x2000004 0) (.stgV c0 .none .var { pol := .dflt, cnt := .x1, ty := .n16, off := 4#24 } (.reg 2) (.reg 7)) ∧
    reads (word 0x72 1 8 3 0 0 8 0x4000000 0) (.ldtmV c0 .set1 .var { pol := .dflt, cnt := .x1, ty := .b32, off := 0#24 } (.reg 8) (.reg 3)) ∧
    reads (word 0x75 2 0 2 7 9 4 0x4000000 0) (.stmsk c0 .set0 .uni { pol := .dflt, cnt := .x1, ty := .b32, off := 0#24 } (.reg 2) (.reg 7) (.reg 9)) ∧
    reads (word 0x76 9 2 4 6 8 4 0xbe000010 0) (.atom c0 .set0 .cas { sc := .dom, ord := .ar, w64 := true, ac := .uni, off := 16#24 } (.reg 2) (.reg 4) (.reg 6) (.reg 8)) ∧
    reads (word 0x77 10 0 4 6 0 0 0x91000000 0) (.red c0 .none .addF { sc := .slc, ord := .rel, w64 := false, ac := .var, off := 0#24 } (.reg 4) (.reg 6)) ∧
    reads (word 0x79 2 0 0 0 0 5 0 0) (.fence c0 .dom) ∧
    reads (word 0x7A 1 1 2 3 0 4 0 0) (.unpinLines c0 .set0 (.reg 1) (.reg 2) (.reg 3)) ∧
    reads (word 0x7B 4 5 2 0 0 2 0 0) (.barTest c0 .clu 5 (.reg 2)) ∧
    reads (word 0x7C 3 5 0 0 7 1 0 0) (.chtake c0 .team 7 (.reg 5)) ∧
    reads (word 0x7D 1 0 2 5 6 0 0x3fff0 0) (.cpyT2g c0 (.reg 2) (.reg 5) (.reg 6) 0x3FFF0#18) ∧
    reads (word 0x7E 1 0 510 0 0 0 0x28 0) (.vshrink c0 (.imm 40#32)) := by decide +kernel
theorem test_decode_matrix :
    reads (word 0x90 0 0 5 0 7 0 0 0) (.obres c0 7 (.reg 5)) ∧
    reads (word 0x91 1 0 5 0 7 0 0x40 0) (.obldTm c0 7 (.reg 5) 0x40#18) ∧
    reads (word 0x92 3 8 4 0 0 4 0x80200040 0) (.ldfrag c0 .set0 true true .x4 8#12 0x40#18 (.reg 8) (.reg 4)) ∧
    reads (word 0x93 1 3 2 5 0 5 0x403 0) (.mma c0 .set0 false 1#2 true 3#8 4#8 3 2 5) ∧
    reads (word 0x94 1 0 4 6 0 10 0x5c000280 0) (.drainQ c0 .set1 2#2 640#20 true 5#4 2#2 4 (.reg 6)) ∧
    reads (word 0x96 1 5 3 0 0 0 0 0) (.xstatOvf c0 (.reg 5) 3) ∧
    reads (word 0x97 1 3 4 5 0 0 0 0) (.xput c0 3 (.reg 4) (.reg 5)) := by decide +kernel
theorem test_decode_calls :
    reads (word 0xA0 0 0 3 5 0 0 0 0) (.ccall c0 3 (.reg 5)) ∧
    reads (word 0xA1 0 5 3 0 0 8 0 0) (.crecv c0 .set1 (.reg 5) 3) ∧
    reads (word 0xA2 2 5 6 7 0 0 0 0) (.tokResume c0 (.reg 5) (.reg 6) (.reg 7)) ∧
    reads (word 0xA3 1 0 6 0 0 3 0 0) (.cbarWait c0 .die (.reg 6)) ∧
    reads (word 0xA9 0 5 6 7 0 4 0 0) (.launchGrid c0 .set0 (.reg 5) (.reg 6) (.reg 7)) ∧
    reads (word 0xAA 2 3 6 7 8 0 0 0) (.waitv c0 .ge 3 (.reg 6) (.reg 7) (.reg 8)) ∧
    reads (word 0xB0 1 0 5 0 0 0 0x101 0) (.setsr c0 0x101#12 (.reg 5)) ∧
    reads (word 0xB1 1 0 6 7 0 0 0 0) (.tlbinvPage c0 (.reg 6) (.reg 7)) ∧
    reads (word 0xB2 0 4 6 7 0 4 0 0) (.xlat c0 .set0 (.reg 4) (.reg 6) (.reg 7)) ∧
    reads (word 0xB3 4 5 6 7 0 0 0x400009 0) (.dbgWrForce c0 4#4 9#8 (.reg 5) (.reg 6) (.reg 7)) ∧
    reads (word 0xB8 3 5 6 0 0 8 0 0) (.collBcast c0 .set1 (.reg 5) (.reg 6)) := by decide +kernel

/-- Reserved opcodes, unassigned MIN, unused fields that are not zero, IMM without an operand that reads it (R16, R65). -/
theorem test_decode_refuses :
    refused (word 0x0C 0 0 0 0 0 0 0 0) ∧ refused (word 0x34 0 1 2 3 0 0 0 0) ∧ refused (word 0xBC 0 0 0 0 0 0 0 0) ∧
    refused (word 0x10 8 1 2 3 0 0 0 0) ∧ refused (word 0x15 9 1 2 0 0 0 0 0) ∧ refused (word 0x10 0 1 2 3 1 0 0 0) ∧
    refused (word 0x10 0 1 2 3 0 1 0 0) ∧ refused (word 0x10 0 1 2 3 0 0 1 0) ∧ refused (word 0x10 0 256 2 3 0 0 0 0) ∧
    refused (word 0x70 4 8 2 0 0 4 0x04000000 0) ∧ refused (word 0x79 0 0 0 0 0 6 0 0) ∧ refused (word 0xB0 0 5 0 0 0 0 0xA 0) := by decide +kernel
/-- The word of R240's example of an access and of R66: encoded and decoded alike. -/
theorem test_encode_word : encode (.ldgV c0 .set0 .aff { m0 with cnt := .x2, off := 0x40#24 } (.reg 8) (.reg 2)) = some 0x700F0200400002000C000040#96 := by
  decide +kernel

/-! ## States that meet the hypotheses of the statements -/

/-- A privileged team's group with every lane at an instruction: all registers 0. -/
def s0 : State := { State.reset.withFetchWord 96 0 with stream1 := none, cur := some (probeCursor 0) }
/-- The team, the group and the state's record changed. -/
def teamed (f : Team → Team) : State := s0.updTeam 0 f
def grouped (f : Group → Group) : State := s0.updGroup 0 0 f
def recorded (f : StRec → StRec) : State := grouped fun g => g.setRec 0 (f (g.getRec 0))
/-- What a path finds as it issues. -/
def here (s : State) (c : Ctl) : Ctx :=
  match ctxOf s c with
  | some x => x
  | none => { s, cur := probeCursor 0, tm := {}, g := {}, st := {}, c, e := 0#32 }
def at_ (s : State) : Ctx := here s c0
def onPathB (x : Ctx) : Bool :=
  (List.range 32).all fun l => !x.cur.m.getLsbD l || (x.g.runs l && (x.g.lane l).rc == x.cur.rc && (x.g.lane l).pc == x.cur.pc
    && (x.g.lane l).off == x.cur.pos && (x.g.lane l).hdr == some x.cur.hdr)
def dueB (s : State) (c : Ctl) (i : Instr) : Bool := ctlOf i == some c && (ctxOf s c).isSome && onPathB (here s c)
def issuesB (s : State) (c : Ctl) (i : Instr) : Bool :=
  dueB s c i && !mustHold (here s c) i && preciseFault (here s c) i == none && (here s c).e != 0#32
    && !regBudget (here s c) i && !partialWrite (here s c) i
theorem due_of {s : State} {c : Ctl} {i : Instr} (h : dueB s c i = true) : Due i s (here s c) := by
  simp only [dueB, Bool.and_eq_true, beq_iff_eq] at h
  obtain ⟨⟨h1, h2⟩, h3⟩ := h
  refine ⟨?_, fun l hl hm => ?_⟩
  · rw [h1]
    obtain ⟨x, hx⟩ := Option.isSome_iff_exists.mp h2
    simp [here, hx]
  · have := List.all_eq_true.mp h3 l (List.mem_range.mpr hl)
    simp only [hm, Bool.not_true, Bool.false_or, Bool.and_eq_true, beq_iff_eq] at this
    exact ⟨this.1.1.1.1, this.1.1.1.2, this.1.1.2, this.1.2, this.2⟩
theorem issues_of {s : State} {c : Ctl} {i : Instr} (h : issuesB s c i = true) : Issues i s (here s c) := by
  simp only [issuesB, Bool.and_eq_true, beq_iff_eq, Bool.not_eq_true', bne_iff_ne, ne_eq] at h
  obtain ⟨⟨⟨⟨⟨h1, h4⟩, h5⟩, h6⟩, h7⟩, h8⟩ := h
  exact { due_of h1 with free := h4, precise := h5, lanes := h6, budget := h7, whole := h8 }
/-- Every instruction of the list issues in the state, and `p` holds of it there. -/
def allIssue (s : State) (is : List Instr) (p : Ctx → Instr → Bool) : Bool :=
  is.all fun i => match ctlOf i with
    | some c => issuesB s c i && p (here s c) i
    | none => false
theorem issues_all {s : State} {is : List Instr} {p : Ctx → Instr → Bool} (h : allIssue s is p = true) : ∀ i ∈ is, ∃ x, Issues i s x ∧ p x i = true := by
  intro i hi
  have := List.all_eq_true.mp h i hi
  cases hc : ctlOf i with
  | none => rw [hc] at this; cases this
  | some c =>
    rw [hc] at this
    simp only [Bool.and_eq_true] at this
    exact ⟨_, issues_of this.1, this.2⟩

/-- Integer arithmetic. -/
def arithInstrs : List Instr :=
  [.addV c0 .i32 false d a b, .addS c0 .i32 false d a b, .subV c0 .i32 false d a b, .subS c0 .i32 false d a b, .mulV c0 .i32 false d a b,
   .mulS c0 .i32 false d a b, .madV c0 .i32 d a b e, .madS c0 .i32 d a b e, .divV c0 .i32 d a b, .divS c0 .i32 d a b, .remV c0 .i32 d a b,
   .remS c0 .i32 d a b, .minV c0 .i32 d a b, .minS c0 .i32 d a b, .maxV c0 .i32 d a b, .maxS c0 .i32 d a b, .absV c0 false d a,
   .absS c0 false d a, .negV c0 false d a, .negS c0 false d a]
/-- Bits, shifts, fields, moves. -/
def bitsInstrs : List Instr :=
  [.andV c0 false d a b, .andS c0 false d a b, .orV c0 false d a b, .orS c0 false d a b, .xorV c0 false d a b, .xorS c0 false d a b,
   .andnV c0 false d a b, .andnS c0 false d a b, .ornV c0 false d a b, .ornS c0 false d a b, .xnorV c0 false d a b, .xnorS c0 false d a b,
   .notV c0 false d a, .notS c0 false d a, .movV c0 false d a, .movS c0 false d a, .shlV c0 false d a b, .shlS c0 false d a b,
   .shrV c0 false d a b, .shrS c0 false d a b, .sarV c0 false d a b, .sarS c0 false d a b, .shfV c0 false false d a b e,
   .shfS c0 false false d a b e, .bfeV c0 false d a b e, .bfeS c0 false d a b e, .bfiV c0 d a b e, .bfiS c0 d a b e, .brevV c0 d a,
   .brevS c0 d a, .bgatV c0 d a b e, .bgatS c0 d a b e, .popcV c0 false d a, .popcS c0 false d a, .clzV c0 false d a, .clzS c0 false d a,
   .ctzV c0 false d a, .ctzS c0 false d a, .cvtNarrow c0 false false .i16 d a]
/-- Predicates, promotions, votes, rejoin masks. -/
def predInstrs : List Instr :=
  [.addcV c0 .i32 d a b 1, .subcV c0 .i32 d a b 1, .cmpV c0 false .ilt .and 1 2 a b, .cmpS c0 false .ilt .and 1 2 a b,
   .cmpA c0 false .ilt .and 1 2 a b, .classV c0 .f32 1 a 0#10, .selV c0 false d a b 1, .spread c0 false d a, .mat c0 false d a,
   .rampA c0 d a b, .agree c0 false d a 1, .firstLane c0 false d a, .voteAll c0 1 1, .voteAny c0 1 1, .voteEq c0 1 1, .voteBallot c0 d 1,
   .nop c0, .jset c0 1, .jadd c0 1, .jsub c0 1, .jget c0 d 1, .jput c0 1 a]
/-- Affine results. -/
def affInstrs : List Instr :=
  [.addA c0 false false d a b, .subA c0 false false d a b, .mulA c0 false d a b, .madA c0 false d a b e, .shlA c0 d a b, .movA c0 d a]
/-- Cross-lane results. -/
def crossInstrs : List Instr :=
  [.shfl c0 false .bfly d a b, .reduceInt c0 .add d a, .scanInt c0 false .add d a, .matchLanes c0 .b32 d a]
/-- Control flow. -/
def goInstrs : List Instr :=
  [.bra cT 48#32, .call cT d 48#32, .brxV cT a, .ret cT a, .brxS cT a, .callIndirect cT d a, .exit cT, .yieldPath cT, .rejoin cT 1,
   .rejoinTmo cT 1 1 b]
/-- Float arithmetic. -/
def arithFInstrs : List Instr :=
  [.addVF c0 .f32 false .rne d a b, .addSF c0 .f32 false .rne d a b, .subVF c0 .f32 false .rne d a b, .subSF c0 .f32 false .rne d a b,
   .mulVF c0 .f32 false .rne d a b, .mulSF c0 .f32 false .rne d a b, .fmaV c0 .f32 false .rne d a b e, .fmaS c0 .f32 false .rne d a b e,
   .divVF c0 .f32 .rne d a b, .divSF c0 .f32 .rne d a b, .rcpV c0 .f32 .rne d a, .rcpS c0 .f32 .rne d a, .sqrtV c0 .f32 .rne d a,
   .sqrtS c0 .f32 .rne d a, .rndV c0 .f32 .rne d a, .ex2 c0 false d a, .lg2 c0 false d a, .sinpi c0 false d a, .cospi c0 false d a,
   .dotV c0 false .rne d a b e]
/-- Minima, maxima, sign bits. -/
def signFInstrs : List Instr :=
  [.minVF c0 .f32 d a b, .minSF c0 .f32 d a b, .maxVF c0 .f32 d a b, .maxSF c0 .f32 d a b, .minnumV c0 .f32 d a b, .minnumS c0 .f32 d a b,
   .maxnumV c0 .f32 d a b, .maxnumS c0 .f32 d a b, .absVF c0 .f32 d a, .absSF c0 .f32 d a, .negVF c0 .f32 d a, .negSF c0 .f32 d a,
   .copysignV c0 .f32 d a b, .copysignS c0 .f32 d a b]
/-- Float compares. -/
def cmpFInstrs : List Instr :=
  [.cmpVF c0 false .lt .and 1 2 a b, .cmpVF16 c0 false .lt .and 1 2 a b, .cmpSF c0 false .lt .and 1 2 a b]
/-- Conversions, float reductions and scans. -/
def convFInstrs : List Instr :=
  [.cvtFloatFloat c0 .f32 .f64 .rne d a, .cvtFloatInt c0 .i32 .f32 .rne d a, .cvtIntFloat c0 .f32 .i32 .rne d a,
   .reduceFloat c0 false .add d a, .scanFloat c0 false false .add d a]
/-- Packed narrow words. -/
def packFInstrs : List Instr :=
  [.addVQ c0 false 0#2 d a b, .subVQ c0 false 0#2 d a b, .mulVQ c0 false 0#2 d a b, .fmaVQ c0 false 0#2 d a b e, .minVQ c0 0#2 d a b,
   .maxVQ c0 0#2 d a b, .dotVQ c0 0#2 d a b e, .absVQ c0 0#2 d a, .negVQ c0 0#2 d a, .cvtQFloat c0 .f32 0#2 0#3 d a e,
   .cvtFloatQ c0 .f32 0#2 0#3 d a]

theorem test_arith : ∀ i ∈ arithInstrs, ∃ x, Issues i s0 x ∧ (arithCalc i).isSome = true := issues_all (by decide +kernel)
theorem test_bits : ∀ i ∈ bitsInstrs, ∃ x, Issues i s0 x ∧ (bitsCalc i).isSome = true := issues_all (by decide +kernel)
theorem test_pred : ∀ i ∈ predInstrs, ∃ x, Issues i s0 x ∧ (predEff x i).isSome = true := issues_all (p := fun x i => (predEff x i).isSome) (by decide +kernel)
theorem test_cross : ∀ i ∈ crossInstrs, ∃ x, Issues i s0 x ∧ (crossEff x i).isSome = true := issues_all (p := fun x i => (crossEff x i).isSome) (by decide +kernel)
/-- A stride that fits, and one that does not. -/
def strideB (x : Ctx) (i : Instr) : Bool := match affCalc x i with
  | some (_, _, n) => decide (-2 ^ 31 ≤ n ∧ n ≤ 2 ^ 31 - 1)
  | none => false
def wideB (x : Ctx) (i : Instr) : Bool := match affCalc x i with
  | some (_, _, n) => decide (2 ^ 31 - 1 < n)
  | none => false
theorem test_affine : ∀ i ∈ affInstrs, ∃ x, Issues i s0 x ∧ strideB x i = true := issues_all (by decide +kernel)
theorem test_affine_overflow : ∀ i ∈ ([.shlA c0 d .lane (.imm 31#32), .addA c0 true false d (.reg 1) .lane] : List Instr),
    ∃ x, Issues i (recorded fun r => { r with a := [(1, { stride := 0x7FFFFFFF#32 })] }) x ∧ wideB x i = true := issues_all (by decide +kernel)
/-- Every target of a transfer is 0, or, misaligned, 2. -/
def targets (n : Nat) (x : Ctx) (i : Instr) : Bool := match targetOf x i with
  | some f => (laneList x.e).all fun l => f l == n
  | none => n == 0
theorem test_control : ∀ i ∈ goInstrs, ∃ x, Issues i s0 x ∧ ((goEff x i).isSome && targets 0 x i) = true :=
  issues_all (p := fun x i => (goEff x i).isSome && targets 0 x i) (by decide +kernel)
theorem test_control_misaligned : ∀ i ∈ ([.brxV cT (.imm 2#32), .callIndirect cT d (.imm 2#32), .ret cT (.imm 2#32), .brxS cT (.imm 2#32)] : List Instr),
    ∃ x, Issues i s0 x ∧ targets 2 x i = true := issues_all (by decide +kernel)
/-- No lane, or every lane, raises an enabled exception. -/
def quietB (x : Ctx) : Option FCalc → Bool
  | some o => (o.bad x) == 0#32
  | none => false
def loudB (x : Ctx) : Option FCalc → Bool
  | some o => (o.bad x) != 0#32
  | none => false
theorem test_float : ∀ i ∈ arithFInstrs ++ signFInstrs, ∃ x, Issues i s0 x ∧ quietB x ((arithF x i).orElse fun _ => signF x i) = true :=
  issues_all (p := fun x i => quietB x ((arithF x i).orElse fun _ => signF x i)) (by decide +kernel)
theorem test_convert : ∀ i ∈ convFInstrs, ∃ x, Issues i s0 x ∧ quietB x (convF x i) = true := issues_all (p := fun x i => quietB x (convF x i)) (by decide +kernel)
def compB (f : Mask → Bool) (x : Ctx) (i : Instr) : Bool := match cmpF i with
  | some q => f ((compOf x q).bad x)
  | none => false
theorem test_compare : ∀ i ∈ cmpFInstrs, ∃ x, Issues i s0 x ∧ compB (· == 0#32) x i = true := issues_all (by decide +kernel)
/-- Format e4m3, IEEE encodings, in every format register (R84). -/
def s1 : State := recorded fun r => { r with fmt := [(0, fmtWord 0x34#32), (1, fmtWord 0x34#32), (2, fmtWord 0x34#32), (3, fmtWord 0x34#32)] }
def packB (p : Ctx → Option FCalc → Bool) (x : Ctx) (i : Instr) : Bool := match fmtNo i with
  | some fm => match fmtOfWord (x.st.getFmt fm.toNat) with
    | some f => p x (packF x f i)
    | none => false
  | none => false
theorem test_packed : ∀ i ∈ packFInstrs, ∃ x, Issues i s1 x ∧ packB quietB x i = true := issues_all (by decide +kernel)
/-- The element named is beyond the format's count, 4 (R170). -/
def beyondB (x : Ctx) (i : Instr) : Bool := packB (fun _ o => o.isNone) x i && (elemNo i).any fun n => 4 ≤ n
theorem test_packed_beyond : ∀ i ∈ ([.cvtQFloat c0 .f32 0#2 4#3 d a b, .cvtFloatQ c0 .f32 0#2 7#3 d a] : List Instr),
    ∃ x, Issues i s1 x ∧ beyondB x i = true := issues_all (p := beyondB) (by decide +kernel)
/-- The format register named reads VALID 0, or holds fields of no format. -/
def invalidB (valid : Bool) (x : Ctx) (i : Instr) : Bool := (fmtNo i).any fun n =>
  let w := x.st.getFmt n.toNat
  w.getLsbD 31 == valid && fmtValid (w.toNat % 16) (w.toNat / 2 ^ 4 % 16) (w.toNat / 2 ^ 8 % 4) != valid
/-- Format e4m3 with VALID 0, and no format with VALID 1. -/
def s1off : State := recorded fun r => { r with fmt := (List.range 4).map fun n => (n, 0x00000034#32) }
def s1bad : State := recorded fun r => { r with fmt := (List.range 4).map fun n => (n, 0x80000000#32) }
theorem test_packed_off : ∀ i ∈ packFInstrs, ∃ x, Issues i s1off x ∧ invalidB false x i = true := issues_all (p := invalidB false) (by decide +kernel)
theorem test_packed_invalid : ∀ i ∈ packFInstrs, ∃ x, Issues i s1bad x ∧ invalidB true x i = true := issues_all (p := invalidB true) (by decide +kernel)
/-- Every exception enabled; 0 / 0, NaNs that signal, and an integer beyond its range raise NV. -/
def s2 : State := recorded fun r => { r with fpCtl := 0x1F#32, fmt := [(0, fmtWord 0x34#32)] }
theorem test_traps : ∀ i ∈ ([.divVF c0 .f32 .rne d a b, .divSF c0 .f32 .rne d a b, .cvtFloatInt c0 .i32 .f32 .rne d (.imm 0x7FC00000#32)] : List Instr),
    ∃ x, Issues i s2 x ∧ loudB x ((arithF x i).orElse fun _ => convF x i) = true :=
  issues_all (p := fun x i => loudB x ((arithF x i).orElse fun _ => convF x i)) (by decide +kernel)
theorem test_traps_compare : ∀ i ∈ ([.cmpVF c0 false .lt .set 1 2 (.imm 0x7F800001#32) b] : List Instr), ∃ x, Issues i s2 x ∧ compB (· != 0#32) x i = true :=
  issues_all (by decide +kernel)
/-- v8 holds a float32 NaN that signals. -/
def s3 : State := s2.updGroup 0 0 fun g => { g with v := (List.range 32).map fun l => (32 * 8 + l, 0x7F800001#32) }
theorem test_traps_packed : ∀ i ∈ ([.cvtQFloat c0 .f32 0#2 0#3 d a b] : List Instr), ∃ x, Issues i s3 x ∧ packB loudB x i = true := issues_all (by decide +kernel)

end Sys2Proof.Tests
end

