-- ==== Sys2Proof/Tests/Works.lean ====
section
/-!
SUPPORT. Tests: for each instruction that puts work in flight, publishes, holds or acts on its team, a state in which it issues and one of
its ways of completing is due; and for each fault of such instructions, a state that meets it.
-/
namespace Sys2Proof.Tests
open Sys2Proof.Machine
set_option Elab.async false

/-- The instruction issues, and a way of the table is due. -/
def Comes (f : Ctx → Instr → List Work) (s : State) (i : Instr) : Prop := Issues i s (at_ s) ∧ ∃ w ∈ f (at_ s) i, w.ok

/-- S[8] = p, S[12] = q, v16 = 15 in every lane. -/
def sreg (p q : Word) (s : State) : State := s.updGroup 0 0 fun g =>
  { g.setRec 0 { g.getRec 0 with s := [(8, p), (12, q)] } with v := (List.range 32).map fun l => (32 * 16 + l, 15#32) }
def s4 : State := sreg 0#32 1#32 s0
/-- A barrier object at 0 that awaits 33 arrivals of phase 0. -/
def barAt0 (t : Team) : Team := t.setBar 0 { phase := 0, init := 33, left := 33, bytes := 0, stat := 1 }
def sBar : State := sreg 0#32 1#32 (teamed barAt0)
/-- The wait names the other parity. -/
def sBarPar : State := sreg 0x80000000#32 1#32 (teamed barAt0)
/-- Channel 0: four slots of 128 bytes from 256, with NR, NF, NT. -/
def chan0 (nr nf nt : Nat) : Chan := { valid := true, ridx := 0, nr, nf, nt, count := 4, slot := 128, base := 256 }
def sChan (nr nf nt : Nat) : State := sreg 0#32 1#32 (teamed fun t => { t with chst := [(0, (chan0 nr nf nt).word)] })
/-- A copy of n bytes from 512 to 256, counted at 0; reservation 0 of 1,024 bytes. -/
def sCopy (n : Word) : State := (teamed fun t => { barAt0 t with obres := [(0, 0x8000000000000100#64)] }).updGroup 0 0 fun g =>
  g.setRec 0 { g.getRec 0 with s := [(8, 256#32), (12, 512#32), (16, n)] }
/-- Reservations 0 and 1 of 65,536 bytes. -/
def sResv : State := sreg 0#32 0#32 (teamed fun t => { t with obres := [(0, 0x8000000000004000#64), (1, 0x8000000000004040#64)] })
/-- fmt0 is e4m3 without infinities. -/
def sDrain : State := sResv.updGroup 0 0 fun g => g.setRec 0 { g.getRec 0 with fmt := [(0, fmtWord 0x70134#32)] }
/-- An operation on tile 0 is in flight. -/
def sTile : State := { sResv with ops := [{ id := 0, team := 0, grp := 1, rc := 0, lanes := 1#32, uni := false, flag := none, hdr := 0, pos := 1, chk := true,
                                            dst := none, lb := [], items := [], kind := .xzero 0 }] }
/-- The slot reserved first in channel 0 holds the header of a call without a return. -/
def sCall : State := (sChan 1 0 0).updTeam 0 fun t => t.twrite 640 8 0x100000105
/-- A stream's faulting record waits. -/
def sStream : State := { s4 with streams := [(streamKey 3 0 192 0, { stalled := true })] }

/-- A cluster barrier at 256 that awaits one arrival; the address stands in s8 and s9. -/
def sCbar (hi : Word) : State := ({ s0 with mem := s0.mem.setRun 256 [0#8, 0#8, 0#8, 0#8, 1#8, 0#8, 1#8, 0#8, 0#8, 0#8, 0#8, 0#8, 1#8] } : State).updGroup 0 0 fun g =>
  g.setRec 0 { g.getRec 0 with s := [(8, 256#32), (9, hi)] }
/-- Team 1 has its image at address 0, which DBG_IMG names; its group 0 has a sub-group held in record 0. -/
def team1 : Team := { slice := 192, priv := true, sregs := 16, aregs := 4, image := 0, grid := 7, groups := [(0, { recs := [(0, { mode := .held })], vcur := 8, vmax := 8 })] }
def sDbg : State := sreg 0#32 1#32 { s0 with teams := s0.teams.put 1 team1 }
def team2 : Team := { team1 with stopped := true }
def sDbgStopped : State := { sDbg with teams := sDbg.teams.put 1 team2 }

def sAct (n : Word) : State := sreg 0#32 n sDbgStopped

theorem test_mem_works :
    Comes memWorks s4 (.ldgV c0 .set0 .uni m0 d a) ∧
    Comes memWorks s4 (.ldgS c0 .set0 m0 d a) ∧
    Comes memWorks s4 (.stgV c0 .none .uni m0 a b) ∧
    Comes memWorks s4 (.stgS c0 .none .uni m0 a b) ∧
    Comes memWorks s4 (.ldtmV c0 .set0 .uni m0 d a) ∧
    Comes memWorks s4 (.ldtmS c0 .set0 m0 d a) ∧
    Comes memWorks s4 (.sttmV c0 .none .uni m0 a b) ∧
    Comes memWorks s4 (.sttmS c0 .none .uni m0 a b) ∧
    Comes memWorks s4 (.ldcV c0 .set0 .uni m0 d a) ∧
    Comes memWorks s4 (.ldcS c0 .set0 m0 d a) ∧
    Comes memWorks s4 (.stmsk c0 .none .uni m0 a b e) ∧
    Comes memWorks s4 (.atom c0 .set0 .add at0 d a b (.reg 0)) ∧
    Comes memWorks s4 (.red c0 .none .add at0 a b) ∧
    Comes memWorks s4 (.atomtm c0 .set0 .add { at0 with sc := .grp } d a b (.reg 0)) ∧
    Comes memWorks s4 (.pinLines c0 .set0 d a b) ∧
    Comes memWorks s4 (.unpinLines c0 .set0 d a b) := by
  refine ⟨⟨issues_of (by decide +kernel), _, .head _, ?_⟩, ⟨issues_of (by decide +kernel), _, .head _, ?_⟩, ⟨issues_of (by decide +kernel), _, .head _, ?_⟩, ⟨issues_of (by decide +kernel), _, .head _, ?_⟩, ⟨issues_of (by decide +kernel), _, .head _, ?_⟩, ⟨issues_of (by decide +kernel), _, .head _, ?_⟩, ⟨issues_of (by decide +kernel), _, .head _, ?_⟩, ⟨issues_of (by decide +kernel), _, .head _, ?_⟩, ⟨issues_of (by decide +kernel), _, .head _, ?_⟩, ⟨issues_of (by decide +kernel), _, .head _, ?_⟩, ⟨issues_of (by decide +kernel), _, .head _, ?_⟩, ⟨issues_of (by decide +kernel), _, .head _, ?_⟩, ⟨issues_of (by decide +kernel), _, .head _, ?_⟩, ⟨issues_of (by decide +kernel), _, .head _, ?_⟩, ⟨issues_of (by decide +kernel), _, .head _, ?_⟩, ⟨issues_of (by decide +kernel), _, .head _, ?_⟩⟩ <;>
    (try dsimp only [Access.lanes, Access.aligned, Access.inside, pinOk, maskOut]) <;> decide +kernel

/-- A load of the group is in flight. -/
def sLoading : State := { s4 with stamp := 1, ops := [{ id := 0, team := 0, grp := 0, rc := 0, lanes := 1#32, uni := true, flag := none, hdr := 0, pos := 1, chk := true,
                                                        dst := none, lb := [], items := [], kind := .load false .b32 .x1 }] }
/-- A fence stands behind the load; it alone is in flight. -/
def fence0 : Op := { id := 1, team := 0, grp := 0, rc := 0, lanes := 1#32, uni := true, flag := none, hdr := 0, pos := 1, chk := true, dst := none, lb := [], items := [],
                     kind := .order (some .dom) (some .dom) }
theorem test_order_takes_place :
    ({ sLoading with ops := sLoading.ops ++ [fence0] } : State).op? 1 = some fence0
    ∧ (∃ p ∈ ({ sLoading with ops := sLoading.ops ++ [fence0] } : State).ops, p.team = 0 ∧ p.grp = 0 ∧ p.id < 1 ∧ p.kind.reads = true)
    ∧ ({ s4 with ops := [fence0] } : State).op? 1 = some fence0 := ⟨rfl, ⟨_, .head _, by decide⟩, rfl⟩
/-- At once, and behind the load. -/
theorem test_order_works :
    Comes orderWorks s4 (.publish c0 .team) ∧
    Comes orderWorks s4 (.adopt c0 .clu) ∧
    Comes orderWorks s4 (.fence c0 .dom) ∧
    Comes orderWorks sLoading (.publish c0 .team) ∧
    Comes orderWorks sLoading (.adopt c0 .clu) ∧
    Comes orderWorks sLoading (.fence c0 .dom) := by
  refine ⟨⟨issues_of (by decide +kernel), _, .head _, ?_⟩, ⟨issues_of (by decide +kernel), _, .head _, ?_⟩, ⟨issues_of (by decide +kernel), _, .head _, ?_⟩,
      ⟨issues_of (by decide +kernel), _, .tail _ (.head _), ?_⟩, ⟨issues_of (by decide +kernel), _, .tail _ (.head _), ?_⟩,
      ⟨issues_of (by decide +kernel), _, .tail _ (.head _), ?_⟩⟩ <;>
    dsimp only [olderOut] <;> decide +kernel

theorem test_bar_works :
    Comes barWorks s4 (.barInit c0 a b) ∧
    Comes barWorks sBar (.barArrive c0 .team a) ∧
    Comes barWorks sBar (.barExpect c0 a b) ∧
    Comes barWorks sBarPar (.barWait c0 .team a) ∧
    Comes barWorks sBar (.barWait c0 .team a) ∧
    Comes barWorks sBarPar (.barTest c0 .team 1 a) ∧
    Comes barWorks sBar (.barTest c0 .team 1 a) := by
  refine ⟨⟨issues_of (by decide +kernel), _, .head _, ?_⟩, ⟨issues_of (by decide +kernel), _, .head _, ?_⟩, ⟨issues_of (by decide +kernel), _, .head _, ?_⟩, ⟨issues_of (by decide +kernel), _, .head _, ?_⟩, ⟨issues_of (by decide +kernel), _, .tail _ (.head _), ?_⟩, ⟨issues_of (by decide +kernel), _, .head _, ?_⟩, ⟨issues_of (by decide +kernel), _, .tail _ (.head _), ?_⟩⟩ <;>
    (try dsimp only [Work.when, barPlaced, barValid, barPassed]) <;> decide +kernel

theorem test_chan_works :
    Comes chanWorks (sreg 0#32 0x40040#32 s0) (.chinit c0 0 a b) ∧
    Comes chanWorks (sChan 0 0 0) (.chres c0 0 d) ∧
    Comes chanWorks (sChan 4 0 0) (.chres c0 0 d) ∧
    Comes chanWorks (sChan 1 0 0) (.chcommit c0 .team 0) ∧
    Comes chanWorks (sChan 0 1 0) (.chtake c0 .team 0 d) ∧
    Comes chanWorks (sChan 0 0 0) (.chtake c0 .team 0 d) ∧
    Comes chanWorks (sChan 0 0 1) (.chfree c0 0) := by
  refine ⟨⟨issues_of (by decide +kernel), _, .head _, ?_⟩, ⟨issues_of (by decide +kernel), _, .head _, ?_⟩, ⟨issues_of (by decide +kernel), _, .tail _ (.head _), ?_⟩, ⟨issues_of (by decide +kernel), _, .head _, ?_⟩, ⟨issues_of (by decide +kernel), _, .head _, ?_⟩, ⟨issues_of (by decide +kernel), _, .tail _ (.head _), ?_⟩, ⟨issues_of (by decide +kernel), _, .head _, ?_⟩⟩ <;>
    (try dsimp only [Work.when, chinitOk]) <;> decide +kernel

theorem test_copy_works :
    Comes copyWorks (sCopy 0) (.cpyG2t c0 a b e 0#18) ∧
    Comes copyWorks (sCopy 32) (.cpyG2t c0 a b e 0#18) ∧
    Comes copyWorks (sCopy 32) (.cpyT2g c0 a b e 0#18) ∧
    Comes copyWorks (sCopy 32) (.cpyG2g c0 a b e 0#18) ∧
    Comes copyWorks (sCopy 32) (.cpyT2t c0 a b e 0#18) ∧
    Comes copyWorks (sCopy 32) (.obldG c0 0 a 0#18) ∧
    Comes copyWorks (sCopy 32) (.obldTm c0 0 a 0#18) := by
  refine ⟨⟨issues_of (by decide +kernel), _, .head _, ?_⟩, ⟨issues_of (by decide +kernel), _, .tail _ (.head _), ?_⟩, ⟨issues_of (by decide +kernel), _, .tail _ (.head _), ?_⟩, ⟨issues_of (by decide +kernel), _, .tail _ (.head _), ?_⟩, ⟨issues_of (by decide +kernel), _, .tail _ (.head _), ?_⟩, ⟨issues_of (by decide +kernel), _, .tail _ (.head _), ?_⟩, ⟨issues_of (by decide +kernel), _, .tail _ (.head _), ?_⟩⟩ <;>
    (try dsimp only [copyWorks, copyOf, copyAligned, rangeInside]) <;> decide +kernel

theorem test_matrix_works :
    Comes matrixWorks (sreg 0x100#32 0#32 s0) (.obres c0 0 a) ∧
    Comes matrixWorks sResv (.obrel c0 0) ∧
    Comes matrixWorks sResv (.ldfrag c0 .set0 true false .x2 16#12 0#18 d a) ∧
    Comes matrixWorks sResv (.mma c0 .set0 false 1#2 true 0#8 0#8 0 0 1) ∧
    Comes matrixWorks sResv (.drainF64 c0 .set0 0#20 0 b) ∧
    Comes matrixWorks sResv (.drainI64 c0 .set0 0#20 0 b) ∧
    Comes matrixWorks sDrain (.drainQ c0 .set0 0#2 0#20 false 0#4 0#2 0 b) ∧
    Comes matrixWorks sResv (.xzero c0 0) ∧
    Comes matrixWorks sResv (.xput c0 0 a b) ∧
    Comes matrixWorks sResv (.xget c0 .set0 d 0 b) ∧
    Comes matrixWorks sResv (.xstatNan c0 d 0) ∧
    Comes matrixWorks sResv (.xstatOvf c0 d 0) := by
  refine ⟨⟨issues_of (by decide +kernel), _, .head _, ?_⟩, ⟨issues_of (by decide +kernel), _, .head _, ?_⟩, ⟨issues_of (by decide +kernel), _, .head _, ?_⟩, ⟨issues_of (by decide +kernel), _, .head _, ?_⟩, ⟨issues_of (by decide +kernel), _, .head _, ?_⟩, ⟨issues_of (by decide +kernel), _, .head _, ?_⟩, ⟨issues_of (by decide +kernel), _, .head _, ?_⟩, ⟨issues_of (by decide +kernel), _, .head _, ?_⟩, ⟨issues_of (by decide +kernel), _, .head _, ?_⟩, ⟨issues_of (by decide +kernel), _, .head _, ?_⟩, ⟨issues_of (by decide +kernel), _, .head _, ?_⟩, ⟨issues_of (by decide +kernel), _, .head _, ?_⟩⟩ <;>
    (try dsimp only [resvOk, mmaOk, drainOf, Drain.formOk, Drain.aligned, Drain.top, Drain.row, Drain.step]) <;> decide +kernel
/-- They wait for the tile's earlier operations (R266). -/
theorem test_xstat_waits : mustHold (at_ sTile) (.xstatNan c0 d 0) = true ∧ mustHold (at_ sTile) (.xstatOvf c0 d 0) = true := by decide +kernel

theorem test_call_works :
    Comes callWorks (sreg 0#32 0#32 (sChan 0 0 0)) (.ccall c0 0 b) ∧
    Comes callWorks sCall (.ccall c0 0 b) ∧
    Comes callWorks (sChan 0 0 0) (.crecv c0 .set0 d 0) ∧
    Comes callWorks s4 (.tokWait c0 a) ∧
    Comes callWorks sStream (.tokWait c0 b) ∧
    Comes callWorks s4 (.tokRead c0 d) ∧
    Comes callWorks (sreg 1#32 3#32 s0) (.tokResume c0 d a b) := by
  refine ⟨⟨issues_of (by decide +kernel), _, .head _, ?_⟩, ⟨issues_of (by decide +kernel), _, .tail _ (.head _), ?_⟩, ⟨issues_of (by decide +kernel), _, .head _, ?_⟩, ⟨issues_of (by decide +kernel), _, .head _, ?_⟩, ⟨issues_of (by decide +kernel), _, .tail _ (.head _), ?_⟩, ⟨issues_of (by decide +kernel), _, .head _, ?_⟩, ⟨issues_of (by decide +kernel), _, .head _, ?_⟩⟩ <;>
    (try dsimp only [Work.when, resumeOk]) <;> decide +kernel

theorem test_sched_works :
    Comes schedWorks (sreg 0#32 0#32 s0) (.enq c0 .set0 d a b) ∧
    Comes schedWorks s4 (.launchGrid c0 .set0 d a b) ∧
    Comes schedWorks s4 (.setdl c0 a) ∧
    Comes schedWorks (teamed fun t => { t with cls := 1 }) (.setdl c0 a) ∧
    Comes schedWorks s4 (.collAllreduce c0 .set0 d a) ∧
    Comes schedWorks s4 (.collAllgather c0 .set0 d a) ∧
    Comes schedWorks s4 (.collRedscat c0 .set0 d a) ∧
    Comes schedWorks s4 (.collBcast c0 .set0 d a) := by
  refine ⟨⟨issues_of (by decide +kernel), _, .head _, ?_⟩, ⟨issues_of (by decide +kernel), _, .head _, ?_⟩, ⟨issues_of (by decide +kernel), _, .head _, ?_⟩, ⟨issues_of (by decide +kernel), _, .tail _ (.head _), ?_⟩, ⟨issues_of (by decide +kernel), _, .head _, ?_⟩, ⟨issues_of (by decide +kernel), _, .head _, ?_⟩, ⟨issues_of (by decide +kernel), _, .head _, ?_⟩, ⟨issues_of (by decide +kernel), _, .head _, ?_⟩⟩ <;>
    (try dsimp only [collNo]) <;> decide +kernel

theorem test_tlb_works :
    Comes tlbWorks s4 (.tlbinvAsid c0 a) ∧
    Comes tlbWorks s4 (.tlbinvPage c0 a b) ∧
    Comes tlbWorks (sreg 0#32 0x80000000#32 s0) (.tlbinvPage c0 a b) ∧
    Comes tlbWorks s4 (.tlbinvSlice c0 a) ∧
    Comes tlbWorks s4 (.xlat c0 .set0 (.reg 4) (.zero) a) := by
  refine ⟨⟨issues_of (by decide +kernel), _, .head _, ?_⟩, ⟨issues_of (by decide +kernel), _, .head _, ?_⟩, ⟨issues_of (by decide +kernel), _, .tail _ (.head _), ?_⟩, ⟨issues_of (by decide +kernel), _, .head _, ?_⟩, ⟨issues_of (by decide +kernel), _, .head _, ?_⟩⟩ <;>
    (try dsimp only []) <;> decide +kernel

theorem ok_of {ε α : Type} {r : Except ε α} {v : α} (h : r.toOption = some v) : r = .ok v := by
  cases r <;> simp_all [Except.toOption]
theorem some_ok {ε α : Type} {r : Option (Except ε α)} {v : α} (h : (r.bind Except.toOption) = some v) : ∃ l, r = some (.ok l) := by
  obtain _ | r := r
  · cases h
  · exact ⟨v, congrArg some (ok_of h)⟩
theorem some_of {o : Option Team} (p : Team → Bool) (h : o.any p = true) : ∃ z, o = some z ∧ p z = true := by
  obtain _ | z := o
  · cases h
  · exact ⟨z, rfl, h⟩
theorem cbar_at (hi : Word) (h : hi = 0#32 ∨ hi = 0x80000000#32) : cbarAt (at_ (sCbar hi)) a 256 := by
  rcases h with rfl | rfl <;>
    exact ⟨by unfold cbarPlaced; decide +kernel, ok_of (by decide +kernel), some_ok (v := [256]) (by decide +kernel)⟩
/-- The arrival; a wait that finds the other parity; one that holds. -/
theorem test_cbar_works :
    Comes (fun x i => cbarWorks x 256 i) (sCbar 0#32) (.cbarArrive c0 .clu a) ∧ Comes (fun x i => cbarWorks x 256 i) (sCbar 0x80000000#32) (.cbarWait c0 .clu a) ∧
    Comes (fun x i => cbarWorks x 256 i) (sCbar 0#32) (.cbarWait c0 .clu a) :=
  ⟨⟨issues_of (by decide +kernel), _, .head _, cbar_at _ (.inl rfl), by decide +kernel, by decide +kernel⟩,
   ⟨issues_of (by decide +kernel), _, .head _, cbar_at _ (.inr rfl), by unfold cbarPassed; decide +kernel⟩,
   ⟨issues_of (by decide +kernel), _, .tail _ (.head _), cbar_at _ (.inl rfl), by unfold cbarPassed; decide +kernel⟩⟩
/-- The word at 0 is 6488064; the wait names 1. -/
theorem word_at_0 : (at_ s4).s.waitWord (at_ s4).tm ((at_ s4).rdU 2 .zx a) = .ok (0, 0x630000) := ok_of (by decide +kernel)
theorem test_waitv_works : Comes schedWorks s4 (.waitv c0 .eq 1 a b e) ∧ Comes schedWorks s4 (.waitv c0 .ne 1 a b e) := by
  refine ⟨⟨issues_of (by decide +kernel), ?_⟩, ⟨issues_of (by decide +kernel), ?_⟩⟩ <;> simp only [schedWorks, word_at_0]
  · exact ⟨_, .head _, ⟨by decide +kernel, by decide +kernel, by decide +kernel⟩, by decide +kernel⟩
  · exact ⟨_, .tail _ (.head _), ⟨by decide +kernel, by decide +kernel, by decide +kernel⟩, by decide +kernel⟩
/-- A write of a register that is no state's own is the write of its place. -/
theorem setsr_turn {x : Ctx} {n : BitVec 12} {v : Word} {p : RegPlace} {r : Turn} (hn : n.toNat ∉ [0x010, 0x011, 0x012, 0x013, 0x100, 0x101, 0x410, 0x411])
    (hp : placeOf x n.toNat = some p) (hr : r ∈ placeTurns x.s x.tm.priv n v p) (hk : r.ok) (hg : r.s.group? x.cur.team x.cur.grp = some x.g) :
    ∃ w ∈ setsrWorks x n v, w.ok := by
  simp only [List.mem_cons, List.not_mem_nil, or_false, not_or] at hn
  refine ⟨{ ok := r.ok ∧ r.s.group? x.cur.team x.cur.grp = some x.g, s := r.s }, ?_, hk, hg⟩
  unfold setsrWorks
  rw [if_neg (by omega), if_neg (by omega), if_neg (by omega), if_neg (by omega), if_neg (by omega), hp]
  exact List.mem_map_of_mem hr
/-- The issuing state's own registers, and one that takes no write. -/
theorem test_setsr_own : ∀ n ∈ ([0x010#12, 0x013#12, 0x100#12, 0x410#12, 0x411#12, 0x000#12] : List (BitVec 12)), Comes srWorks s4 (.setsr c0 n a) := by
  intro n hn
  simp only [List.mem_cons, List.not_mem_nil, or_false] at hn
  rcases hn with rfl | rfl | rfl | rfl | rfl | rfl <;> exact ⟨issues_of (by decide +kernel), _, .head _, trivial⟩
/-- S[8] = v: `setsr` issues, and a turn of the register's place keeps the issuing group. -/
def Sets (n : BitVec 12) (v : Word) (s : State) (p : RegPlace) : Prop :=
  let x := at_ (sreg v 0#32 s)
  Issues (.setsr c0 n a) (sreg v 0#32 s) x ∧ placeOf x n.toNat = some p
  ∧ ∃ r ∈ placeTurns x.s x.tm.priv n (BitVec.ofNat 32 (x.rdU 1 .zx a)) p, r.ok ∧ r.s.group? x.cur.team x.cur.grp = some x.g
theorem comes_of_sets {n : BitVec 12} {v : Word} {s : State} {p : RegPlace} (hn : n.toNat ∉ [0x010, 0x011, 0x012, 0x013, 0x100, 0x101, 0x410, 0x411])
    (h : Sets n v s p) : Comes srWorks (sreg v 0#32 s) (.setsr c0 n a) :=
  have ⟨hi, hp, _, hr, hk, hg⟩ := h
  ⟨hi, setsr_turn hn hp hr hk hg⟩
/-- The slice has a pair on the cluster. -/
def sOnePair : State := { s0 with slices := [(192, { pairs := [0] })] }
theorem test_setsr_works :
    Sets 0x308#12 5#32 s0 (.sliceDie 192 0) ∧
    Sets 0x424#12 1#32 s0 (.sliceDie 192 0) ∧
    Sets 0x424#12 0#32 s0 (.sliceDie 192 0) ∧
    Sets 0x200#12 7#32 s0 (.sliceCluster 192 0) ∧
    Sets 0x121#12 7#32 s0 (.sliceCluster 192 0) ∧
    Sets 0x202#12 7#32 s0 (.sliceCluster 192 0) ∧
    Sets 0x203#12 1#32 sOnePair (.sliceCluster 192 0) ∧
    Sets 0x203#12 65535#32 s0 (.sliceCluster 192 0) ∧
    Sets 0x506#12 2147483648#32 s0 (.slice 192) ∧
    Sets 0x506#12 4#32 s0 (.slice 192) ∧
    Sets 0x507#12 4#32 s0 (.slice 192) ∧
    Sets 0x501#12 4#32 s0 (.slice 192) ∧
    Sets 0x50C#12 4#32 s0 (.slice 192) ∧
    Sets 0x608#12 7#32 s0 .package ∧
    Sets 0x60F#12 7#32 ({ s0 with extend := some 1 }) .package ∧
    Sets 0x600#12 7#32 s0 .package ∧
    Sets 0x700#12 7#32 s0 .package ∧
    Sets 0x610#12 4#32 s0 .package ∧
    Sets 0x610#12 5#32 s0 .package ∧
    Sets 0x618#12 255#32 s0 .package ∧
    Sets 0x619#12 255#32 s0 .package ∧
    Sets 0x620#12 255#32 s0 .package ∧
    Sets 0x701#12 255#32 s0 .package ∧
    Sets 0x704#12 255#32 s0 .package ∧
    Sets 0x200#12 7#32 (teamed fun t => { t with priv := false }) (.sliceCluster 192 0) :=
  ⟨⟨issues_of (by decide +kernel), rfl, _, .tail _ (.head _), by decide +kernel, by decide +kernel⟩,
   ⟨issues_of (by decide +kernel), rfl, _, .tail _ (.tail _ (.head _)), by decide +kernel, by decide +kernel⟩,
   ⟨issues_of (by decide +kernel), rfl, _, .tail _ (.tail _ (.tail _ (.head _))), by decide +kernel, by decide +kernel⟩,
   ⟨issues_of (by decide +kernel), rfl, _, .tail _ (.tail _ (.head _)), by decide +kernel, by decide +kernel⟩,
   ⟨issues_of (by decide +kernel), rfl, _, .tail _ (.tail _ (.tail _ (.head _))), by decide +kernel, by decide +kernel⟩,
   ⟨issues_of (by decide +kernel), rfl, _, .tail _ (.tail _ (.tail _ (.head _))), by decide +kernel, by decide +kernel⟩,
   ⟨issues_of (by decide +kernel), rfl, _, .tail _ (.tail _ (.tail _ (.head _))), by decide +kernel, by decide +kernel⟩,
   ⟨issues_of (by decide +kernel), rfl, _, .tail _ (.tail _ (.tail _ (.tail _ (.head _)))), by decide +kernel, by decide +kernel⟩,
   ⟨issues_of (by decide +kernel), rfl, _, .head _, by decide +kernel, by decide +kernel⟩,
   ⟨issues_of (by decide +kernel), rfl, _, .tail _ (.head _), by decide +kernel, by decide +kernel⟩,
   ⟨issues_of (by decide +kernel), rfl, _, .tail _ (.tail _ (.head _)), by decide +kernel, by decide +kernel⟩,
   ⟨issues_of (by decide +kernel), rfl, _, .tail _ (.tail _ (.tail _ (.tail _ (.head _)))), by decide +kernel, by decide +kernel⟩,
   ⟨issues_of (by decide +kernel), rfl, _, .tail _ (.tail _ (.tail _ (.tail _ (.tail _ (.tail _ (.head _)))))), by decide +kernel, by decide +kernel⟩,
   ⟨issues_of (by decide +kernel), rfl, _, .tail _ (.head _), by decide +kernel, by decide +kernel⟩,
   ⟨issues_of (by decide +kernel), rfl, _, .tail _ (.tail _ (.head _)), by decide +kernel, by decide +kernel⟩,
   ⟨issues_of (by decide +kernel), rfl, _, .tail _ (.tail _ (.tail _ (.head _))), by decide +kernel, by decide +kernel⟩,
   ⟨issues_of (by decide +kernel), rfl, _, .tail _ (.tail _ (.tail _ (.tail _ (.head _)))), by decide +kernel, by decide +kernel⟩,
   ⟨issues_of (by decide +kernel), rfl, _, .tail _ (.tail _ (.tail _ (.tail _ (.tail _ (.head _))))), by decide +kernel, by decide +kernel⟩,
   ⟨issues_of (by decide +kernel), rfl, _, .tail _ (.tail _ (.tail _ (.tail _ (.tail _ (.tail _ (.head _)))))), by decide +kernel, by decide +kernel⟩,
   ⟨issues_of (by decide +kernel), rfl, _, .tail _ (.tail _ (.tail _ (.tail _ (.tail _ (.tail _ (.tail _ (.head _))))))), by decide +kernel, by decide +kernel⟩,
   ⟨issues_of (by decide +kernel), rfl, _, .tail _ (.tail _ (.tail _ (.tail _ (.tail _ (.tail _ (.tail _ (.head _))))))), by decide +kernel, by decide +kernel⟩,
   ⟨issues_of (by decide +kernel), rfl, _, .tail _ (.tail _ (.tail _ (.tail _ (.tail _ (.tail _ (.tail _ (.head _))))))), by decide +kernel, by decide +kernel⟩,
   ⟨issues_of (by decide +kernel), rfl, _, .tail _ (.tail _ (.tail _ (.tail _ (.tail _ (.tail _ (.tail _ (.head _))))))), by decide +kernel, by decide +kernel⟩,
   ⟨issues_of (by decide +kernel), rfl, _, .tail _ (.tail _ (.tail _ (.tail _ (.tail _ (.tail _ (.tail _ (.head _))))))), by decide +kernel, by decide +kernel⟩,
   ⟨issues_of (by decide +kernel), rfl, _, .head _, by decide +kernel, by decide +kernel⟩⟩
theorem test_getsr_works : Comes srWorks s4 (.getsr c0 d 0x000#12) ∧ Comes srWorks s4 (.getsr c0 d 0x423#12) ∧ Issues (.setsr c0 0x101#12 a) s4 (at_ s4) :=
  ⟨⟨issues_of (by decide +kernel), _, .head _, trivial⟩, ⟨issues_of (by decide +kernel), _, .head _, trivial⟩, issues_of (by decide +kernel)⟩
theorem team1_named : (at_ sDbg).dbgFind = some ((at_ sDbg).s, 1, team1) := by decide +kernel
theorem team1_stopped : (at_ sDbgStopped).dbgFind = some ((at_ sDbgStopped).s, 1, team2) := by decide +kernel
theorem no_team_named : (at_ s4).dbgFind = none := by decide +kernel
theorem team2_image : (at_ sDbgStopped).s.asImage team2 = some team2 := by decide +kernel
/-- The same team without a group: its image has few fields. -/
def team0 : Team := { team1 with groups := [] }
def sFew : State := { sDbg with teams := sDbg.teams.put 1 team0 }
theorem team0_named : (at_ sFew).dbgFind = some ((at_ sFew).s, 1, team0) := by decide +kernel
theorem team0_image : (at_ sFew).s.asImage team0 = some team0 := by decide +kernel
/-- No team is named; a bad mode; a team whose lines are written at once. -/
theorem test_dbg_stop_works : Comes dbgWorks s4 (.dbgStop c0 d a) ∧ Comes dbgWorks (sreg 2#32 0#32 sFew) (.dbgStop c0 d a) ∧ Comes dbgWorks sFew (.dbgStop c0 d a) := by
  have h2 : (at_ (sreg 2#32 0#32 sFew)).dbgFind = some ((at_ (sreg 2#32 0#32 sFew)).s, 1, team0) := by decide +kernel
  obtain ⟨z, hz, hp⟩ := some_of (o := ((((at_ sFew).s.stopTeam 1).updTeam 1 fun y => { y with claimed := (at_ sFew).rdU 1 .zx a == 1 }).team? 1))
    (fun z => !z.ending && z.st == .written) (by decide +kernel)
  simp only [Bool.and_eq_true, Bool.not_eq_true', beq_iff_eq] at hp
  refine ⟨⟨issues_of (by decide +kernel), ?_⟩, ⟨issues_of (by decide +kernel), ?_⟩, ⟨issues_of (by decide +kernel), ?_⟩⟩
  · simp only [dbgWorks, no_team_named]; exact ⟨_, .head _, trivial⟩
  · simp only [dbgWorks, h2]; exact ⟨_, .head _, .inl (by decide +kernel)⟩
  · simp only [dbgWorks, team0_named, hz, team0_image]
    refine ⟨_, .tail _ (.tail _ (.head _)), ⟨?_, ?_, ?_⟩, hp⟩
    · rintro (h | h | h) <;> revert h <;> decide +kernel
    · decide +kernel
    · unfold Ctx.aside; decide +kernel
theorem team2_word : (at_ sDbgStopped).dbgWord (1#4).toNat (3#8).toNat ((at_ sDbgStopped).rdU 1 .zx a) = .ok (1, team2, 1164, 4) := ok_of (by decide +kernel)
theorem team2_value : (at_ sDbgStopped).s.imgLE team2 1164 4 = .ok 0 := ok_of (by decide +kernel)
theorem team2_free : (at_ sDbgStopped).s.pendingOn 1 (1#4).toNat (3#8).toNat ((at_ sDbgStopped).rdU 1 .zx a) = none := by decide +kernel
theorem test_dbg_resume_works : Comes dbgWorks (sreg 2#32 0#32 sDbg) (.dbgResume c0 d a) ∧ Comes dbgWorks sDbg (.dbgResume c0 d a) ∧
    Comes dbgWorks sDbgStopped (.dbgResume c0 d a) := by
  have h2 : (at_ (sreg 2#32 0#32 sDbg)).dbgFind = some ((at_ (sreg 2#32 0#32 sDbg)).s, 1, team1) := by decide +kernel
  refine ⟨⟨issues_of (by decide +kernel), ?_⟩, ⟨issues_of (by decide +kernel), ?_⟩, ⟨issues_of (by decide +kernel), ?_⟩⟩
  · simp only [dbgWorks, h2]; exact ⟨_, .head _, by unfold Ctx.dbgRefused; decide +kernel⟩
  · simp only [dbgWorks, team1_named]; exact ⟨_, .tail _ (.head _), by decide +kernel, rfl⟩
  · simp only [dbgWorks, team1_stopped, team2_image]
    exact ⟨_, .tail _ (.tail _ (.tail _ (.head _))), by decide +kernel, rfl, by decide +kernel, by unfold Ctx.aside; decide +kernel⟩
theorem test_dbg_word_works : Comes dbgWorks sDbgStopped (.dbgRd c0 1#4 3#8 d a) ∧ Comes dbgWorks sDbgStopped (.dbgWr c0 1#4 3#8 d a b) ∧
    Comes dbgWorks sDbgStopped (.dbgWrForce c0 1#4 3#8 d a b) := by
  refine ⟨⟨issues_of (by decide +kernel), ?_⟩, ⟨issues_of (by decide +kernel), ?_⟩, ⟨issues_of (by decide +kernel), ?_⟩⟩ <;>
    simp only [dbgWorks, team2_word, team2_value, team2_free]
  · exact ⟨_, .head _, trivial⟩
  · exact ⟨_, .head _, trivial, by unfold Ctx.aside; decide +kernel⟩
  · exact ⟨_, .head _, by unfold Ctx.aside; decide +kernel⟩
def act (n : Nat) : Ctx := at_ (sAct (BitVec.ofNat 32 n))
theorem act_team : ∀ n < 4, (act n).dbgFind = some ((act n).s, 1, team2) ∧ (act n).s.asImage team2 = some team2
    ∧ (act n).rdU 1 .zx b = n ∧ (act n).rdU 1 .zx a = 0 ∧ (act n).dbgGrid = none := by decide +kernel
theorem team2_held : heldRec team2 0 := ⟨by decide, { recs := [(0, { mode := .held })], vcur := 8, vmax := 8 }, { mode := .held }, rfl, rfl, rfl⟩
/-- The grid of team 1 runs. -/
def sEnding : State :=
  { sAct 2#32 with
    grids := [(7, { slice := 192, die := 0, asid := 0, priv := true, cls := 0, qid := 0, deadline := 0#64, done := 0, doneval := 0, teams := 1, image := 0,
                    stride := 0, take := 0, launchSeq := 0, running := 1 })] }
theorem test_endgrid_works : Comes dbgWorks sEnding (.endgrid c0 d a b) := by
  have h : (at_ sEnding).rdU 1 .zx b = 2 := by decide +kernel
  have hg : (at_ sEnding).dbgGrid = some 7 := by decide +kernel
  refine ⟨issues_of (by decide +kernel), ?_⟩
  show ∃ w ∈ dbgActWorks (at_ sEnding) d a b, w.ok
  simp only [dbgActWorks, h, endgridWorks, hg]
  exact ⟨_, .tail _ (.tail _ (.head _)), by decide +kernel, by unfold Ctx.aside; decide +kernel, by decide +kernel, by decide +kernel⟩
/-- The held sub-group of team 1 is resumed, and ended; its grid is not there; another action is a bad argument. -/
theorem test_dbg_act_works : Comes dbgWorks (sAct 0#32) (.dbgActResume c0 d a b) ∧ Comes dbgWorks (sAct 1#32) (.dbgActExit c0 d a b) ∧
    Comes dbgWorks (sAct 2#32) (.endgrid c0 d a b) ∧ Comes dbgWorks (sAct 3#32) (.dbgActResume c0 d a b) := by
  obtain ⟨h1, h2, h3, h4, h5⟩ := act_team 0 (by decide)
  obtain ⟨k1, k2, k3, k4, k5⟩ := act_team 1 (by decide)
  obtain ⟨l1, l2, l3, l4, l5⟩ := act_team 2 (by decide)
  obtain ⟨m1, m2, m3, m4, m5⟩ := act_team 3 (by decide)
  refine ⟨⟨issues_of (by decide +kernel), ?_⟩, ⟨issues_of (by decide +kernel), ?_⟩, ⟨issues_of (by decide +kernel), ?_⟩, ⟨issues_of (by decide +kernel), ?_⟩⟩
  · show ∃ w ∈ dbgActWorks (act 0) d a b, w.ok
    simp only [dbgActWorks, h1, h2, h3, h4, resumeWorks, List.map_cons, List.map_nil]
    exact ⟨_, .tail _ (.tail _ (.head _)), team2_held, by unfold Ctx.aside; decide +kernel, by decide +kernel⟩
  · show ∃ w ∈ dbgActWorks (act 1) d a b, w.ok
    simp only [dbgActWorks, k1, k2, k3, k4, exitWorks, List.map_cons, List.map_nil]
    exact ⟨_, .tail _ (.head _), team2_held, by unfold Ctx.aside; decide +kernel⟩
  · show ∃ w ∈ dbgActWorks (act 2) d a b, w.ok
    simp only [dbgActWorks, l3, endgridWorks, l5]
    exact ⟨_, .head _, by unfold Ctx.dbgRefused; decide +kernel⟩
  · show ∃ w ∈ dbgActWorks (act 3) d a b, w.ok
    simp only [dbgActWorks, m3]
    exact ⟨_, .head _, trivial⟩

/-! ## Faults -/

/-- The instruction issues, and a fault of the table is met. -/
def Fails (f : Ctx → Instr → List Fail) (s : State) (i : Instr) : Prop := Issues i s (at_ s) ∧ ∃ q ∈ f (at_ s) i, q.ok
def sregs (r : List (Nat × Word)) : State := recorded fun q => { q with s := r }
theorem test_mem_faults :
    Fails memFails (sregs [(8, 1#32)]) (.ldgV c0 .set0 .uni m0 d a) ∧
    Fails memFails (sregs [(8, 0#32), (9, 0x4000000#32)]) (.ldgV c0 .set0 .uni m0 d a) ∧
    Fails memFails (sregs [(8, 1#32)]) (.ldgS c0 .set0 m0 d a) ∧
    Fails memFails (sregs [(8, 0#32), (9, 0x4000000#32)]) (.ldgS c0 .set0 m0 d a) ∧
    Fails memFails (sregs [(8, 1#32)]) (.stgV c0 .none .uni m0 a b) ∧
    Fails memFails (sregs [(8, 0#32), (9, 0x4000000#32)]) (.stgS c0 .none .uni m0 a b) ∧
    Fails memFails (sregs [(8, 1#32)]) (.ldtmV c0 .set0 .uni m0 d a) ∧
    Fails memFails (sregs [(8, 262144#32)]) (.ldtmV c0 .set0 .uni m0 d a) ∧
    Fails memFails (sregs [(8, 262144#32)]) (.ldtmS c0 .set0 m0 d a) ∧
    Fails memFails (sregs [(8, 1#32)]) (.sttmV c0 .none .uni m0 a b) ∧
    Fails memFails (sregs [(8, 262144#32)]) (.sttmS c0 .none .uni m0 a b) ∧
    Fails memFails (sregs [(8, 1#32)]) (.ldcV c0 .set0 .uni m0 d a) ∧
    Fails memFails (sregs [(8, 0#32), (9, 0x4000000#32)]) (.ldcS c0 .set0 m0 d a) ∧
    Fails memFails (sregs [(8, 1#32)]) (.atom c0 .set0 .add at0 d a b (.reg 0)) ∧
    Fails memFails (sregs [(8, 0#32), (9, 0x4000000#32)]) (.red c0 .none .add at0 a b) ∧
    Fails memFails (sregs [(8, 1#32)]) (.atomtm c0 .set0 .add { at0 with sc := .grp } d a b (.reg 0)) ∧
    Fails memFails (sregs [(8, 128#32), (12, 4097#32)]) (.pinLines c0 .set0 d a b) ∧
    Fails memFails (sregs [(8, 1#32)]) (.unpinLines c0 .set0 d a b) := by
  refine ⟨⟨issues_of (by decide +kernel), _, .head _, ?_⟩, ⟨issues_of (by decide +kernel), _, .tail _ (.head _), ?_⟩, ⟨issues_of (by decide +kernel), _, .head _, ?_⟩, ⟨issues_of (by decide +kernel), _, .tail _ (.head _), ?_⟩, ⟨issues_of (by decide +kernel), _, .head _, ?_⟩, ⟨issues_of (by decide +kernel), _, .tail _ (.head _), ?_⟩, ⟨issues_of (by decide +kernel), _, .head _, ?_⟩, ⟨issues_of (by decide +kernel), _, .tail _ (.head _), ?_⟩, ⟨issues_of (by decide +kernel), _, .tail _ (.head _), ?_⟩, ⟨issues_of (by decide +kernel), _, .head _, ?_⟩, ⟨issues_of (by decide +kernel), _, .tail _ (.head _), ?_⟩, ⟨issues_of (by decide +kernel), _, .head _, ?_⟩, ⟨issues_of (by decide +kernel), _, .tail _ (.head _), ?_⟩, ⟨issues_of (by decide +kernel), _, .head _, ?_⟩, ⟨issues_of (by decide +kernel), _, .tail _ (.head _), ?_⟩, ⟨issues_of (by decide +kernel), _, .head _, ?_⟩, ⟨issues_of (by decide +kernel), _, .head _, ?_⟩, ⟨issues_of (by decide +kernel), _, .head _, ?_⟩⟩ <;>
    (try dsimp only [Access.lanes, Access.aligned, Access.inside, pinOk]) <;> decide +kernel

theorem test_copy_faults :
    Fails copyFails (sregs [(8, 8#32), (12, 512#32), (16, 16#32)]) (.cpyG2t c0 a b e 0#18) ∧
    Fails copyFails (sregs [(8, 262144#32), (12, 512#32), (16, 16#32)]) (.cpyG2t c0 a b e 0#18) ∧
    Fails copyFails (sregs [(8, 0#32), (12, 512#32), (16, 8#32)]) (.cpyT2g c0 a b e 0#18) ∧
    Fails copyFails (sregs [(8, 0#32), (12, 512#32), (16, 16#32)]) (.cpyG2g c0 a b e 8#18) ∧
    Fails copyFails (sregs [(8, 0#32), (12, 262144#32), (16, 16#32)]) (.cpyT2t c0 a b e 0#18) ∧
    Fails copyFails (sregs [(8, 0#32), (12, 0#32), (16, 0x1000010#32)]) (.cpyT2t c0 a b e 0#18) := by
  refine ⟨⟨issues_of (by decide +kernel), _, .head _, ?_⟩, ⟨issues_of (by decide +kernel), _, .tail _ (.head _), ?_⟩, ⟨issues_of (by decide +kernel), _, .head _, ?_⟩, ⟨issues_of (by decide +kernel), _, .head _, ?_⟩, ⟨issues_of (by decide +kernel), _, .tail _ (.head _), ?_⟩, ⟨issues_of (by decide +kernel), _, .head _, ?_⟩⟩ <;>
    (try dsimp only [copyFails, copyOf, copyAligned, rangeInside]) <;> decide +kernel

theorem test_matrix_faults :
    Fails matrixFails s0 (.obres c0 0 a) ∧
    Fails matrixFails (sregs [(8, 1#32)]) (.ldfrag c0 .set0 true false .x2 16#12 0#18 d a) ∧
    Fails matrixFails (sregs [(8, 262144#32)]) (.ldfrag c0 .set0 true false .x1 16#12 0#18 d a) ∧
    Fails matrixFails s0 (.mma c0 .set0 false 1#2 true 0#8 0#8 0 0 1) ∧
    Fails matrixFails (sregs [(12, 128#32)]) (.xput c0 0 a b) ∧
    Fails matrixFails (sregs [(12, 128#32)]) (.xget c0 .set0 d 0 b) ∧
    Fails matrixFails s0 (.obldG c0 0 a 0#18) ∧
    Fails matrixFails s0 (.obldTm c0 0 a 0#18) ∧
    Fails matrixFails s0 (.drainF64 c0 .set0 8#20 0 b) ∧
    Fails matrixFails (sregs [(12, 4#32)]) (.drainI64 c0 .set0 0#20 0 b) ∧
    Fails matrixFails (sregs [(12, 0#32), (13, 0x4000000#32)]) (.drainF64 c0 .set0 0#20 0 b) ∧
    Fails matrixFails s1off (.drainQ c0 .set0 0#2 0#20 false 0#4 0#2 0 b) := by
  refine ⟨⟨issues_of (by decide +kernel), _, .head _, ?_⟩, ⟨issues_of (by decide +kernel), _, .head _, ?_⟩, ⟨issues_of (by decide +kernel), _, .tail _ (.head _), ?_⟩, ⟨issues_of (by decide +kernel), _, .head _, ?_⟩, ⟨issues_of (by decide +kernel), _, .head _, ?_⟩, ⟨issues_of (by decide +kernel), _, .head _, ?_⟩, ⟨issues_of (by decide +kernel), _, .head _, ?_⟩, ⟨issues_of (by decide +kernel), _, .head _, ?_⟩, ⟨issues_of (by decide +kernel), _, .head _, ?_⟩, ⟨issues_of (by decide +kernel), _, .tail _ (.head _), ?_⟩, ⟨issues_of (by decide +kernel), _, .tail _ (.tail _ (.head _)), ?_⟩, ⟨issues_of (by decide +kernel), _, .head _, ?_⟩⟩ <;>
    (try dsimp only [resvOk, mmaOk, drainOf, Drain.formOk, Drain.aligned, Drain.top, Drain.row, Drain.step]) <;> decide +kernel

theorem test_sched_faults :
    Fails schedFails (sregs [(8, 32#32)]) (.enq c0 .set0 d a b) ∧
    Fails schedFails (sregs [(8, 2#32)]) (.waitv c0 .eq 1 a b e) ∧
    Fails schedFails (sregs [(8, 0#32), (9, 0x4000000#32)]) (.waitv c0 .eq 1 a b e) ∧
    Fails schedFails (sregs [(8, 32#32)]) (.collAllreduce c0 .set0 d a) ∧
    Fails schedFails (sregs [(8, 0#32), (9, 0x4000000#32)]) (.collBcast c0 .set0 d a) := by
  refine ⟨⟨issues_of (by decide +kernel), _, .head _, ?_⟩, ⟨issues_of (by decide +kernel), _, .head _, ?_⟩, ⟨issues_of (by decide +kernel), _, .tail _ (.head _), ?_⟩, ⟨issues_of (by decide +kernel), _, .head _, ?_⟩, ⟨issues_of (by decide +kernel), _, .tail _ (.head _), ?_⟩⟩ <;>
    (try dsimp only [collNo]) <;> decide +kernel

theorem test_place_faults :
    Fails placeFails (sregs [(8, 1#32)]) (.barInit c0 a b) ∧
    Fails placeFails (sregs [(8, 262144#32)]) (.barArrive c0 .team a) ∧
    Fails placeFails (sregs [(8, 1#32)]) (.barExpect c0 a b) ∧
    Fails placeFails (sregs [(8, 262144#32)]) (.barWait c0 .team a) ∧
    Fails placeFails (sregs [(8, 1#32)]) (.barTest c0 .team 1 a) ∧
    Fails placeFails (sregs [(8, 1#32)]) (.cbarArrive c0 .clu a) ∧
    Fails placeFails (sregs [(8, 0#32), (9, 0x4000000#32)]) (.cbarWait c0 .clu a) := by
  refine ⟨⟨issues_of (by decide +kernel), _, .head _, ?_⟩, ⟨issues_of (by decide +kernel), _, .tail _ (.head _), ?_⟩, ⟨issues_of (by decide +kernel), _, .head _, ?_⟩, ⟨issues_of (by decide +kernel), _, .tail _ (.head _), ?_⟩, ⟨issues_of (by decide +kernel), _, .head _, ?_⟩, ⟨issues_of (by decide +kernel), _, .head _, ?_⟩, ⟨issues_of (by decide +kernel), _, .tail _ (.head _), ?_⟩⟩ <;>
    (try dsimp only []) <;> decide +kernel

theorem test_tlb_faults :
    Fails tlbFails (sregs [(8, 0xC10000#32)]) (.tlbinvAsid c0 a) ∧
    Fails tlbFails (sregs [(8, 0x80000000#32)]) (.tlbinvSlice c0 a) ∧
    Fails tlbFails (sregs [(12, 0x80000001#32)]) (.tlbinvPage c0 a b) ∧
    Fails tlbFails (sregs [(8, 0x1000000#32)]) (.xlat c0 .set0 d (.zero) a) ∧
    Fails tlbFails (sregs [(8, 65536#32)]) (.tokWait c0 a) := by
  refine ⟨⟨issues_of (by decide +kernel), _, .head _, ?_⟩, ⟨issues_of (by decide +kernel), _, .head _, ?_⟩, ⟨issues_of (by decide +kernel), _, .head _, ?_⟩, ⟨issues_of (by decide +kernel), _, .head _, ?_⟩, ⟨issues_of (by decide +kernel), _, .head _, ?_⟩⟩ <;>
    (try dsimp only []) <;> decide +kernel

theorem test_sync_faults :
    Fails syncFails s0 (.barInit c0 a b) ∧
    Fails syncFails s0 (.barArrive c0 .team a) ∧
    Fails syncFails s0 (.barWait c0 .team a) ∧
    Fails syncFails s0 (.barTest c0 .team 1 a) ∧
    Fails syncFails s0 (.barExpect c0 a b) ∧
    Fails syncFails (sreg 0#32 0x7FFFFFFF#32 (sBar.updTeam 0 fun t => t.setBar 0 { t.bar 0 with bytes := 1 })) (.barExpect c0 a b) ∧
    Fails syncFails s0 (.chinit c0 0 a b) ∧
    Fails syncFails s0 (.chres c0 0 d) ∧
    Fails syncFails s0 (.chcommit c0 .team 0) ∧
    Fails syncFails s0 (.chtake c0 .team 0 d) ∧
    Fails syncFails s0 (.crecv c0 .set0 d 0) ∧
    Fails syncFails s0 (.chfree c0 0) ∧
    Fails syncFails (sChan 0 0 0) (.chfree c0 0) ∧
    Fails syncFails s4 (.ccall c0 0 b) ∧
    Fails syncFails (sChan 0 0 0) (.ccall c0 0 b) ∧
    Fails syncFails (sChan 1 0 0) (.ccall c0 0 b) := by
  refine ⟨⟨issues_of (by decide +kernel), _, .head _, ?_⟩, ⟨issues_of (by decide +kernel), _, .head _, ?_⟩, ⟨issues_of (by decide +kernel), _, .head _, ?_⟩, ⟨issues_of (by decide +kernel), _, .head _, ?_⟩, ⟨issues_of (by decide +kernel), _, .head _, ?_⟩, ⟨issues_of (by decide +kernel), _, .tail _ (.head _), ?_⟩, ⟨issues_of (by decide +kernel), _, .head _, ?_⟩, ⟨issues_of (by decide +kernel), _, .head _, ?_⟩, ⟨issues_of (by decide +kernel), _, .head _, ?_⟩, ⟨issues_of (by decide +kernel), _, .head _, ?_⟩, ⟨issues_of (by decide +kernel), _, .head _, ?_⟩, ⟨issues_of (by decide +kernel), _, .head _, ?_⟩, ⟨issues_of (by decide +kernel), _, .tail _ (.head _), ?_⟩, ⟨issues_of (by decide +kernel), _, .head _, ?_⟩, ⟨issues_of (by decide +kernel), _, .tail _ (.head _), ?_⟩, ⟨issues_of (by decide +kernel), _, .tail _ (.tail _ (.head _)), ?_⟩⟩ <;>
    (try dsimp only [barPlaced, barValid, chinitOk]) <;> decide +kernel

end Sys2Proof.Tests
end

