-- ==== Sys2Proof/Tests/Rows.lean ====
section
/-!
SUPPORT. Tests: for each row of another agent, a state in which it takes place.
-/
namespace Sys2Proof.Tests
open Sys2Proof.Machine
set_option Elab.async false
set_option exponentiation.threshold 4096
set_option maxRecDepth 100000

/-- A way of the table is due in the state. -/
def Takes (f : State → Instr → List Turn) (s : State) (i : Instr) : Prop := ∃ r ∈ f s i, r.ok

/-! ## Paths -/

/-- The word at 12 is `nop` with END; every lane stands at `pc`, in no checked clause. -/
def sProg : State := { State.reset.withFetchWord 96 0x000F00000000004000000000 with stream1 := none, cur := some (probeCursor 0) }
def sAt (pc off : Nat) : State := sProg.updGroup 0 0 fun g =>
  { g with lanes := g.lanes.map fun y => { y with hdr := none, pc := BitVec.ofNat 64 pc, off } }
/-- Lanes 0 to 15 wait at mask `j`, the others at mask `k`, each mask naming every lane, with deadline 0 or none. -/
def sJoin (j k : Nat) (wdl : Option Nat) : State := grouped fun g =>
  { g with jm := [(1, 0xFFFFFFFF#32), (2, 0xFFFFFFFF#32)], lanes := g.lanes.mapIdx fun l y => { y with st := .waiting, wj := if l < 16 then j else k, wdl } }
theorem test_row_clauseStart :
    Takes pathTurns (sAt 0 0) (.clauseStart 0 0 0xFFFFFFFF#32) ∧
    Takes pathTurns (sAt 12 1) (.clauseStart 0 0 0xFFFFFFFF#32) ∧
    Takes pathTurns (sAt 24 2) (.clauseStart 0 0 0xFFFFFFFF#32) ∧
    Takes pathTurns (sAt 4096 0) (.clauseStart 0 0 0xFFFFFFFF#32) ∧
    Takes pathTurns (sAt 65536 0) (.clauseStart 0 0 0xFFFFFFFF#32) :=
  ⟨⟨_, .head _, by decide +kernel⟩,
   ⟨_, .tail _ (.head _), by decide +kernel⟩,
   ⟨_, .tail _ (.tail _ (.head _)), by decide +kernel⟩,
   ⟨_, .head _, by decide +kernel⟩,
   ⟨_, .head _, by decide +kernel⟩⟩
theorem test_row_rejoinRelease :
    Takes pathTurns (sJoin 1 1 none) (.rejoinRelease 0 0 1) :=
  ⟨_, .head _, by decide +kernel⟩
theorem test_row_rejoinTimeout :
    Takes pathTurns (sJoin 1 2 (some 0)) (.rejoinTimeout 0 0) :=
  ⟨_, .head _, by decide +kernel⟩
theorem test_row_rejoinDeadlock :
    Takes pathTurns (sJoin 1 2 none) (.rejoinDeadlock 0 0) :=
  ⟨_, .head _, by decide +kernel⟩

/-! ## Waits -/

/-- Every lane holds at `k`; the team has a barrier object at 0, of phase 0, and a channel with NR, NF, NT. -/
def sWaits (k : HoldKind) (nr nf nt : Nat) : State :=
  (teamed fun t => { barAt0 t with chst := [(0, (chan0 nr nf nt).word)] }).updGroup 0 0 fun g =>
    { g with holds := [{ id := 0, rc := 0, lanes := 0xFFFFFFFF#32, e := 0xFFFFFFFF#32, fin := false, kind := k }] }
theorem test_row_barWaitComplete :
    Takes waitTurns (sWaits (.barWait 0 true .team) 0 0 0) (.barWaitComplete 0 0 0) :=
  ⟨_, .head _, by decide +kernel⟩
theorem test_row_chresGrant :
    Takes waitTurns (sWaits (.chres 0 d) 3 0 0) (.chresGrant 0 0 0) :=
  ⟨_, .head _, by decide +kernel⟩
theorem test_row_chtakeGrant :
    Takes waitTurns (sWaits (.chtake .team 0 d) 0 1 0) (.chtakeGrant 0 0 0) :=
  ⟨_, .head _, by decide +kernel⟩
theorem test_row_tokWaitDrained :
    Takes waitTurns (sWaits (.tokWait 0xFFFF) 0 0 0) (.tokWaitDrained 0 0 0) :=
  ⟨_, .head _, by decide +kernel⟩
theorem test_row_waitvTest :
    Takes waitTurns (sWaits (.waitv .eq 1 4096 0#32 none) 0 0 0) (.waitvTest 0 0 0) :=
  ⟨_, .head _, by decide +kernel⟩
theorem test_row_waitvTimeout :
    Takes waitTurns (sWaits (.waitv .ne 1 4096 0#32 (some 0)) 0 0 0) (.waitvTimeout 0 0 0) ∧
    Takes waitTurns (sWaits (.waitv .ne 1 65536 0#32 (some 0)) 0 0 0) (.waitvTimeout 0 0 0) :=
  ⟨⟨_, .head _, by decide +kernel⟩,
   ⟨_, .head _, by decide +kernel⟩⟩
theorem test_row_cbarWaitComplete :
    Takes waitTurns (sWaits (.cbarWait .clu 4096 true) 0 0 0) (.cbarWaitComplete 0 0 0) :=
  ⟨_, .head _, by decide +kernel⟩

/-! ## Operations -/

/-- One operation of the group's is in flight. -/
def opOf (chk : Bool) (items : List Item) (kind : OpKind) : Op :=
  { id := 0, team := 0, grp := 0, rc := 0, lanes := 1#32, uni := false, flag := some 0, hdr := 0, pos := 1, chk, dst := some ⟨false, 4, 1⟩, lb := [], items, kind }
def sOp (chk : Bool) (items : List Item) (kind : OpKind) : State := { (grouped fun g => { g with flags := [(0, 1)] }) with ops := [opOf chk items kind] }
/-- Lane 0's word at an address, unchecked and checked. -/
def word0 (addr : Nat) : Item := { lane := 0, addr, mask := 15, data := 7 }
def got0 : Item := { word0 4096 with pa := [4096, 4097, 4098, 4099] }
def mark0 : Item := { lane := 0, addr := 0, mask := 0 }
/-- An earlier access of lane 0 in the clause has faulted at 4,100. -/
def sWithheld (it : Item) (kind : OpKind) : State :=
  { (grouped fun g => { g with flags := [(0, 1)], late := [{ id := 0, lane := 0, hdr := 0, pos := 1, cls := 16, addr := 4096, lo := 4100, mask := 15, flag := some 0, skid := 0 }] }) with
    ops := [{ opOf false [it] kind with id := 1 }] }
def g0 (base : Nat) : Range := ⟨.glob, base⟩
def t0 (base : Nat) : Range := ⟨.team, base⟩
/-- A receipt in flight from a channel with one filled slot. -/
def sTakes (k : OpKind) : State := (sOp true [] k).updTeam 0 fun t => { t with chst := [(0, (chan0 0 1 0).word)] }
/-- 1,024 grids are pending. -/
def grid0 : Grid := { slice := 192, die := 0, asid := 0, priv := true, cls := 0, qid := 0, deadline := 0#64, done := 0, doneval := 0, teams := 1, image := 0,
                      stride := 0, take := 0, launchSeq := 0 }
def sFull (k : OpKind) : State := { sOp false [] k with grids := (List.range 1024).map fun n => (n, grid0) }
/-- A call of SEQ 0 in collective group 0: the parts of some ranks, that of rank 0 its own. -/
def collOf (rank : Nat) (form : List Nat) : Contrib := { members := [192], group := 0, seq := 0, rank, form, data := 5, op := some 0 }
def sColl (cs : List Contrib) : State := { sOp true [] (.coll 0 0) with contribs := cs }
theorem test_row_accessCheck :
    Takes opTurns (sOp false [word0 4096] (.load false .b32 .x1)) (.accessCheck 0) ∧
    Takes opTurns (sOp false [word0 65536] (.load false .b32 .x1)) (.accessCheck 0) ∧
    Takes opTurns (sOp false [word0 4096] .store) (.accessCheck 0) ∧
    Takes opTurns (sOp false [word0 65536] .store) (.accessCheck 0) ∧
    Takes opTurns (sOp false [word0 4096] (.atomic .add false .dom .rlx true)) (.accessCheck 0) ∧
    Takes opTurns (sOp false [word0 4096] (.atomic .add false .dom .rlx false)) (.accessCheck 0) ∧
    Takes opTurns (sOp false [{ lane := 0, addr := 4096, mask := 0, data := 2 }] (.pin false)) (.accessCheck 0) ∧
    Takes opTurns (sOp false [{ lane := 0, addr := 65536, mask := 0, data := 2 }] (.pin false)) (.accessCheck 0) ∧
    Takes opTurns (sWithheld { lane := 0, addr := 4096, mask := 0, data := 2 } (.pin false)) (.accessCheck 1) ∧
    Takes opTurns (sOp false [mark0] (.copy (t0 0) (g0 65536) 16 0 [] [] [])) (.accessCheck 0) ∧
    Takes opTurns (sOp false [mark0] (.copy (g0 65536) (t0 0) 16 0 [] [] [])) (.accessCheck 0) ∧
    Takes opTurns (sOp false [mark0] (.copy (t0 0) (g0 4096) 16 0 [] [] [])) (.accessCheck 0) ∧
    Takes opTurns (sWithheld mark0 (.copy (t0 0) (g0 4096) 16 0 [] [] [])) (.accessCheck 1) ∧
    Takes opTurns (sOp false [mark0] (.drain .q (fmtWord 0x70134#32) none 0 4096 64 [])) (.accessCheck 0) ∧
    Takes opTurns (sOp false [mark0] (.drain .q (fmtWord 0x70134#32) none 0 65536 64 [])) (.accessCheck 0) ∧
    Takes opTurns (sWithheld mark0 (.drain .q (fmtWord 0x70134#32) none 0 4096 64 [])) (.accessCheck 1) :=
  ⟨⟨_, .head _, by decide +kernel⟩,
   ⟨_, .tail _ (.head _), by decide +kernel⟩,
   ⟨_, .head _, by decide +kernel⟩,
   ⟨_, .tail _ (.head _), by decide +kernel⟩,
   ⟨_, .head _, by decide +kernel⟩,
   ⟨_, .head _, by decide +kernel⟩,
   ⟨_, .tail _ (.head _), by decide +kernel⟩,
   ⟨_, .tail _ (.head _), by decide +kernel⟩,
   ⟨_, .head _, by decide +kernel⟩,
   ⟨_, .tail _ (.head _), by decide +kernel⟩,
   ⟨_, .tail _ (.head _), by decide +kernel⟩,
   ⟨_, .tail _ (.head _), by decide +kernel⟩,
   ⟨_, .head _, by decide +kernel⟩,
   ⟨_, .tail _ (.head _), by decide +kernel⟩,
   ⟨_, .tail _ (.head _), by decide +kernel⟩,
   ⟨_, .head _, by decide +kernel⟩⟩
theorem test_row_loadCompletion :
    Takes opTurns (sOp true [got0] (.load false .b32 .x1)) (.loadCompletion 0 0) ∧
    Takes opTurns (sOp true [got0] (.load true .b32 .x1)) (.loadCompletion 0 0) ∧
    Takes opTurns (sOp true [word0 4096] (.tload .b32 .x1)) (.loadCompletion 0 0) ∧
    Takes opTurns (sOp true [{ lane := 0, addr := 0, mask := 0 }] (.xget 0 65)) (.loadCompletion 0 0) :=
  ⟨⟨_, .head _, by decide +kernel⟩,
   ⟨_, .head _, by decide +kernel⟩,
   ⟨_, .head _, by decide +kernel⟩,
   ⟨_, .head _, by decide +kernel⟩⟩
theorem test_row_storeCompletion :
    Takes opTurns (sOp true [got0] .store) (.storeCompletion 0) ∧
    Takes opTurns (sOp true [word0 4096] .tstore) (.storeCompletion 0) :=
  ⟨⟨_, .head _, by decide +kernel⟩,
   ⟨_, .tail _ (.head _), by decide +kernel⟩⟩
theorem test_row_atomicCompletion :
    Takes opTurns (sOp true [got0] (.atomic .add false .dom .ar true)) (.atomicCompletion 0) ∧
    Takes opTurns (sOp true [word0 4096] (.tatomic .add false)) (.atomicCompletion 0) :=
  ⟨⟨_, .head _, by decide +kernel⟩,
   ⟨_, .head _, by decide +kernel⟩⟩
theorem test_row_reductionCompletion :
    Takes opTurns (sOp true [got0] (.atomic .add false .dom .rlx false)) (.reductionCompletion 0) :=
  ⟨_, .head _, by decide +kernel⟩
theorem test_row_pinCompletion :
    Takes opTurns (sOp true [{ lane := 0, addr := 4096, mask := 0, data := 2, pa := [4096, 4224] }] (.pin false)) (.pinCompletion 0) ∧
    Takes opTurns (sOp true [{ lane := 0, addr := 4096, mask := 0, data := 2, pa := [4096, 4224] }] (.pin true)) (.pinCompletion 0) :=
  ⟨⟨_, .head _, by decide +kernel⟩,
   ⟨_, .head _, by decide +kernel⟩⟩
theorem test_row_engineByteCount :
    Takes opTurns (sOp true [] (.copy (t0 0) (g0 4096) 16 64 [(0, 12)] [] [4096])) (.engineByteCount 0 12 4) ∧
    Takes opTurns (sOp true [] (.copy (g0 4096) (t0 0) 16 64 [] [4096] [])) (.engineByteCount 0 8 4) :=
  ⟨⟨_, .head _, by decide +kernel⟩,
   ⟨_, .head _, by decide +kernel⟩⟩
theorem test_row_mmaAccumulate :
    Takes opTurns (sOp true [] (.mma false true 1 0 0 0 0x8000000000004000#64 0x8000000000004040#64)) (.mmaAccumulate 0) ∧
    Takes opTurns (sOp true [] (.mma true false 1 0 0 0 0x8000000000004000#64 0x8000000000004040#64)) (.mmaAccumulate 0) :=
  ⟨⟨_, .head _, by decide +kernel⟩,
   ⟨_, .head _, by decide +kernel⟩⟩
/-- Without a channel in training, bytes of this package are held by none. -/
theorem chanHeld_here {s : State} (hc : s.chans = []) {pas : List Nat} (h : ∀ a ∈ pas, isRemote a = false) : s.chanHeld pas = false := by
  unfold State.chanHeld State.gone
  refine List.any_eq_false.mpr fun a ha => ?_
  have ht : ∀ k, (SMap.get ([] : SMap ChanSt) k).training = false := fun _ => rfl
  simp [hc, h a ha, ht]
theorem test_row_drainCompletion :
    Takes opTurns (sOp true [] (.drain .i64 0#32 none 0 4096 0 [])) (.drainCompletion 0) :=
  ⟨_, .head _, rfl, by decide +kernel, chanHeld_here rfl fun a ha => by
    obtain ⟨p, -, rfl⟩ := List.mem_map.mp ha
    simp [blockByte, isRemote]
    omega⟩
theorem test_row_xlatCompletion :
    Takes opTurns (sOp true [] (.xlat 4096 0)) (.xlatCompletion 0) :=
  ⟨_, .head _, by decide +kernel⟩
theorem test_row_crecvTake :
    Takes opTurns (sTakes (.crecv 0)) (.crecvTake 0) :=
  ⟨_, .head _, by decide +kernel⟩
theorem test_row_poisonFound :
    Takes opTurns ({ sOp true [got0] (.load false .b32 .x1) with poison := [(128, 2#32)] }) (.poisonFound 0) :=
  ⟨_, .head _, ⟨rfl, by decide +kernel, by decide +kernel, trivial⟩⟩
theorem test_row_enqCompletion :
    Takes opTurns (sOp false [] (.enq 4096 4160)) (.enqCompletion 0) ∧
    Takes opTurns (sOp false [] (.enq 4096 65536)) (.enqCompletion 0) :=
  ⟨⟨_, .head _, by decide +kernel⟩,
   ⟨_, .head _, by decide +kernel⟩⟩
theorem test_row_launchCompletion :
    Takes opTurns (sOp false [] (.launch 1 1)) (.launchCompletion 0) ∧
    Takes opTurns (sOp false [] (.launch 4096 1)) (.launchCompletion 0) ∧
    Takes opTurns (sFull (.launch 4096 (2 ^ 20))) (.launchCompletion 0) ∧
    Takes opTurns (sOp false [] (.launch 4096 0)) (.launchCompletion 0) ∧
    Takes opTurns (sOp false [] (.launch 65536 1)) (.launchCompletion 0) :=
  ⟨⟨_, .head _, by decide +kernel⟩,
   ⟨_, .tail _ (.tail _ (.head _)), by decide +kernel⟩,
   ⟨_, .tail _ (.tail _ (.tail _ (.head _))), by decide +kernel⟩,
   ⟨_, .tail _ (.head _), by decide +kernel⟩,
   ⟨_, .tail _ (.head _), by decide +kernel⟩⟩
theorem test_row_collectiveCompletion :
    Takes opTurns (sColl [collOf 0 [0, 1, 0, 2, 0, 4096]]) (.collectiveCompletion 0) ∧
    Takes opTurns (sColl [{ collOf 0 [0, 1, 0, 2, 0, 4096] with members := [192, 448] }, { collOf 1 [1, 1, 0, 2, 0, 4096] with members := [192, 448], op := none }]) (.collectiveCompletion 0) ∧
    Takes opTurns (sColl [{ collOf 0 [0, 1, 0, 2, 0, 4096] with members := [192, 448] }, { collOf 1 [] with members := [192, 448], op := none, lost := true }]) (.collectiveCompletion 0) ∧
    Takes opTurns (sColl [{ collOf 0 [0, 1, 0, 2, 0, 4096] with bad := [0] }]) (.collectiveCompletion 0) :=
  ⟨⟨_, .tail _ (.tail _ (.tail _ (.head _))), by decide +kernel⟩,
   ⟨_, .head _, by decide +kernel⟩,
   ⟨_, .tail _ (.head _), by decide +kernel⟩,
   ⟨_, .tail _ (.tail _ (.head _)), by decide +kernel⟩⟩

/-! ## Late faults, poison -/

/-- The clause at 0 waits for flag 0; every lane stands there, and lane 0 has a late fault, or is marked. -/
def sLate (late : List LateFault) (marks : List PoisonMark) : State := ({ sAt 0 0 with mem := (sAt 0 0).mem.set 0 1#8 } : State).updGroup 0 0 fun g => { g with late, marks }
def late0 : LateFault := { id := 0, lane := 0, hdr := 0, pos := 1, cls := 16, addr := 65536, lo := 65536, mask := 15, flag := some 0, skid := 0 }
theorem test_row_lateFaultPark :
    Takes parkTurns (sLate [late0] []) (.lateFaultPark 0 0) ∧
    Takes parkTurns (sLate [{ late0 with noReplay := true }] []) (.lateFaultPark 0 0) ∧
    Takes parkTurns (sLate [{ late0 with slot := some 256 }] []) (.lateFaultPark 0 0) :=
  ⟨⟨_, .head _, by decide +kernel⟩,
   ⟨_, .head _, by decide +kernel⟩,
   ⟨_, .head _, by decide +kernel⟩⟩
theorem test_row_poisonPark :
    Takes parkTurns (sLate [] [{ id := 0, lane := 0, flag := some 0, addr := 4096, skid := 0 }]) (.poisonPark 0 0) :=
  ⟨_, .head _, by decide +kernel⟩

/-! ## Units -/

/-- A record of 64 bytes, from (offset, size, value). -/
def rcdOf (fs : List (Nat × Nat × Nat)) : Nat := fs.foldl (fun v f => v + f.2.2 % 2 ^ (8 * f.2.1) * 2 ^ (8 * f.1)) 0
/-- A call of a unit, dispatched from group 0 without a return slot: LANES of lane 0. -/
def callOf (type : Nat) (mode : CallMode) (fs : List (Nat × Nat × Nat)) : Call :=
  { id := 0, team := 0, grp := 0, rc := 0, slice := 192, die := 0, clu := 0, asid := 0, priv := true, image := 0
    rcd := rcdOf ((0, 8, 0x100000100 + type) :: fs), ret := none, replay := none, mode }
def sUnit (type : Nat) (fs : List (Nat × Nat × Nat)) : State := { s0 with calls := [callOf type .plain fs] }
/-- An ordered record of a stream, ready to commit or with a status to answer. -/
def sOrd (type : Nat) (mode : CallMode) (st : Stream) (fs : List (Nat × Nat × Nat)) : State :=
  let c := callOf type mode fs
  { s0 with calls := [{ c with rcd := c.rcd + 64 }], streams := [(streamKey type 0 192 0, st)] }
/-- A record that binds a stream: one sample, D32F, one tile, no stencil. -/
def bindRec : List (Nat × Nat × Nat) := [(8, 1, 1), (12, 4, 1), (16, 8, 4096), (24, 8, 8192), (32, 4, 64), (48, 2, 8), (50, 2, 8)]
/-- The team of an earlier record of the stream is still with the unit. -/
def sBusy (type : Nat) (fs : List (Nat × Nat × Nat)) : State :=
  { s0 with calls := [callOf type .plain fs, { callOf type .plain [] with id := 1, rcd := (callOf type .plain []).rcd + 64 }] }
/-- A patch whose factors are 1.0; an output area of a size. -/
def patchOf (kind room : Nat) : List (Nat × Nat × Nat) :=
  [(8, 1, kind), (12, 4, 0x3F800000), (16, 4, 0x3F800000), (20, 4, 0x3F800000), (24, 4, 0x3F800000), (28, 4, 0x3F800000), (32, 4, 0x3F800000), (36, 8, 4096),
   (44, 4, room), (48, 8, 8192), (56, 4, room)]
/-- The slice holds encoder lane 0 of cluster 0, and its pages are of 2^25 bytes. -/
def sEnc (fs : List (Nat × Nat × Nat)) : State :=
  { sUnit 8 fs with slices := [(192, { encs := [0] })], tlb1 := s0.tlb1.map fun e => { e with bits := 25 }, tlb2 := s0.tlb2.map fun e => { e with bits := 25 } }
def configRec : List (Nat × Nat × Nat) := [(13, 1, 8), (16, 2, 64), (18, 2, 64), (24, 8, 4096), (32, 4, 77824)]
/-- The router holds one slot of channel 0, whose record has a header; channel 1 takes returns. -/
def sRoute (hdr : Nat) : State := teamed fun t =>
  { (t.twrite 256 8 hdr) with chst := [(0, (chan0 0 0 1).word), (1, ({ chan0 0 0 0 with base := 1024 } : Chan).word)], handed := [{ ch := 0, slot := 0, grp := 0, rc := 0, stamp := 0 }] }
theorem test_row_binnerCall :
    Takes unitTurns (sUnit 1 [(8, 8, 1)]) (.binnerCall 0) ∧
    Takes unitTurns (sUnit 1 [(8, 8, 4096)]) (.binnerCall 0) :=
  ⟨⟨_, .head _, by decide +kernel⟩,
   ⟨_, .tail _ (.head _), by decide +kernel⟩⟩
theorem test_row_rasteriserCall :
    Takes unitTurns (sUnit 2 [(48, 4, 2 ^ 20)]) (.rasteriserCall 0) ∧
    Takes unitTurns (sUnit 2 [(8, 4, 256), (16, 4, 256 * 4), (28, 4, 256 * 4), (52, 1, 1)]) (.rasteriserCall 0) :=
  ⟨⟨_, .head _, by decide +kernel⟩,
   ⟨_, .tail _ (.head _), by decide +kernel⟩⟩
theorem test_row_streamBind :
    Takes unitTurns (sUnit 3 [(8, 1, 0)]) (.streamBind 0) ∧
    Takes unitTurns (sUnit 3 bindRec) (.streamBind 0) ∧
    Takes unitTurns (sBusy 3 bindRec) (.streamBind 0) ∧
    Takes unitTurns (sUnit 4 bindRec) (.streamBind 0) :=
  ⟨⟨_, .head _, by decide +kernel⟩,
   ⟨_, .tail _ (.tail _ (.head _)), by decide +kernel⟩,
   ⟨_, .tail _ (.head _), by decide +kernel⟩,
   ⟨_, .tail _ (.tail _ (.head _)), by decide +kernel⟩⟩
theorem test_row_streamClear :
    Takes unitTurns (sUnit 3 [(8, 1, 2), (9, 1, 16)]) (.streamClear 0) ∧
    Takes unitTurns (sUnit 3 [(8, 1, 2)]) (.streamClear 0) ∧
    Takes unitTurns (sBusy 4 [(8, 1, 2)]) (.streamClear 0) :=
  ⟨⟨_, .head _, by decide +kernel⟩,
   ⟨_, .tail _ (.tail _ (.head _)), by decide +kernel⟩,
   ⟨_, .tail _ (.head _), by decide +kernel⟩⟩
theorem test_row_depthStencilCommit :
    Takes unitTurns (sOrd 3 .ready { bound := true, tiles := 1, state := 4096 } []) (.depthStencilCommit 0) ∧
    Takes unitTurns (sOrd 3 (.err 4) {} []) (.depthStencilCommit 0) :=
  ⟨⟨_, .head _, by decide +kernel⟩,
   ⟨_, .head _, by decide +kernel⟩⟩
theorem test_row_blendCommit :
    Takes unitTurns (sOrd 4 .ready { bound := true, tiles := 1, state := 4096 } []) (.blendCommit 0) ∧
    Takes unitTurns (sOrd 4 (.err 4) {} []) (.blendCommit 0) :=
  ⟨⟨_, .head _, by decide +kernel⟩,
   ⟨_, .head _, by decide +kernel⟩⟩
theorem test_row_tessellatorCall :
    Takes unitTurns (sUnit 5 [(8, 1, 2)]) (.tessellatorCall 0) ∧
    Takes unitTurns (sUnit 5 []) (.tessellatorCall 0) ∧
    Takes unitTurns (sUnit 5 (patchOf 0 0)) (.tessellatorCall 0) ∧
    Takes unitTurns (sUnit 5 (patchOf 0 1024)) (.tessellatorCall 0) ∧
    Takes unitTurns (sUnit 5 (patchOf 1 1024)) (.tessellatorCall 0) :=
  ⟨⟨_, .head _, by decide +kernel⟩,
   ⟨_, .tail _ (.head _), by decide +kernel⟩,
   ⟨_, .tail _ (.tail _ (.head _)), by decide +kernel⟩,
   ⟨_, .tail _ (.tail _ (.tail _ (.head _))), by decide +kernel⟩,
   ⟨_, .tail _ (.tail _ (.tail _ (.head _))), by decide +kernel⟩⟩
theorem no_error {α : Type} {L : List Nat} {f : Nat → Except (Nat × XErr) α} (h : ∀ l ∈ L, (f l).toOption.isSome = true) :
    ∀ l ∈ L, ∀ e, f l = .error e → e.2 ≠ stillOut := fun l hl e he => by
  have := h l hl
  rw [he] at this
  cases this
theorem test_row_textureCall :
    Takes unitTurns (sUnit 6 [(8, 8, 65536)]) (.textureCall 0) ∧
    Takes unitTurns ({ sUnit 6 [(8, 8, 4096), (20, 4, 1024)] with mem := s0.mem.set 4109 1#8 }) (.textureCall 0) ∧
    Takes unitTurns (sUnit 6 [(8, 8, 4096)]) (.textureCall 0) ∧
    Takes unitTurns (sUnit 6 [(8, 8, 1)]) (.textureCall 0) :=
  ⟨⟨_, .tail _ (.head _), by decide +kernel⟩,
   ⟨_, .tail _ (.head _), ⟨by decide +kernel, by decide +kernel, by decide +kernel, by decide +kernel, by decide +kernel, no_error (by decide +kernel)⟩⟩,
   ⟨_, .tail _ (.head _), by decide +kernel⟩,
   ⟨_, .head _, by decide +kernel⟩⟩
theorem test_row_traceRays :
    Takes unitTurns (sUnit 7 []) (.traceRays 0) :=
  ⟨_, .head _, by decide +kernel⟩
theorem test_row_verdict :
    Takes unitTurns (sUnit 7 [(8, 1, 1)]) (.verdict 0) :=
  ⟨_, .head _, by decide +kernel⟩
theorem test_row_encoderConfig :
    Takes unitTurns (sUnit 8 []) (.encoderConfig 0) ∧
    Takes unitTurns (sEnc configRec) (.encoderConfig 0) :=
  ⟨⟨_, .head _, by decide +kernel⟩,
   ⟨_, .tail _ (.head _), by decide +kernel⟩⟩
theorem test_row_encoderEncode :
    Takes unitTurns (sEnc [(8, 1, 1), (56, 8, 2 ^ 30)]) (.encoderEncode 0) ∧
    Takes unitTurns (sUnit 8 [(8, 1, 1), (56, 8, 2 ^ 30)]) (.encoderEncode 0) :=
  ⟨⟨_, .tail _ (.head _), by decide +kernel⟩,
   ⟨_, .head _, by decide +kernel⟩⟩
theorem test_row_routerDispatch :
    Takes unitTurns (sRoute 0x100001005) (.routerDispatch 0 0) ∧
    Takes unitTurns (sRoute 0x100000105) (.routerDispatch 0 0) ∧
    Takes unitTurns (sRoute 0x100000009) (.routerDispatch 0 0) :=
  ⟨⟨_, .tail _ (.tail _ (.head _)), by decide +kernel⟩,
   ⟨_, .tail _ (.head _), by decide +kernel⟩,
   ⟨_, .head _, by decide +kernel⟩⟩

/-! ## Schedulers -/

/-- A queue of four entries, its ring at 8,192, with one entry; the entry names an image at 0 and `teams` teams. -/
def queue0 (cls : Nat) : Queue := { hdr := 4096, ring := 8192, size := 4, tail := 1, cls, appended := [0] }
def sQueue (cls teams : Nat) : State := { s0 with mem := s0.mem.set 8220 (BitVec.ofNat 8 teams), queues := [(queueKey 192 5, queue0 cls)] }
/-- A grid of one team is pending, whose team has not started. -/
def sGrid (f : Grid → Grid) : State := { s0 with grids := [(1, f { grid0 with left := [(0, 1)] })] }
/-- Memory with an image at `base`: one group of one state and one varying register, n bytes of team memory (R199-R202). -/
def imageAt (base n : Nat) (m : SMap Byte) : SMap Byte :=
  ([(0, 4, 0x34494347), (4, 2, 1), (8, 1, 1), (9, 1, 1), (0x10, 4, n), (0x38, 4, 128), (0x3C, 4, 5120), (0x42, 1, 1), (0x44, 2, 1), (0x46, 2, 1),
    (0x80, 8, 512), (0x88, 8, 5888), (0x90, 8, 5888 + n), (0x98, 8, 5888 + n), (0xA0, 8, 5888 + n), (0x470, 2, 1), (0x472, 2, 1), (0x478, 8, 5632), (0x480, 4, 1)] :
      List (Nat × Nat × Nat)).foldl (fun m f => m.setRun (base + f.1) (leBytes f.2.2 f.2.1)) m
def imageMem : SMap Byte := imageAt 4096 256 s0.mem
/-- A suspended team of a grid. -/
def team5 (deadline : Dword) (restored : Nat) : Team :=
  { probeTeam 192 with st := .suspended, image := 4096, grid := 1, cls := 2, deadline, restored }
def sSuspended : State :=
  { s0 with mem := imageMem, teams := [(0, probeTeam 192), (5, team5 100#64 0)], grids := [(1, { grid0 with cls := 2, running := 1 })] }
/-- The slice has one pair: cores 0 and 1 of cluster 0; team 5 of class 2 waits; a best-effort team runs on each core. -/
def sVictims : State :=
  { s0 with
    mem := imageMem
    teams := [(0, { probeTeam 192 with grid := 2, restored := 0, image := 4096 }), (3, { probeTeam 192 with grid := 2, core := 1, restored := 1, image := 4096 }),
              (5, team5 100#64 0)]
    grids := [(1, { grid0 with cls := 2, running := 1 }), (2, { grid0 with running := 2 })]
    slices := [(0, { pairs := (List.range 191).map (· + 1) })] }
/-- Both cores hold a team and have 256 bytes of team memory left; team 6, whose deadline is earlier, needs 512. Two pages are mapped. -/
def sCrowded : State :=
  { sVictims with
    mem := imageAt 16384 512 imageMem
    tlb1 := s0.tlb1.map fun e => { e with bits := 15 }
    tlb2 := s0.tlb2.map fun e => { e with bits := 15 }
    teams := [(0, { probeTeam 192 with tmemSize := 261888, image := 32768 }), (3, { probeTeam 192 with core := 1, tmemSize := 261888, image := 32768 }),
              (5, team5 100#64 0), (6, { team5 50#64 0 with image := 16384 })] }
/-- The core holds 2,048 lines: one of a team that is suspended, or has the latest deadline, and 2,047 of team 5. -/
def sLines (st : TeamSt) : State :=
  { s0 with teams := [(0, { probeTeam 192 with st, lines := [(0, 0)] }), (5, { probeTeam 192 with deadline := 0#64, size := 4096, ngroups := 8, lines := (List.range 2047).map fun n => (0, n + 100) })] }
/-- A display grid whose trigger tick has come; the fallback entry stands at 8,192. -/
def sDisplay (fb teams : Nat) (running : Bool) : State :=
  { s0 with
    mem := s0.mem.set 8220 (BitVec.ofNat 8 teams)
    grids := (1, { grid0 with cls := 1 }) :: if running then [(2, { grid0 with fallback := true })] else []
    sliceDie := [(4 * 192, { reg := [(0x30A, BitVec.ofNat 32 fb)] })] }
/-- Every lane waits at a rejoin; the team's queue has a wait threshold of one tick, and two have passed. -/
def sIdle (asleep : Option Asleep) (st : TeamSt) : State :=
  { sJoin 1 2 none with
    teams := ((sJoin 1 2 none).team? 0).toList.map fun x => (0, { x with asleep, st, image := 4096 })
    queues := [(queueKey 192 0, { queue0 0 with waitTh := 1 })], dcnt := [(0, 2)] }
def nap0 : Asleep := { tick := 2, coNext := 1, work := 0, tmem := [], lines := [32], due := none }
/-- A fault record is held; the ring of 2^4 records stands at 8,192. -/
def sRecord : State := { s0 with sliceDie := [(4 * 192, { reg := [(0x420, 8192#32), (0x422, 4#32)], held := [{ kind := 0, src := 3 }] })] }
theorem test_row_queueTake :
    Takes schedTurns (sQueue 1 0) (.queueTake 192 5) ∧
    Takes schedTurns (sQueue 1 1) (.queueTake 192 5) :=
  ⟨⟨_, .head _, by decide +kernel⟩,
   ⟨_, .head _, by decide +kernel⟩⟩
theorem test_row_bestEffortFill :
    Takes schedTurns (sGrid id) (.bestEffortFill 192 0) ∧
    Takes schedTurns (sQueue 0 1) (.bestEffortFill 192 0) :=
  ⟨⟨_, .head _, by decide +kernel⟩,
   ⟨_, .tail _ (.head _), by decide +kernel⟩⟩
/-- The task at place k fits a core, and every task before it fits none. -/
theorem admits_of {s : State} {sl die k : Nat} (hh : s.halted sl = false)
    (h : ((s.ranked sl die)[k]?.any fun c => match s.fetchTask c.2.1 with | (s1, .ok x) => (s1.coreFor x sl die c.2.2).isSome | (_, .error _) => false) = true)
    (hb : (((s.ranked sl die).take k).all fun d => match (s.fetchTask d.2.1).2 with
      | .ok y => ((s.fetchTask d.2.1).1.coreFor y sl die d.2.2).isNone
      | .error _ => false) = true) :
    Takes schedTurns s (.teamAdmit sl die) := by
  rcases hc : (s.ranked sl die)[k]? with _ | c
  · simp [hc] at h
  simp only [hc, Option.any_some] at h
  have hm : (c, k) ∈ (s.ranked sl die).zipIdx := List.mk_mem_zipIdx_iff_getElem?.mpr hc
  rcases hf : s.fetchTask c.2.1 with ⟨s1, e | x⟩
  · simp [hf] at h
  · simp only [hf] at h
    obtain ⟨p, hp⟩ := Option.isSome_iff_exists.mp h
    refine ⟨{ ok := s.halted sl = false ∧ ∀ d ∈ (s.ranked sl die).take k, ∃ y, (s.fetchTask d.2.1).2 = .ok y ∧ (s.fetchTask d.2.1).1.coreFor y sl die d.2.2 = none
              s := s1.start c.2.1 x c.2.2 p.1 p.2 }, List.mem_flatMap.mpr ⟨_, hm, ?_⟩, hh, fun d hd => ?_⟩
    · simp only [hf, hp]
      exact .head _
    · have hd := List.all_eq_true.mp hb d hd
      cases e : (s.fetchTask d.2.1).2 with
      | ok y => exact ⟨y, rfl, by simpa [e] using hd⟩
      | error _ => simp [e] at hd
theorem test_row_teamAdmit :
    Takes schedTurns (sGrid fun g => { g with cls := 2 }) (.teamAdmit 192 0) ∧
    Takes schedTurns (sSuspended) (.teamAdmit 192 0) ∧
    Takes schedTurns (sCrowded) (.teamAdmit 192 0) :=
  ⟨⟨_, .head _, by decide +kernel, fun _ h => nomatch h⟩,
   ⟨_, .head _, by decide +kernel, fun _ h => nomatch h⟩,
   admits_of (k := 1) (by decide +kernel) (by decide +kernel) (by decide +kernel)⟩
theorem test_row_teamPreempt :
    Takes schedTurns (sVictims) (.teamPreempt 192 0) :=
  ⟨_, .tail _ (.head _), by decide +kernel⟩
theorem test_row_registerCacheAllocate :
    Takes schedTurns ({ s0 with teams := [(0, { probeTeam 192 with size := 4096 })] }) (.registerCacheAllocate 0 0 1) ∧
    Takes schedTurns (sLines .suspended) (.registerCacheAllocate 0 5 1) ∧
    Takes schedTurns (sLines .resident) (.registerCacheAllocate 0 5 1) :=
  ⟨⟨_, .head _, by decide +kernel⟩,
   ⟨_, .tail _ (.head _), by decide +kernel⟩,
   ⟨_, .tail _ (.head _), by decide +kernel⟩⟩
theorem test_row_displayTrigger :
    Takes schedTurns (sDisplay 0 0 false) (.displayTrigger 1) ∧
    Takes schedTurns (sDisplay 8192 1 true) (.displayTrigger 1) ∧
    Takes schedTurns (sDisplay 65536 0 false) (.displayTrigger 1) ∧
    Takes schedTurns (sDisplay 8192 1 false) (.displayTrigger 1) ∧
    Takes schedTurns (sDisplay 8192 0 false) (.displayTrigger 1) :=
  ⟨⟨_, .head _, by decide +kernel⟩,
   ⟨_, .tail _ (.tail _ (.head _)), by decide +kernel⟩,
   ⟨_, .tail _ (.head _), by decide +kernel⟩,
   ⟨_, .tail _ (.head _), by decide +kernel⟩,
   ⟨_, .tail _ (.tail _ (.tail _ (.head _))), by decide +kernel⟩⟩
theorem test_row_idleSwap :
    Takes schedTurns (sIdle none .resident) (.idleSwap 0) :=
  ⟨_, .head _, by decide +kernel⟩
theorem test_row_teamWake :
    Takes schedTurns ({ sIdle (some nap0) .suspended with co := [{ seq := 1, addr := 4100, agent := 0, stamp := 0, old := 0#8 }] }) (.teamWake 0) ∧
    Takes schedTurns (sIdle (some { nap0 with work := 1 }) .suspended) (.teamWake 0) ∧
    Takes schedTurns (sIdle (some { nap0 with tmem := [(0, 1#8)] }) .suspended) (.teamWake 0) ∧
    Takes schedTurns (sIdle (some { nap0 with due := some 2 }) .suspended) (.teamWake 0) ∧
    Takes schedTurns ({ sIdle (some nap0) .suspended with dcnt := [(0, 18)] }) (.teamWake 0) :=
  ⟨⟨_, .head _, .inl (by decide +kernel)⟩,
   ⟨_, .head _, .inr (.inl (by decide +kernel))⟩,
   ⟨_, .head _, .inr (.inr (.inl (by decide +kernel)))⟩,
   ⟨_, .head _, .inr (.inr (.inr (.inl ⟨2, rfl, by decide +kernel⟩)))⟩,
   ⟨_, .head _, .inr (.inr (.inr (.inr (by decide +kernel))))⟩⟩
theorem test_row_queueDepthExchange :
    Takes schedTurns (s0) (.queueDepthExchange 47) :=
  ⟨_, .head _, by decide +kernel⟩
theorem test_row_transitEntryReceived :
    Takes schedTurns ({ sGrid id with transit := [{ slice := 192, src := 0, dst := 1, task := .fresh 1 0 }] }) (.transitEntryReceived 1 0) :=
  ⟨_, .head _, by decide +kernel⟩
theorem test_row_faultRecordDelivery :
    Takes schedTurns (sRecord) (.faultRecordDelivery 192 0 0 3) :=
  ⟨_, .head _, by decide +kernel⟩

/-! ## Rings and slices -/

/-- A command stands at the head of the PF's ring of one slot, at 8,192: its payload, its type, the rest of its trailer. ASID 0 has an empty table. -/
def cmdOf (type trailer : Nat) (fs : List (Nat × Nat × Nat)) : Nat :=
  fs.foldl (fun v f => v + f.2.2 % 2 ^ (8 * f.2.1) * 2 ^ (8 * f.1)) 0 + trailer * 2 ^ (8 * 252) + type * 2 ^ (8 * 254) + 0xC3 * 2 ^ (8 * 255)
def sCmd (s : State) (type trailer : Nat) (fs : List (Nat × Nat × Nat)) : State :=
  { s with
    mem := (s.mem.setRun 8192 (leBytes (cmdOf type trailer fs) 256)).set 12288 1#8
    sliceReg := s.sliceReg.set 192 [(0x504, 8192#32), (0x506, 0x80000000#32)]
    sliceDie := [(4 * 192, { reg := [(0x401, 12288#32), (0x403, 1#32)] })]
    ringDue := [192] }
theorem none_of {α : Type} {o : Option α} {p : α → Prop} (h : o = none) : ¬ ∃ q, o = some q ∧ p q := by
  rintro ⟨q, hq, -⟩
  rw [h] at hq
  cases hq
/-- A queue whose ring is at `ring`. -/
def sBound (ring : Nat) : State := { s0 with queues := [(queueKey 192 5, { queue0 1 with ring, tail := 0, appended := [] })] }
/-- Slice 0 holds cores 0 and 1, slice 1 cores 2 and 3; both are active. -/
def sPairs (leases : List Lease) : State :=
  { s0 with slices := [(0, { pairs := [0] }), (1, { pairs := [1] })], sliceReg := [(0, [(0x502, 1#32)]), (1, [(0x502, 1#32)])], leases }
def lease0 : Lease := { lender := 0, borrower := 2, start := 0, term := 5 }
theorem test_row_launchCmd :
    Takes ringTurns (sCmd s0 1 1 []) (.launchCmd 192) ∧
    Takes ringTurns (sCmd (sBound 65536) 1 0 [(28, 4, 1), (64, 2, 5)]) (.launchCmd 192) ∧
    Takes ringTurns (sCmd s0 1 0 [(28, 4, 1), (64, 2, 5)]) (.launchCmd 192) ∧
    Takes ringTurns (sCmd (sBound 4096) 1 0 [(28, 4, 1), (64, 2, 5)]) (.launchCmd 192) :=
  ⟨⟨_, .head _, by decide +kernel⟩,
   (by
      have h : (sCmd (sBound 65536) 1 0 [(28, 4, 1), (64, 2, 5)]).headSlot 192 = some (0, (cmdOf 1 0 [(28, 4, 1), (64, 2, 5)])) := by decide +kernel
      simp only [Takes, ringTurns, ringTurn, h]
      exact ⟨_, .tail _ (.head _), by decide +kernel, by decide +kernel, (by decide +kernel)⟩),
   (by
      have h : (sCmd s0 1 0 [(28, 4, 1), (64, 2, 5)]).headSlot 192 = some (0, (cmdOf 1 0 [(28, 4, 1), (64, 2, 5)])) := by decide +kernel
      simp only [Takes, ringTurns, ringTurn, h]
      exact ⟨_, .tail _ (.tail _ (.head _)), by decide +kernel, by decide +kernel, (by decide +kernel)⟩),
   (by
      have h : (sCmd (sBound 4096) 1 0 [(28, 4, 1), (64, 2, 5)]).headSlot 192 = some (0, (cmdOf 1 0 [(28, 4, 1), (64, 2, 5)])) := by decide +kernel
      simp only [Takes, ringTurns, ringTurn, h]
      exact ⟨_, .tail _ (.tail _ (.tail _ (.head _))), by decide +kernel, by decide +kernel, (by decide +kernel)⟩)⟩
theorem test_row_write32 :
    Takes ringTurns (sCmd s0 2 0 [(0, 8, 4098)]) (.write32 192) ∧
    Takes ringTurns (sCmd s0 2 0 [(0, 8, 4096), (8, 4, 77)]) (.write32 192) ∧
    Takes ringTurns (sCmd s0 2 0 [(0, 8, 65536), (8, 4, 77)]) (.write32 192) :=
  ⟨(by
      have h : (sCmd s0 2 0 [(0, 8, 4098)]).headSlot 192 = some (0, (cmdOf 2 0 [(0, 8, 4098)])) := by decide +kernel
      simp only [Takes, ringTurns, ringTurn, h]
      exact ⟨_, .tail _ (.head _), by decide +kernel, by decide +kernel, (fun h => absurd h.1 (by decide +kernel))⟩),
   (by
      have h : (sCmd s0 2 0 [(0, 8, 4096), (8, 4, 77)]).headSlot 192 = some (0, (cmdOf 2 0 [(0, 8, 4096), (8, 4, 77)])) := by decide +kernel
      simp only [Takes, ringTurns, ringTurn, h]
      exact ⟨_, .tail _ (.tail _ (.head _)), by decide +kernel, by decide +kernel, ⟨by decide +kernel, by decide +kernel, 0, ok_of (by decide +kernel)⟩⟩),
   (by
      have h : (sCmd s0 2 0 [(0, 8, 65536), (8, 4, 77)]).headSlot 192 = some (0, (cmdOf 2 0 [(0, 8, 65536), (8, 4, 77)])) := by decide +kernel
      simp only [Takes, ringTurns, ringTurn, h]
      exact ⟨_, .tail _ (.tail _ (.head _)), by decide +kernel, by decide +kernel, ⟨by decide +kernel, by decide +kernel, 0, ok_of (by decide +kernel)⟩⟩)⟩
theorem test_row_wait32 :
    Takes ringTurns (sCmd s0 3 0 [(14, 1, 4)]) (.wait32 192) ∧
    Takes ringTurns (sCmd s0 3 0 [(0, 8, 4098)]) (.wait32 192) ∧
    Takes ringTurns (sCmd s0 3 0 [(0, 8, 4096), (14, 1, 3)]) (.wait32 192) :=
  ⟨(by
      have h : (sCmd s0 3 0 [(14, 1, 4)]).headSlot 192 = some (0, (cmdOf 3 0 [(14, 1, 4)])) := by decide +kernel
      simp only [Takes, ringTurns, ringTurn, h]
      exact ⟨_, .tail _ (.head _), by decide +kernel, by decide +kernel, (by decide +kernel)⟩),
   (by
      have h : (sCmd s0 3 0 [(0, 8, 4098)]).headSlot 192 = some (0, (cmdOf 3 0 [(0, 8, 4098)])) := by decide +kernel
      simp only [Takes, ringTurns, ringTurn, h]
      exact ⟨_, .tail _ (.head _), by decide +kernel, by decide +kernel, (fun h => absurd h.1 (by decide +kernel))⟩),
   (by
      have h : (sCmd s0 3 0 [(0, 8, 4096), (14, 1, 3)]).headSlot 192 = some (0, (cmdOf 3 0 [(0, 8, 4096), (14, 1, 3)])) := by decide +kernel
      simp only [Takes, ringTurns, ringTurn, h]
      exact ⟨_, .tail _ (.tail _ (.head _)), by decide +kernel, by decide +kernel, ⟨by decide +kernel, by decide +kernel, 0, ok_of (by decide +kernel)⟩⟩)⟩
theorem test_row_wait32Satisfied :
    Takes ringTurns ({ s0 with cmds := [(192, [{ n := 0, rel := none, wait := some (4096, 0, 0, .eq) }])] }) (.wait32Satisfied 192 0) ∧
    Takes ringTurns ({ s0 with cmds := [(192, [{ n := 0, rel := none, wait := some (65536, 0, 0, .eq) }])] }) (.wait32Satisfied 192 0) :=
  ⟨⟨_, .head _, by decide +kernel⟩,
   ⟨_, .head _, by decide +kernel⟩⟩
theorem test_row_nopCmd :
    Takes ringTurns (sCmd s0 4 0 [(247, 1, 1)]) (.nopCmd 192) ∧
    Takes ringTurns (sCmd s0 4 0 []) (.nopCmd 192) ∧
    Takes ringTurns (sCmd s0 5 0 []) (.nopCmd 192) ∧
    Takes ringTurns (sCmd s0 0x18 0 []) (.nopCmd 192) :=
  ⟨⟨_, .head _, by decide +kernel⟩,
   ⟨_, .tail _ (.head _), by decide +kernel⟩,
   ⟨_, .tail _ (.tail _ (.head _)), by decide +kernel⟩,
   ⟨_, .tail _ (.tail _ (.head _)), by decide +kernel⟩⟩
theorem test_row_bindQueue :
    Takes ringTurns (sCmd s0 0x10 0 [(0, 1, 192), (2, 2, 5)]) (.bindQueue) ∧
    Takes ringTurns (sCmd (sBound 4096) 0x10 0 [(0, 1, 192), (2, 2, 6), (8, 8, 4096), (16, 8, 4160), (24, 4, 4), (28, 1, 2)]) (.bindQueue) ∧
    Takes ringTurns (sCmd (sQueue 1 1) 0x10 0 [(0, 1, 192), (2, 2, 5), (8, 8, 4096), (16, 8, 4160), (24, 4, 4), (28, 1, 2)]) (.bindQueue) :=
  ⟨(by
      have h : (sCmd s0 0x10 0 [(0, 1, 192), (2, 2, 5)]).headSlot 192 = some (0, (cmdOf 0x10 0 [(0, 1, 192), (2, 2, 5)])) := by decide +kernel
      simp only [Takes, ringTurns, ringTurn, h]
      exact ⟨_, .tail _ (.head _), by decide +kernel, by decide +kernel, (by decide +kernel)⟩),
   (by
      have h : (sCmd (sBound 4096) 0x10 0 [(0, 1, 192), (2, 2, 6), (8, 8, 4096), (16, 8, 4160), (24, 4, 4), (28, 1, 2)]).headSlot 192 = some (0, (cmdOf 0x10 0 [(0, 1, 192), (2, 2, 6), (8, 8, 4096), (16, 8, 4160), (24, 4, 4), (28, 1, 2)])) := by decide +kernel
      simp only [Takes, ringTurns, ringTurn, h]
      exact ⟨_, .tail _ (.tail _ (.tail _ (.head _))), by decide +kernel, by decide +kernel, ⟨by decide +kernel, none_of (by decide +kernel)⟩⟩),
   (by
      have h : (sCmd (sQueue 1 1) 0x10 0 [(0, 1, 192), (2, 2, 5), (8, 8, 4096), (16, 8, 4160), (24, 4, 4), (28, 1, 2)]).headSlot 192 = some (0, (cmdOf 0x10 0 [(0, 1, 192), (2, 2, 5), (8, 8, 4096), (16, 8, 4160), (24, 4, 4), (28, 1, 2)])) := by decide +kernel
      simp only [Takes, ringTurns, ringTurn, h]
      exact ⟨_, .tail _ (.tail _ (.head _)), by decide +kernel, by decide +kernel, ⟨by decide +kernel, queue0 1, by decide +kernel, by decide +kernel⟩⟩)⟩
theorem test_row_unbindQueue :
    Takes ringTurns (sCmd s0 0x11 0 [(0, 1, 193)]) (.unbindQueue) ∧
    Takes ringTurns (sCmd { sBound 4096 with grids := [(1, { grid0 with qid := 5 })] } 0x11 0 [(0, 1, 192), (2, 2, 5)]) (.unbindQueue) ∧
    Takes ringTurns (sCmd (sBound 4096) 0x11 0 [(0, 1, 192), (2, 2, 5)]) (.unbindQueue) ∧
    Takes ringTurns (sCmd s0 0x11 0 [(0, 1, 192), (2, 2, 5)]) (.unbindQueue) :=
  ⟨(by
      have h : (sCmd s0 0x11 0 [(0, 1, 193)]).headSlot 192 = some (0, (cmdOf 0x11 0 [(0, 1, 193)])) := by decide +kernel
      simp only [Takes, ringTurns, ringTurn, h]
      exact ⟨_, .tail _ (.head _), by decide +kernel, by decide +kernel, (by decide +kernel)⟩),
   (by
      have h : (sCmd { sBound 4096 with grids := [(1, { grid0 with qid := 5 })] } 0x11 0 [(0, 1, 192), (2, 2, 5)]).headSlot 192 = some (0, (cmdOf 0x11 0 [(0, 1, 192), (2, 2, 5)])) := by decide +kernel
      simp only [Takes, ringTurns, ringTurn, h]
      exact ⟨_, .tail _ (.tail _ (.head _)), by decide +kernel, by decide +kernel, (by decide +kernel)⟩),
   (by
      have h : (sCmd (sBound 4096) 0x11 0 [(0, 1, 192), (2, 2, 5)]).headSlot 192 = some (0, (cmdOf 0x11 0 [(0, 1, 192), (2, 2, 5)])) := by decide +kernel
      simp only [Takes, ringTurns, ringTurn, h]
      exact ⟨_, .tail _ (.tail _ (.tail _ (.head _))), by decide +kernel, by decide +kernel, (by decide +kernel)⟩),
   (by
      have h : (sCmd s0 0x11 0 [(0, 1, 192), (2, 2, 5)]).headSlot 192 = some (0, (cmdOf 0x11 0 [(0, 1, 192), (2, 2, 5)])) := by decide +kernel
      simp only [Takes, ringTurns, ringTurn, h]
      exact ⟨_, .tail _ (.tail _ (.tail _ (.head _))), by decide +kernel, by decide +kernel, (by decide +kernel)⟩)⟩
theorem test_row_reshape :
    Takes ringTurns (sCmd s0 0x12 0 [(0, 1, 3), (8, 1, 6), (32, 1, 4)]) (.reshape) ∧
    Takes ringTurns (sCmd s0 0x12 0 [(0, 1, 192)]) (.reshape) :=
  ⟨(by
      have h : (sCmd s0 0x12 0 [(0, 1, 3), (8, 1, 6), (32, 1, 4)]).headSlot 192 = some (0, (cmdOf 0x12 0 [(0, 1, 3), (8, 1, 6), (32, 1, 4)])) := by decide +kernel
      simp only [Takes, ringTurns, ringTurn, h]
      exact ⟨_, .tail _ (.head _), by decide +kernel, by decide +kernel, (by decide +kernel)⟩),
   (by
      have h : (sCmd s0 0x12 0 [(0, 1, 192)]).headSlot 192 = some (0, (cmdOf 0x12 0 [(0, 1, 192)])) := by decide +kernel
      simp only [Takes, ringTurns, ringTurn, h]
      exact ⟨_, .tail _ (.tail _ (.head _)), by decide +kernel, by decide +kernel, (by decide +kernel)⟩)⟩
theorem test_row_lease :
    Takes ringTurns (sCmd (sPairs []) 0x13 0 [(0, 2, 0), (2, 2, 1)]) (.lease) ∧
    Takes ringTurns (sCmd (sPairs [lease0]) 0x13 0 [(0, 2, 0), (2, 2, 2)]) (.lease) ∧
    Takes ringTurns (sCmd (sPairs []) 0x13 0 [(0, 2, 0), (2, 2, 2), (8, 8, 9)]) (.lease) :=
  ⟨(by
      have h : (sCmd (sPairs []) 0x13 0 [(0, 2, 0), (2, 2, 1)]).headSlot 192 = some (0, (cmdOf 0x13 0 [(0, 2, 0), (2, 2, 1)])) := by decide +kernel
      simp only [Takes, ringTurns, ringTurn, h]
      exact ⟨_, .tail _ (.head _), by decide +kernel, by decide +kernel, (by rintro ⟨-, -, -, p, q, h, k, n⟩; exact n (Option.some.inj (h.symm.trans ((by decide +kernel : _ = _).trans k))))⟩),
   (by
      have h : (sCmd (sPairs [lease0]) 0x13 0 [(0, 2, 0), (2, 2, 2)]).headSlot 192 = some (0, (cmdOf 0x13 0 [(0, 2, 0), (2, 2, 2)])) := by decide +kernel
      simp only [Takes, ringTurns, ringTurn, h]
      exact ⟨_, .tail _ (.tail _ (.head _)), by decide +kernel, by decide +kernel, ⟨⟨by decide +kernel, by decide +kernel, by decide +kernel, 0, 1, by decide +kernel, by decide +kernel, by decide⟩, by decide +kernel⟩⟩),
   (by
      have h : (sCmd (sPairs []) 0x13 0 [(0, 2, 0), (2, 2, 2), (8, 8, 9)]).headSlot 192 = some (0, (cmdOf 0x13 0 [(0, 2, 0), (2, 2, 2), (8, 8, 9)])) := by decide +kernel
      simp only [Takes, ringTurns, ringTurn, h]
      exact ⟨_, .tail _ (.tail _ (.tail _ (.head _))), by decide +kernel, by decide +kernel, ⟨⟨by decide +kernel, by decide +kernel, by decide +kernel, 0, 1, by decide +kernel, by decide +kernel, by decide⟩, by decide +kernel, by decide +kernel⟩⟩)⟩
theorem test_row_leaseEnd :
    Takes ringTurns (sCmd (sPairs [lease0]) 0x14 0 [(0, 2, 0)]) (.leaseEnd) ∧
    Takes ringTurns (sCmd (sPairs [lease0]) 0x14 0 [(0, 2, 2)]) (.leaseEnd) :=
  ⟨(by
      have h : (sCmd (sPairs [lease0]) 0x14 0 [(0, 2, 0)]).headSlot 192 = some (0, (cmdOf 0x14 0 [(0, 2, 0)])) := by decide +kernel
      simp only [Takes, ringTurns, ringTurn, h]
      exact ⟨_, .tail _ (.head _), by decide +kernel, by decide +kernel, (by decide +kernel)⟩),
   (by
      have h : (sCmd (sPairs [lease0]) 0x14 0 [(0, 2, 2)]).headSlot 192 = some (0, (cmdOf 0x14 0 [(0, 2, 2)])) := by decide +kernel
      simp only [Takes, ringTurns, ringTurn, h]
      exact ⟨_, .tail _ (.head _), by decide +kernel, by decide +kernel, (by decide +kernel)⟩)⟩
theorem test_row_collgrp :
    Takes ringTurns (sCmd s0 0x15 0 [(0, 1, 192), (2, 2, 4095), (4, 2, 2), (8, 8, 4096)]) (.collgrp) ∧
    Takes ringTurns (sCmd s0 0x15 0 [(0, 1, 192), (4, 2, 257), (8, 8, 4096)]) (.collgrp) ∧
    Takes ringTurns (sCmd s0 0x15 0 [(0, 1, 192), (4, 2, 2), (8, 8, 65536)]) (.collgrp) :=
  ⟨(by
      have h : (sCmd s0 0x15 0 [(0, 1, 192), (2, 2, 4095), (4, 2, 2), (8, 8, 4096)]).headSlot 192 = some (0, (cmdOf 0x15 0 [(0, 1, 192), (2, 2, 4095), (4, 2, 2), (8, 8, 4096)])) := by decide +kernel
      simp only [Takes, ringTurns, ringTurn, h]
      exact ⟨_, .tail _ (.head _), by decide +kernel, by decide +kernel, ⟨by decide +kernel, by decide +kernel, by decide +kernel, by decide +kernel, 0, ok_of (by decide +kernel)⟩⟩),
   (by
      have h : (sCmd s0 0x15 0 [(0, 1, 192), (4, 2, 257), (8, 8, 4096)]).headSlot 192 = some (0, (cmdOf 0x15 0 [(0, 1, 192), (4, 2, 257), (8, 8, 4096)])) := by decide +kernel
      simp only [Takes, ringTurns, ringTurn, h]
      exact ⟨_, .tail _ (.tail _ (.head _)), by decide +kernel, by decide +kernel, (fun h => absurd h.2.2.2.1 (by decide +kernel))⟩),
   (by
      have h : (sCmd s0 0x15 0 [(0, 1, 192), (4, 2, 2), (8, 8, 65536)]).headSlot 192 = some (0, (cmdOf 0x15 0 [(0, 1, 192), (4, 2, 2), (8, 8, 65536)])) := by decide +kernel
      simp only [Takes, ringTurns, ringTurn, h]
      exact ⟨_, .tail _ (.head _), by decide +kernel, by decide +kernel, (by decide +kernel)⟩)⟩
theorem test_row_remap :
    Takes ringTurns (sCmd s0 0x16 0 [(0, 8, 4096)]) (.remap) ∧
    Takes ringTurns (sCmd { s0 with fwd := List.replicate 64 (0, 0, 0) } 0x16 0 [(0, 8, 2 ^ 51), (8, 8, 2 ^ 14), (16, 8, 2 ^ 51 + 2 ^ 40)]) (.remap) ∧
    Takes ringTurns (sCmd { s0 with fwd := List.replicate 63 (0, 0, 0) } 0x16 0 [(0, 8, 2 ^ 51), (8, 8, 2 ^ 14), (16, 8, 2 ^ 51 + 2 ^ 40)]) (.remap) :=
  ⟨(by
      have h : (sCmd s0 0x16 0 [(0, 8, 4096)]).headSlot 192 = some (0, (cmdOf 0x16 0 [(0, 8, 4096)])) := by decide +kernel
      simp only [Takes, ringTurns, ringTurn, h]
      exact ⟨_, .tail _ (.head _), by decide +kernel, by decide +kernel, (by decide +kernel)⟩),
   (by
      have h : (sCmd { s0 with fwd := List.replicate 64 (0, 0, 0) } 0x16 0 [(0, 8, 2 ^ 51), (8, 8, 2 ^ 14), (16, 8, 2 ^ 51 + 2 ^ 40)]).headSlot 192 = some (0, (cmdOf 0x16 0 [(0, 8, 2 ^ 51), (8, 8, 2 ^ 14), (16, 8, 2 ^ 51 + 2 ^ 40)])) := by decide +kernel
      simp only [Takes, ringTurns, ringTurn, h]
      exact ⟨_, .tail _ (.tail _ (.head _)), by decide +kernel, by decide +kernel, (by decide +kernel)⟩),
   (by
      have h : (sCmd { s0 with fwd := List.replicate 63 (0, 0, 0) } 0x16 0 [(0, 8, 2 ^ 51), (8, 8, 2 ^ 14), (16, 8, 2 ^ 51 + 2 ^ 40)]).headSlot 192 = some (0, (cmdOf 0x16 0 [(0, 8, 2 ^ 51), (8, 8, 2 ^ 14), (16, 8, 2 ^ 51 + 2 ^ 40)])) := by decide +kernel
      simp only [Takes, ringTurns, ringTurn, h]
      exact ⟨_, .tail _ (.tail _ (.tail _ (.head _))), by decide +kernel, by decide +kernel, (by decide +kernel)⟩)⟩
theorem test_row_unremap :
    Takes ringTurns (sCmd { s0 with fwd := [(2 ^ 51, 2 ^ 14, 2 ^ 51 + 2 ^ 40)] } 0x17 0 [(0, 8, 2 ^ 51)]) (.unremap) :=
  (by
      have h : (sCmd { s0 with fwd := [(2 ^ 51, 2 ^ 14, 2 ^ 51 + 2 ^ 40)] } 0x17 0 [(0, 8, 2 ^ 51)]).headSlot 192 = some (0, (cmdOf 0x17 0 [(0, 8, 2 ^ 51)])) := by decide +kernel
      simp only [Takes, ringTurns, ringTurn, h]
      exact ⟨_, .tail _ (.head _), by decide +kernel, by decide +kernel, (by decide +kernel)⟩)

/-- Slice 3 with CTL and STAT. -/
def sSlice (ctl stat : Word) : State := { s0 with sliceReg := [(3, [(0x501, ctl), (0x502, stat)])], slices := [(3, { chans := [1] })] }
theorem test_row_cmdTail :
    Takes sliceTurns (s0) (.cmdTail 3 7#32) :=
  ⟨_, .head _, by decide +kernel⟩
theorem test_row_cmdCtlWrite :
    Takes sliceTurns (s0) (.cmdCtlWrite 3 0x80000004#32) ∧
    Takes sliceTurns (s0) (.cmdCtlWrite 3 4#32) :=
  ⟨⟨_, .head _, by decide +kernel⟩,
   ⟨_, .tail _ (.head _), by decide +kernel⟩⟩
theorem test_row_sliceReset :
    Takes sliceTurns (sSlice 0#32 2#32) (.sliceReset 3) ∧
    Takes sliceTurns (sSlice 0#32 0#32) (.sliceReset 3) :=
  ⟨⟨_, .head _, by decide +kernel⟩,
   ⟨_, .tail _ (.head _), by decide +kernel⟩⟩
theorem test_row_vfFlr :
    Takes sliceTurns (sSlice 0#32 2#32) (.vfFlr 3) ∧
    Takes sliceTurns (sSlice 0#32 0#32) (.vfFlr 3) :=
  ⟨⟨_, .head _, by decide +kernel⟩,
   ⟨_, .tail _ (.head _), by decide +kernel⟩⟩
theorem test_row_sliceResetDone :
    Takes sliceTurns ({ sSlice 4#32 2#32 with mem := s0.mem.set (2 ^ 30 + 5) 9#8 }) (.sliceResetDone 3) :=
  ⟨_, .head _, by decide +kernel⟩
theorem test_row_sliceFreeze :
    Takes sliceTurns (sSlice 2#32 0#32) (.sliceFreeze 3) ∧
    Takes sliceTurns (sSlice 0#32 0#32) (.sliceFreeze 3) :=
  ⟨⟨_, .head _, by decide +kernel⟩,
   ⟨_, .tail _ (.head _), by decide +kernel⟩⟩
theorem test_row_freezeComplete :
    Takes sliceTurns (sSlice 2#32 0#32) (.freezeComplete 3) :=
  ⟨_, .head _, ⟨by decide +kernel, by decide +kernel, by decide +kernel, by decide +kernel, fun _ h => nomatch h⟩⟩
theorem test_row_sliceThaw :
    Takes sliceTurns (sSlice 0#32 0#32) (.sliceThaw 3) ∧
    Takes sliceTurns (sSlice 2#32 4#32) (.sliceThaw 3) :=
  ⟨⟨_, .head _, by decide +kernel⟩,
   ⟨_, .tail _ (.head _), by decide +kernel⟩⟩
theorem test_row_leaseTermExpiry :
    Takes sliceTurns ({ sPairs [lease0] with dcnt := [(0, 6)] }) (.leaseTermExpiry 0) :=
  ⟨_, .head _, by decide +kernel⟩

/-! ## Channels, power, ports, reset, measurement -/

/-- Registers of the package. -/
def sPkg (r : List (Nat × Word)) : State := { s0 with pkgReg := r }
theorem test_row_memCrcError :
    Takes linkTurns (s0) (.memCrcError 5 8) ∧
    Takes linkTurns (s0) (.memCrcError 5 9) :=
  ⟨⟨_, .head _, by decide +kernel⟩,
   ⟨_, .tail _ (.head _), by decide +kernel⟩⟩
theorem test_row_channelRetrain :
    Takes linkTurns (s0) (.channelRetrain 5 true) ∧
    Takes linkTurns (s0) (.channelRetrain 5 false) ∧
    Takes linkTurns ({ s0 with chans := [(5, { training := true, fails := 2 })] }) (.channelRetrain 5 false) :=
  ⟨⟨_, .head _, by decide +kernel⟩,
   ⟨_, .tail _ (.head _), by decide +kernel⟩,
   ⟨_, .tail _ (.tail _ (.head _)), by decide +kernel⟩⟩
theorem test_row_correctedError :
    Takes linkTurns (s0) (.correctedError 5) :=
  ⟨_, .head _, by decide +kernel⟩
/-- A poison table of channel 0 without room. -/
def fullPoison : SMap (BitVec 32) := (List.range 8192).map fun k => (k + 1024, 1#32)
theorem test_row_uncorrectableError :
    Takes linkTurns (s0) (.uncorrectableError 4096) ∧
    Takes linkTurns ({ sOp true [got0] (.load false .b32 .x1) with poison := fullPoison }) (.uncorrectableError 4096) :=
  ⟨⟨_, .head _, by decide +kernel⟩,
   ⟨_, .tail _ (.head _), by decide +kernel⟩⟩
/-- An error without an entry poisons the load that found it alone (R450). -/
theorem test_poisoned_read :
    (let t := (sOp true [got0] (.load false .b32 .x1)).poisonRead 4096
     (t.ops.length, (t.group? 0 0).map fun g => g.marks.map (·.lane), t.poison.length)) = (0, some [0], 0) := by decide +kernel
theorem test_row_patrolScrub :
    Takes linkTurns (s0) (.patrolScrub 0 3 [4096, 8192]) :=
  ⟨_, .head _, by decide +kernel⟩
theorem test_row_powerWindow :
    Takes linkTurns (s0) (.powerWindow 1801) ∧
    Takes linkTurns ({ s0 with mhz := 1200, halfRate := true }) (.powerWindow 1801) ∧
    Takes linkTurns ({ s0 with mhz := 1200 }) (.powerWindow 1801) ∧
    Takes linkTurns (s0) (.powerWindow 1800) ∧
    Takes linkTurns (s0) (.powerWindow 1710) ∧
    Takes linkTurns ({ s0 with mhz := 3550 }) (.powerWindow 1709) :=
  ⟨⟨_, .head _, by decide +kernel⟩,
   ⟨_, .tail _ (.head _), by decide +kernel⟩,
   ⟨_, .tail _ (.tail _ (.head _)), by decide +kernel⟩,
   ⟨_, .tail _ (.tail _ (.tail _ (.head _))), by decide +kernel⟩,
   ⟨_, .tail _ (.tail _ (.tail _ (.tail _ (.head _)))), by decide +kernel⟩,
   ⟨_, .tail _ (.tail _ (.tail _ (.tail _ (.tail _ (.head _))))), by decide +kernel⟩⟩
theorem test_row_droopStretch :
    Takes linkTurns (s0) (.droopStretch 3) :=
  ⟨_, .head _, by decide +kernel⟩
theorem test_row_droopRelease :
    Takes linkTurns ({ s0 with droop := [3] }) (.droopRelease 3) :=
  ⟨_, .head _, by decide +kernel⟩
theorem test_row_flitCrcFail :
    Takes linkTurns (s0) (.flitCrcFail 3) :=
  ⟨_, .head _, by decide +kernel⟩
theorem test_row_portLaneLoss :
    Takes linkTurns (s0) (.portLaneLoss 15 4) :=
  ⟨_, .head _, by decide +kernel⟩
theorem test_row_portUpChange :
    Takes linkTurns (s0) (.portUpChange 15 true 4 255) ∧
    Takes linkTurns (sPkg [(0x710, 0x80000100#32)]) (.portUpChange 0 false 4 0) :=
  ⟨⟨_, .head _, by decide +kernel⟩,
   ⟨_, .head _, by decide +kernel⟩⟩
theorem test_row_deviceReset :
    Takes hostTurns (s0) (.deviceReset) :=
  ⟨_, .tail _ (.tail _ (.head _)), ⟨⟨by decide +kernel, fun _ _ _ => by omega⟩, by decide +kernel, fun _ _ _ => by omega⟩⟩
theorem test_row_pfFlr :
    Takes hostTurns (s0) (.pfFlr) :=
  ⟨_, .head _, by decide +kernel⟩
theorem test_row_mrExtend :
    Takes hostTurns (s0) (.mrExtend 4#3) ∧
    Takes hostTurns (s0) (.mrExtend 5#3) :=
  ⟨⟨_, .head _, by decide +kernel⟩,
   ⟨_, .tail _ (.head _), by decide +kernel⟩⟩
theorem test_row_mrExtendDone :
    Takes hostTurns ({ s0 with extend := some 5 }) (.mrExtendDone) :=
  ⟨_, .head _, by decide +kernel⟩
theorem test_row_getVersion :
    Takes hostTurns (s0) (.getVersion [0x10#8, 0x84#8]) :=
  ⟨_, .head _, by decide +kernel⟩
theorem test_row_getCapabilities :
    Takes hostTurns (s0) (.getCapabilities [0x10#8, 0xE1#8]) :=
  ⟨_, .head _, by decide +kernel⟩
theorem test_row_negotiateAlgorithms :
    Takes hostTurns (s0) (.negotiateAlgorithms [0x10#8, 0xE3#8]) :=
  ⟨_, .head _, by decide +kernel⟩
theorem test_row_getDigests :
    Takes hostTurns (s0) (.getDigests [0x10#8, 0x81#8]) :=
  ⟨_, .head _, by decide +kernel⟩
theorem test_row_getCertificate :
    Takes hostTurns (s0) (.getCertificate [0x10#8, 0x82#8]) :=
  ⟨_, .head _, by decide +kernel⟩
theorem test_row_challenge :
    Takes hostTurns (s0) (.challenge [0x10#8, 0x83#8]) :=
  ⟨_, .head _, by decide +kernel⟩
theorem test_row_getMeasurements :
    Takes hostTurns (s0) (.getMeasurements [1, 8]) :=
  ⟨_, .head _, by decide +kernel⟩
theorem test_row_unsupportedRequest :
    Takes hostTurns (s0) (.unsupportedRequest [0x10#8, 0xFF#8]) :=
  ⟨_, .head _, by decide +kernel⟩

/-! ## The fabric -/

/-- Package 1's slice 2 asks for the block at 4,096; the export table at 8,192 has `n` entries, the first of channel 0 for it. -/
def exportOf (perm : Nat) : Nat := rcdOf [(8, 8, 2 ^ 30), (0x10, 1, 1), (0x11, 1, 2), (0x12, 1, 192), (0x13, 1, perm)]
def sReq (kind : ReqKind) (tag : Nat) (n : Word) (adm : Bool) : State :=
  { s0 with
    mem := s0.mem.setRun 8192 (leBytes (exportOf 0x83) 32), pkgReg := [(0x701, 0x80000001#32), (0x702, 8192#32), (0x704, n)]
    requests := [{ id := 0, pkg := 1, slice := 2, kind, addr := 4096, mask := 15, data := 7, tag, adm }] }
/-- Slice 3 holds channel 0 and is frozen; the block has moved. -/
def sMoved : State := { sReq .load 0 1#32 true with slices := [(3, { chans := [0] })], sliceReg := [(3, [(0x501, 2#32)])], fwd := [(2 ^ 51, 2 ^ 30, 2 ^ 51 + 2 ^ 40)] }
/-- The page at 0 stands for memory of package 1. -/
def sFar (o : Op) : State := { s0 with ops := [o], tlb2 := s0.tlb2.map fun e => { e with pa := 2 ^ 51 + 2 ^ 40 }, pkgReg := [(0x701, 0x80000001#32), (0x710, 0x80000100#32)], routes := [(1, 0)] }
theorem test_row_remoteRequest :
    Takes fabricTurns (sMoved) (.remoteRequest 0) ∧
    Takes fabricTurns (sReq .load 0 0#32 false) (.remoteRequest 0) ∧
    Takes fabricTurns (sReq .store 1 1#32 true) (.remoteRequest 0) ∧
    Takes fabricTurns (sReq .copied 1 1#32 true) (.remoteRequest 0) ∧
    Takes fabricTurns (sReq .load 0 1#32 true) (.remoteRequest 0) :=
  ⟨⟨_, .tail _ (.head _), by decide +kernel⟩,
   ⟨_, .head _, by decide +kernel⟩,
   ⟨_, .tail _ (.tail _ (.head _)), by decide +kernel⟩,
   ⟨_, .tail _ (.tail _ (.head _)), by decide +kernel⟩,
   ⟨_, .tail _ (.tail _ (.tail _ (.head _))), by decide +kernel⟩⟩
/-- A byte of package 1, as the page at 0 names it. -/
def far (a : Nat) : Nat := 2 ^ 51 + 2 ^ 40 + a
/-- A unit's call, and the operations that a page is asked for; the parts of checked and of unchecked operations. -/
theorem test_row_remoteTimeout :
    Takes fabricTurns ({ sFar (opOf true [] (.enq 4096 4160)) with ops := [], calls := [callOf 1 .plain []] }) (.remoteTimeout 0) ∧
    Takes fabricTurns (sFar (opOf false [] (.enq 4096 4160))) (.remoteTimeout 0) ∧
    Takes fabricTurns (sFar (opOf true [{ word0 4096 with pa := [far 4096] }] (.load false .b32 .x1))) (.remoteTimeout 0) ∧
    Takes fabricTurns (sFar (opOf true [{ word0 4096 with pa := [far 4096] }] .store)) (.remoteTimeout 0) ∧
    Takes fabricTurns (sFar (opOf true [{ word0 4096 with pa := [far 4096] }] (.atomic .add false .dom .rlx true))) (.remoteTimeout 0) ∧
    Takes fabricTurns (sFar (opOf true [mark0] (.copy (t0 0) (g0 4096) 16 64 [] [] [far 0]))) (.remoteTimeout 0) ∧
    Takes fabricTurns ({ sFar (opOf false [mark0] (.copy (t0 0) (g0 4096) 16 64 [] [] [])) with verdicts := [(partKey 0 0, 1)] }) (.remoteTimeout 0) ∧
    Takes fabricTurns (sFar (opOf false [mark0] (.copy (g0 4096) (t0 0) 16 64 [(0, 8)] [] []))) (.remoteTimeout 0) ∧
    Takes fabricTurns (sFar (opOf true [mark0] (.drain .q (fmtWord 0x70134#32) none 0 4096 64 [(0, far 0)]))) (.remoteTimeout 16) ∧
    Takes fabricTurns (sFar (opOf false [mark0] (.drain .q (fmtWord 0x70134#32) none 0 4096 64 []))) (.remoteTimeout 16) ∧
    Takes fabricTurns ({ sFar (opOf true [] (.coll 0 0)) with contribs := [{ collOf 0 [0, 1, 0, 2, 0, 4096] with members := [192, 448] }] }) (.remoteTimeout 1) :=
  ⟨⟨_, .head _, by decide +kernel⟩,
   ⟨_, .head _, by decide +kernel⟩,
   ⟨_, .tail _ (.head _), by decide +kernel⟩,
   ⟨_, .tail _ (.head _), by decide +kernel⟩,
   ⟨_, .tail _ (.head _), by decide +kernel⟩,
   ⟨_, .tail _ (.head _), by decide +kernel⟩,
   ⟨_, .tail _ (.tail _ (.head _)), by decide +kernel⟩,
   ⟨_, .tail _ (.tail _ (.tail _ (.head _))), by decide +kernel⟩,
   ⟨_, .tail _ (.head _), by decide +kernel⟩,
   ⟨_, .tail _ (.tail _ (.head _)), by decide +kernel⟩,
   ⟨_, .tail _ (.head _), by decide +kernel⟩⟩

/-! ## Writes of registers -/

/-- Way 0 of cluster 0 belongs to slice 3, which has pinned line 0 there. -/
def sPinned : State := { s0 with sliceClu := [(64 * 3, [(0x203, 1#32)])], pinned := [3 * 2 ^ 56] }
theorem sPinned_depth : sPinned.pinDepth 3 0 = 1 := by
  have h : sPinned.pinsOf 3 0 = [0] := by decide +kernel
  simp [State.pinDepth, h]
theorem test_row_pinQuotaWrite :
    Takes writeTurns (s0) (.pinQuotaWrite 3 47 0xFFFFFFFF#32) :=
  ⟨_, .head _, by decide +kernel⟩
theorem test_row_clReorderWrite :
    Takes writeTurns (s0) (.clReorderWrite 3 47 0xFFFFFFFF#32) :=
  ⟨_, .head _, by decide +kernel⟩
theorem test_row_clWaysWrite :
    Takes writeTurns (sPinned) (.clWaysWrite 3 0 2#32) ∧
    Takes writeTurns ({ s0 with sliceClu := [(64 * 3, [(0x203, 3#32)])] }) (.clWaysWrite 3 0 1#32) :=
  ⟨⟨_, .head _, ⟨by decide +kernel, .inr ⟨by decide +kernel, lt_of_lt_of_eq (by decide +kernel : _ < 1) sPinned_depth.symm⟩⟩⟩,
   ⟨_, .tail _ (.head _), by decide +kernel⟩⟩
theorem test_row_frHeadWrite :
    Takes writeTurns ({ s0 with sliceDie := [(4 * 3, { reg := [(0x423, 5#32)] })] }) (.frHeadWrite 3 0 6#32) ∧
    Takes writeTurns ({ s0 with sliceDie := [(4 * 3, { reg := [(0x423, 5#32)] })] }) (.frHeadWrite 3 0 5#32) :=
  ⟨⟨_, .head _, by decide +kernel⟩,
   ⟨_, .tail _ (.head _), by decide +kernel⟩⟩
theorem test_row_frBaseWrite :
    Takes writeTurns (s0) (.frBaseWrite 3 0 false 0xFFFFFFFF#32) ∧
    Takes writeTurns (s0) (.frBaseWrite 3 0 true 0xFFFFFFFF#32) :=
  ⟨⟨_, .head _, by decide +kernel⟩,
   ⟨_, .tail _ (.head _), by decide +kernel⟩⟩
theorem test_row_memStatClear :
    Takes writeTurns ({ s0 with chans := [(0, { ce := 7 })] }) (.memStatClear 5#32) :=
  ⟨_, .head _, by decide +kernel⟩
theorem test_row_pwrCapWrite :
    Takes writeTurns (s0) (.pwrCapWrite 299#32) ∧
    Takes writeTurns (s0) (.pwrCapWrite 1801#32) :=
  ⟨⟨_, .head _, by decide +kernel⟩,
   ⟨_, .head _, by decide +kernel⟩⟩
theorem test_row_domCtlWrite :
    Takes writeTurns (s0) (.domCtlWrite 0x80000000#32) :=
  ⟨_, .head _, by decide +kernel⟩
theorem test_row_domExpcntWrite :
    Takes writeTurns (s0) (.domExpcntWrite 4097#32) :=
  ⟨_, .head _, by decide +kernel⟩
theorem test_row_memSelWrite :
    Takes writeTurns (s0) (.memSelWrite 192#32) :=
  ⟨_, .head _, by decide +kernel⟩
theorem test_row_registerWrite :
    Takes writeTurns s0 (.registerWrite (.slice 3) false 0x506#12 0x80000004#32) ∧
    Takes writeTurns s0 (.registerWrite (.slice 3) false 0x506#12 4#32) ∧
    Takes writeTurns s0 (.registerWrite (.slice 3) false 0x507#12 4#32) ∧
    Takes writeTurns s0 (.registerWrite (.slice 3) false 0x501#12 2#32) ∧
    Takes writeTurns s0 (.registerWrite (.slice 3) true 0x501#12 6#32) ∧
    Takes writeTurns s0 (.registerWrite (.slice 3) true 0x510#12 6#32) ∧
    Takes writeTurns s0 (.registerWrite (.slice 192) true 0x510#12 0xFFFFFFFF#32) ∧
    Takes writeTurns s0 (.registerWrite (.slice 3) false 0x505#12 0xFFFFFFFF#32) ∧
    Takes writeTurns s0 (.registerWrite (.sliceDie 3 0) true 0x309#12 1#32) ∧
    Takes writeTurns s0 (.registerWrite (.sliceDie 3 0) true 0x401#12 0xFFFFFFFF#32) ∧
    Takes writeTurns s0 (.registerWrite (.sliceDie 3 0) true 0x424#12 1#32) ∧
    Takes writeTurns s0 (.registerWrite (.sliceDie 3 0) true 0x424#12 0#32) ∧
    Takes writeTurns s0 (.registerWrite (.sliceCluster 3 0) false 0x200#12 7#32) ∧
    Takes writeTurns s0 (.registerWrite (.sliceCluster 3 0) true 0x201#12 7#32) ∧
    Takes writeTurns s0 (.registerWrite (.sliceCluster 3 0) true 0x200#12 0xFFFFFFFF#32) ∧
    Takes writeTurns s0 (.registerWrite (.sliceCluster 3 0) true 0x121#12 7#32) ∧
    Takes writeTurns s0 (.registerWrite (.sliceCluster 3 0) true 0x202#12 7#32) ∧
    Takes writeTurns s0 (.registerWrite (.sliceCluster 3 0) true 0x203#12 0x1FFFF#32) ∧
    Takes writeTurns (sPairs []) (.registerWrite (.sliceCluster 0 0) true 0x203#12 1#32) ∧
    Takes writeTurns s0 (.registerWrite .package false 0x620#12 7#32) ∧
    Takes writeTurns s0 (.registerWrite .package true 0x608#12 7#32) ∧
    Takes writeTurns ({ s0 with extend := some 5 }) (.registerWrite .package true 0x60F#12 7#32) ∧
    Takes writeTurns s0 (.registerWrite .package true 0x7FF#12 7#32) ∧
    Takes writeTurns s0 (.registerWrite .package true 0x700#12 0xFFFFFFFF#32) ∧
    Takes writeTurns s0 (.registerWrite .package true 0x610#12 4#32) ∧
    Takes writeTurns s0 (.registerWrite .package true 0x610#12 5#32) ∧
    Takes writeTurns s0 (.registerWrite .package true 0x618#12 0xFFFFFFFF#32) ∧
    Takes writeTurns s0 (.registerWrite .package true 0x619#12 0xFFFFFFFF#32) ∧
    Takes writeTurns s0 (.registerWrite .package true 0x620#12 0xFFFFFFFF#32) ∧
    Takes writeTurns s0 (.registerWrite .package true 0x701#12 0xFFFFFFFF#32) ∧
    Takes writeTurns s0 (.registerWrite .package true 0x704#12 0xFFFFFFFF#32) :=
  ⟨⟨_, .head _, by decide +kernel⟩,
   ⟨_, .tail _ (.head _), by decide +kernel⟩,
   ⟨_, .tail _ (.tail _ (.head _)), by decide +kernel⟩,
   ⟨_, .tail _ (.tail _ (.tail _ (.head _))), by decide +kernel⟩,
   ⟨_, .tail _ (.tail _ (.tail _ (.tail _ (.head _)))), by decide +kernel⟩,
   ⟨_, .tail _ (.tail _ (.tail _ (.tail _ (.tail _ (.head _))))), by decide +kernel⟩,
   ⟨_, .tail _ (.tail _ (.tail _ (.tail _ (.tail _ (.tail _ (.head _)))))), by decide +kernel⟩,
   ⟨_, .tail _ (.tail _ (.tail _ (.tail _ (.tail _ (.tail _ (.head _)))))), by decide +kernel⟩,
   ⟨_, .head _, by decide +kernel⟩,
   ⟨_, .tail _ (.head _), by decide +kernel⟩,
   ⟨_, .tail _ (.tail _ (.head _)), by decide +kernel⟩,
   ⟨_, .tail _ (.tail _ (.tail _ (.head _))), by decide +kernel⟩,
   ⟨_, .head _, by decide +kernel⟩,
   ⟨_, .tail _ (.head _), by decide +kernel⟩,
   ⟨_, .tail _ (.tail _ (.head _)), by decide +kernel⟩,
   ⟨_, .tail _ (.tail _ (.tail _ (.head _))), by decide +kernel⟩,
   ⟨_, .tail _ (.tail _ (.tail _ (.head _))), by decide +kernel⟩,
   ⟨_, .tail _ (.tail _ (.tail _ (.tail _ (.head _)))), by decide +kernel⟩,
   ⟨_, .tail _ (.tail _ (.tail _ (.head _))), by decide +kernel⟩,
   ⟨_, .head _, by decide +kernel⟩,
   ⟨_, .tail _ (.head _), by decide +kernel⟩,
   ⟨_, .tail _ (.tail _ (.head _)), by decide +kernel⟩,
   ⟨_, .tail _ (.tail _ (.tail _ (.head _))), by decide +kernel⟩,
   ⟨_, .tail _ (.tail _ (.tail _ (.tail _ (.head _)))), by decide +kernel⟩,
   ⟨_, .tail _ (.tail _ (.tail _ (.tail _ (.tail _ (.head _))))), by decide +kernel⟩,
   ⟨_, .tail _ (.tail _ (.tail _ (.tail _ (.tail _ (.tail _ (.head _)))))), by decide +kernel⟩,
   ⟨_, .tail _ (.tail _ (.tail _ (.tail _ (.tail _ (.tail _ (.tail _ (.head _))))))), by decide +kernel⟩,
   ⟨_, .tail _ (.tail _ (.tail _ (.tail _ (.tail _ (.tail _ (.tail _ (.head _))))))), by decide +kernel⟩,
   ⟨_, .tail _ (.tail _ (.tail _ (.tail _ (.tail _ (.tail _ (.tail _ (.head _))))))), by decide +kernel⟩,
   ⟨_, .tail _ (.tail _ (.tail _ (.tail _ (.tail _ (.tail _ (.tail _ (.head _))))))), by decide +kernel⟩,
   ⟨_, .tail _ (.tail _ (.tail _ (.tail _ (.tail _ (.tail _ (.tail _ (.head _))))))), by decide +kernel⟩⟩

/-- The issuing path covers half of its state's lanes. -/
def sPart : State := { s0 with cur := some { probeCursor 0 with m := 0xFFFF#32 } }
theorem test_row_fmtWrite :
    Takes ownTurns (s0) (.fmtWrite 3#2 0x70134#32) ∧
    Takes ownTurns (sPart) (.fmtWrite 3#2 0x70134#32) :=
  ⟨⟨_, .tail _ (.head _), by decide +kernel⟩,
   ⟨_, .head _, by decide +kernel⟩⟩
theorem test_row_fpCtlWrite :
    Takes ownTurns (s0) (.fpCtlWrite 0xFFFFFFFF#32) ∧
    Takes ownTurns (sPart) (.fpCtlWrite 0xFFFFFFFF#32) :=
  ⟨⟨_, .tail _ (.head _), by decide +kernel⟩,
   ⟨_, .head _, by decide +kernel⟩⟩
theorem test_row_fpStatusClear :
    Takes ownTurns (grouped fun g => { g with fpStatus := 7#32, fpRaised := 1#32 }) (.fpStatusClear 3#32) :=
  ⟨_, .head _, by decide +kernel⟩
theorem test_row_frTailRead :
    Takes ownTurns (s0) (.frTailRead d) ∧
    Takes ownTurns (sPart) (.frTailRead d) ∧
    Takes ownTurns (teamed fun t => { t with priv := false }) (.frTailRead d) :=
  ⟨⟨_, .tail _ (.tail _ (.head _)), by decide +kernel⟩,
   ⟨_, .tail _ (.head _), by decide +kernel⟩,
   ⟨_, .head _, by decide +kernel⟩⟩

end Sys2Proof.Tests
end

