-- ==== Sys2Proof/Tests/Ends.lean ====
section
/-!
SUPPORT. Tests: waits that end, faults of some lanes, faults of objects, the fields of queues and slices, the choice of a task, the results of units,
atomics, the matrix engine, drains and collectives; and the example of a rejoin whose last lane arrives as its timeout falls due (spec/07 R181).
-/
namespace Sys2Proof.Tests
open Sys2Proof.Machine
set_option Elab.async false
set_option exponentiation.threshold 4096
set_option maxRecDepth 100000

/-! ## Waits that end -/

/-- What the wait of the row needs. -/
def Ends (s : State) (p : Team → HoldKind → Prop) : Prop := ∃ x h, holdAt s 0 0 0 = some (x, h) ∧ p x h.kind
theorem test_ends_bar : Ends (sWaits (.barWait 0 true .team) 0 0 0) fun x k => k = .barWait 0 true .team ∧ (x.bar 0).passed true = true
    ∧ (sWaits (.barWait 0 true .team) 0 0 0).readsOut 0 0 = false := ⟨_, _, rfl, rfl, by decide +kernel, by decide +kernel⟩
theorem test_ends_chres : Ends (sWaits (.chres 0 d) 3 0 0) fun x k => k = .chres 0 d ∧ (x.chan 0).valid = true
    ∧ (x.chan 0).nr + (x.chan 0).nf + (x.chan 0).nt < (x.chan 0).count ∧ ∀ n ∈ x.reservers 0, 0 ≤ n :=
  ⟨_, _, rfl, rfl, by decide +kernel, by decide +kernel, fun _ _ => Nat.zero_le _⟩
theorem test_ends_chtake : Ends (sWaits (.chtake .team 0 d) 0 1 0) fun x k => k = .chtake .team 0 d ∧ (x.chan 0).valid = true ∧ 1 ≤ (x.chan 0).nf
    ∧ (∀ n ∈ (sWaits (.chtake .team 0 d) 0 1 0).takers 0 0 x, 0 ≤ n) ∧ (sWaits (.chtake .team 0 d) 0 1 0).readsOut 0 0 = false :=
  ⟨_, _, rfl, rfl, by decide +kernel, by decide +kernel, fun _ _ => Nat.zero_le _, by decide +kernel⟩
theorem test_ends_tok : Ends (sWaits (.tokWait 0xFFFF) 0 0 0) fun x k => k = .tokWait 0xFFFF
    ∧ (sWaits (.tokWait 0xFFFF) 0 0 0).drainedAll x.slice x.cluIx 0xFFFF = true ∧ (sWaits (.tokWait 0xFFFF) 0 0 0).readsOut 0 0 = false :=
  ⟨_, _, rfl, rfl, by decide +kernel, by decide +kernel⟩
theorem test_ends_cbar : Ends (sWaits (.cbarWait .clu 4096 true) 0 0 0) fun x k => k = .cbarWait .clu 4096 true
    ∧ (sWaits (.cbarWait .clu 4096 true) 0 0 0).teamXlat x needRW 4096 = .ok 4096 ∧ ((sWaits (.cbarWait .clu 4096 true) 0 0 0).cbar 4096).passed true = true
    ∧ (sWaits (.cbarWait .clu 4096 true) 0 0 0).readsOut 0 0 = false :=
  ⟨_, _, rfl, rfl, ok_of (by decide +kernel), by decide +kernel, by decide +kernel⟩
theorem test_ends_waitv : Ends (sWaits (.waitv .eq 1 4096 0#32 none) 0 0 0) fun x k => k = .waitv .eq 1 4096 0#32 none
    ∧ (sWaits (.waitv .eq 1 4096 0#32 none) 0 0 0).waitWord x 4096 = .ok (4096, 0) ∧ waitCond .eq 0 (0#32).toNat = true
    ∧ (sWaits (.waitv .eq 1 4096 0#32 none) 0 0 0).readsOut 0 0 = false :=
  ⟨_, _, rfl, rfl, ok_of (by decide +kernel), by decide, by decide +kernel⟩
theorem test_ends_timeout : Ends (sWaits (.waitv .ne 1 4096 0#32 (some 0)) 0 0 0) fun x k => k = .waitv .ne 1 4096 0#32 (some 0)
    ∧ (sWaits (.waitv .ne 1 4096 0#32 (some 0)) 0 0 0).waitWord x 4096 = .ok (4096, 0) ∧ waitCond .ne 0 (0#32).toNat = false
    ∧ 0 ≤ (sWaits (.waitv .ne 1 4096 0#32 (some 0)) 0 0 0).dieCount x.die ∧ (sWaits (.waitv .ne 1 4096 0#32 (some 0)) 0 0 0).readsOut 0 0 = false :=
  ⟨_, _, rfl, rfl, ok_of (by decide +kernel), by decide, Nat.zero_le _, by decide +kernel⟩

/-- Every lane of the rejoin has arrived, in the cycle whose count is the deadline, and the timeout names p3, which reads 1. -/
def sTie : State := { ((sJoin 1 1 (some 0)).updGroup 0 0 fun g => { g with preds := [(3, 0xFFFFFFFF#32)], lanes := g.lanes.map fun y => { y with wp := 3 } })
  with cur := none, ended := some (0, 0) }
/-- The release wins: the lanes run and p3 reads 0 (R181). -/
theorem test_release_before_timeout : (match step sTie with
    | .next t => (t.group? 0 0).any fun g => g.preds.get 3 == 0#32 && g.lanes.all fun y => y.st == .running
    | _ => false) = true := by decide +kernel

/-! ## Faults of some lanes -/

/-- The instruction issues; some lanes fault, and some do not. -/
def Mixed (s : State) (i : Instr) : Prop := Issues i s (at_ s) ∧ ∃ w ∈ splits (at_ s) i, w.ok ∧ (∃ f ∈ w.flts, f.2 ≠ 0#32) ∧ ∃ l, l < 32 ∧ ∀ f ∈ w.flts, f.2.getLsbD l = false
/-- Lane 0 names 1, lane 1 an address out of range, the others 4,096; every byte is selected. -/
def sLanes (lo hi : Nat → Nat) : State := grouped fun g =>
  { g with v := (List.range 32).map (fun l => (32 * 8 + l, BitVec.ofNat 32 (lo l))) ++ (List.range 32).map (fun l => (32 * 9 + l, BitVec.ofNat 32 (hi l)))
                ++ (List.range 32).map fun l => (32 * 16 + l, 15#32) }
def sGlob : State := sLanes (fun l => if l = 0 then 1 else 4096) fun l => if l = 1 then 2 ^ 26 else 0
theorem test_mixed :
    Mixed sGlob (.ldgV c0 .set0 .var m0 d a) ∧ Mixed sGlob (.stgV c0 .none .var m0 a b) ∧
    Mixed (sLanes (fun l => if l = 0 then 1 else if l = 1 then 262144 else 4096) fun _ => 0) (.ldtmV c0 .set0 .var m0 d a) ∧
    Mixed sGlob (.stmsk c0 .none .var m0 a b e) ∧
    -- one arrival is left, and every lane arrives
    Mixed (sreg 0#32 1#32 (teamed fun t => (barAt0 t).setBar 0 { phase := 0, init := 1, left := 1, bytes := 1, stat := 1 })) (.barArrive c0 .team a) := by
  refine ⟨⟨issues_of (by decide +kernel), _, .head _, ?_⟩, ⟨issues_of (by decide +kernel), _, .head _, ?_⟩, ⟨issues_of (by decide +kernel), _, .head _, ?_⟩,
    ⟨issues_of (by decide +kernel), _, .head _, ?_⟩, ⟨issues_of (by decide +kernel), _, .head _, ?_⟩⟩
  · exact ⟨rfl, ⟨_, .head _, by decide +kernel⟩, 2, by decide, by decide +kernel⟩
  · exact ⟨rfl, ⟨_, .head _, by decide +kernel⟩, 2, by decide, by decide +kernel⟩
  · exact ⟨rfl, ⟨_, .head _, by decide +kernel⟩, 2, by decide, by decide +kernel⟩
  · exact ⟨trivial, ⟨_, .head _, by decide +kernel⟩, 2, by decide, by decide +kernel⟩
  · exact ⟨⟨by unfold barPlaced; decide +kernel, by unfold barValid; decide +kernel⟩, ⟨_, .head _, by decide +kernel⟩, 0, by decide, by decide +kernel⟩
/-- Lane 0 of an indirect call names 2, which is misaligned, the others 0. -/
theorem test_mixed_targets : issuesB (sLanes (fun l => if l = 0 then 2 else 0) fun _ => 0) cT (.callIndirect cT d a) = true
    ∧ ((targetOf (here (sLanes (fun l => if l = 0 then 2 else 0) fun _ => 0) cT) (.callIndirect cT d a)).any fun f => f 0 == 2 && f 1 == 0) = true := by
  decide +kernel

/-! ## Faults of objects -/

theorem test_object_faults :
    Fails syncFails (sChan 0 0 0) (.chcommit c0 .team 0) ∧
    Fails copyFails (sregs [(8, 256#32), (12, 512#32), (16, 16#32)]) (.cpyT2t c0 a b e 0#18) ∧
    Fails copyFails sResv (.obldTm c0 0 a 0#18) ∧
    Fails tlbFails (sregs [(8, 0xC00000#32), (12, 3#32)]) (.tokResume c0 d a b) ∧
    Fails schedFails (sregs [(8, 0#32), (9, 0x4000000#32)]) (.enq c0 .set0 d a b) ∧
    Fails schedFails (sregs [(8, 65536#32)]) (.waitv c0 .eq 1 a b e) ∧
    Fails placeFails (sregs [(8, 65536#32)]) (.cbarArrive c0 .clu a) ∧
    Fails placeFails (sregs [(8, 65536#32)]) (.cbarWait c0 .clu a) := by
  refine ⟨⟨issues_of (by decide +kernel), _, .tail _ (.head _), by decide +kernel⟩,
    ⟨issues_of (by decide +kernel), _, .tail _ (.tail _ (.head _)), by simp only [copyAligned, rangeInside]; decide +kernel⟩,
    ⟨issues_of (by decide +kernel), _, .tail _ (.tail _ (.head _)), by simp only [copyAligned, rangeInside]; decide +kernel⟩,
    ⟨issues_of (by decide +kernel), _, .head _, by unfold resumeOk; decide +kernel⟩,
    ⟨issues_of (by decide +kernel), _, .head _, by decide +kernel⟩,
    ⟨issues_of (by decide +kernel), _, .tail _ (.tail _ (.head _)), by decide +kernel⟩,
    ⟨issues_of (by decide +kernel), _, .tail _ (.tail _ (.head _)), by unfold cbarPlaced; decide +kernel⟩,
    ⟨issues_of (by decide +kernel), _, .tail _ (.tail _ (.head _)), by unfold cbarPlaced; decide +kernel⟩⟩
/-- An arrival at a cluster barrier that is not valid, or that awaits none. -/
def sCbarOff (stat : Byte) : State := { sCbar 0#32 with mem := (sCbar 0#32).mem.setRun 256 [0#8, 0#8, 0#8, 0#8, 1#8, 0#8, 0#8, 0#8, 0#8, 0#8, 0#8, 0#8, stat] }
theorem test_cbar_faults : ∀ n ∈ [0#8, 1#8], Issues (.cbarArrive c0 .clu a) (sCbarOff n) (at_ (sCbarOff n)) ∧ cbarAt (at_ (sCbarOff n)) a 256
    ∧ (((at_ (sCbarOff n)).s.cbar 256).stat % 2 = 0 ∨ ((at_ (sCbarOff n)).s.cbar 256).left = 0) := by
  intro n hn
  simp only [List.mem_cons, List.not_mem_nil, or_false] at hn
  rcases hn with rfl | rfl <;>
    exact ⟨issues_of (by decide +kernel), ⟨by unfold cbarPlaced; decide +kernel, ok_of (by decide +kernel), some_ok (v := [256]) (by decide +kernel)⟩,
      by decide +kernel⟩

/-! ## Queues and teams -/

/-- The entry at the queue's head is well formed, or names no team; a resident team. -/
theorem test_takes_head : ∀ n ∈ [0, 1], ∃ q e, (sQueue 1 n).queue? 192 5 = some q ∧
    ((sQueue 1 n).checkHeader 192 5 q).1.vread (q.space 192) (q.ring + 64 * (q.head % q.size)) 64 = .ok e ∧ entryOk e = (n == 1) := by
  intro n hn
  simp only [List.mem_cons, List.not_mem_nil, or_false] at hn
  rcases hn with rfl | rfl
  · exact ⟨queue0 1, 0, rfl, ok_of (by decide +kernel), by decide +kernel⟩
  · exact ⟨queue0 1, 2 ^ 224, rfl, ok_of (by decide +kernel), by decide +kernel⟩
theorem test_suspends : ∃ x, s0.team? 0 = some x ∧ x.st = .resident ∧ (x.group? 0).isSome = true := ⟨_, rfl, rfl, rfl⟩

/-- No queue of that number; an entry of no team; a full queue; a slot that cannot be written, and one that can. -/
theorem test_appends : (sBound 8192).queue? 192 7 = none ∧ entryOk 0 = false ∧ entryOk (2 ^ 224) = true
    ∧ (∃ q, ({ s0 with queues := [(queueKey 192 5, { queue0 1 with tail := 4 })] } : State).queue? 192 5 = some q
      ∧ BitVec.ofNat 32 q.tail - BitVec.ofNat 32 q.head = BitVec.ofNat 32 q.size)
    ∧ ∀ ring ∈ [8192, 65536], ∃ q, (sBound ring).queue? 192 5 = some q ∧ BitVec.ofNat 32 q.tail - BitVec.ofNat 32 q.head ≠ BitVec.ofNat 32 q.size
      ∧ (((((sBound ring).checkHeader 192 5 q).1.vwrite (q.space 192) (schedAgent 192 q.die) (q.ring + 64 * (q.tail % q.size)) (2 ^ 224) 64).toOption.isSome = true)
        ↔ ring = 8192) := by
  refine ⟨by decide +kernel, by decide, by decide, ⟨_, rfl, by decide⟩, fun ring h => ?_⟩
  simp only [List.mem_cons, List.not_mem_nil, or_false] at h
  rcases h with rfl | rfl
  · exact ⟨_, rfl, by decide, by decide +kernel⟩
  · exact ⟨_, rfl, by decide, by decide +kernel⟩
/-- The ways in which a task ranks before another; two suspended teams, of which the first fits no core and the second fits core 0 of cluster 0. -/
theorem test_chooses :
    TaskKey.before ⟨0, 9, 0, true, 9, 9⟩ ⟨1, 0, 1, false, 0, 0⟩ ∧ TaskKey.before ⟨1, 5, 2, true, 9, 9⟩ ⟨1, 6, 1, false, 0, 0⟩
    ∧ TaskKey.before ⟨1, 5, 1, true, 9, 9⟩ ⟨1, 5, 2, false, 0, 0⟩ ∧ TaskKey.before ⟨1, 5, 2, false, 9, 9⟩ ⟨1, 5, 2, true, 0, 0⟩
    ∧ TaskKey.before ⟨1, 5, 2, true, 3, 9⟩ ⟨1, 5, 2, true, 4, 0⟩ ∧ TaskKey.before ⟨1, 5, 2, true, 3, 1⟩ ⟨1, 5, 2, true, 3, 2⟩
    ∧ (sCrowded.ranked 192 0).map (·.2) = [(.team 6, none), (.team 5, none)]
    ∧ (∃ a b, keyOf sCrowded (.team 6) = some a ∧ keyOf sCrowded (.team 5) = some b ∧ a.before b)
    ∧ (∃ x, (sCrowded.fetchTask (.team 6)).2.toOption = some x ∧ sCrowded.coreFor x 192 0 none = none)
    ∧ (∃ x, (sCrowded.fetchTask (.team 5)).2.toOption = some x ∧ sCrowded.coreFor x 192 0 none = some (0, 0)) := by
  refine ⟨by simp [TaskKey.before], by simp [TaskKey.before], by simp [TaskKey.before], by simp [TaskKey.before], by simp [TaskKey.before], by simp [TaskKey.before],
    by decide +kernel, ⟨_, _, rfl, rfl, by simp [TaskKey.before, team5, grid0]⟩, ?_, ?_⟩
  · obtain ⟨x, hx, h⟩ := some_of (fun x => sCrowded.coreFor x 192 0 none == none) (o := (sCrowded.fetchTask (.team 6)).2.toOption) (by decide +kernel)
    exact ⟨x, hx, beq_iff_eq.mp h⟩
  · obtain ⟨x, hx, h⟩ := some_of (fun x => sCrowded.coreFor x 192 0 none == some (0, 0)) (o := (sCrowded.fetchTask (.team 5)).2.toOption) (by decide +kernel)
    exact ⟨x, hx, beq_iff_eq.mp h⟩

/-! ## Atomics, the matrix engine, drains, collectives -/

/-- A lane with a destination of its own, on four bytes. -/
theorem test_atomic_rules : ∃ g d, (sOp true [got0] (.atomic .add false .dom .ar true)).group? 0 0 = some g
    ∧ (opOf true [got0] (.atomic .add false .dom .ar true)).dst = some d ∧ d.uni = false ∧ (opOf true [got0] (.atomic .add false .dom .ar true)).skip = []
    ∧ got0.lane < 32 ∧ (g.lane got0.lane).st ≠ .exited ∧ (0, 4096) ∈ got0.bytes ∧ (got0.bytes.map (·.2)).Nodup
    ∧ atomNew .add false (atomFAdd false) 1 2 0 = some 3 ∧ atomNew .cas false (atomFAdd false) 1 2 0 = none :=
  ⟨_, _, rfl, rfl, rfl, rfl, by decide, by decide +kernel, by decide +kernel, by decide +kernel, by decide +kernel, by decide +kernel⟩
/-- Reservations of kinds i8 and q4; under a header of SEL 3 line 0 of K-group 0 is malformed, and under zeros none is. -/
theorem test_mma_rules : 5 ≤ (operandOf 0x50000#64).fk ∧ (operandOf 0x20000#64).blocks = true
    ∧ ruleMalformed 8 0 ((operandOf 0x20000#64).headerOf { obuf := [(0, 0xC0#8)] } 0 0) ∧ ¬ ruleMalformed 8 0 ((operandOf 0x20000#64).headerOf {} 0 0) :=
  ⟨by decide, by decide, .inl (by decide +kernel), by unfold ruleMalformed; decide +kernel⟩
/-- A block of ones, of four bits without tables; and one with a NaN. -/
def quant0 : Quant := { w := 4, variant := 0, levels := some (1, List.range 16), xs := (List.replicate 32 0x3FF0000000000000).map (fmtT .f64).read }
theorem test_block_rules : quant0.w ∈ [4, 6, 8] ∧ quant0.variant < 2 ∧ (∀ t, quant0.levels = some t → t.1 < 4 ∧ t.2.length = 2 ^ quant0.w ∧ ∀ v ∈ t.2, v < 256)
    ∧ (∀ v ∈ quant0.xs, v.isNaN = false ∧ v.isInf = false) ∧ (∃ v ∈ [(fmtT .f64).read 0x7FF8000000000000], v.isNaN = true ∨ v.isInf = true) := by
  refine ⟨by decide, by decide, fun t h => ?_, by decide +kernel, _, .head _, by decide +kernel⟩
  obtain rfl := Option.some.inj h
  decide
theorem test_drain_rules : ∃ f, drainFmt (fmtWord 0x70134#32) = some f ∧ f.1 ∈ [4, 6, 8] := ⟨_, rfl, by decide⟩
/-- Two values of each type; NaNs; infinities. -/
theorem test_coll_rules : (∀ v ∈ [3, 5], v < 2 ^ (8 * collSize 0))
    ∧ ([0x3F800000, 0x7FC00001].find? fun u => ((fmtT (collFT 2)).read u).isNaN) = some 0x7FC00001
    ∧ (∀ v ∈ [0, 0x80000000, 0x7F800000, 0xFF800000], ((fmtT (collFT 2)).read v).isNaN = false)
    ∧ (fmtT (collFT 2)).read 0x7F800000 = .inf false ∧ (fmtT (collFT 2)).read 0xFF800000 = .inf true := by decide +kernel

/-! ## Units -/

/-- Three vertices at 4,096, at (0, 0), (100, 0) and (0, 100); primitives of vertices 0, 1, 2, of 0, 1, 3 and of 0, 0, 0; bins at 10,240: empty, with a
full last chunk 0, with a last chunk 1 of one entry. -/
def binCall : Call := callOf 1 .plain [(8, 8, 4096), (16, 8, 8192), (24, 4, 3)]
def binMem : SMap Byte := ([(4112, 25600), (4132, 25600), (8196, 1), (8200, 2), (8208, 1), (8212, 3), (10264, 1), (12292, 31), (10276, 1), (10280, 1), (12548, 1)] :
  List (Nat × Nat)).foldl (fun m f => m.setRun f.1 (leBytes f.2 4)) s0.mem
def binPool : Pool := { chunkBase := 12288, bintab := 10240, count := 4, next := 2, binsX := 1, binsY := 1, orgX := 0, orgY := 0, token := 0, tbase := 0 }
def binRun0 : BinRun := { s := { s0 with mem := binMem }, next := 2, token := 0 }
def binVtx : List Vtx := [{ x := 0, y := 0 }, { x := 25600, y := 0 }, { x := 0, y := 25600 }]
theorem test_binner_prims : binRun0.s.primIndices binCall 0 = .ok [0, 1, 2] ∧ [0, 1, 2].mapM (fun k => binRun0.s.vertex binCall k) = .ok binVtx
    ∧ ¬ cullsPrim binCall binPool { x := 0, y := 0 } { x := 25600, y := 0 } { x := 0, y := 25600 } ∧ binPool.bins binVtx = [0]
    ∧ [0].mapM (fun n => binRun0.s.binEntry binCall binPool n) = .ok [(0, 31)]
    ∧ binRun0.s.primIndices binCall 1 = .ok [0, 1, 3] ∧ binCall.fld 24 4 = 3
    ∧ binRun0.s.primIndices binCall 2 = .ok [0, 0, 0] ∧ cullsPrim binCall binPool { x := 0, y := 0 } { x := 0, y := 0 } { x := 0, y := 0 } :=
  ⟨ok_of (by decide +kernel), ok_of (by decide +kernel), by unfold cullsPrim; decide +kernel, by decide +kernel, ok_of (by decide +kernel),
   ok_of (by decide +kernel), by decide +kernel, ok_of (by decide +kernel), .inr (.inl (by decide))⟩
theorem test_binner_enters : ∀ b < 3, ∃ e, binRun0.s.cread binCall (10240 + 16 * b) 16 = .ok e ∧ (recFld e 8 4 = 0 ↔ b = 0)
    ∧ (b = 1 → binRun0.s.cread binCall (12288 + 256 * recFld e 4 4 + 4) 4 = .ok 31)
    ∧ (b = 2 → binRun0.s.cread binCall (12288 + 256 * recFld e 4 4 + 4) 4 = .ok 1) := by
  intro b hb
  obtain rfl | rfl | rfl : b = 0 ∨ b = 1 ∨ b = 2 := by omega
  · exact ⟨0, ok_of (by decide +kernel), by decide, fun h => absurd h (by decide), fun h => absurd h (by decide)⟩
  · exact ⟨2 ^ 64, ok_of (by decide +kernel), by decide, fun _ => ok_of (by decide +kernel), fun h => absurd h (by decide)⟩
  · exact ⟨2 ^ 64 + 2 ^ 32, ok_of (by decide +kernel), by decide, fun h => absurd h (by decide), fun _ => ok_of (by decide +kernel)⟩
/-- A sample whose depth and stencil can be read. -/
def samp0 : Samp := { x := 0, y := 0, s := 0, px := 0, py := 0, ox := 0, oy := 0 }
theorem test_depth_sample : s0.cread (({ base := 4096, sbase := 8192 } : Stream).call (callOf 3 .plain [(48, 1, 31), (52, 1, 7)])) 4096 4 = .ok 0
    ∧ s0.cread (({ base := 4096, sbase := 8192 } : Stream).call (callOf 3 .plain [(48, 1, 31), (52, 1, 7)])) 8192 1 = .ok 0
    ∧ ({ base := 4096, sbase := 8192 } : Stream).addr4 samp0 = 4096 ∧ ({ base := 4096, sbase := 8192 } : Stream).addr1 samp0 = 8192
    ∧ (callOf 3 .plain [(48, 1, 31), (52, 1, 7)]).fld 52 1 < 8 :=
  ⟨ok_of (by decide +kernel), ok_of (by decide +kernel), by decide +kernel, by decide +kernel, by decide +kernel⟩
/-- A ray in an instance whose records read 0: at a node, at a leaf, awaiting a verdict; and one at a leaf of the top tree. -/
def scene0 : Scene := { s := s0, c := callOf 7 .plain [(32, 8, 4096), (40, 8, 8192)], ninst := 1 }
def ray0 : Ray := { (rayOf 0) with tmax := 0x7F800000, state := 1, inst := true }
theorem test_rays : ¬ ray0.invalid ∧ ¬ ray0.broken ∧ scene0.rd 256 64 = .ok 0 ∧ primBad 0 = false ∧ scene0.instance? 0 = .ok 0 ∧ instBad 0 = false
    ∧ badRef 0x80000000 false 1 = false ∧ refKind 0x80000000 = 2 ∧ (∃ p, ({ ray0 with state := 2, node := 0x40000000 } : Ray).candidate scene0 = .ok (some p)) := by
  refine ⟨by unfold Ray.invalid; decide +kernel, by unfold Ray.broken; decide +kernel, ok_of (by decide +kernel), by decide, ok_of (by decide +kernel), by decide,
    by decide, by decide, (({ ray0 with state := 2, node := 0x40000000 } : Ray).stale), ?_⟩
  exact ok_of (by rfl)

end Sys2Proof.Tests
end

