-- ==== Sys2Proof/Tests/Examples.lean ====
section
/-!
SUPPORT. Tests: the results that the spec's own tables of examples give (spec/04 after R100, spec/05 after R127, R133, R141, spec/06 after
R160, R166, R172, spec/07 after R194).
-/
namespace Sys2Proof.Tests
open Sys2Proof.Machine
set_option Elab.async false
set_option exponentiation.threshold 1024

/-- A path of lane 0 alone, with its varying registers. -/
def lane0 (v : List (Nat × Word)) : State :=
  { grouped fun g => { g with v := v.map fun p => (32 * p.1, p.2) } with cur := some { probeCursor 0 with m := 1#32 } }
/-- What an instruction leaves in a register of lane 0, and in FP_STATUS. -/
def leaves0 (v : List (Nat × Word)) (i : Instr) (n : Nat) : Option (Word × Word) := match exec i (lane0 v) with
  | .next t => (t.group? 0 0).map fun g => (g.getV n 0, g.fpStatus)
  | _ => none
abbrev r1 : Dst := .reg 1
abbrev v2 : Src := .reg 2
abbrev v3 : Src := .reg 3
abbrev v4 : Src := .reg 4
def intOf (i : Instr) (x y z : Word) : Option Word := (leaves0 [(2, x), (3, y), (4, z)] i 1).map (·.1)

/-- The table after R127. -/
theorem test_example_integers :
    intOf (.addV c0 .i32 true r1 v2 v3) 0x7FFFFFF0#32 0x20#32 0#32 = some 0x7FFFFFFF#32 ∧
    intOf (.addV c0 .n32 true r1 v2 v3) 0xFFFFFFF0#32 0x20#32 0#32 = some 0xFFFFFFFF#32 ∧
    intOf (.addV c0 .n32 false r1 v2 v3) 0xFFFFFFF0#32 0x20#32 0#32 = some 0x10#32 ∧
    intOf (.subV c0 .n32 true r1 v2 v3) 5#32 9#32 0#32 = some 0#32 ∧
    intOf (.mulV c0 .i32 true r1 v2 v3) 0xFFFFFFFE#32 3#32 0#32 = some 0xFFFFFFFF#32 ∧
    intOf (.mulV c0 .n32 true r1 v2 v3) 0xFFFFFFFE#32 3#32 0#32 = some 2#32 ∧
    intOf (.mulV c0 .n32 false r1 v2 v3) 0xFFFFFFFE#32 3#32 0#32 = some 0xFFFFFFFA#32 ∧
    intOf (.divV c0 .i32 r1 v2 v3) 0xFFFFFFF9#32 2#32 0#32 = some 0xFFFFFFFD#32 ∧
    intOf (.remV c0 .i32 r1 v2 v3) 0xFFFFFFF9#32 2#32 0#32 = some 0xFFFFFFFF#32 ∧
    intOf (.divV c0 .i32 r1 v2 v3) 0x80000000#32 0xFFFFFFFF#32 0#32 = some 0x80000000#32 ∧
    intOf (.remV c0 .i32 r1 v2 v3) 0x80000000#32 0xFFFFFFFF#32 0#32 = some 0#32 ∧
    intOf (.divV c0 .n32 r1 v2 v3) 12#32 0#32 0#32 = some 0xFFFFFFFF#32 ∧
    intOf (.remV c0 .n32 r1 v2 v3) 12#32 0#32 0#32 = some 12#32 ∧
    intOf (.absV c0 false r1 v2) 0x80000000#32 0#32 0#32 = some 0x80000000#32 := by decide +kernel
/-- The table after R133. -/
theorem test_example_bits :
    intOf (.shfV c0 false false r1 v2 v3 v4) 0x89ABCDEF#32 0x01234567#32 8#32 = some 0x23456789#32 ∧
    intOf (.shfV c0 true false r1 v2 v3 v4) 0x89ABCDEF#32 0x01234567#32 8#32 = some 0x6789ABCD#32 ∧
    intOf (.shfV c0 true false r1 v2 v3 v4) 0x89ABCDEF#32 0x01234567#32 40#32 = some 0x6789ABCD#32 ∧
    intOf (.shfV c0 true true r1 v2 v3 v4) 0x89ABCDEF#32 0x01234567#32 40#32 = some 0x01234567#32 ∧
    intOf (.sarV c0 false r1 v2 v3) 0x80000000#32 40#32 0#32 = some 0xFFFFFFFF#32 ∧
    intOf (.shrV c0 false r1 v2 v3) 0x80000000#32 40#32 0#32 = some 0#32 ∧
    intOf (.bfeV c0 true r1 v2 v3 v4) 0xF0A0#32 8#32 8#32 = some 0xFFFFFFF0#32 ∧
    intOf (.bfeV c0 false r1 v2 v3 v4) 0xF0A0#32 8#32 8#32 = some 0xF0#32 ∧
    intOf (.bfiV c0 r1 v2 v3 v4) 0xFF#32 0x12345678#32 0x804#32 = some 0x12345FF8#32 ∧
    intOf (.bgatV c0 r1 v2 v3 v4) 0x44332211#32 0x88776655#32 0x180C0500#32 = some 0xFFAA6611#32 ∧
    intOf (.popcV c0 true r1 v2) 0x80000003#32 1#32 0#32 = some 4#32 ∧
    intOf (.ctzV c0 false r1 v2) 0x100#32 0#32 0#32 = some 8#32 ∧ intOf (.clzV c0 false r1 v2) 0#32 0#32 0#32 = some 32#32 := by decide +kernel
/-- The clause after R141: a2, a3 and lane 31 of v10. -/
def sAffine (s7 : Word) : State := recorded fun r =>
  { r with s := [(4, 0x100000#32), (6, 4#32), (7, s7)], a := [(1, { base := 0x40#64, stride := 8#32 }), (2, { base := 0x100000#64, stride := 4#32 }),
                                                             (3, { base := 0x300040#64, stride := 20#32 })] }
def affOf (i : Instr) (s7 : Word) (n : Nat) : Option (Dword × Word × Bool) := match exec i (sAffine s7) with
  | .next t => (t.group? 0 0).map fun g => (((g.recOf 0).getA n).base, ((g.recOf 0).getA n).stride, (g.recOf 0).hasRec)
  | _ => none
theorem test_example_affine :
    affOf (.rampA c0 (.reg 5) (.reg 4) (.reg 6)) 3#32 5 = some (0x100000#64, 4#32, false) ∧
    affOf (.madA c0 true (.reg 5) (.reg 2) (.reg 7) (.reg 1)) 3#32 5 = some (0x300040#64, 20#32, false) ∧
    affOf (.madA c0 true (.reg 3) (.reg 2) (.reg 7) (.reg 1)) 0x20000000#32 3 = some (0x300040#64, 20#32, true) ∧
    affOf (.madA c0 true (.reg 5) (.reg 2) (.reg 7) (.reg 1)) 0xFFFFFFFF#32 5 = some (0xFFFFFFFFFFF00040#64, 4#32, false) ∧
    affOf (.madA c0 false (.reg 3) (.reg 2) (.reg 7) (.reg 1)) 0xFFFFFFFF#32 3 = some (0x300040#64, 20#32, true) := by decide +kernel
theorem test_example_mat : (match exec (.mat c0 true (.reg 10) (.reg 3)) (sAffine 3#32) with
    | .next t => (t.group? 0 0).map fun g => (g.getV 10 0, g.getV 10 31, g.getV 11 31)
    | _ => none) = some (0x300040#32, 0x3002AC#32, 0#32) := by decide +kernel

/-- The table of functions before R161: NV, DZ, OF, UF, NX are bits 0 to 4 of FP_STATUS. -/
theorem test_example_functions :
    leaves0 [(2, 0x40400000#32)] (.rcpV c0 .f32 .rne r1 v2) 1 = some (0x3EAAAAAB#32, 16#32) ∧
    leaves0 [(2, 0x40400000#32)] (.rcpV c0 .f32 .rtz r1 v2) 1 = some (0x3EAAAAAA#32, 16#32) ∧
    leaves0 [(2, 0x40000000#32)] (.sqrtV c0 .f32 .rne r1 v2) 1 = some (0x3FB504F3#32, 16#32) ∧
    leaves0 [(2, 0x43000000#32)] (.ex2 c0 false r1 v2) 1 = some (0x7F800000#32, 20#32) ∧
    leaves0 [(2, 0xC3150000#32)] (.ex2 c0 false r1 v2) 1 = some (1#32, 0#32) ∧
    leaves0 [(2, 0x3E000000#32)] (.lg2 c0 false r1 v2) 1 = some (0xC0400000#32, 0#32) ∧
    leaves0 [(2, 0x3F000000#32)] (.sinpi c0 false r1 v2) 1 = some (0x3F800000#32, 0#32) ∧
    leaves0 [(2, 0x3FC00000#32)] (.cospi c0 false r1 v2) 1 = some (0#32, 0#32) ∧
    leaves0 [(2, 0xBF800000#32)] (.divVF c0 .f32 .rne r1 v2 v3) 1 = some (0xFF800000#32, 2#32) := by decide +kernel
/-- The packed sum after R166, the insertion and the conversions after R172. -/
theorem test_example_packed :
    (match exec (.addVQ c0 false 0#2 (.reg 3) (.reg 1) (.reg 2))
        ((lane0 [(1, 0xFF017E38#32), (2, 0x38017034#32)]).updGroup 0 0 fun g => g.setRec 0 { g.getRec 0 with fmt := [(0, fmtWord 0x70134#32)] }) with
      | .next t => (t.group? 0 0).map fun g => (g.getV 3 0, g.fpStatus)
      | _ => none) = some (0xFF027E3E#32, 20#32) ∧
    (match exec (.cvtQFloat c0 .f32 0#2 2#3 (.reg 5) (.reg 1) (.reg 5))
        ((lane0 [(1, 0x3E99999A#32), (5, 0x11223344#32)]).updGroup 0 0 fun g => g.setRec 0 { g.getRec 0 with fmt := [(0, fmtWord 0x70134#32)] }) with
      | .next t => (t.group? 0 0).map fun g => (g.getV 5 0, g.fpStatus)
      | _ => none) = some (0x112A3344#32, 16#32) := by decide +kernel
theorem test_example_conversions :
    leaves0 [(2, 0x3F800001#32)] (.cvtFloatFloat c0 .f16 .f32 .rne r1 v2) 1 = some (0x3C00#32, 16#32) ∧
    leaves0 [(2, 0x3F800001#32)] (.cvtFloatFloat c0 .f16 .f32 .rup r1 v2) 1 = some (0x3C01#32, 16#32) ∧
    leaves0 [(2, 0x40490FDB#32)] (.cvtFloatFloat c0 .bf16 .f32 .rne r1 v2) 1 = some (0x4049#32, 16#32) ∧
    leaves0 [(2, 0xC0200000#32)] (.cvtFloatInt c0 .i32 .f32 .rne r1 v2) 1 = some (0xFFFFFFFE#32, 16#32) ∧
    leaves0 [(2, 0xC0200000#32)] (.cvtFloatInt c0 .i32 .f32 .rdn r1 v2) 1 = some (0xFFFFFFFD#32, 16#32) ∧
    leaves0 [(2, 0xBF800000#32)] (.cvtFloatInt c0 .n32 .f32 .rne r1 v2) 1 = some (0#32, 1#32) ∧
    leaves0 [(2, 0x4F800000#32)] (.cvtFloatInt c0 .i32 .f32 .rne r1 v2) 1 = some (0x7FFFFFFF#32, 1#32) ∧
    leaves0 [(2, 0x7FC00000#32)] (.cvtFloatInt c0 .i32 .f32 .rne r1 v2) 1 = some (0#32, 1#32) ∧
    leaves0 [(2, 0x01000001#32)] (.cvtIntFloat c0 .f32 .i32 .rne r1 v2) 1 = some (0x4B800000#32, 16#32) ∧
    leaves0 [(2, 0x01000001#32)] (.cvtIntFloat c0 .f32 .i32 .rup r1 v2) 1 = some (0x4B800001#32, 16#32) ∧
    leaves0 [(2, 200#32)] (.cvtNarrow c0 false false .i8 r1 v2) 1 = some (0xFFFFFFC8#32, 0#32) ∧
    leaves0 [(2, 300#32)] (.cvtNarrow c0 true false .i8 r1 v2) 1 = some (0x7F#32, 0#32) ∧
    leaves0 [(2, 0x80000000#32)] (.cvtNarrow c0 true true .i16 r1 v2) 1 = some (0x7FFF#32, 0#32) := by decide +kernel

/-- The table after R194: E is lanes 0 to 4, 6 and 7. -/
def sCross : State :=
  { grouped fun g => { g with
      preds := [(1, 0xDF#32)]
      v := (List.range 8).map (fun l => (32 * 1 + l, [0#32, 0x80000000#32, 0x7FC00000#32, 0x7FC00000#32, 0x3F800000#32, 0x3F800000#32, 0x3F800000#32, 0x40000000#32].getD l 0#32))
        ++ (List.range 8).map (fun l => (32 * 2 + l, 99#32)) ++ (List.range 8).map fun l => (32 * 3 + l, BitVec.ofNat 32 (l + 1)) }
    with cur := some { probeCursor 0 with m := 0xFF#32 } }
abbrev cP1 : Ctl := { Ctl.plain with gp := 1#4 }
def crossOf (i : Instr) : Option (List Word) := match exec i sCross with
  | .next t => (t.group? 0 0).map fun g => (List.range 8).map fun l => g.getV 2 l
  | _ => none
theorem test_example_cross_lane :
    crossOf (.matchLanes cP1 .f32 (.reg 2) (.reg 1)) = some [3#32, 3#32, 4#32, 8#32, 0x50#32, 99#32, 0x50#32, 0x80#32] ∧
    crossOf (.matchLanes cP1 .b32 (.reg 2) (.reg 1)) = some [1#32, 2#32, 0xC#32, 0xC#32, 0x50#32, 99#32, 0x50#32, 0x80#32] ∧
    crossOf (.scanInt cP1 false .add (.reg 2) (.reg 3)) = some [1#32, 3#32, 6#32, 10#32, 15#32, 99#32, 22#32, 30#32] ∧
    crossOf (.scanInt cP1 true .add (.reg 2) (.reg 3)) = some [0#32, 1#32, 3#32, 6#32, 10#32, 99#32, 15#32, 22#32] ∧
    crossOf (.shfl cP1 false .down (.reg 2) (.reg 3) (.imm 1#32)) = some [2#32, 3#32, 4#32, 5#32, 5#32, 99#32, 8#32, 8#32] := by decide +kernel

end Sys2Proof.Tests
end

