-- ==== Sys2Proof/Tests/Paths.lean ====
section
/-!
SUPPORT. Tests: states that meet the hypotheses of the statements about guards, holds, precise faults, handlers, register budgets, the step
and stores.
-/
namespace Sys2Proof.Tests
open Sys2Proof.Machine
set_option Elab.async false

def goesOn (o : Host.Outcome State Fault Refusal) : Bool := match o with
  | .next _ => true
  | _ => false
theorem next_of {o : Host.Outcome State Fault Refusal} (h : goesOn o = true) : ∃ t, o = .next t := by
  cases o with
  | next t => exact ⟨t, rfl⟩
  | fault _ => cases h
  | refused _ => cases h

/-! ## Guards, holds, faults of the whole path -/

/-- A guard that is false in every lane; one that is false in lanes 16 to 31; the illegal guard. -/
abbrev cNone : Ctl := { Ctl.plain with gp := 1#4 }
abbrev cHalf : Ctl := { Ctl.plain with gp := 2#4 }
abbrev cBad : Ctl := { Ctl.plain with gn := true }
def sHalf : State := grouped fun g => { g with preds := [(2, 0xFFFF#32)] }
theorem test_guard_false : Due (.nop cNone) s0 (here s0 cNone) ∧ mustHold (here s0 cNone) (.nop cNone) = false ∧ preciseFault (here s0 cNone) (.nop cNone) = none
    ∧ (here s0 cNone).e = 0#32 := ⟨due_of (by decide +kernel), by decide +kernel, by decide +kernel, by decide +kernel⟩
theorem test_guard_illegal : Due (.nop cBad) s0 (here s0 cBad) ∧ mustHold (here s0 cBad) (.nop cBad) = false ∧ (here s0 cBad).c.gp = 15#4 ∧ (here s0 cBad).c.gn = true :=
  ⟨due_of (by decide +kernel), by decide +kernel, rfl, rfl⟩
/-- The word at 12 has MAJ 0x0C. -/
def sReserved : State := { State.reset.withFetchWord 96 0x0C0F00000000000000000000 with stream1 := none }
theorem test_reserved_word : ((({ sReserved with cur := some (probeCursor 0) } : State).cursorWord (probeCursor 0)).bind Except.toOption) = some 0x0C0F00000000000000000000#96
    ∧ refused 0x0C0F00000000000000000000#96
    ∧ onPathB (here { sReserved with cur := some (probeCursor 0) } (Fields.ofBits 0x0C0F00000000000000000000#96).c) = true := by decide +kernel
/-- A path that holds at a `tok.wait`. -/
def sHold : State := grouped fun g => { g with holds := [{ id := 0, rc := 0, lanes := 0xFFFFFFFF#32, e := 0xFFFFFFFF#32, fin := false, kind := .tokWait 1 }] }
theorem test_held : Due (.nop c0) sHold (at_ sHold) ∧ mustHold (at_ sHold) (.nop c0) = true := ⟨due_of (by decide +kernel), by decide +kernel⟩
/-- The header leaves slot 0 invalid. -/
def sNoSlot : State := { (grouped fun g => { g with lanes := g.lanes.map fun y => { y with hdr := some 0x00400000#32 } }) with
  cur := some { probeCursor 0 with hdr := 0x00400000#32 } }
def sUser : State := teamed fun t => { t with priv := false }
def preciseB (s : State) (c : Ctl) (i : Instr) : Bool := dueB s c i && !mustHold (here s c) i
theorem test_precise : preciseB s0 c0 (.jset c0 8) ∧ (Instr.jset c0 8).wellFormed = false ∧ preciseB sNoSlot c0 (.ldgV c0 .set0 .uni m0 d a)
    ∧ (at_ sNoSlot).flagOf .set0 = none ∧ preciseB sUser c0 (.tlbinvAsid c0 a) ∧ privileged (.tlbinvAsid c0 a) = true ∧ (at_ sUser).tm.priv = false
    ∧ preciseB sUser c0 (.getsr c0 d 0x401#12) ∧ srPrivOnly 0x401 = true ∧ preciseB sUser c0 (.setsr c0 0x401#12 a) := by decide +kernel
/-- One register allocated; a uniform write under a guard that leaves out half of the state. -/
def sSmall : State := grouped fun g => { g with vcur := 1, vmax := 8 }
theorem test_budget : preciseB sSmall c0 (.movV c0 false d a) ∧ preciseFault (at_ sSmall) (.movV c0 false d a) = none ∧ (at_ sSmall).e ≠ 0#32
    ∧ regBudget (at_ sSmall) (.movV c0 false d a) = true := by decide +kernel
theorem test_partial_write : preciseB sHalf cHalf (.movS cHalf false d a) ∧ preciseFault (here sHalf cHalf) (.movS cHalf false d a) = none ∧ (here sHalf cHalf).e ≠ 0#32
    ∧ regBudget (here sHalf cHalf) (.movS cHalf false d a) = false ∧ writesState (.movS cHalf false d a) = true
    ∧ ((here sHalf cHalf).g0.live 0).getLsbD 31 = true ∧ (here sHalf cHalf).e.getLsbD 31 = false := by decide +kernel
/-- Lane 31 is outside the effective mask; the instruction goes on. -/
theorem test_other_lanes : quietAtIssue (.movV cHalf false d a) = true ∧ Due (.movV cHalf false d a) sHalf (here sHalf cHalf) ∧ (∃ t, exec (.movV cHalf false d a) sHalf = .next t)
    ∧ (here sHalf cHalf).e.getLsbD 31 = false := ⟨rfl, due_of (by decide +kernel), next_of (by decide +kernel), by decide +kernel⟩

/-! ## Handlers, register budgets -/

theorem test_trap : Issues (.trap c0 7#16) s0 (at_ s0) ∧ Issues (.brk c0 7#16) s0 (at_ s0) ∧ (at_ (teamed fun t => { t with claimed := true })).tm.claimed = true :=
  ⟨issues_of (by decide +kernel), issues_of (by decide +kernel), by decide +kernel⟩
/-- A sub-group in its handler: with a resume record; with a replay due that can be made; with one that an operation in flight holds up. -/
def sHandler : State := recorded fun r => { r with mode := .handling, hasRec := true, pc := 12#64, off := 1 }
def sReplay : State := recorded fun r => { r with mode := .handling, hasRec := true, pc := 0#64, off := 0, hasReplay := true, rpend := 1#32,
                                                  replay := { kind := 1, hdr := 0#64, pos := 1#24 } }
/-- The word at 12 is `ldg.s.b32.set0 s4, [s8]`; s8 awaits data. -/
def sReplayWaits : State := { sReplay with
  mem := ({ State.reset with stamp := 1 } : State).withFetchWord 96 ((encode (.ldgS c0 .set0 m0 d a)).getD 0#96).toNat |>.mem
  ops := [{ id := 0, team := 0, grp := 0, rc := 0, lanes := 1#32, uni := true, flag := none, hdr := 0, pos := 1, chk := true,
            dst := some ⟨true, 8, 2⟩, lb := [], items := [], kind := .crecv 0 }] }
theorem test_hret : Issues (.hret cT) s0 (here s0 cT) ∧ (here s0 cT).st.hasRec = false ∧ Issues (.hret cT) sHandler (here sHandler cT) ∧ (here sHandler cT).st.hasRec = true
    ∧ (here sHandler cT).st.due (here sHandler cT).e = 0#32 ∧ (here sHandler cT).replayed.group? 0 0 = some (here sHandler cT).g :=
  ⟨issues_of (by decide +kernel), by decide +kernel, issues_of (by decide +kernel), by decide +kernel, by decide +kernel, by decide +kernel⟩
theorem test_hret_waits : Issues (.hret cT) sReplayWaits (here sReplayWaits cT) ∧ (here sReplayWaits cT).st.hasRec = true ∧ (here sReplayWaits cT).st.due (here sReplayWaits cT).e ≠ 0#32
    ∧ (here sReplayWaits cT).s.replayWaits 0 0 0 ((here sReplayWaits cT).st.due (here sReplayWaits cT).e) (here sReplayWaits cT).st.replay = true :=
  ⟨issues_of (by decide +kernel), by decide +kernel, by decide +kernel, by decide +kernel⟩
/-- VCUR 4 of at most 8: growing to 8, not to 4, not beyond; shrinking to 3, not to 4, not to 0. -/
def sGrow (n : Word) : State := (sregs [(8, n)]).updGroup 0 0 fun g => { g with vcur := 4, vmax := 8 }
theorem test_vgrow : ∀ n < 12, Issues (.vgrow c0 a) (sGrow (BitVec.ofNat 32 n)) (at_ (sGrow (BitVec.ofNat 32 n)))
    ∧ Issues (.vshrink c0 a) (sGrow (BitVec.ofNat 32 n)) (at_ (sGrow (BitVec.ofNat 32 n))) ∧ (at_ (sGrow (BitVec.ofNat 32 n))).rdU 1 .zx a = n
    ∧ (at_ (sGrow (BitVec.ofNat 32 n))).g.vcur = 4 ∧ (at_ (sGrow (BitVec.ofNat 32 n))).g.vmax = 8 := by
  intro n hn
  have h : (issuesB (sGrow (BitVec.ofNat 32 n)) c0 (.vgrow c0 a) && issuesB (sGrow (BitVec.ofNat 32 n)) c0 (.vshrink c0 a)
    && (at_ (sGrow (BitVec.ofNat 32 n))).rdU 1 .zx a == n && (at_ (sGrow (BitVec.ofNat 32 n))).g.vcur == 4 && (at_ (sGrow (BitVec.ofNat 32 n))).g.vmax == 8) = true := by
    revert n; decide +kernel
  simp only [Bool.and_eq_true, beq_iff_eq] at h
  exact ⟨issues_of h.1.1.1.1, issues_of h.1.1.1.2, h.1.1.2, h.1.2, h.2⟩

/-! ## The step, decoding, stores -/

theorem test_reset_step : State.reset.memOk ∧ ∃ t, step State.reset = .next t := ⟨by unfold State.memOk; decide +kernel, next_of (by decide +kernel)⟩
/-- The word at 12 is `nop`; it is fetched and decoded there. -/
def sNop : State := { State.reset.withFetchWord 96 0x000F00000000000000000000 with stream1 := none }
theorem test_step_word : (({ sNop with cur := some (probeCursor 0) } : State).fetchWord (probeTeam 192) (probeCursor 0).pc.toNat).toOption = some 0x000F00000000000000000000#96
    ∧ reads 0x000F00000000000000000000#96 (.nop c0) ∧ sNop.team? 0 = some (probeTeam 192) := by decide +kernel
theorem test_step_stream : ∃ c, (State.reset.withFetchWord 96 0x000F00000000000000000000).stream1 = some c
    ∧ (State.reset.withFetchWord 96 0x000F00000000000000000000).streamStands c = true := ⟨_, rfl, by decide +kernel⟩
theorem test_step_group : sNop.stream1 = none ∧ (firstNext sNop (endRows sNop)).isNone = true ∧ sNop.agenda = [] ∧ (firstNext sNop sNop.dueRows).isNone = true
    ∧ sNop.nextActor = some (0, 0) ∧ sNop.ended = none ∧ (sNop.group? 0 0).any (fun y => (((sNop.arbitrate 0 0 y).settlePlaces 0 0).streams? 0 0).isSome) = true := by
  decide +kernel
theorem test_placed_word_runs : decodeTableWord 96 0x100F00404030000000000000 = some (.addV c0 .i32 false (.reg 1) (.reg 2) (.reg 3))
    ∧ goesOn (step (State.reset.withFetchWord 96 0x100F00404030000000000000)) = true := by decide +kernel
theorem test_quiet_issue : quietAtIssue (.stgV c0 .none .uni m0 a b) = true ∧ ∃ t, exec (.stgV c0 .none .uni m0 a b) s4 = .next t := ⟨rfl, next_of (by decide +kernel)⟩
/-- A store of two lanes to 4,096 and 4,097 is in flight: both write the byte at 4,097. -/
def storeItems : List Item := [{ lane := 0, addr := 4096, mask := 3, data := 0x0807, pa := [4096, 4097] }, { lane := 1, addr := 4097, mask := 1, data := 9, pa := [4097] }]
def storeOp : Op := { id := 0, team := 0, grp := 0, rc := 0, lanes := 3#32, uni := false, flag := none, hdr := 0, pos := 1, chk := false, dst := none, lb := [],
                      items := storeItems.map fun it => { it with pa := [] }, kind := .store }
def sStore : State := { s0 with ops := [storeOp] }
theorem test_store_check : sStore.op? 0 = some storeOp ∧ sStore.checkTurn storeOp = true ∧ (sStore.team? 0).isSome = true ∧ (sStore.group? 0 0).isSome = true
    ∧ ((sStore.team? 0).bind fun x => (sStore.group? 0 0).bind fun g => sStore.checkItems x g storeOp)
      = some (storeItems, [])
    ∧ sStore.storeWaits storeOp storeItems = false ∧ (storeItems.all fun it => (it.bytes.map (·.2)).eraseDups == it.bytes.map (·.2)) = true
    ∧ (storeOp.items.map (·.lane)) = [0, 1] := by decide +kernel
/-- Lane 1, the later one, leaves its byte (R239). -/
theorem test_store_last_lane : (match exec (.accessCheck 0) sStore with
    | .next t => (t.byte 4096, t.byte 4097)
    | _ => (0#8, 0#8)) = (7#8, 9#8) := by decide +kernel

end Sys2Proof.Tests
end

section
/-! ## Decoding an encoded instruction (O8) -/

namespace Sys2Proof.Laws.RoundTrip
/-- Every row of the table, by its own lemma; the rows of other agents have no word. -/
theorem encode_roundTrip (i : Instr) : Statement i := by
  cases i with
  | nop => exact nop _
  | bra => exact bra _ _
  | brxV => exact brxV _ _
  | brxS => exact brxS _ _
  | call => exact call _ _ _
  | callIndirect => exact callIndirect _ _ _
  | ret => exact ret _ _
  | exit => exact exit _
  | yieldPath => exact yieldPath _
  | jset => exact jset _ _
  | jadd => exact jadd _ _
  | jsub => exact jsub _ _
  | jget => exact jget _ _ _
  | jput => exact jput _ _ _
  | rejoin => exact rejoin _ _
  | rejoinTmo => exact rejoinTmo _ _ _ _
  | brk => exact brk _ _
  | trap => exact trap _ _
  | hret => exact hret _
  | addV => exact addV _ _ _ _ _ _
  | addS => exact addS _ _ _ _ _ _
  | subV => exact subV _ _ _ _ _ _
  | subS => exact subS _ _ _ _ _ _
  | mulV => exact mulV _ _ _ _ _ _
  | mulS => exact mulS _ _ _ _ _ _
  | madV => exact madV _ _ _ _ _ _
  | madS => exact madS _ _ _ _ _ _
  | addcV => exact addcV _ _ _ _ _ _
  | subcV => exact subcV _ _ _ _ _ _
  | minV => exact minV _ _ _ _ _
  | minS => exact minS _ _ _ _ _
  | maxV => exact maxV _ _ _ _ _
  | maxS => exact maxS _ _ _ _ _
  | absV => exact absV _ _ _ _
  | absS => exact absS _ _ _ _
  | negV => exact negV _ _ _ _
  | negS => exact negS _ _ _ _
  | andV => exact andV _ _ _ _ _
  | andS => exact andS _ _ _ _ _
  | orV => exact orV _ _ _ _ _
  | orS => exact orS _ _ _ _ _
  | xorV => exact xorV _ _ _ _ _
  | xorS => exact xorS _ _ _ _ _
  | andnV => exact andnV _ _ _ _ _
  | andnS => exact andnS _ _ _ _ _
  | ornV => exact ornV _ _ _ _ _
  | ornS => exact ornS _ _ _ _ _
  | xnorV => exact xnorV _ _ _ _ _
  | xnorS => exact xnorS _ _ _ _ _
  | notV => exact notV _ _ _ _
  | notS => exact notS _ _ _ _
  | shlV => exact shlV _ _ _ _ _
  | shlS => exact shlS _ _ _ _ _
  | shrV => exact shrV _ _ _ _ _
  | shrS => exact shrS _ _ _ _ _
  | sarV => exact sarV _ _ _ _ _
  | sarS => exact sarS _ _ _ _ _
  | shfV => exact shfV _ _ _ _ _ _ _
  | shfS => exact shfS _ _ _ _ _ _ _
  | bfeV => exact bfeV _ _ _ _ _ _
  | bfeS => exact bfeS _ _ _ _ _ _
  | bfiV => exact bfiV _ _ _ _ _
  | bfiS => exact bfiS _ _ _ _ _
  | brevV => exact brevV _ _ _
  | brevS => exact brevS _ _ _
  | popcV => exact popcV _ _ _ _
  | popcS => exact popcS _ _ _ _
  | clzV => exact clzV _ _ _ _
  | clzS => exact clzS _ _ _ _
  | ctzV => exact ctzV _ _ _ _
  | ctzS => exact ctzS _ _ _ _
  | bgatV => exact bgatV _ _ _ _ _
  | bgatS => exact bgatS _ _ _ _ _
  | cmpV => exact cmpV _ _ _ _ _ _ _ _
  | cmpS => exact cmpS _ _ _ _ _ _ _ _
  | movV => exact movV _ _ _ _
  | movS => exact movS _ _ _ _
  | selV => exact selV _ _ _ _ _ _
  | divV => exact divV _ _ _ _ _
  | divS => exact divS _ _ _ _ _
  | remV => exact remV _ _ _ _ _
  | remS => exact remS _ _ _ _ _
  | addA => exact addA _ _ _ _ _ _
  | subA => exact subA _ _ _ _ _ _
  | mulA => exact mulA _ _ _ _ _
  | madA => exact madA _ _ _ _ _ _
  | shlA => exact shlA _ _ _ _
  | cmpA => exact cmpA _ _ _ _ _ _ _ _
  | movA => exact movA _ _ _
  | rampA => exact rampA _ _ _ _
  | spread => exact spread _ _ _ _
  | mat => exact mat _ _ _ _
  | agree => exact agree _ _ _ _ _
  | firstLane => exact firstLane _ _ _ _
  | addVF => exact addVF _ _ _ _ _ _ _
  | subVF => exact subVF _ _ _ _ _ _ _
  | mulVF => exact mulVF _ _ _ _ _ _ _
  | fmaV => exact fmaV _ _ _ _ _ _ _ _
  | minVF => exact minVF _ _ _ _ _
  | maxVF => exact maxVF _ _ _ _ _
  | minnumV => exact minnumV _ _ _ _ _
  | maxnumV => exact maxnumV _ _ _ _ _
  | cmpVF => exact cmpVF _ _ _ _ _ _ _ _
  | cmpVF16 => exact cmpVF16 _ _ _ _ _ _ _ _
  | rndV => exact rndV _ _ _ _ _
  | rcpV => exact rcpV _ _ _ _ _
  | sqrtV => exact sqrtV _ _ _ _ _
  | divVF => exact divVF _ _ _ _ _ _
  | ex2 => exact ex2 _ _ _ _
  | lg2 => exact lg2 _ _ _ _
  | sinpi => exact sinpi _ _ _ _
  | cospi => exact cospi _ _ _ _
  | dotV => exact dotV _ _ _ _ _ _ _
  | absVF => exact absVF _ _ _ _
  | negVF => exact negVF _ _ _ _
  | copysignV => exact copysignV _ _ _ _ _
  | classV => exact classV _ _ _ _ _
  | addVQ => exact addVQ _ _ _ _ _ _
  | subVQ => exact subVQ _ _ _ _ _ _
  | mulVQ => exact mulVQ _ _ _ _ _ _
  | fmaVQ => exact fmaVQ _ _ _ _ _ _ _
  | minVQ => exact minVQ _ _ _ _ _
  | maxVQ => exact maxVQ _ _ _ _ _
  | dotVQ => exact dotVQ _ _ _ _ _ _
  | absVQ => exact absVQ _ _ _ _
  | negVQ => exact negVQ _ _ _ _
  | cvtFloatFloat => exact cvtFloatFloat _ _ _ _ _ _
  | cvtFloatInt => exact cvtFloatInt _ _ _ _ _ _
  | cvtIntFloat => exact cvtIntFloat _ _ _ _ _ _
  | cvtQFloat => exact cvtQFloat _ _ _ _ _ _ _
  | cvtFloatQ => exact cvtFloatQ _ _ _ _ _ _
  | cvtNarrow => exact cvtNarrow _ _ _ _ _ _
  | addSF => exact addSF _ _ _ _ _ _ _
  | subSF => exact subSF _ _ _ _ _ _ _
  | mulSF => exact mulSF _ _ _ _ _ _ _
  | fmaS => exact fmaS _ _ _ _ _ _ _ _
  | minSF => exact minSF _ _ _ _ _
  | maxSF => exact maxSF _ _ _ _ _
  | minnumS => exact minnumS _ _ _ _ _
  | maxnumS => exact maxnumS _ _ _ _ _
  | cmpSF => exact cmpSF _ _ _ _ _ _ _ _
  | rcpS => exact rcpS _ _ _ _ _
  | sqrtS => exact sqrtS _ _ _ _ _
  | divSF => exact divSF _ _ _ _ _ _
  | absSF => exact absSF _ _ _ _
  | negSF => exact negSF _ _ _ _
  | copysignS => exact copysignS _ _ _ _ _
  | shfl => exact shfl _ _ _ _ _ _
  | voteAll => exact voteAll _ _ _
  | voteAny => exact voteAny _ _ _
  | voteEq => exact voteEq _ _ _
  | voteBallot => exact voteBallot _ _ _
  | reduceInt => exact reduceInt _ _ _ _
  | reduceFloat => exact reduceFloat _ _ _ _ _
  | scanInt => exact scanInt _ _ _ _ _
  | scanFloat => exact scanFloat _ _ _ _ _ _
  | matchLanes => exact matchLanes _ _ _ _
  | ldgV => exact ldgV _ _ _ _ _ _
  | ldgS => exact ldgS _ _ _ _ _
  | stgV => exact stgV _ _ _ _ _ _
  | stgS => exact stgS _ _ _ _ _ _
  | ldtmV => exact ldtmV _ _ _ _ _ _
  | ldtmS => exact ldtmS _ _ _ _ _
  | sttmV => exact sttmV _ _ _ _ _ _
  | sttmS => exact sttmS _ _ _ _ _ _
  | ldcV => exact ldcV _ _ _ _ _ _
  | ldcS => exact ldcS _ _ _ _ _
  | stmsk => exact stmsk _ _ _ _ _ _ _
  | atom => exact atom _ _ _ _ _ _ _ _
  | red => exact red _ _ _ _ _ _
  | atomtm => exact atomtm _ _ _ _ _ _ _ _
  | publish => exact publish _ _
  | adopt => exact adopt _ _
  | fence => exact fence _ _
  | pinLines => exact pinLines _ _ _ _ _
  | unpinLines => exact unpinLines _ _ _ _ _
  | barInit => exact barInit _ _ _
  | barArrive => exact barArrive _ _ _
  | barExpect => exact barExpect _ _ _
  | barWait => exact barWait _ _ _
  | barTest => exact barTest _ _ _ _
  | chinit => exact chinit _ _ _ _
  | chres => exact chres _ _ _
  | chcommit => exact chcommit _ _ _
  | chtake => exact chtake _ _ _ _
  | chfree => exact chfree _ _
  | cpyG2t => exact cpyG2t _ _ _ _ _
  | cpyT2g => exact cpyT2g _ _ _ _ _
  | cpyG2g => exact cpyG2g _ _ _ _ _
  | cpyT2t => exact cpyT2t _ _ _ _ _
  | vgrow => exact vgrow _ _
  | vshrink => exact vshrink _ _
  | obres => exact obres _ _ _
  | obrel => exact obrel _ _
  | obldG => exact obldG _ _ _ _
  | obldTm => exact obldTm _ _ _ _
  | ldfrag => exact ldfrag _ _ _ _ _ _ _ _ _
  | mma => exact mma _ _ _ _ _ _ _ _ _ _
  | drainF64 => exact drainF64 _ _ _ _ _
  | drainQ => exact drainQ _ _ _ _ _ _ _ _ _
  | drainI64 => exact drainI64 _ _ _ _ _
  | xzero => exact xzero _ _
  | xstatNan => exact xstatNan _ _ _
  | xstatOvf => exact xstatOvf _ _ _
  | xget => exact xget _ _ _ _ _
  | xput => exact xput _ _ _ _
  | ccall => exact ccall _ _ _
  | crecv => exact crecv _ _ _ _
  | tokWait => exact tokWait _ _
  | tokRead => exact tokRead _ _
  | tokResume => exact tokResume _ _ _ _
  | cbarArrive => exact cbarArrive _ _ _
  | cbarWait => exact cbarWait _ _ _
  | enq => exact enq _ _ _ _ _
  | launchGrid => exact launchGrid _ _ _ _ _
  | waitv => exact waitv _ _ _ _ _ _
  | setdl => exact setdl _ _
  | getsr => exact getsr _ _ _
  | setsr => exact setsr _ _ _
  | tlbinvAsid => exact tlbinvAsid _ _
  | tlbinvPage => exact tlbinvPage _ _ _
  | tlbinvSlice => exact tlbinvSlice _ _
  | xlat => exact xlat _ _ _ _ _
  | dbgStop => exact dbgStop _ _ _
  | dbgResume => exact dbgResume _ _ _
  | dbgRd => exact dbgRd _ _ _ _ _
  | dbgWr => exact dbgWr _ _ _ _ _ _
  | dbgWrForce => exact dbgWrForce _ _ _ _ _ _
  | dbgActResume => exact dbgActResume _ _ _ _
  | dbgActExit => exact dbgActExit _ _ _ _
  | endgrid => exact endgrid _ _ _ _
  | collAllreduce => exact collAllreduce _ _ _ _
  | collAllgather => exact collAllgather _ _ _ _
  | collRedscat => exact collRedscat _ _ _ _
  | collBcast => exact collBcast _ _ _ _
  | _ => intro h; cases h
end Sys2Proof.Laws.RoundTrip
/-- Settles O8, row by row: every row of the table has a word, and the word decodes to it. -/
theorem decodeEncode : Obligations.DecodeEncode := Sys2Proof.Laws.RoundTrip.encode_roundTrip

end

section
/-! ## A step runs the instruction decoded at the PC (O9, O10) -/

open Sys2Proof Sys2Proof.Machine

namespace Sys2Proof.Machine
/-- The path of a cursor executes the instruction that the word at its PC stands for (R14, R29). -/
theorem run_eq_exec {s : State} {c : Cursor} {x : Team} {w : BitVec 96} {i : Instr} (hx : s.team? c.team = some x)
    (hw : ({ s with cur := some c } : State).fetchWord x c.pc.toNat = .ok w) (hi : decode w = .ok i) : s.run c = exec i { s with cur := some c } := by
  have hword : ({ s with cur := some c } : State).cursorWord c = some (.ok w) := by
    simp only [State.cursorWord]
    rw [show ({ s with cur := some c } : State).team? c.team = some x from hx, Option.map_some, hw]
  simp only [State.run, hword, hi]
/-- The second stream of a cycle that is under way (R174). -/
theorem step_stream1 {s : State} {c : Cursor} (hc : s.stream1 = some c) (hs : s.streamStands c = true) :
    step s = delivered s (({ s with stream1 := none } : State).run c) := by
  simp only [step, hc, hs, if_true]
theorem groupCycle_streams {s s' : State} {c : Cursor} {t g : Nat} {y : Group} (hg : s.group? t g = some y)
    (hs : ((s.arbitrate t g y).settlePlaces t g).streams? t g = some (s', c)) : s.groupCycle t g = some (s'.run c) := by
  simp only [State.groupCycle, hg, hs, Option.bind_eq_bind, Option.bind_some]
/-- The group that its scheduler chooses, where no row of another agent is due (R197). -/
theorem step_chosen {s b : State} {t g : Nat} {o : Host.Outcome State Fault Refusal} (h1 : s.stream1 = none) (he : firstNext s (endRows s) = none)
    (ha : s.agenda = []) (hb : b = { s with ended := none }) (hd : firstNext b b.dueRows = none) (hn : b.nextActor = some (t, g))
    (hc : b.groupCycle t g = some o) : step s = delivered b o := by
  unfold step
  split
  · next c hc1 => rw [h1] at hc1; cases hc1
  · rw [he]
    simp only
    rw [← hb]
    simp only [ha, hd, hn, Option.bind_some, hc]

end Sys2Proof.Machine

/-- Settles O9: the three equations of a step, by name. -/
theorem stepRunsDecodedInstruction : Obligations.StepRunsDecodedInstruction :=
  ⟨fun _ _ _ _ _ hx hw hi => run_eq_exec hx hw hi, fun _ _ hc hs => step_stream1 hc hs,
    fun _ _ _ _ _ _ h1 he ha hd hn hg hs => step_chosen h1 he ha rfl hd hn (groupCycle_streams hg hs)⟩
namespace Sys2Proof
/-- The bytes of a word, read as a number, are its value (R6, R14). -/
theorem leNat_wordBytes (w : BitVec 96) : leNat (wordBytes w) = w.toNat := by
  have hw := w.isLt
  simp only [wordBytes, List.range_succ, List.range_zero, List.nil_append, List.cons_append, List.map_cons, List.map_nil, leNat,
    BitVec.extractLsb'_toNat, Nat.shiftRight_eq_div_pow]
  omega
theorem decode_of_decodeTableWord {nbits w : Nat} {i : Instr} (h : decodeTableWord nbits w = some i) : decode (BitVec.ofNat 96 (w % 2 ^ nbits)) = .ok i := by
  have hlen : (wordBytes (BitVec.ofNat 96 (w % 2 ^ nbits))).length = 12 := by simp [wordBytes]
  rw [decodeTableWord, decodeBytes, if_neg (by omega), List.take_of_length_le (by omega), leNat_wordBytes, BitVec.ofNat_toNat, BitVec.setWidth_eq] at h
  cases hd : decode (BitVec.ofNat 96 (w % 2 ^ nbits)) with
  | error e => rw [hd] at h; cases h
  | ok j => rw [hd] at h; cases h; rfl
namespace Machine
/-- The state in which the placed path issues, with the bytes `bs` at address 0. -/
def placedState (bs : List Byte) : State :=
  { State.reset.withFetchWord 0 0 with mem := State.reset.mem.setRun 0 bs, stream1 := none, cur := some (probeCursor 0) }
def placedBytes (w : BitVec 96) : List Byte := wordBytes (0x001F0000#32 ++ 0#32 ++ probeHeader) ++ wordBytes w
/-- It is the placed state with its stream taken up. -/
theorem placedState_eq (nbits w : Nat) : ({ State.reset.withFetchWord nbits w with stream1 := none, cur := some (probeCursor 0) } : State)
    = placedState (placedBytes (BitVec.ofNat 96 (w % 2 ^ nbits))) := rfl
/-- The placed team's first page is translated to itself, and its slice owns it. -/
theorem placed_xlat (bs : List Byte) : (placedState bs).teamXlat (probeTeam 192) needX 12 = .ok 12
  ∧ (placedState bs).teamXlat (probeTeam 192) needX 16 = .ok 16 ∧ (placedState bs).teamXlat (probeTeam 192) needX 20 = .ok 20 := ⟨rfl, rfl, rfl⟩
theorem placed_clean (bs : List Byte) (a : Nat) (ha : a < 24) : (placedState bs).poisoned a = false := by
  unfold State.poisoned
  have : ∀ a < 24, (placedState []).poisoned a = false := by decide
  exact this a ha
theorem placed_byte (bs : List Byte) (a : Nat) : (placedState bs).byte a = bs.getD a 0#8 := by
  rw [State.byte, show (placedState bs).mem = State.reset.mem.setRun 0 bs from rfl, SMap.get_setRun]
  split
  · rfl
  · rw [List.getD_eq_getElem?_getD, List.getElem?_eq_none (by omega)]; rfl
/-- The word stands behind the header's twelve bytes. -/
theorem placed_wordByte (w : BitVec 96) (k : Nat) (hk : k < 12) : (placedState (placedBytes w)).byte (12 + k) = w.extractLsb' (8 * k) 8 := by
  have hlen : ∀ v : BitVec 96, (wordBytes v).length = 12 := fun _ => by simp only [wordBytes, List.length_map, List.length_range]
  rw [placed_byte, placedBytes, List.getD_eq_getElem?_getD, List.getElem?_append_right (by rw [hlen]; omega), hlen, Nat.add_sub_cancel_left, wordBytes,
    List.getElem?_map, List.getElem?_range hk, Option.map_some, Option.getD_some]
theorem placed_readLE (w : BitVec 96) (k : Nat) (hk : k < 3) : (placedState (placedBytes w)).readLE (12 + 4 * k) 4 = w.toNat / 2 ^ (32 * k) % 2 ^ 32 := by
  have hb := fun j (hj : j < 12) => placed_wordByte w j hj
  have hk' : k = 0 ∨ k = 1 ∨ k = 2 := by omega
  simp only [State.readLE, Nat.add_assoc]
  rw [hb (4 * k) (by omega), hb (4 * k + 1) (by omega), hb (4 * k + (1 + 1)) (by omega), hb (4 * k + (1 + (1 + 1))) (by omega)]
  simp only [BitVec.extractLsb'_toNat, Nat.shiftRight_eq_div_pow]
  rcases hk' with rfl | rfl | rfl <;> omega
theorem placed_fetchWord (w : BitVec 96) : (placedState (placedBytes w)).fetchWord (probeTeam 192) 12 = .ok w := by
  obtain ⟨h0, h1, h2⟩ := placed_xlat (placedBytes w)
  have hclean : ∀ a, a < 21 → ((List.range 4).any fun k => (placedState (placedBytes w)).poisoned (a + k)) = false := by
    intro a ha
    rw [List.any_eq_false]
    exact fun k hk => by rw [placed_clean _ _ (by have := List.mem_range.mp hk; omega)]; simp
  have r0 := placed_readLE w 0 (by omega)
  have r1 := placed_readLE w 1 (by omega)
  have r2 := placed_readLE w 2 (by omega)
  have hw := w.isLt
  simp only [State.fetchWord, h0, h1, h2, isRemote]
  simp [r0, r1, r2, hclean]
  apply BitVec.eq_of_toNat_eq
  rw [BitVec.toNat_ofNat]
  omega
end Machine
end Sys2Proof
/-- Settles O10: the placed word is the word at the placed path's PC, and its stream is under way. -/
theorem placedWordRuns : Obligations.PlacedWordRuns := by
  intro nbits w i hi
  have hfetch := placed_fetchWord (BitVec.ofNat 96 (w % 2 ^ nbits))
  rw [← placedState_eq nbits w] at hfetch
  rw [step_stream1 (c := probeCursor 0) rfl rfl]
  congr 1
  exact run_eq_exec (x := probeTeam 192) (s := { State.reset.withFetchWord nbits w with stream1 := none }) rfl hfetch (decode_of_decodeTableWord hi)

end

section
/-! ## A path that holds keeps its place (O12) -/

open Sys2Proof Sys2Proof.Machine

namespace Sys2Proof.Machine

/-- An instruction that is due names its issue control, and `issue` performs it. -/
theorem Due.exec_issue {i : Instr} {s : State} {x : Ctx} (h : Due i s x) : ∃ f, exec i s = issue i s f := by
  obtain ⟨c, hc, -⟩ := Option.bind_eq_some_iff.mp h.ctx
  obtain ⟨f, hf⟩ := exec_issues i hc
  exact ⟨f, hf s⟩

/-- The end of a path's turn is no effect: registers and lanes stand, and all else. -/
theorem closeCycle_did {i : Instr} {s : State} {x : Ctx} (h : Due i s x) : ∃ y, Did x { stay := true, idle := true } (closeCycle x.s x.cur) y := by
  obtain ⟨hrest, y, hy, he, -⟩ := rest_closeCycle x.s x.cur h.team h.group
  have hlive : ∀ l, l < 32 → (y.lane l).st ≠ .exited → (x.g.lane l).st ≠ .exited := by
    intro l hl hh
    have := congrArg Lane.st (he.lane l hl)
    rw [core_st, core_st] at this
    rwa [← this]
  refine ⟨y, hy, hrest, he.rest, fun l hl => by simpa using he.lane l hl, fun n l _ => ?_, fun n l _ => ?_, fun n => ?_, ?_, fun l hl hle hcur => ?_,
    fun l hl hle _ => he.record l hl (hlive l hl hle)⟩
  · simp [Group.getV, he.v, Eff.vAfter]
  · simp [Group.getP, he.preds, Eff.pAfter]
  · simp [Group.getJ, he.jm, Eff.jAfter]
  · simp [he.fpStatus]
  · have hown : x.g.recOf l = x.st := by unfold Group.recOf Group.getRec; rw [hcur, h.record]; rfl
    exact core_ite_mode _ _ ((he.record l hl (hlive l hl hle)).trans (congrArg StRec.core hown))

end Sys2Proof.Machine
/-- Settles O12: the instruction does not issue, and the end of a turn is no effect. -/
theorem heldPathStays : Obligations.HeldPathStays := by
  intro i s x h hm
  obtain ⟨f, hf⟩ := h.exec_issue
  obtain ⟨y, hy⟩ := closeCycle_did h
  exact ⟨_, y, by rw [hf, issue_held h hm, ← h.same], hy⟩

end

section
/-! ## A path with no lane raises no record (O11, O13) -/

open Sys2Proof Sys2Proof.Machine

namespace Sys2Proof.Machine

/-- A team without a handler, and a cursor that names its group's path with no lane in it. -/
def lanelessState : State := { State.reset with teams := [(0, probeTeam 192)], cur := some { probeCursor 0 with m := 0#32 } }
/-- GP = 15 with GN = 1: ILLEGAL_OP whatever the guard (R18). -/
def neverCtl : Ctl := { Ctl.plain with gn := true }
def lanelessCtx : Ctx :=
  { s := lanelessState, cur := { probeCursor 0 with m := 0#32 }, tm := probeTeam 192, g := ((probeTeam 192).group? 0).getD {}, st := { fmt := launchFmts },
    c := neverCtl, e := 0#32 }

theorem laneless_due : Due (.nop neverCtl) lanelessState lanelessCtx :=
  ⟨rfl, fun l _ h => absurd h (by simp [lanelessCtx])⟩
theorem laneless_free : mustHold lanelessCtx (.nop neverCtl) = false := by decide +kernel
theorem laneless_precise : preciseFault lanelessCtx (.nop neverCtl) = some .illegalOp := by decide +kernel
/-- No lane parks and no sub-group is held, so no record is raised for the slice firmware; Parks would have one. -/
theorem laneless_not_parks (y : Group) : ¬ Parks lanelessCtx { cls := .illegalOp, lanes := lanelessCtx.cur.m } lanelessCtx.s (parkPath lanelessCtx .illegalOp) y := by
  intro h
  have held := congrArg (fun s => (s.sliceDieOf 192 0).held.length) h.outside
  exact absurd held (by decide +kernel)

end Sys2Proof.Machine
/-- Refutes O13: `Due` admits a path with no lane, and with none of them nothing parks, so the
record that the statement demands is not raised. Missing is the premise that the path has a lane. -/
theorem not_preciseFaultsParkThePath : ¬ Obligations.PreciseFaultsParkThePath := by
  intro h
  obtain ⟨illegal, -, -⟩ := h _ _ _ laneless_due laneless_free
  obtain ⟨t, y, ht, hp⟩ := illegal (.inl (by decide))
  obtain ⟨f, hf⟩ := exec_issues (.nop neverCtl) rfl
  rw [hf, issue_precise laneless_due laneless_free laneless_precise] at ht
  cases ht
  exact laneless_not_parks y hp

/-- Refutes O11: its clause on GP = 15 with GN = 1 demands a record of a path with no lane too. -/
theorem not_guardNarrowsMask : ¬ Obligations.GuardNarrowsMask := by
  intro h
  obtain ⟨-, -, -, never, -⟩ := h
  obtain ⟨t, y, ht, hp⟩ := never _ _ _ laneless_due laneless_free rfl rfl
  obtain ⟨f, hf⟩ := exec_issues (.nop neverCtl) rfl
  rw [hf, issue_precise laneless_due laneless_free laneless_precise] at ht
  cases ht
  exact laneless_not_parks y hp

end

section
/-! ## Rows of paths (O47) -/

open Sys2Proof Sys2Proof.Machine

namespace Sys2Proof.Machine

theorem group?_team {s : State} {t g : Nat} {x : Team} (hx : s.team? t = some x) : s.group? t g = x.group? g := by
  rw [State.group?, hx, Option.bind_some]
/-- What does not hold a clause, part by part (R25, R256, R259, R261, R263). -/
theorem startHeld_false {s : State} {x : Team} {t g : Nat} {y : Group} {m : Mask} {h : Nat} {imm : Word} (hw : waitClear y imm = true)
    (hc : clauseHolds256 s x h imm = true → unchecked s t g m = false) (hr : ∀ o ∈ s.ops, o.re = true → o.unchecked t g m = false)
    (hl : lateParks y m imm (clauseHolds256 s x h imm) = false) (hp : poisonParks y m imm (clauseHoldsExit s x h imm) = false) :
    startHeld s x t g y m h imm = false := by
  have hops : (s.ops.any fun o => o.re && o.unchecked t g m) = false := by
    rw [List.any_eq_false]
    intro o ho
    cases hre : o.re
    · simp
    · simp [hr o ho hre]
  have hun : (clauseHolds256 s x h imm && unchecked s t g m) = false := by
    cases hh : clauseHolds256 s x h imm
    · rfl
    · rw [hc hh]; rfl
  simp only [startHeld, hw, hun, hops, hl, hp, Bool.not_true, Bool.or_false]

/-! ### How a clause start ends (R23, R25, R26, R28) -/

section
variable {s : State} {t g : Nat} {m : Mask} {x : Team} {y : Group} {rc k : Nat} {pc : Dword} {imm : Word} {e : XErr} {a : Nat}

theorem clauseStart_noFetch (hx : s.team? t = some x) (hy : x.group? g = some y) (hp : pathAt y m = some (rc, pc, k))
    (hf : formCheck s x (pc - BitVec.ofNat 64 (12 * k)).toNat = .noFetch e a) :
    s.clauseStart t g m = some (s.park t g rc m { cls := e.cls.code, pc, off := k, addr := a, detail := e.detail }) := by
  simp only [State.clauseStart, hx, hy, hp, hf, Option.bind_eq_bind, Option.bind_some]
theorem clauseStart_broken (hx : s.team? t = some x) (hy : x.group? g = some y) (hp : pathAt y m = some (rc, pc, k))
    (hf : formCheck s x (pc - BitVec.ofNat 64 (12 * k)).toNat = .broken) :
    s.clauseStart t g m = some (s.park t g rc m { cls := FClass.clauseFmt.code, pc, off := k }) := by
  simp only [State.clauseStart, hx, hy, hp, hf, Option.bind_eq_bind, Option.bind_some]
theorem clauseStart_header (hx : s.team? t = some x) (hy : x.group? g = some y) (hp : pathAt y m = some (rc, pc, 0))
    (hf : formCheck s x (pc - BitVec.ofNat 64 (12 * 0)).toNat = .ok imm) (hs : startHeld s x t g y m (pc - BitVec.ofNat 64 (12 * 0)).toNat imm = false) :
    s.clauseStart t g m = some (s.updGroup t g fun gr => gr.updLanes m fun _ l => { l with pc := pc + 12#64, off := 1, hdr := some imm, fresh := some 0 }) := by
  simp only [State.clauseStart, hx, hy, hp, hf, hs, Option.bind_eq_bind, Option.bind_some, if_true, Bool.false_eq_true, if_false]
theorem clauseStart_midway (hx : s.team? t = some x) (hy : x.group? g = some y) (hp : pathAt y m = some (rc, pc, k))
    (hf : formCheck s x (pc - BitVec.ofNat 64 (12 * k)).toNat = .ok imm) (h0 : 0 < k) (hk : k ≤ hdrLen imm) :
    s.clauseStart t g m = some (s.updGroup t g fun gr => gr.updLanes m fun _ l => { l with hdr := some imm, fresh := some k }) := by
  simp only [State.clauseStart, hx, hy, hp, hf, Option.bind_eq_bind, Option.bind_some, if_neg (Nat.ne_of_gt h0), if_neg (Nat.not_lt.mpr hk)]
theorem clauseStart_beyond (hx : s.team? t = some x) (hy : x.group? g = some y) (hp : pathAt y m = some (rc, pc, k))
    (hf : formCheck s x (pc - BitVec.ofNat 64 (12 * k)).toNat = .ok imm) (h0 : 0 < k) (hk : hdrLen imm < k) :
    s.clauseStart t g m = some (s.park t g rc m { cls := FClass.clauseFmt.code, pc, off := k }) := by
  simp only [State.clauseStart, hx, hy, hp, hf, Option.bind_eq_bind, Option.bind_some, if_neg (Nat.ne_of_gt h0), if_pos hk]
end

/-! ### The rows -/

theorem clauseStart_turns (t g : Nat) (m : Mask) (s : State) : ∀ r ∈ pathTurns s (.clauseStart t g m), r.ok → exec (.clauseStart t g m) s = .next r.s := by
  intro r hr hok
  suffices h : s.clauseStart t g m = some r.s from congrArg (eventOf "CLAUSE_START") h
  simp only [pathTurns] at hr
  split at hr
  case h_2 => cases hr
  next x y hx hy =>
  rw [group?_team hx] at hy
  split at hr
  case h_2 => cases hr
  next rc pc k hp =>
  split at hr
  next imm hf =>
    simp only [List.mem_cons, List.not_mem_nil, or_false] at hr
    rcases hr with rfl | rfl | rfl
    · obtain ⟨rfl, hw, hc, hre, hl, hpo⟩ := hok
      exact clauseStart_header hx hy hp hf (startHeld_false hw hc hre hl hpo)
    · exact clauseStart_midway hx hy hp hf hok.1 hok.2
    · exact clauseStart_beyond hx hy hp hf hok.1 hok.2
  next hf => rw [List.mem_singleton.mp hr]; exact clauseStart_broken hx hy hp hf
  next e a hf => rw [List.mem_singleton.mp hr]; exact clauseStart_noFetch hx hy hp hf
theorem rejoinRelease_turns (t g j : Nat) (s : State) : ∀ r ∈ pathTurns s (.rejoinRelease t g j), r.ok → exec (.rejoinRelease t g j) s = .next r.s := by
  intro r hr hok
  simp only [pathTurns] at hr
  split at hr
  case h_2 => cases hr
  next y hy =>
  rw [List.mem_singleton.mp hr] at hok ⊢
  obtain ⟨hs, hm⟩ := hok
  have hrel : y.releasable j = true := by simp [Group.releasable, hs, hm]
  show eventOf _ _ = _
  simp only [hy, Option.bind_eq_bind, Option.bind_some, hrel, if_true, eventOf]
theorem rejoinTimeout_turns (t g : Nat) (s : State) : ∀ r ∈ pathTurns s (.rejoinTimeout t g), r.ok → exec (.rejoinTimeout t g) s = .next r.s := by
  intro r hr hok
  simp only [pathTurns] at hr
  split at hr
  case h_2 => cases hr
  next x y hx hy =>
  rw [group?_team hx] at hy
  rw [List.mem_singleton.mp hr] at hok ⊢
  show eventOf _ _ = _
  simp only [hx, hy, Option.bind_eq_bind, Option.bind_some, if_neg hok, eventOf]
theorem rejoinDeadlock_turns (t g : Nat) (s : State) : ∀ r ∈ pathTurns s (.rejoinDeadlock t g), r.ok → exec (.rejoinDeadlock t g) s = .next r.s := by
  intro r hr hok
  simp only [pathTurns] at hr
  split at hr
  case h_2 => cases hr
  next y hy =>
  rw [List.mem_singleton.mp hr] at hok ⊢
  have hd : y.deadlocked = true := hok
  show eventOf _ _ = _
  simp only [hy, Option.bind_eq_bind, Option.bind_some, hd, if_true, eventOf]
end Sys2Proof.Machine
/-- Settles O47, by the four kinds of row of a path. -/
theorem pathRows : Obligations.PathRows := by
  intro i s
  cases i with
  | clauseStart t g m => exact clauseStart_turns t g m s
  | rejoinRelease t g j => exact rejoinRelease_turns t g j s
  | rejoinTimeout t g => exact rejoinTimeout_turns t g s
  | rejoinDeadlock t g => exact rejoinDeadlock_turns t g s
  | _ => exact fun _ hr => nomatch hr

end

section
/-! ## Carries, compares, votes, promotions (O19) -/

open Sys2Proof Sys2Proof.Machine

namespace Sys2Proof.Machine

/-- An instruction that changes nothing but its group leaves every byte of memory. -/
theorem Leaves.sameMem {i : Instr} {s t : State} {x : Ctx} {E : Eff} {y : Group} (h : Due i s x) (hd : Did x E t y) : State.sameMem s t := by
  have hm := congrArg State.mem hd.outside
  simp only [State.rest, State.updTeam_mem, h.same] at hm
  intro a
  unfold State.byte
  rw [hm]
/-- An effect that writes its group alone. -/
theorem next_withGroup {i : Instr} {s : State} {x : Ctx} {E : Eff} {g' : Group} (h : Issues i s x) (F : Ctx → Res) (hF : F x = { s := x.withGroup g' })
    (w : Wrote x E g') (hgr : g'.rest = x.g.rest) (hst : E.stay = false) (hi : E.idle = false) (hgo : E.go = fun _ => .seq) :
    ∃ t y, issue i s F = .next t ∧ Did x E t y := by
  apply next_did h
  rw [hF]
  exact finish_did h.toDue w hgr _ (.inl rfl) (fun _ h => nomatch h) hst.symm hi hgo.symm

section
variable {i : Instr} {s : State} {x : Ctx} (h : Issues i s x)
include h

theorem next_setP (n : Nat) {f f' : Nat → Bool} (F : Ctx → Res) (hF : F x = { s := x.withGroup (x.g.setP n x.e f) }) (hf : f = f') :
    ∃ t y, issue i s F = .next t ∧ Did x { p := [(n, f')] } t y := by
  subst hf
  exact next_withGroup h F hF ((Wrote.none h.toDue).setP n f) (setP_rest ..) rfl rfl rfl
theorem next_setJ (n : Nat) (v : Word) (F : Ctx → Res) (hF : F x = { s := x.withGroup (x.g.setJ n v) }) :
    ∃ t y, issue i s F = .next t ∧ Did x { j := some (n, v) } t y :=
  next_withGroup h F hF ((Wrote.none h.toDue).setJ rfl n v) rfl rfl rfl rfl
theorem next_resCmp (cmb : Cmb) (pd pc : Nat) {r r' : Nat → Bool} (F : Ctx → Res) (hF : F x = resCmp x cmb pd pc r) (hr : ∀ l, r l = r' l) :
    ∃ t y, issue i s F = .next t ∧ Did x (cmpEff x cmb pd pc r') t y := by
  rw [← funext hr]
  apply next_did h
  rw [hF]
  exact resCmp_did h.toDue cmb pd pc r
/-- A carry operation: the sum, then the predicate (R125). -/
theorem next_resCarry (t : IT) (d : Dst) (a b : Src) (p : Nat) {f : Nat → Nat → Bool → Nat × Bool} {r : Nat → Nat × Bool} (F : Ctx → Res)
    (hF : F x = resCarry x t d a b p f) (hr : ∀ l, f (x.rdV t.k (ITimm t) a l) (x.rdV t.k (ITimm t) b l) (x.g.getP p l) = r l) :
    ∃ u y, issue i s F = .next u ∧ Did x { v := some (t.k, d, fun l => (r l).1), p := [(p, fun l => (r l).2)] } u y := by
  rw [← funext hr]
  exact next_withGroup h F hF (((Wrote.none h.toDue).putLanes rfl t.k d _).setP p _) ((setP_rest ..).trans (putLanes_same ..).2.2.2.2.2) rfl rfl rfl
end

/-! ### Votes and agreement (R141, R190) -/

theorem ballot_eq_votes (x : Ctx) (pa : Nat) : ballot x pa = x.votes pa := by
  refine mask_ext fun l hl => ?_
  rw [ballot, Ctx.votes, BitVec.getLsbD_and, getLsbD_maskOf, getLsbD_maskOf, decide_eq_true hl, Bool.true_and, Bool.true_and]
theorem ballot_all (x : Ctx) (pa : Nat) : (ballot x pa == x.e) = (laneList x.e).all fun k => x.g.getP pa k := by
  rw [Bool.eq_iff_iff, beq_iff_eq, List.all_eq_true]
  constructor
  · intro hb k hk
    have hk' := mem_laneList.mp hk
    rw [← hb, ballot, getLsbD_maskOf] at hk'
    simp only [Bool.and_eq_true] at hk'
    exact hk'.2.2
  · intro ha
    refine mask_ext fun l hl => ?_
    rw [ballot, getLsbD_maskOf]
    cases he : x.e.getLsbD l
    · simp
    · simp [hl, ha l (mem_laneList.mpr he)]
theorem ballot_none (x : Ctx) (pa : Nat) : (ballot x pa == 0#32) = (laneList x.e).all fun k => !x.g.getP pa k := by
  rw [Bool.eq_iff_iff, beq_iff_eq, mask_zero_iff, List.all_eq_true]
  constructor
  · intro hb k hk
    have hlt := laneList_lt k hk
    have := hb k hlt
    rw [ballot, getLsbD_maskOf, mem_laneList.mp hk] at this
    simpa [hlt] using this
  · intro ha l hl
    rw [ballot, getLsbD_maskOf]
    cases he : x.e.getLsbD l
    · simp
    · simpa [hl] using ha l (mem_laneList.mpr he)
theorem ballot_any (x : Ctx) (pa : Nat) : (ballot x pa != 0#32) = (laneList x.e).any fun k => x.g.getP pa k := by
  rw [bne, ballot_none, ← List.not_any_eq_all_not, Bool.not_not]
/-- Every lane holds the lowest lane's value just where every two lanes hold one. -/
theorem all_lowest_eq_agreeing {x : Ctx} (h : x.e ≠ 0#32) (f : Nat → Nat) : ((laneList x.e).all fun l => f l == f (lowestLane x.e)) = x.agreeing f := by
  have hlow : lowestLane x.e ∈ laneList x.e := by
    unfold lowestLane
    cases hl : laneList x.e with
    | nil => exact absurd (laneList_eq_nil.mp hl) h
    | cons a as => exact List.mem_cons_self ..
  rw [Bool.eq_iff_iff]
  simp only [Ctx.agreeing, List.all_eq_true, beq_iff_eq]
  exact ⟨fun ha l hl k hk => (ha l hl).trans (ha k hk).symm, fun ha l hl => ha l hl _ hlow⟩

theorem value_lt (v : Aff) (l : Nat) : v.value l < 2 ^ 64 := by
  unfold Aff.value
  rw [modN_eq]
  exact BitVec.isLt _
theorem rdUx_lt (x : Ctx) (ik : ImmKind) (a : Src) : x.rdUx ik a < 2 ^ 64 := by
  cases a <;> exact immWide_lt ..

/-- What each of them does to its group. -/
theorem predEff_did {i : Instr} {s : State} {x : Ctx} {E : Eff} (hE : predEff x i = some E) (h : Issues i s x) :
    ∃ t y, exec i s = .next t ∧ Did x E t y := by
  have h0 := Wrote.none h.toDue
  cases i with
  | nop c =>
    cases hE
    exact next_did h (fun x => { s := x.s }) (finish_did h.toDue h0 rfl _ (.inr ⟨rfl, rfl⟩) (fun _ h => nomatch h) rfl rfl rfl)
  | jset c j =>
    cases hE
    exact next_setJ h j _ _ rfl
  | jadd c j =>
    cases hE
    exact next_setJ h j _ _ rfl
  | jsub c j =>
    cases hE
    exact next_setJ h j _ _ rfl
  | jget c d j =>
    cases hE
    exact next_resU h _ rfl rfl
  | jput c j a =>
    cases hE
    exact next_setJ h j _ _ rfl
  | addcV c t d a b p =>
    cases hE
    exact next_resCarry h t d a b p _ rfl fun l => iAddc_eq t _ (rdV_typed_lt x t a l) (rdV_typed_lt x t b l)
  | subcV c t d a b p =>
    cases hE
    exact next_resCarry h t d a b p _ rfl fun l => iSubc_eq t _ (rdV_typed_lt x t a l) (rdV_typed_lt x t b l)
  | cmpV c w cond cmb pd pc a b =>
    cases hE
    exact next_resCmp h cmb pd pc _ rfl fun l => ruleCond_eq cond (rdV_wide_lt x w _ a l) (rdV_wide_lt x w _ b l)
  | cmpS c w cond cmb pd pc a b =>
    cases hE
    exact next_resCmp h cmb pd pc _ rfl fun _ => ruleCond_eq cond (rdU_wide_lt x w _ a) (rdU_wide_lt x w _ b)
  | cmpA c bu cond cmb pd pc a b =>
    cases hE
    refine next_resCmp h cmb pd pc _ rfl fun l => ruleCond_eq cond (value_lt ..) ?_
    split
    · exact rdUx_lt ..
    · exact value_lt ..
  | classV c t p a k =>
    cases hE
    exact next_setP h p _ rfl rfl
  | selV c w d a b p =>
    cases hE
    exact next_resV h _ rfl fun _ => rfl
  | spread c w d a =>
    cases hE
    exact next_resV h _ rfl fun _ => rfl
  | mat c w d a =>
    cases hE
    exact next_resV h _ rfl fun _ => rfl
  | rampA c d a b =>
    cases hE
    exact next_did h _ (putA_did h.toDue d _)
  | agree c w d a p =>
    cases hE
    refine next_withGroup h _ rfl ?_ (setP_rest ..) rfl rfl rfl
    rw [← all_lowest_eq_agreeing h.lanes]
    exact (h0.putS rfl rfl rfl rfl (kOf w) d _).setP p _
  | firstLane c w d a =>
    cases hE
    exact next_resU h _ rfl rfl
  | voteAll c pd pa =>
    cases hE
    exact next_setP h pd _ rfl (funext fun _ => ballot_all x pa)
  | voteAny c pd pa =>
    cases hE
    exact next_setP h pd _ rfl (funext fun _ => ballot_any x pa)
  | voteEq c pd pa =>
    cases hE
    exact next_setP h pd _ rfl (funext fun _ => by rw [ballot_all, ballot_none])
  | voteBallot c d pa =>
    cases hE
    exact next_resU h _ rfl (by rw [ballot_eq_votes])
  | _ => cases hE

end Sys2Proof.Machine
/-- Settles O19: each instruction writes what `predEff` gives for it, and memory is no part of it. -/
theorem predicatesAndPromotions : Obligations.PredicatesAndPromotions := by
  intro i s x E hE h
  obtain ⟨t, y, ht, hd⟩ := predEff_did hE h
  exact ⟨t, y, ht, hd, hd.sameMem h.toDue⟩

end

section
/-! ## Lanes outside a mask keep their registers and predicates (R18, R79) -/

open Sys2Proof Sys2Proof.Machine
namespace Sys2Proof.Machine

/-- Outside the mask, the second group holds the varying registers and predicates of the first. -/
structure Group.Keeps (m : Mask) (g h : Group) : Prop where
  v : ∀ n l, l < 32 → m.getLsbD l = false → h.getV n l = g.getV n l
  p : ∀ n l, l < 32 → m.getLsbD l = false → h.getP n l = g.getP n l

theorem Group.Keeps.of_files {m : Mask} {g h : Group} (hv : h.v = g.v) (hp : h.preds = g.preds) : g.Keeps m h where
  v _ _ _ _ := by simp only [Group.getV, hv]
  p _ _ _ _ := by simp only [Group.getP, hp]
theorem Group.Keeps.refl (m : Mask) (g : Group) : g.Keeps m g := .of_files rfl rfl
theorem Group.Keeps.trans {m : Mask} {a b c : Group} (h : a.Keeps m b) (k : b.Keeps m c) : a.Keeps m c where
  v n l hl hm := (k.v n l hl hm).trans (h.v n l hl hm)
  p n l hl hm := (k.p n l hl hm).trans (h.p n l hl hm)
theorem Group.Keeps.foldl {α : Type} {m : Mask} {f : Group → α → Group} (as : List α) (g : Group) (hf : ∀ (b : Group), ∀ a ∈ as, b.Keeps m (f b a)) :
    g.Keeps m (as.foldl f g) :=
  List.foldlRecOn as f (.refl m g) fun b hb a ha => hb.trans (hf b a ha)

/-- Writes within the mask: of predicates, of varying registers, of one lane's registers. -/
theorem Group.keeps_setP {m e : Mask} (hm : ∀ l, m.getLsbD l = true → e.getLsbD l = true) (g : Group) (n : Nat) (f : Nat → Bool) : g.Keeps e (g.setP n m f) where
  v _ _ _ _ := getV_setP ..
  p k l hl he := by rw [getP_setP _ _ _ _ _ hl, if_neg fun h => by simp [hm l h.2.2] at he]
theorem Group.keeps_putLanes {m e : Mask} (hm : ∀ l, m.getLsbD l = true → e.getLsbD l = true) (g : Group) (k : Nat) (d : Dst) (f : Nat → Nat) :
    g.Keeps e (putLanes g m k d f) where
  v n l hl he := by rw [getV_putLanes _ _ _ _ _ hl, if_neg fun h => by simp [hm l h] at he]
  p n l hl he := by simp only [Group.getP, (putLanes_same g m k d f).2.2.1]
theorem Group.keeps_putV {e : Mask} {a : Nat} (ha : e.getLsbD a = true) (g : Group) (k : Nat) (d : Dst) (v : Nat) : g.Keeps e (putV g k d a v) where
  v n l hl he := by rw [getV_putV _ _ _ (BitVec.lt_of_getLsbD ha) hl, if_neg fun h => by simp [← h, ha] at he]
  p n l hl he := by simp only [Group.getP, (putV_same g k d a v).2.2.1]
theorem Group.keeps_putCmp {m e : Mask} (hm : ∀ l, m.getLsbD l = true → e.getLsbD l = true) (g : Group) (cmb : Cmb) (pd pc : Nat) (r : Nat → Bool) :
    g.Keeps e (putCmp g m cmb pd pc r) :=
  (g.keeps_setP hm pd _).trans (Group.keeps_setP hm _ pc _)

/-! ### The same of the issuing group in a state -/

/-- The path's group, if the state has it, keeps its registers outside the effective mask. -/
structure Ctx.Keeps (x : Ctx) (b : State) : Prop where
  group : ∀ y, b.group? x.cur.team x.cur.grp = some y → x.g.Keeps x.e y

theorem State.group?_setTeam (s : State) (t : Nat) (T : Team) (t' g : Nat) :
    (s.setTeam t T).group? t' g = if t = t' then T.group? g else s.group? t' g := by
  simp only [State.group?, State.team?, State.setTeam, SMap.find?_put]
  split <;> rfl
theorem Team.group?_setGroup (T : Team) (k : Nat) (y : Group) (g : Nat) : (T.setGroup k y).group? g = if k = g then some y else T.group? g := by
  simp only [Team.group?, Team.setGroup, SMap.find?_put]
theorem State.group?_updTeam {s : State} {t : Nat} {f : Team → Team} (t' g : Nat) (hf : ∀ T, (f T).groups = T.groups) :
    (s.updTeam t f).group? t' g = s.group? t' g := by
  unfold State.updTeam
  split
  case h_2 => rfl
  next T hT =>
  rw [State.group?_setTeam]
  split
  · next h => rw [← h, State.group?, hT, Option.bind_some, Team.group?, hf]; rfl
  · rfl
theorem State.group?_updGroup (s : State) (t k : Nat) (f : Group → Group) (t' g : Nat) :
    (s.updGroup t k f).group? t' g = if t = t' ∧ k = g then (s.group? t k).map f else s.group? t' g := by
  unfold State.updGroup State.updTeam
  split
  case h_2 hT =>
    split
    · next h => rw [← h.1, ← h.2, State.group?, hT]; rfl
    · rfl
  next T hT =>
  rw [State.group?_setTeam]
  by_cases ht : t = t'
  · subst ht
    simp only [if_true, true_and, State.group?, hT, Option.bind_some]
    split
    · next G hG => rw [Team.group?_setGroup, hG]; rfl
    · next hG =>
      split
      · next h => rw [← h, hG]; rfl
      · rfl
  · simp only [ht, if_false, false_and]

theorem Ctx.Keeps.of_teams {x : Ctx} {b c : State} (h : x.Keeps b) (hc : c.teams = b.teams) : x.Keeps c := by
  exact ⟨fun y hy => h.group y (by rwa [State.group?, State.team?, hc] at hy)⟩
theorem Ctx.Keeps.updTeam {x : Ctx} {b : State} (h : x.Keeps b) (t : Nat) {f : Team → Team} (hf : ∀ T, (f T).groups = T.groups) : x.Keeps (b.updTeam t f) :=
  ⟨fun y hy => h.group y (by rwa [State.group?_updTeam _ _ hf] at hy)⟩
theorem Ctx.Keeps.updGroup {x : Ctx} {b : State} (h : x.Keeps b) (t k : Nat) {f : Group → Group} (hf : ∀ g : Group, g.Keeps x.e (f g)) : x.Keeps (b.updGroup t k f) := by
  refine ⟨fun y hy => ?_⟩
  rw [State.group?_updGroup] at hy
  split at hy
  · next ht =>
    obtain ⟨z, hz, rfl⟩ := Option.map_eq_some_iff.mp hy
    rw [ht.1, ht.2] at hz
    exact (h.group z hz).trans (hf z)
  · exact h.group y hy
theorem Ctx.Keeps.setGroup (x : Ctx) (b : State) (T : Team) {g : Group} (hg : x.g.Keeps x.e g) : x.Keeps (b.setTeam x.cur.team (T.setGroup x.cur.grp g)) := by
  refine ⟨fun y hy => ?_⟩
  rw [State.group?_setTeam, if_pos rfl, Team.group?_setGroup, if_pos rfl] at hy
  cases hy
  exact hg
theorem Ctx.stands.keeps {x : Ctx} {b : State} (h : x.stands b) : x.Keeps b := by
  obtain ⟨T, g, hs⟩ := h
  refine ⟨fun y hy => ?_⟩
  rw [Ctx.stands.group? hs] at hy
  cases hy
  exact .of_files hs.v hs.preds

/-! ### The end of an instruction -/

theorem Group.park_keeps (g : Group) (m : Mask) (rc : Nat) (ls : Mask) (hd : Option Dword) (i : ParkInfo) : g.Keeps m (g.park rc ls hd i) := .of_files rfl rfl
theorem Ctx.Keeps.park {x : Ctx} {b : State} (h : x.Keeps b) (t gi rc : Nat) (ls : Mask) (i : ParkInfo) : x.Keeps (b.park t gi rc ls i) := by
  unfold State.park
  split
  · exact h
  split
  · exact h
  next T hT =>
  split
  · exact h
  next G hG =>
  have hp : x.Keeps (b.setTeam t (T.setGroup gi (G.park rc ls T.handler i))) := by
    rw [← updGroup_of hT hG fun g => g.park rc ls T.handler i]
    exact h.updGroup t gi fun g => g.park_keeps ..
  simp only
  split
  · exact hp.of_teams rfl
  · exact hp.of_teams rfl
theorem Ctx.Keeps.foldl_park {x : Ctx} {b : State} (h : x.Keeps b) (fs : List Flt) (t gi rc : Nat) (i : Flt → ParkInfo) :
    x.Keeps (fs.foldl (fun b f => b.park t gi rc f.lanes (i f)) b) := by
  induction fs generalizing b with
  | nil => exact h
  | cons f fs ih => exact ih (h.park ..)
theorem Ctx.Keeps.endCycle {x : Ctx} {b : State} (h : x.Keeps b) (t gi : Nat) : x.Keeps (b.endCycle t gi) := by
  unfold State.endCycle
  split
  · exact h
  · exact (h.updGroup t gi (f := Group.endCycle) fun g => .of_files (ended_endCycle g).v (ended_endCycle g).preds).of_teams rfl
theorem Ctx.Keeps.closeCycle {x : Ctx} {b : State} (h : x.Keeps b) (cur : Cursor) : x.Keeps (closeCycle b cur) := by
  unfold Machine.closeCycle
  split
  · exact (h.endCycle ..).of_teams rfl
  · exact h.of_teams rfl
theorem Ctx.Keeps.finish {x : Ctx} {r : Res} (h : x.Keeps r.s) : x.Keeps (finish x r) := by
  unfold Machine.finish
  have gone := (h.updTeam x.cur.team (f := fun t => { t with lastTick := r.s.dieCount t.die }) fun _ => rfl).updGroup x.cur.team x.cur.grp
    (f := fun g => { (g.updLanes (unfaulted x.cur.m r.flts) fun l y =>
        if r.stay then { y with fresh := none } else y.go x.c (if x.e.getLsbD l then r.nxt l else .seq)) with lastIssue := some x.s.stamp })
    fun _ => .of_files rfl rfl
  have parked := gone.foldl_park r.flts x.cur.team x.cur.grp x.cur.rc fun f => x.cur.info x.c f
  refine Ctx.Keeps.closeCycle (Ctx.Keeps.of_teams parked ?_) _
  rfl

/-- Whatever becomes of an instruction that is due: where its own effect keeps the other lanes, its issue does. -/
theorem issue_keeps {i : Instr} {s t : State} {x : Ctx} {f : Ctx → Res} (h : Due i s x) (ht : issue i s f = .next t) (hf : x.Keeps (f x).s) : x.Keeps t := by
  have hs : x.Keeps s := h.same ▸ h.stands.keeps
  simp only [issue, h.ctx] at ht
  split at ht
  · cases ht; exact hs.closeCycle _
  split at ht
  · cases ht; exact h.stands.keeps.finish
  split at ht
  · cases ht; exact hs.finish
  split at ht
  · cases ht; exact hs.finish
  split at ht
  · cases ht; exact hs.finish
  · cases ht; exact hf.finish

end Sys2Proof.Machine
end

section
/-! ## What each effect leaves in the other lanes (R18) -/

open Sys2Proof Sys2Proof.Machine
namespace Sys2Proof.Machine

/-! ### Effects on the group's own registers -/

section
variable (x : Ctx)

theorem keeps_withGroup {g : Group} (hg : x.g.Keeps x.e g) : x.Keeps (x.withGroup g) := .setGroup x x.s x.tm hg
theorem keeps_resV (k : Nat) (d : Dst) (f : Nat → Nat) : x.Keeps (resV x k d f).s := keeps_withGroup x (Group.keeps_putLanes (fun _ h => h) ..)
theorem keeps_withRec (r : StRec) : x.Keeps (x.withRec r) := keeps_withGroup x (.of_files rfl rfl)
theorem keeps_resU (k : Nat) (d : Dst) (v : Nat) : x.Keeps (resU x k d v).s := keeps_withRec x _
theorem keeps_setP (p : Nat) (f : Nat → Bool) : x.Keeps (x.withGroup (x.g.setP p x.e f)) := keeps_withGroup x (Group.keeps_setP (fun _ h => h) ..)
theorem keeps_setRec_setP (r : StRec) (p : Nat) (f : Nat → Bool) : x.Keeps (x.withGroup ((x.g.setRec x.cur.rc r).setP p x.e f)) :=
  have hr : x.g.Keeps x.e (x.g.setRec x.cur.rc r) := .of_files rfl rfl
  keeps_withGroup x (hr.trans (Group.keeps_setP (fun _ h => h) ..))
theorem keeps_setJ (j : Nat) (v : Word) : x.Keeps (x.withGroup (x.g.setJ j v)) := keeps_withGroup x (.of_files rfl rfl)
theorem keeps_resCmp (cmb : Cmb) (pd pc : Nat) (r : Nat → Bool) : x.Keeps (resCmp x cmb pd pc r).s :=
  keeps_withGroup x (Group.keeps_putCmp (fun _ h => h) ..)
theorem keeps_resCarry (t : IT) (d : Dst) (a b : Src) (p : Nat) (f : Nat → Nat → Bool → Nat × Bool) : x.Keeps (resCarry x t d a b p f).s :=
  keeps_withGroup x ((Group.keeps_putLanes (fun _ h => h) ..).trans (Group.keeps_setP (fun _ h => h) ..))
theorem keeps_resF (k : Nat) (d : Dst) (f : Nat → FRes) : x.Keeps (resF x k d f).s := by
  refine keeps_withGroup x (Group.Keeps.trans (Group.Keeps.foldl _ x.g fun b a ha => ?_) (.of_files rfl rfl))
  obtain ⟨l, hl, rfl⟩ := List.mem_map.mp ha
  split
  · exact .refl ..
  · exact Group.keeps_putV (mem_laneList.mp hl) ..
theorem keeps_resFU (k : Nat) (d : Dst) (r : FRes) : x.Keeps (resFU x k d r).s := by
  unfold resFU
  simp only
  split
  · exact keeps_withGroup x (.of_files rfl rfl)
  · exact keeps_withGroup x (.of_files rfl rfl)
/-- A lane that traps is outside the mask of the write too (R148). -/
theorem keeps_resCmpF (cmb : Cmb) (pd pc : Nat) (f : Nat → Bool × FpExc) : x.Keeps (resCmpF x cmb pd pc f).s := by
  refine keeps_withGroup x (Group.Keeps.trans (Group.keeps_putCmp (fun l hl => ?_) ..) (.of_files rfl rfl))
  rw [BitVec.getLsbD_and] at hl
  exact (Bool.and_eq_true_iff.mp hl).1
end

/-! ### Effects that leave the group's registers -/

section
variable {x : Ctx} (hs : x.stands x.s)
include hs

theorem keeps_resA (d : Dst) (b st : Int) : x.Keeps (resA x d b st).s := by
  unfold resA
  split
  · exact hs.keeps
  · exact keeps_withRec x _
theorem keeps_withFmt (fm : BitVec 2) {f : Fmt → Res} (hf : ∀ y, x.Keeps (f y).s) : x.Keeps (withFmt x fm f).s := by
  unfold withFmt
  split
  · exact hf _
  · exact hs.keeps
end

theorem Ctx.stands.ite {x : Ctx} {a b : State} {c : Prop} [Decidable c] (ha : x.stands a) (hb : x.stands b) : x.stands (if c then a else b) := by
  split
  · exact ha
  · exact hb
theorem Ctx.stands.iteRes {x : Ctx} {a b : Res} {c : Prop} [Decidable c] (ha : x.stands a.s) (hb : x.stands b.s) : x.stands (if c then a else b).s := by
  split
  · exact ha
  · exact hb

theorem Ctx.stands.fly {x : Ctx} {b : State} (h : x.stands b) (o : Op) : x.stands (x.fly b o) := by
  unfold Ctx.fly
  have hops : x.stands { b with ops := b.ops ++ [o] } := h.of_teams rfl
  simp only
  split
  · exact hops.updGroup _ _ fun _ => ⟨rfl, rfl, rfl, rfl, rfl, rfl⟩
  · exact hops
theorem flagDown_same (g : Group) (n : Option Nat) : (g.flagDown n).lanes = g.lanes ∧ (g.flagDown n).recs = g.recs ∧ (g.flagDown n).v = g.v
    ∧ (g.flagDown n).preds = g.preds ∧ (g.flagDown n).jm = g.jm ∧ (g.flagDown n).fpStatus = g.fpStatus := by
  cases n <;> exact ⟨rfl, rfl, rfl, rfl, rfl, rfl⟩
theorem Ctx.stands.endOp {x : Ctx} {b : State} (h : x.stands b) (o : Op) : x.stands (b.endOp o) :=
  Ctx.stands.updGroup (b := { b with ops := b.ops.filter fun p => p.id != o.id }) (h.of_teams rfl) o.team o.grp fun g => flagDown_same g o.flag
theorem putRow_groups (T : Team) (n row : Nat) (its : List Item) : (T.putRow n row its).groups = T.groups :=
  List.foldlRecOn (motive := fun y : Team => y.groups = T.groups) its _ rfl fun _ h _ _ => h
theorem Ctx.stands.tileStep {x : Ctx} {b : State} (h : x.stands b) (n : Nat) : x.stands (b.tileStep n) := by
  induction n generalizing b with
  | zero => exact h
  | succ n ih =>
    unfold State.tileStep
    split
    · exact h
    · refine ih (Ctx.stands.endOp (h.updTeam _ fun T => ?_) _)
      split
      · rfl
      · exact putRow_groups ..
      · rfl
theorem Ctx.stands.resHold {x x' : Ctx} {b : State} (h : x.stands b) (k : HoldKind) : x.stands (resHold x' b k).s :=
  h.updGroup _ _ fun _ => ⟨rfl, rfl, rfl, rfl, rfl, rfl⟩
@[simp] theorem setChan_groups (T : Team) (n : Nat) (c : Chan) : (T.setChan n c).groups = T.groups := by unfold Team.setChan; rfl
/-- A change of a team that is there, which leaves its groups. -/
theorem Ctx.stands.setTeam? {x : Ctx} {b : State} (h : x.stands b) {t : Nat} {T T' : Team} (hT : b.team? t = some T) (hg : T'.groups = T.groups) :
    x.stands (b.setTeam t T') :=
  h.setTeam fun _ U hU => by rw [State.team?, hU] at hT; cases hT; exact hg
theorem Ctx.stands.chTake {x : Ctx} {b : State} (h : x.stands b) (t g ch : Nat) (sc : Scope) : x.stands (b.chTake t g ch sc).1 := by
  unfold State.chTake
  split
  · exact h
  next T hT =>
  have ht := ((h.setTeam? hT (setChan_groups T ch (T.chan ch).take.1)).flushTeam t g).adopt t g sc (T.slotPub ch (T.chan ch).take.2)
  exact ht
theorem Ctx.stands.countCopy {x : Ctx} {b : State} (h : x.stands b) (T : Team) : x.stands (b.countCopy T) := h.of_teams rfl
theorem Ctx.stands.flyCounted {x : Ctx} {b : State} (h : x.stands b) (far : Bool) (T : Team) (o : Op) : x.stands (x.fly (if far then b.countCopy T else b) o) :=
  Ctx.stands.fly (.ite (h.countCopy T) h) o
theorem Ctx.stands.flushPublish {x : Ctx} {b : State} (h : x.stands b) (t g : Nat) (sc : Scope) (tag : PubTag) : x.stands ((b.flushTeam t g).publish t g sc tag) :=
  (h.flushTeam t g).publish ..

/-! ### Issued accesses and operations -/

section
variable {x : Ctx} (hs : x.stands x.s)
include hs

theorem stands_access (f : Flg) (hi : Int) (size : Nat) (dst : Option DstRun) (addr : Nat → Int) (data cmp : Nat → Nat) (kind : OpKind) :
    x.stands (x.access f hi size dst addr data cmp kind).s := .iteRes hs (hs.fly _)
theorem stands_accessU (f : Flg) (hi : Int) (size : Nat) (dst : Option DstRun) (addr : Int) (data : Nat) (kind : OpKind) :
    x.stands (x.accessU f hi size dst addr data kind).s := .iteRes hs (.iteRes hs (hs.fly _))
theorem stands_storeS (fl : Flg) (ac : AC) (m : MemOp) (a b : Src) : x.stands (storeS fl ac m a b x).s := .iteRes (stands_accessU hs ..) (stands_access hs ..)
theorem stands_storeTS (fl : Flg) (ac : AC) (m : MemOp) (a b : Src) : x.stands (storeTS fl ac m a b x).s :=
  .iteRes (stands_accessU hs ..) (stands_access hs ..)
theorem stands_storeMask (fl : Flg) (ac : AC) (m : MemOp) (a b e : Src) : x.stands (storeMask fl ac m a b e x).s := .iteRes hs (hs.fly _)
theorem stands_atomV (fl : Flg) (op : AtomOp) (m : AtomFld) (ret : Bool) (dst : Option DstRun) (a b : Src) (cmp : Nat → Nat) :
    x.stands (atomV fl op m ret dst a b cmp x).s :=
  have ha := stands_access hs fl gtop (if m.w64 then 8 else 4) dst (fun l => x.gaddr m.ac a m.off l) (fun l => x.rdV (kOf m.w64) .zx b l) cmp
    (.atomic op m.w64 m.sc m.ord ret)
  .iteRes ha (.ite (ha.flushTeam ..) (ha.flushPublish ..))
theorem stands_orderRun (pub adp : Option Scope) : x.stands (orderRun pub adp x).s :=
  .ite ((hs.flushTeam ..).fly _) ((hs.flushTeam ..).orderEvents ..)
theorem stands_pinRun (un : Bool) (fl : Flg) (d : Dst) (a b : Src) : x.stands (pinRun un fl d a b x).s := .iteRes hs (hs.fly _)
theorem stands_enqRun (fl : Flg) (d : Dst) (a b : Src) : x.stands (enqRun fl d a b x).s := .iteRes hs ((hs.flushPublish ..).fly _)
theorem stands_launchRun (fl : Flg) (d : Dst) (a b : Src) : x.stands (launchRun fl d a b x).s := (hs.flushPublish ..).fly _
theorem stands_collRun (kind : Nat) (fl : Flg) (d : Dst) (a : Src) : x.stands (collRun kind fl d a x).s :=
  .iteRes hs (.iteRes hs ((hs.flushPublish ..).fly _))
theorem stands_copyRun (dst src : Range) (len bar : Nat) : x.stands (copyRun dst src len bar x).s := by
  unfold copyRun
  split
  · exact hs
  split
  · exact hs
  simp only
  have hf := hs.flushTeam x.cur.team x.cur.grp
  split
  · exact hf
  next T hT =>
  split
  · exact hs
  have hn := hf.setTeam? hT (nameBar_groups T bar)
  refine .iteRes hn ?_
  dsimp only
  exact hn.flyCounted ..
theorem stands_obldRun (o : Nat) (src : Range) (bar : Nat) : x.stands (obldRun o src bar x).s := .iteRes hs (stands_copyRun hs ..)
theorem stands_fragRun (fl : Flg) (un tr : Bool) (cnt : Cnt) (pitch : BitVec 12) (off : BitVec 18) (d : Dst) (a : Src) :
    x.stands (fragRun fl un tr cnt pitch off d a x).s := .iteRes hs (.iteRes hs (hs.fly _))
theorem stands_mmaRun (fl : Flg) (int : Bool) (k : BitVec 2) (nz : Bool) (ga gb : BitVec 8) (xd oa ob : Nat) :
    x.stands (mmaRun fl int k nz ga gb xd oa ob x).s := .iteRes (hs.fly _) hs
theorem stands_drainRun (fl : Flg) (kind : DrainKind) (fm : BitVec 2) (pitch : BitVec 20) (lt : Option (Nat × Nat)) (n : Nat) (b : Src) :
    x.stands (drainRun fl kind fm pitch lt n b x).s :=
  .iteRes hs (.iteRes hs (.iteRes hs (hs.flyCounted ..)))
theorem stands_tileRun (items : List Item) (kind : OpKind) : x.stands (tileRun x items kind).s := by
  refine Ctx.stands.tileStep (Ctx.stands.of_teams hs ?_) _
  rfl
theorem stands_tlbinv (ok : Bool) (k1 : T1 → Bool) (k2 : T2 → Bool) : x.stands (tlbinv x ok k1 k2).s := .iteRes hs ((hs.flushPublish ..).of_teams rfl)
end

end Sys2Proof.Machine
end

section
/-! ## Barriers, channels, tokens and waits in the other lanes -/

open Sys2Proof Sys2Proof.Machine
namespace Sys2Proof.Machine

/-- A context inside an instruction: the same path, and a team whose group for it is as it was. -/
structure Ctx.Inner (x x' : Ctx) : Prop where
  e : x'.e = x.e
  cur : x'.cur = x.cur
  team : x'.s.team? x.cur.team = some x'.tm
  stands : x.stands x'.s

theorem Ctx.Inner.withTeam {x x' : Ctx} (h : x.Inner x') {T : Team} (hT : T.groups = x'.tm.groups) : x.stands (x'.withTeam T) := by
  rw [Ctx.withTeam, h.cur]
  exact h.stands.setTeam? h.team hT
@[simp] theorem setBar_groups (T : Team) (t : Nat) (b : Bar) : (T.setBar t b).groups = T.groups := by
  obtain ⟨m, hm⟩ := setBar_tmem T t b
  rw [hm]
theorem arrive_groups (T : Team) (t pub : Nat) : (T.arrive t pub).groups = T.groups := by simp [Team.arrive]
theorem arriveLanes_groups (t pub : Nat) (T : Team) (ls : List Nat) : (arriveLanes t pub T ls).1.groups = T.groups := by
  induction ls generalizing T with
  | nil => rfl
  | cons l ls ih =>
    unfold arriveLanes
    split
    · exact ih T
    · exact (ih _).trans (arrive_groups ..)

section
variable {x : Ctx} (hs : x.stands x.s)
include hs

theorem withBar_keeps (a : Src) {f : Ctx → Nat → Bar → Res} (hf : ∀ x' t b, x.Inner x' → x.Keeps (f x' t b).s) : x.Keeps (withBar x a f).s := by
  unfold withBar
  simp only
  split
  · exact hs.keeps
  split
  · exact hs.keeps
  have hfl := hs.flushTeam x.cur.team x.cur.grp
  split
  · exact hfl.keeps
  next T hT => exact hf _ _ _ ⟨rfl, rfl, hT, hfl⟩
theorem withValidBar_keeps (a : Src) {f : Ctx → Nat → Bar → Res} (hf : ∀ x' t b, x.Inner x' → x.Keeps (f x' t b).s) : x.Keeps (withValidBar x a f).s := by
  refine withBar_keeps hs a fun x' t b h => ?_
  split
  · have hn := h.withTeam (nameBar_groups x'.tm t)
    exact hf _ _ _ ⟨h.e, h.cur, by rw [← h.cur]; exact find?_setTeam .., hn⟩
  · exact h.stands.keeps
theorem withChan_keeps (ch : Nat) {f : Ctx → Chan → Res} (hf : ∀ x' cn, x.Inner x' → x.Keeps (f x' cn).s) : x.Keeps (withChan x ch f).s := by
  unfold withChan
  have hfl := hs.flushTeam x.cur.team x.cur.grp
  simp only
  split
  · exact hfl.keeps
  next T hT =>
  split
  · exact hf _ _ ⟨rfl, rfl, hT, hfl⟩
  · exact hfl.keeps
theorem withCbar_keeps (a : Src) {f : Nat → Nat → Bool → Bar → Res} (hf : ∀ va pa par b, x.Keeps (f va pa par b).s) : x.Keeps (withCbar x a f).s := by
  unfold withCbar
  simp only
  split
  · exact hs.keeps
  split
  · exact hs.keeps
  split
  · exact hs.keeps
  split
  · exact hs.keeps
  · exact hf ..
end

section
variable {s u : State} {x : Ctx}

theorem barInit_keeps {c : Ctl} {a b : Src} (h : Due (.barInit c a b) s x) (hu : exec (.barInit c a b) s = .next u) : x.Keeps u := by
  refine issue_keeps h hu (withBar_keeps h.stands a fun x' t _ hi => ?_)
  dsimp only
  split
  · exact hi.stands.keeps
  · exact (hi.withTeam (by simp)).keeps
theorem barArrive_keeps {c : Ctl} {sc : Scope} {a : Src} (h : Due (.barArrive c sc a) s x) (hu : exec (.barArrive c sc a) s = .next u) : x.Keeps u := by
  refine issue_keeps h hu (withValidBar_keeps h.stands a fun x' t o hi => ?_)
  have hp := hi.stands.publish x'.cur.team x'.cur.grp sc (.barrier x'.cur.team t o.phase)
  simp only
  split
  · exact hp.keeps
  · next T hT => exact (hp.setTeam? hT (arriveLanes_groups ..)).keeps
theorem barExpect_keeps {c : Ctl} {a b : Src} (h : Due (.barExpect c a b) s x) (hu : exec (.barExpect c a b) s = .next u) : x.Keeps u :=
  issue_keeps h hu <| withValidBar_keeps h.stands a fun _ _ _ hi => (Ctx.stands.iteRes hi.stands (hi.withTeam (setBar_groups ..))).keeps
theorem barWait_keeps {c : Ctl} {sc : Scope} {a : Src} (h : Due (.barWait c sc a) s x) (hu : exec (.barWait c sc a) s = .next u) : x.Keeps u :=
  issue_keeps h hu <| withValidBar_keeps h.stands a fun _ _ _ hi => (Ctx.stands.iteRes (hi.stands.observe ..) (hi.stands.resHold _)).keeps
theorem barTest_keeps {c : Ctl} {sc : Scope} {p : Nat} {a : Src} (h : Due (.barTest c sc p a) s x) (hu : exec (.barTest c sc p a) s = .next u) : x.Keeps u := by
  refine issue_keeps h hu (withValidBar_keeps h.stands a fun x' t o hi => ?_)
  exact (Ctx.stands.ite (hi.stands.observe ..) hi.stands).keeps.updGroup _ _ fun g => Group.keeps_setP (fun _ hl => hi.e ▸ hl) g p _
theorem chinit_keeps {c : Ctl} {ch : Nat} {a b : Src} (h : Due (.chinit c ch a b) s x) (hu : exec (.chinit c ch a b) s = .next u) : x.Keeps u := by
  have hf := h.stands.flushTeam x.cur.team x.cur.grp
  refine issue_keeps h hu ?_
  dsimp only
  split
  · exact hf.keeps
  · exact (hf.updTeam _ fun T => by simp).keeps
theorem chres_keeps {c : Ctl} {ch : Nat} {d : Dst} (h : Due (.chres c ch d) s x) (hu : exec (.chres c ch d) s = .next u) : x.Keeps u := by
  refine issue_keeps h hu (withChan_keeps h.stands ch fun x' cn hi => ?_)
  split
  · exact (hi.stands.resHold _).keeps
  · exact (hi.withTeam (setChan_groups ..)).keeps.updGroup _ _ fun _ => .of_files rfl rfl
theorem chcommit_keeps {c : Ctl} {sc : Scope} {ch : Nat} (h : Due (.chcommit c sc ch) s x) (hu : exec (.chcommit c sc ch) s = .next u) : x.Keeps u := by
  refine issue_keeps h hu (withChan_keeps h.stands ch fun x' cn hi => ?_)
  have hp := hi.stands.publish x'.cur.team x'.cur.grp sc (.slot x'.cur.team ch cn.commit.2)
  dsimp only
  split
  · exact hp.keeps
  · exact (hp.updTeam _ fun T => by simp [Team.committed]).keeps
theorem chtake_keeps {c : Ctl} {sc : Scope} {ch : Nat} {d : Dst} (h : Due (.chtake c sc ch d) s x) (hu : exec (.chtake c sc ch d) s = .next u) : x.Keeps u := by
  refine issue_keeps h hu (withChan_keeps h.stands ch fun x' cn hi => ?_)
  split
  · exact (hi.stands.resHold _).keeps
  · exact (hi.stands.chTake x'.cur.team x'.cur.grp ch sc).keeps.updGroup _ _ fun _ => .of_files rfl rfl
theorem chfree_keeps {c : Ctl} {ch : Nat} (h : Due (.chfree c ch) s x) (hu : exec (.chfree c ch) s = .next u) : x.Keeps u :=
  issue_keeps h hu <| withChan_keeps h.stands ch fun _ _ hi => (Ctx.stands.iteRes hi.stands (hi.withTeam (setChan_groups ..))).keeps
theorem ccall_keeps {c : Ctl} {ch : Nat} {b : Src} (h : Due (.ccall c ch b) s x) (hu : exec (.ccall c ch b) s = .next u) : x.Keeps u := by
  refine issue_keeps h hu ?_
  split
  · exact h.stands.keeps
  refine withChan_keeps h.stands ch fun x' cn hi => ?_
  dsimp only
  split
  · exact hi.stands.keeps
  split
  · exact hi.stands.keeps
  · exact ((hi.stands.publish ..).updTeam _ fun T => by simp).keeps
theorem crecv_keeps {c : Ctl} {fl : Flg} {d : Dst} {ch : Nat} (h : Due (.crecv c fl d ch) s x) (hu : exec (.crecv c fl d ch) s = .next u) : x.Keeps u :=
  issue_keeps h hu <| withChan_keeps h.stands ch fun _ _ hi => (hi.stands.fly _).keeps
theorem cbarWait_keeps {c : Ctl} {sc : Scope} {a : Src} (h : Due (.cbarWait c sc a) s x) (hu : exec (.cbarWait c sc a) s = .next u) : x.Keeps u := by
  refine issue_keeps h hu (withCbar_keeps h.stands a fun _ pa _ _ => ?_)
  split
  · dsimp only
    exact (h.stands.cobserve ..).keeps
  · exact (h.stands.resHold _).keeps
theorem tokWait_keeps {c : Ctl} {a : Src} (h : Due (.tokWait c a) s x) (hu : exec (.tokWait c a) s = .next u) : x.Keeps u := by
  refine issue_keeps h hu ?_
  dsimp only
  split
  · exact h.stands.keeps
  split
  · exact (h.stands.tokAdopt ..).keeps
  · exact (h.stands.resHold _).keeps
theorem tokResume_keeps {c : Ctl} {d : Dst} {a b : Src} (h : Due (.tokResume c d a b) s x) (hu : exec (.tokResume c d a b) s = .next u) : x.Keeps u := by
  refine issue_keeps h hu ?_
  simp only
  split
  · exact h.stands.keeps
  · exact .setGroup x _ x.tm (.of_files rfl rfl)
theorem waitv_keeps {c : Ctl} {cond : WCond} {p : Nat} {a b e : Src} (h : Due (.waitv c cond p a b e) s x) (hu : exec (.waitv c cond p a b e) s = .next u) :
    x.Keeps u := by
  refine issue_keeps h hu ?_
  simp only
  split
  · exact h.stands.keeps
  split
  · exact h.stands.keeps
  split
  · exact h.stands.keeps
  · exact h.stands.keeps
  split
  · dsimp only
    exact (h.stands.waitAdopt ..).keeps.updGroup _ _ fun g => Group.keeps_setP (fun _ hl => hl) g p _
  · exact (h.stands.resHold _).keeps
theorem getsr_keeps {c : Ctl} {d : Dst} {n : BitVec 12} (h : Due (.getsr c d n) s x) (hu : exec (.getsr c d n) s = .next u) : x.Keeps u := by
  refine issue_keeps h hu (Ctx.Keeps.updGroup (Ctx.stands.keeps ?_) _ _ fun _ => .of_files rfl rfl)
  exact .ite ((h.stands.flushTeam ..).adopt ..) h.stands
end

end Sys2Proof.Machine
end

section
/-! ## Every instruction keeps the other lanes (O16) -/

open Sys2Proof Sys2Proof.Machine
namespace Sys2Proof.Machine

/-- A change of the issuing team that leaves its groups. -/
theorem Due.withTeam {i : Instr} {s : State} {x : Ctx} (h : Due i s x) {T : Team} (hT : T.groups = x.tm.groups) : x.stands (x.withTeam T) :=
  h.stands.setTeam? h.team hT

section
variable {s u : State} {x : Ctx}

theorem callIndirect_keeps {c : Ctl} {d : Dst} {a : Src} (h : Due (.callIndirect c d a) s x) (hu : exec (.callIndirect c d a) s = .next u) : x.Keeps u := by
  refine issue_keeps h hu (keeps_withGroup x (Group.keeps_putLanes (fun l hl => ?_) ..))
  rw [getLsbD_maskOf] at hl
  simp only [Bool.and_eq_true] at hl
  exact hl.2.1
theorem rejoinTmo_keeps {c : Ctl} {p j : Nat} {b : Src} (h : Due (.rejoinTmo c p j b) s x) (hu : exec (.rejoinTmo c p j b) s = .next u) : x.Keeps u := by
  refine issue_keeps h hu (keeps_withGroup x (Group.keeps_setP (fun l hl => ?_) ..))
  rw [BitVec.getLsbD_and] at hl
  exact (Bool.and_eq_true_iff.mp hl).1
theorem cvtQFloat_keeps {c : Ctl} {st : FT} {fm : BitVec 2} {n : BitVec 3} {d : Dst} {a e : Src} (h : Due (.cvtQFloat c st fm n d a e) s x)
    (hu : exec (.cvtQFloat c st fm n d a e) s = .next u) : x.Keeps u := by
  refine issue_keeps h hu (keeps_withFmt h.stands fm fun y => ?_)
  split
  · exact h.stands.keeps
  · exact keeps_resF ..
theorem cvtFloatQ_keeps {c : Ctl} {dt : FT} {fm : BitVec 2} {n : BitVec 3} {d : Dst} {a : Src} (h : Due (.cvtFloatQ c dt fm n d a) s x)
    (hu : exec (.cvtFloatQ c dt fm n d a) s = .next u) : x.Keeps u := by
  refine issue_keeps h hu (keeps_withFmt h.stands fm fun y => ?_)
  split
  · exact h.stands.keeps
  · exact keeps_resF ..
theorem brk_keeps {c : Ctl} {code : BitVec 16} (h : Due (.brk c code) s x) (hu : exec (.brk c code) s = .next u) : x.Keeps u := by
  refine issue_keeps h hu ?_
  dsimp only
  split
  · exact (h.withTeam (by rfl)).keeps
  · exact h.stands.keeps
theorem setdl_keeps {c : Ctl} {a : Src} (h : Due (.setdl c a) s x) (hu : exec (.setdl c a) s = .next u) : x.Keeps u := by
  refine issue_keeps h hu ?_
  dsimp only
  split
  · exact h.stands.keeps
  · exact (h.withTeam (by rfl)).keeps
theorem obres_keeps {c : Ctl} {o : Nat} {a : Src} (h : Due (.obres c o a) s x) (hu : exec (.obres c o a) s = .next u) : x.Keeps u :=
  issue_keeps h hu (Ctx.stands.iteRes (h.withTeam (by rfl)) h.stands).keeps
theorem obrel_keeps {c : Ctl} {o : Nat} (h : Due (.obrel c o) s x) (hu : exec (.obrel c o) s = .next u) : x.Keeps u := by
  refine issue_keeps h hu ?_
  dsimp only
  exact (h.withTeam (by rfl)).keeps
theorem vshrink_keeps {c : Ctl} {a : Src} (h : Due (.vshrink c a) s x) (hu : exec (.vshrink c a) s = .next u) : x.Keeps u := by
  refine issue_keeps h hu ?_
  dsimp only
  split
  · exact h.stands.keeps
  split
  · exact keeps_withGroup x (.of_files rfl rfl)
  · exact h.stands.keeps
theorem tlbinvPage_keeps {c : Ctl} {a b : Src} (h : Due (.tlbinvPage c a b) s x) (hu : exec (.tlbinvPage c a b) s = .next u) : x.Keeps u :=
  issue_keeps h hu (Ctx.stands.iteRes (stands_tlbinv h.stands ..) (stands_tlbinv h.stands ..)).keeps
end

/-- Whatever an instruction does when it issues, the lanes outside its effective mask keep their registers (R18). -/
theorem exec_keeps {i : Instr} {s u : State} {x : Ctx} (hq : quietAtIssue i = true) (hg : ∀ c a, i ≠ .vgrow c a) (h : Due i s x) (hu : exec i s = .next u) :
    x.Keeps u := by
  have hs := h.stands
  cases i
  case vgrow c a => exact absurd rfl (hg c a)
  case nop | bra | brxV | brxS | ret | exit | rejoin | trap => exact issue_keeps h hu hs.keeps
  case yieldPath => exact issue_keeps h hu (keeps_withGroup x (.of_files rfl rfl))
  case jset | jadd | jsub | jput => exact issue_keeps h hu (keeps_setJ ..)
  case callIndirect => exact callIndirect_keeps h hu
  case rejoinTmo => exact rejoinTmo_keeps h hu
  case agree => exact issue_keeps h hu (keeps_setRec_setP ..)
  case cvtQFloat => exact cvtQFloat_keeps h hu
  case cvtFloatQ => exact cvtFloatQ_keeps h hu
  case brk => exact brk_keeps h hu
  case setdl => exact setdl_keeps h hu
  case obres => exact obres_keeps h hu
  case obrel => exact obrel_keeps h hu
  case vshrink => exact vshrink_keeps h hu
  case call | addV | subV | mulV | madV | minV | maxV | absV | negV | andV | orV | xorV | andnV | ornV | xnorV | notV | shlV | shrV | sarV | shfV | bfeV |
      bfiV | brevV | popcV | clzV | ctzV | bgatV | movV | selV | divV | remV | spread | mat | shfl | scanInt | matchLanes | cvtNarrow =>
    exact issue_keeps h hu (keeps_resV ..)
  case jget | addS | subS | mulS | madS | minS | maxS | absS | negS | andS | orS | xorS | andnS | ornS | xnorS | notS | shlS | shrS | sarS | shfS | bfeS |
      bfiS | brevS | popcS | clzS | ctzS | bgatS | movS | divS | remS | firstLane | voteBallot | reduceInt | tokRead | xstatNan | xstatOvf =>
    exact issue_keeps h hu (keeps_resU ..)
  case addcV | subcV => exact issue_keeps h hu (keeps_resCarry ..)
  case cmpV | cmpS | cmpA => exact issue_keeps h hu (keeps_resCmp ..)
  case addA | subA | mulA | madA | shlA | movA => exact issue_keeps h hu (keeps_resA hs ..)
  case rampA => exact issue_keeps h hu (keeps_withRec ..)
  case classV | voteAll | voteAny | voteEq => exact issue_keeps h hu (keeps_setP ..)
  case addVF | subVF | mulVF | fmaV | minVF | maxVF | minnumV | maxnumV | rndV | rcpV | sqrtV | divVF | ex2 | lg2 | sinpi | cospi | dotV | absVF | negVF |
      copysignV | cvtFloatFloat | cvtFloatInt | cvtIntFloat | scanFloat => exact issue_keeps h hu (keeps_resF ..)
  case addSF | subSF | mulSF | fmaS | minSF | maxSF | minnumS | maxnumS | rcpS | sqrtS | divSF | absSF | negSF | copysignS | reduceFloat =>
    exact issue_keeps h hu (keeps_resFU ..)
  case cmpVF | cmpVF16 | cmpSF => exact issue_keeps h hu (keeps_resCmpF ..)
  case addVQ | subVQ | mulVQ | fmaVQ | minVQ | maxVQ | dotVQ | absVQ | negVQ => exact issue_keeps h hu (keeps_withFmt hs _ fun _ => keeps_resF ..)
  case ldgV | stgV | ldtmV | sttmV | ldcV | atomtm => exact issue_keeps h hu (stands_access hs ..).keeps
  case ldgS | ldtmS | ldcS => exact issue_keeps h hu (stands_accessU hs ..).keeps
  case stgS => exact issue_keeps h hu (stands_storeS hs ..).keeps
  case sttmS => exact issue_keeps h hu (stands_storeTS hs ..).keeps
  case stmsk => exact issue_keeps h hu (stands_storeMask hs ..).keeps
  case atom | red => exact issue_keeps h hu (stands_atomV hs ..).keeps
  case publish | adopt | fence => exact issue_keeps h hu (stands_orderRun hs ..).keeps
  case pinLines | unpinLines => exact issue_keeps h hu (stands_pinRun hs ..).keeps
  case cpyG2t | cpyT2g | cpyG2g | cpyT2t => exact issue_keeps h hu (stands_copyRun hs ..).keeps
  case obldG | obldTm => exact issue_keeps h hu (stands_obldRun hs ..).keeps
  case ldfrag => exact issue_keeps h hu (stands_fragRun hs ..).keeps
  case mma => exact issue_keeps h hu (stands_mmaRun hs ..).keeps
  case drainF64 | drainQ | drainI64 => exact issue_keeps h hu (stands_drainRun hs ..).keeps
  case xzero => exact issue_keeps h hu (stands_tileRun hs ..).keeps
  case xput => exact issue_keeps h hu (Ctx.stands.iteRes hs (stands_tileRun hs ..)).keeps
  case xget => exact issue_keeps h hu (Ctx.stands.iteRes hs (hs.fly _)).keeps
  case xlat => exact issue_keeps h hu (Ctx.stands.iteRes (hs.fly _) hs).keeps
  case enq => exact issue_keeps h hu (stands_enqRun hs ..).keeps
  case launchGrid => exact issue_keeps h hu (stands_launchRun hs ..).keeps
  case collAllreduce | collAllgather | collRedscat | collBcast => exact issue_keeps h hu (stands_collRun hs ..).keeps
  case tlbinvAsid | tlbinvSlice => exact issue_keeps h hu (stands_tlbinv hs ..).keeps
  case tlbinvPage => exact tlbinvPage_keeps h hu
  case barInit => exact barInit_keeps h hu
  case barArrive => exact barArrive_keeps h hu
  case barExpect => exact barExpect_keeps h hu
  case barWait => exact barWait_keeps h hu
  case barTest => exact barTest_keeps h hu
  case chinit => exact chinit_keeps h hu
  case chres => exact chres_keeps h hu
  case chcommit => exact chcommit_keeps h hu
  case chtake => exact chtake_keeps h hu
  case chfree => exact chfree_keeps h hu
  case ccall => exact ccall_keeps h hu
  case crecv => exact crecv_keeps h hu
  case cbarWait => exact cbarWait_keeps h hu
  case tokWait => exact tokWait_keeps h hu
  case tokResume => exact tokResume_keeps h hu
  case waitv => exact waitv_keeps h hu
  case getsr => exact getsr_keeps h hu
  all_goals cases hq

end Sys2Proof.Machine
/-- Settles O16: a write of registers is within the mask, and everything else that issue does leaves the register files. -/
theorem otherLanesKeepTheirRegisters : Obligations.OtherLanesKeepTheirRegisters := by
  intro i s t x y hq hg h ht hy l hl hm n
  have hk := (exec_keeps hq hg h ht).group y hy
  exact ⟨hk.v n l hl hm, hk.p n l hl hm⟩

end

section
/-! ## REG_BUDGET, then PARTIAL_WRITE (O14) -/

open Sys2Proof Sys2Proof.Machine

namespace Sys2Proof.Machine

/-- A fault of the whole effective mask, with nothing written before it: the mask is within the path, so its lanes are there to park. -/
theorem resFault_parks {i : Instr} {s : State} {x : Ctx} (h : Due i s x) (he : x.e ≠ 0#32) (c : FClass) :
    ∃ y, Parks x { cls := c, lanes := x.e } x.s (finish x (resFault x c)) y :=
  finish_parks h (resFault x c) _ x.tm h.team rfl ⟨rfl, rfl, rfl, rfl, rfl⟩ rfl (fun _ hl => effMask_sub (h.mask ▸ hl)) he rfl rfl
/-- An instruction whose own effect is such a fault. -/
theorem faultsIn_of_resFault {i : Instr} {s : State} {x : Ctx} {f : Ctx → Res} {c : FClass} (h : Issues i s x) (he : exec i s = issue i s f)
    (hf : f x = resFault x c) : FaultsIn i s x c x.s := by
  obtain ⟨y, hy⟩ := resFault_parks h.toDue h.lanes c
  exact ⟨_, y, by rw [he, issue_next h, hf], hy⟩
/-- A live lane that the mask leaves out makes a write of the state partial (R75). -/
theorem partialWrite_of_live {x : Ctx} {i : Instr} (hw : writesState i = true) {l : Nat} (hl : l < 32) (hlive : (x.g0.live x.cur.rc).getLsbD l = true)
    (he : x.e.getLsbD l = false) : partialWrite x i = true := by
  have hsub : subMask (x.g0.live x.cur.rc) x.e = false := by
    rw [Bool.eq_false_iff, ne_eq, subMask_iff]
    intro hall
    rw [hall l hl hlive] at he
    cases he
  rw [partialWrite, hw, hsub]
  rfl

end Sys2Proof.Machine
/-- Settles O14: both checks end in a fault of the whole effective mask with nothing done before it. -/
theorem budgetThenPartialWrite : Obligations.BudgetThenPartialWrite := by
  intro i s x h hm hp he
  obtain ⟨f, hf⟩ := h.exec_issue
  have parks : ∀ c, exec i s = .next (finish x { s, flts := [{ cls := c, lanes := x.e }] }) →
      ∃ t y, exec i s = .next t ∧ Parks x { cls := c, lanes := x.e } x.s t y := by
    intro c hx
    obtain ⟨y, hy⟩ := resFault_parks h he c
    exact ⟨_, y, by rw [hx, ← h.same]; rfl, hy⟩
  refine ⟨fun hb => parks _ (by rw [hf, issue_budget h hm hp he hb]), fun hb hw hlive => ?_⟩
  obtain ⟨l, hl, hlv, hle⟩ := hlive
  exact parks _ (by rw [hf, issue_partial h hm hp he hb (partialWrite_of_live hw hl hlv hle)])

end

section
/-! ## Affine results (O20) -/

open Sys2Proof Sys2Proof.Machine

namespace Sys2Proof.Machine

theorem resA_fits (x : Ctx) (d : Dst) (b : Int) {n : Int} (h : strideFits n) :
    resA x d b n = { s := x.withRec (putA x.st d { base := BitVec.ofInt 64 b, stride := BitVec.ofInt 32 n }) } :=
  if_neg (not_or.mpr ⟨Int.not_lt.mpr h.1, Int.not_lt.mpr h.2⟩)
theorem resA_overflows (x : Ctx) (d : Dst) (b : Int) {n : Int} (h : ¬strideFits n) : resA x d b n = resFault x .affOvf :=
  if_pos (by unfold strideFits at h; omega)

/-- A shift by 64 or more is a multiple of 2^64. -/
theorem mul_two_pow_split {k : Nat} (h : 64 ≤ k) (b : Int) : b * 2 ^ k = 2 ^ 64 * (b * 2 ^ (k - 64)) := by
  rw [Int.mul_left_comm, ← Int.pow_add, Nat.add_sub_cancel' h]
theorem ofInt_mul_two_pow {k : Nat} (h : 64 ≤ k) (b : Int) : BitVec.ofInt 64 (b * 2 ^ k) = 0#64 := by
  apply BitVec.eq_of_toNat_eq
  rw [BitVec.toNat_ofInt, show ((2 ^ 64 : Nat) : Int) = 2 ^ 64 from rfl, mul_two_pow_split h, Int.mul_emod_right]
  rfl
/-- No stride but 0 stays in range when it is shifted by 64 or more. -/
theorem strideFits_mul_two_pow {k : Nat} (h : 64 ≤ k) (n : Int) : strideFits (n * 2 ^ k) ↔ n = 0 := by
  have hpow : (2 : Int) ^ (k - 64) ≠ 0 := Int.ne_of_gt (Int.pow_pos (by decide))
  have hzero : n * 2 ^ (k - 64) = 0 ↔ n = 0 := by rw [Int.mul_eq_zero, or_iff_left hpow]
  rw [mul_two_pow_split h, ← hzero]
  unfold strideFits
  omega
/-- A count beyond 64 shifts out what 64 does (R137). -/
theorem resA_shift_min (x : Ctx) (d : Dst) (b n : Int) (k : Nat) : resA x d (b * 2 ^ min k 64) (n * 2 ^ min k 64) = resA x d (b * 2 ^ k) (n * 2 ^ k) := by
  rcases Nat.le_total k 64 with h | h
  · rw [Nat.min_eq_left h]
  rw [Nat.min_eq_right h]
  by_cases hn : n = 0
  · subst hn
    have h0 : strideFits 0 := ⟨by decide, by decide⟩
    rw [Int.zero_mul, Int.zero_mul, resA_fits x d _ h0, resA_fits x d _ h0, ofInt_mul_two_pow (Nat.le_refl 64), ofInt_mul_two_pow h]
  · rw [resA_overflows x d _ (mt (strideFits_mul_two_pow (Nat.le_refl 64) n).mp hn), resA_overflows x d _ (mt (strideFits_mul_two_pow h n).mp hn)]
/-- The affine forms end in one operation on their exact base and stride (R137). -/
theorem exec_affine {i : Instr} {x : Ctx} {d : Dst} {b n : Int} (h : affCalc x i = some (d, b, n)) :
    ∃ f, (∀ s, exec i s = issue i s f) ∧ f x = resA x d b n := by
  cases i
  case addA | subA | mulA | madA | movA =>
    cases h
    exact ⟨_, fun _ => rfl, rfl⟩
  case shlA =>
    cases h
    exact ⟨_, fun _ => rfl, resA_shift_min ..⟩
  all_goals cases h

end Sys2Proof.Machine
/-- Settles O20: the exact base and stride are written where the stride fits, and fault where it does not. -/
theorem affineResult : Obligations.AffineResult := by
  intro i s x d b n hc h
  obtain ⟨f, he, hf⟩ := exec_affine hc
  refine ⟨fun hn => ?_, fun hn => faultsIn_of_resFault h (he s) (hf.trans (resA_overflows x d b hn))⟩
  obtain ⟨t, y, ht, hd⟩ := next_did h f (by rw [hf, resA_fits x d b hn]; exact putA_did h.toDue d _)
  exact ⟨t, y, (he s).trans ht, hd, hd.sameMem h.toDue⟩

end

section
/-! ## Format registers (O27) -/

open Sys2Proof Sys2Proof.Machine

namespace Sys2Proof.Machine

/-- VALID, as R84 lists its conditions. -/
theorem fmtValid_iff {e m sp : Nat} (h : sp < 4) :
    fmtValid e m sp = true ↔ e ≤ 8 ∧ m ≤ 10 ∧ (1 + e + m = 4 ∨ 1 + e + m = 6 ∨ 1 + e + m = 8 ∨ 1 + e + m = 16)
      ∧ (sp = 2 → e = 0) ∧ (sp = 0 ∨ sp = 1 → 1 ≤ e) ∧ (sp = 3 → e = 2 ∧ m = 1) := by
  simp only [fmtValid, Bool.and_eq_true, Bool.or_eq_true, decide_eq_true_eq, bne_iff_ne, beq_iff_eq, List.mem_cons, List.not_mem_nil, or_false]
  omega
/-- The bits of a field stand in their places, and no others. -/
theorem fieldOf_eq (v : Word) (lo n : Nat) : fieldOf v lo n = BitVec.ofNat 32 (v.toNat / 2 ^ lo % 2 ^ n * 2 ^ lo) := by
  apply BitVec.eq_of_getLsbD_eq
  intro k hk
  rw [fieldOf, BitVec.getLsbD_and, BitVec.getLsbD_ofNat, BitVec.getLsbD_ofNat, Nat.testBit_mul_two_pow, Nat.testBit_mul_two_pow, Nat.testBit_two_pow_sub_one,
    Nat.testBit_mod_two_pow, Nat.testBit_div_two_pow, decide_eq_true hk, Bool.true_and, Bool.true_and]
  by_cases hlo : lo ≤ k
  · simp [hlo, Bool.and_comm, BitVec.getLsbD]
  · simp [hlo]
/-- Two numbers without a common bit, side by side. -/
theorem ofNat_or_shifted {a k : Nat} (h : a < 2 ^ k) (b : Nat) : BitVec.ofNat 32 a ||| BitVec.ofNat 32 (b * 2 ^ k) = BitVec.ofNat 32 (a + b * 2 ^ k) := by
  rw [← BitVec.ofNat_or, Nat.or_comm, Nat.mul_comm, ← Nat.two_pow_add_eq_or_of_lt h, Nat.add_comm]
/-- A format register as it is written: E, M, SPEC and BIAS of the source, EW and VALID computed (R83). -/
theorem fmtWord_eq (v : Word) : fmtWord v = BitVec.ofNat 32 (v.toNat % 2 ^ 10 + v.toNat / 2 ^ 16 % 256 * 2 ^ 16 + (1 + v.toNat % 16 + v.toNat / 16 % 16) * 2 ^ 24
    + (if fmtValid (v.toNat % 16) (v.toNat / 16 % 16) (v.toNat / 2 ^ 8 % 4) = true then 2 ^ 31 else 0)) := by
  have hmask : (0x00FF03FF#32 : Word) = BitVec.ofNat 32 ((2 ^ 10 - 1) * 2 ^ 0) ||| BitVec.ofNat 32 ((2 ^ 8 - 1) * 2 ^ 16) := by decide
  have hkept : v &&& 0x00FF03FF#32 = BitVec.ofNat 32 (v.toNat % 2 ^ 10 + v.toNat / 2 ^ 16 % 256 * 2 ^ 16) := by
    rw [hmask, BitVec.and_or_distrib_left]
    show fieldOf v 0 10 ||| fieldOf v 16 8 = _
    rw [fieldOf_eq, fieldOf_eq, ofNat_or_shifted (by omega)]
    simp
  have hnew : ∀ w z : Nat, w * 2 ^ 24 + (if fmtValid (v.toNat % 16) (v.toNat / 16 % 16) z = true then 2 ^ 31 else 0)
      = (w + if fmtValid (v.toNat % 16) (v.toNat / 16 % 16) z = true then 2 ^ 7 else 0) * 2 ^ 24 := by
    intro w z
    split
    · omega
    · omega
  rw [Nat.add_assoc, hnew, ← ofNat_or_shifted (by omega), ← hkept, ← hnew]
  rfl
/-- Bit 31 is VALID: the other fields stay below it. -/
theorem fmtWord_valid (v : Word) : (fmtWord v).getLsbD 31 = fmtValid (v.toNat % 16) (v.toNat / 2 ^ 4 % 16) (v.toNat / 2 ^ 8 % 4) := by
  have hlt : v.toNat % 2 ^ 10 + v.toNat / 2 ^ 16 % 256 * 2 ^ 16 + (1 + v.toNat % 16 + v.toNat / 16 % 16) * 2 ^ 24 < 2 ^ 31 := by omega
  have hbelow := Nat.testBit_lt_two_pow hlt
  rw [fmtWord_eq, BitVec.getLsbD_ofNat, decide_eq_true (by decide), Bool.true_and, show (2 : Nat) ^ 4 = 16 from rfl]
  split
  · next hv => rw [Nat.add_comm, Nat.testBit_two_pow_add_eq, hbelow, hv]; rfl
  · next hv => rw [Nat.add_zero, hbelow, Bool.eq_false_iff.mpr hv]
/-- The format of a register is there just where VALID reads 1 and the fields keep its conditions (R84). -/
theorem fmtOfWord_isSome (w : Word) :
    (fmtOfWord w).isSome = (w.getLsbD 31 && fmtValid (w.toNat % 16) (w.toNat / 2 ^ 4 % 16) (w.toNat / 2 ^ 8 % 4)) := by
  have field : ∀ lo n, (w.extractLsb' lo n).toNat = w.toNat / 2 ^ lo % 2 ^ n := fun lo n => by
    rw [BitVec.extractLsb'_toNat, Nat.shiftRight_eq_div_pow]
  have he : (w.extractLsb' 0 4).toNat = w.toNat % 16 := (field 0 4).trans (congrArg (· % 16) (Nat.div_one _))
  have hm : (w.extractLsb' 4 4).toNat = w.toNat / 2 ^ 4 % 16 := field 4 4
  have hp : (w.extractLsb' 8 2).toNat = w.toNat / 2 ^ 8 % 4 := field 8 2
  have hs : w.toNat / 2 ^ 8 % 4 < 4 := Nat.mod_lt _ (by decide)
  simp only [fmtOfWord, he, hm, hp]
  generalize w.toNat % 16 = e, w.toNat / 2 ^ 4 % 16 = m, w.toNat / 2 ^ 8 % 4 = sp, w.getLsbD 31 = v at hs ⊢
  cases v with
  | false => rfl
  | true =>
    rw [Bool.true_and (fmtValid e m sp), Bool.eq_iff_iff, fmtValid_iff hs]
    have hcases : sp = 0 ∨ sp = 1 ∨ sp = 2 ∨ sp = 3 := by omega
    rcases hcases with rfl | rfl | rfl | rfl <;> simp <;> omega
/-- An instruction that names a format register reads it before anything else. -/
theorem exec_withFmt {i : Instr} {fm : BitVec 2} (h : fmtNo i = some fm) : ∃ F : Ctx → Fmt → Res, ∀ s, exec i s = issue i s fun x => withFmt x fm (F x) := by
  cases i
  case addVQ | subVQ | mulVQ | fmaVQ | minVQ | maxVQ | dotVQ | absVQ | negVQ | cvtQFloat | cvtFloatQ =>
    cases h
    exact ⟨_, fun _ => rfl⟩
  all_goals cases h
theorem withFmt_invalid {x : Ctx} {fm : BitVec 2} (h : fmtOfWord (x.st.getFmt fm.toNat) = none) (f : Fmt → Res) : withFmt x fm f = resFault x .illegalOp := by
  rw [withFmt, h]

end Sys2Proof.Machine
/-- Settles O27: VALID by its conditions, as a write computes it, and as an instruction that names the register finds it. -/
theorem formatValidity : Obligations.FormatValidity := by
  refine ⟨fun e m sp _ _ h => fmtValid_iff h, fmtWord_valid, fun i s x fm hi h hw => ?_, rfl, rfl, rfl, rfl⟩
  obtain ⟨F, he⟩ := exec_withFmt hi
  have hnone : fmtOfWord (x.st.getFmt fm.toNat) = none := by
    rw [← Option.not_isSome_iff_eq_none, fmtOfWord_isSome, Bool.and_eq_true]
    rintro ⟨hv, hf⟩
    rcases hw with hw | hw
    · rw [hv] at hw; cases hw
    · rw [hf] at hw; cases hw
  exact faultsIn_of_resFault h (he s) (withFmt_invalid hnone _)

end

section
/-! ## The predicate file (O15) -/

open Sys2Proof Sys2Proof.Machine

/-- Settles O15: what a write leaves of the file, lane by lane, and which lanes a guard passes. -/
theorem predicateFile : Obligations.PredicateFile := by
  refine ⟨fun g l => rfl, fun g e f => rfl, fun g n k e f l hn hl => ?_, fun g c m l hl hc => ?_⟩
  · rw [getP_setP g n k e f hl]
    have hiff : n = k ∧ k ≠ 15 ∧ e.getLsbD l = true ↔ k = n ∧ e.getLsbD l = true := by
      constructor
      · exact fun ⟨h, _, he⟩ => ⟨h.symm, he⟩
      · exact fun ⟨h, he⟩ => ⟨h.symm, by omega, he⟩
    simp only [hiff]
  · rw [effMask, if_neg hc, getLsbD_maskOf, decide_eq_true hl, Bool.true_and]
end

section
/-! ## Rows in which a path writes its own registers (O60) -/

open Sys2Proof Sys2Proof.Machine

namespace Sys2Proof.Machine

/-! ### How a write of the path ends (R64, R75) -/

section
variable {row : String} {pr r75 : Bool} {f : Ctx → State} {s : State} {x : Ctx} (hx : ctxOf s Ctl.plain = some x)
include hx

theorem stateWrite_eq : stateWrite row pr r75 f s = .next (
    if pr && !x.tm.priv then s.park x.cur.team x.cur.grp x.cur.rc x.cur.m { cls := FClass.priv.code, pc := x.cur.pc, off := x.cur.pos }
    else if r75 && !subMask (x.g0.live x.cur.rc) x.e then
      s.park x.cur.team x.cur.grp x.cur.rc x.e { cls := FClass.partialWrite.code, pc := x.cur.pc, off := x.cur.pos }
    else f x) := by
  rw [Ctl.plain] at hx
  simp only [stateWrite, hx, Option.bind_eq_bind, Option.bind_some]
  split
  · rfl
  split
  · rfl
  · rfl
theorem stateWrite_priv (h : x.tm.priv = false) :
    stateWrite row true r75 f s = .next (s.park x.cur.team x.cur.grp x.cur.rc x.cur.m { cls := FClass.priv.code, pc := x.cur.pc, off := x.cur.pos }) := by
  rw [stateWrite_eq hx, h]
  rfl
theorem stateWrite_partial (hp : pr = true → x.tm.priv = true) (h : ¬ subMask (x.g0.live x.cur.rc) x.e = true) :
    stateWrite row pr true f s = .next (s.park x.cur.team x.cur.grp x.cur.rc x.e { cls := FClass.partialWrite.code, pc := x.cur.pc, off := x.cur.pos }) := by
  rw [stateWrite_eq hx, if_neg (by simpa using hp), if_pos (by simpa using h)]
theorem stateWrite_whole (hp : pr = true → x.tm.priv = true) (h : r75 = true → subMask (x.g0.live x.cur.rc) x.e = true) :
    stateWrite row pr r75 f s = .next (f x) := by
  rw [stateWrite_eq hx, if_neg (by simpa using hp), if_neg (by simpa using h)]
end

/-! ### What each register holds afterwards -/

/-- FMT0 to FMT3 (R83). -/
theorem writeSr_fmt (x : Ctx) (n : BitVec 2) (v : Word) :
    x.writeSr (0x010 + n.toNat) v = x.withGroup (x.g.setRec x.cur.rc { x.st with fmt := x.st.fmt.set n.toNat (fmtWord v) }) := by
  have hn : n.toNat = 0 ∨ n.toNat = 1 ∨ n.toNat = 2 ∨ n.toNat = 3 := by omega
  rcases hn with h | h | h | h <;> rw [h] <;> rfl
/-- A write of FP_CTL sets its five enables, which are all that it holds (R146). -/
theorem srMerge_fpCtl (p : Bool) {old : Word} (v : Word) (h : old.toNat < 32) : srMerge 0x100 p old v = fieldOf v 0 5 := by
  have hrw : srMask 0x100 p (· == .rw) = 31#32 := by cases p <;> decide
  have hwc : srMask 0x100 p (· == .w1c) = 0#32 := by cases p <;> decide
  have hfit : old = fieldOf old 0 5 := by
    rw [fieldOf_eq, Nat.pow_zero, Nat.div_one, Nat.mul_one, Nat.mod_eq_of_lt (show old.toNat < 2 ^ 5 from h), BitVec.ofNat_toNat, BitVec.setWidth_eq]
  have hold : old &&& ~~~31#32 = 0#32 := by
    rw [hfit, fieldOf, BitVec.and_assoc, show BitVec.ofNat 32 ((2 ^ 5 - 1) * 2 ^ 0) &&& ~~~31#32 = 0#32 by decide, BitVec.and_zero]
  simp only [srMerge, hrw, hwc, hold, BitVec.zero_and, BitVec.zero_or]
  rfl
/-- Every bit of FR_TAIL reads in the P-view (R421). -/
theorem srView_frTail (v : Word) : srView 0x423 true v = v := by
  have hmask : srMask 0x423 true Acc.reads = BitVec.allOnes 32 := by decide
  rw [srView, hmask, BitVec.and_allOnes]
theorem srValue_frTail (x : Ctx) : x.srValue 0x423 = ((x.sr.sliceDie.get (4 * x.tm.slice + x.tm.die)).reg.get 0x423).toNat := rfl

end Sys2Proof.Machine
/-- Settles O60, row by row: what the path's check lets through writes the register by its fields. -/
theorem ownRegisterRows : Obligations.OwnRegisterRows := by
  intro i s r hr hok
  unfold ownTurns at hr
  split at hr
  case h_1 => cases hr
  next x hx =>
  cases i with
  | fmtWrite n v =>
    simp only [List.mem_cons, List.not_mem_nil, or_false] at hr
    rcases hr with rfl | rfl
    · exact stateWrite_partial hx nofun hok
    · rw [← fmtWord_eq, ← writeSr_fmt]
      exact stateWrite_whole hx nofun fun _ => hok
  | fpCtlWrite v =>
    simp only [List.mem_cons, List.not_mem_nil, or_false] at hr
    rcases hr with rfl | rfl
    · exact stateWrite_partial hx nofun hok
    · obtain ⟨hwhole, hfit⟩ := hok
      rw [← srMerge_fpCtl x.tm.priv v hfit]
      exact stateWrite_whole hx nofun fun _ => hwhole
  | fpStatusClear v =>
    rw [List.mem_singleton.mp hr]
    exact stateWrite_whole hx nofun nofun
  | frTailRead d =>
    simp only [List.mem_cons, List.not_mem_nil, or_false] at hr
    rcases hr with rfl | rfl | rfl
    · exact stateWrite_priv hx hok
    · obtain ⟨hpriv, hpart⟩ := hok
      exact stateWrite_partial hx (fun _ => hpriv) hpart
    · obtain ⟨hpriv, hwhole⟩ := hok
      refine (stateWrite_whole hx (fun _ => hpriv) fun _ => hwhole).trans ?_
      rw [hpriv, srView_frTail, srValue_frTail, BitVec.ofNat_toNat, BitVec.setWidth_eq]
      rfl
  | _ => cases hr

end

section
/-! ## Integer results: one function of the sources, uniform or by lane (O17, O18) -/

open Sys2Proof Sys2Proof.Machine

namespace Sys2Proof.Machine

/-- The effect that writes a calculation's result, in the state or lane by lane. -/
def Calc.res (o : Calc) (x : Ctx) : Res :=
  if o.uni then resU x o.k o.d (o.f (o.srcs.map fun q => x.rdU q.1 q.2.1 q.2.2))
  else resV x o.k o.d fun l => o.f (o.srcs.map fun q => x.rdV q.1 q.2.1 q.2.2 l)
/-- The instruction's own effect is the calculation's result. -/
def Calc.Computes (o : Calc) (i : Instr) : Prop := ∃ F : Ctx → Res, (∀ s, exec i s = issue i s F) ∧ ∀ x, F x = o.res x

theorem Calc.res_did {i : Instr} {s : State} {x : Ctx} (h : Due i s x) (o : Calc) : ∃ y, Did x (o.eff x) (finish x (o.res x)) y := by
  unfold Calc.res Calc.eff
  split
  · exact resU_did h ..
  · exact resV_did h ..
theorem Calc.Computes.did {o : Calc} {i : Instr} (hc : o.Computes i) {s : State} {x : Ctx} (h : Issues i s x) :
    ∃ t y, exec i s = .next t ∧ Did x (o.eff x) t y ∧ State.sameMem s t := by
  obtain ⟨F, he, hF⟩ := hc
  obtain ⟨t, y, ht, hd⟩ := next_did h F (by rw [hF]; exact o.res_did h.toDue)
  exact ⟨t, y, (he s).trans ht, hd, hd.sameMem h.toDue⟩

/-! ### Results of one, two and three sources -/

section
variable {i : Instr} {o : Calc} {uni : Bool} {d : Dst} {a b e : Src} {ik : ImmKind}

/-- The model's function `g` need agree with the rules' `f` only on what registers can hold. -/
theorem computes_calc1 {k ka : Nat} {f g : Nat → Nat} (ho : calc1 uni k ka ik d a f = some o) (hk : ka = 1 ∨ ka = 2)
    (hfg : ∀ p, p < 2 ^ (32 * ka) → g p = f p) (he : ∀ s, exec i s = issue i s fun x => (if uni then u1 else v1) x k ka ik d a g) : o.Computes i := by
  cases ho
  refine ⟨_, he, fun x => ?_⟩
  cases uni with
  | true => exact congrArg (resU x k d) (hfg _ (rdU_lt x hk ik a))
  | false => exact congrArg (resV x k d) (funext fun l => hfg _ (rdV_lt x hk ik a l))
theorem computes_calc2 {k kb : Nat} {f g : Nat → Nat → Nat} (ho : calc2 uni k kb ik d a b f = some o) (hk : k = 1 ∨ k = 2) (hkb : kb = 1 ∨ kb = 2)
    (hfg : ∀ p q, p < 2 ^ (32 * k) → q < 2 ^ (32 * kb) → g p q = f p q)
    (he : ∀ s, exec i s = issue i s fun x => (if uni then u2 else v2) x k kb ik d a b g) : o.Computes i := by
  cases ho
  refine ⟨_, he, fun x => ?_⟩
  cases uni with
  | true => exact congrArg (resU x k d) (hfg _ _ (rdU_lt x hk ik a) (rdU_lt x hkb ik b))
  | false => exact congrArg (resV x k d) (funext fun l => hfg _ _ (rdV_lt x hk ik a l) (rdV_lt x hkb ik b l))
theorem computes_calc3 {k : Nat} {f g : Nat → Nat → Nat → Nat} (ho : calc3 uni k ik d a b e f = some o) (hk : k = 1 ∨ k = 2)
    (hfg : ∀ p q r, p < 2 ^ (32 * k) → q < 2 ^ (32 * k) → r < 2 ^ (32 * k) → g p q r = f p q r)
    (he : ∀ s, exec i s = issue i s fun x => (if uni then u3 else v3) x k ik d a b e g) : o.Computes i := by
  cases ho
  refine ⟨_, he, fun x => ?_⟩
  cases uni with
  | true => exact congrArg (resU x k d) (hfg _ _ _ (rdU_lt x hk ik a) (rdU_lt x hk ik b) (rdU_lt x hk ik e))
  | false => exact congrArg (resV x k d) (funext fun l => hfg _ _ _ (rdV_lt x hk ik a l) (rdV_lt x hk ik b l) (rdV_lt x hk ik e l))

theorem computes_typed2 {t : IT} {f g : Nat → Nat → Nat} (ho : typed2 uni t d a b f = some o)
    (hfg : ∀ p q, p < 2 ^ IT.w t → q < 2 ^ IT.w t → g p q = f p q)
    (he : ∀ s, exec i s = issue i s fun x => (if uni then u2 else v2) x t.k t.k (ITimm t) d a b g) : o.Computes i :=
  computes_calc2 ho (k_cases t) (k_cases t) (by rwa [← IT.w_kOf]) he
theorem computes_bits1 {w : Bool} {f : BitVec (wOf w) → BitVec (wOf w)} {g : Nat → Nat} (ho : bits1 uni w ik d a f = some o)
    (hfg : ∀ p, p < 2 ^ wOf w → g p = bvN (wOf w) f p)
    (he : ∀ s, exec i s = issue i s fun x => (if uni then u1 else v1) x (kOf w) (kOf w) ik d a g) : o.Computes i :=
  computes_calc1 ho (kOf_cases w) (by rwa [← wOf_kOf]) he
theorem computes_bits2 {w : Bool} {f : BitVec (wOf w) → BitVec (wOf w) → BitVec (wOf w)} {g : Nat → Nat → Nat} (ho : bits2 uni w d a b f = some o)
    (hfg : ∀ p q, p < 2 ^ wOf w → q < 2 ^ wOf w → g p q = bvN2 (wOf w) f p q)
    (he : ∀ s, exec i s = issue i s fun x => (if uni then u2 else v2) x (kOf w) (kOf w) .zx d a b g) : o.Computes i :=
  computes_calc2 ho (kOf_cases w) (kOf_cases w) (by rwa [← wOf_kOf]) he
/-- The count of a shift is any number. -/
theorem computes_shift2 {w : Bool} {f : BitVec (wOf w) → Nat → BitVec (wOf w)} {g : Nat → Nat → Nat} (ho : shift2 uni w d a b f = some o)
    (hfg : ∀ p n, p < 2 ^ wOf w → g p n = (f (BitVec.ofNat (wOf w) p) n).toNat)
    (he : ∀ s, exec i s = issue i s fun x => (if uni then u2 else v2) x (kOf w) 1 .zx d a b g) : o.Computes i :=
  computes_calc2 ho (kOf_cases w) (.inl rfl) (fun p n hp _ => hfg p n (by rwa [wOf_kOf])) he
end

/-! ### Arithmetic (R122-R124, R126, R127) -/

theorem arithCalc_computes {i : Instr} {o : Calc} (ho : arithCalc i = some o) : o.Computes i := by
  cases i
  case addV t sat _ _ _ | addS t sat _ _ _ => exact computes_typed2 ho (fun _ _ hp hq => iAdd_eq t sat hp hq) fun _ => rfl
  case subV t sat _ _ _ | subS t sat _ _ _ => exact computes_typed2 ho (fun _ _ hp hq => iSub_eq t sat hp hq) fun _ => rfl
  case mulV t hi _ _ _ | mulS t hi _ _ _ => exact computes_typed2 ho (fun _ _ hp hq => iMul_eq t hi hp hq) fun _ => rfl
  case madV t _ _ _ _ | madS t _ _ _ _ =>
    refine computes_calc3 ho (k_cases t) ?_ fun _ => rfl
    rw [← IT.w_kOf]
    exact fun _ _ _ hp hq hr => iMad_eq t hp hq hr
  case divV t _ _ _ | divS t _ _ _ => exact computes_typed2 ho (fun _ _ hp hq => iDiv_eq t hp hq) fun _ => rfl
  case remV t _ _ _ | remS t _ _ _ => exact computes_typed2 ho (fun _ _ hp hq => iRem_eq t hp hq) fun _ => rfl
  case minV t _ _ _ | minS t _ _ _ => exact computes_typed2 ho (fun _ _ hp hq => iMin_eq t hp hq) fun _ => rfl
  case maxV t _ _ _ | maxS t _ _ _ => exact computes_typed2 ho (fun _ _ hp hq => iMax_eq t hp hq) fun _ => rfl
  case absV | absS => exact computes_bits1 ho (fun _ hp => iAbs_eq hp) fun _ => rfl
  case negV | negS => exact computes_bits1 ho (fun _ hp => iNeg_eq hp) fun _ => rfl
  all_goals cases ho

/-! ### Bits, bytes and moves (R128-R133, R136, R172) -/

theorem bitsCalc_computes {i : Instr} {o : Calc} (ho : bitsCalc i = some o) : o.Computes i := by
  cases i
  case andV | andS => exact computes_bits2 ho (fun _ _ hp hq => bAnd_eq hp hq) fun _ => rfl
  case orV | orS => exact computes_bits2 ho (fun _ _ hp hq => bOr_eq hp hq) fun _ => rfl
  case xorV | xorS => exact computes_bits2 ho (fun _ _ hp hq => bXor_eq hp hq) fun _ => rfl
  case andnV | andnS => exact computes_bits2 ho (fun _ _ hp hq => bAndn_eq hp hq) fun _ => rfl
  case ornV | ornS => exact computes_bits2 ho (fun _ _ hp hq => bOrn_eq hp hq) fun _ => rfl
  case xnorV | xnorS => exact computes_bits2 ho (fun _ _ hp hq => bXnor_eq hp hq) fun _ => rfl
  case notV | notS => exact computes_bits1 ho (fun _ hp => not_eq hp) fun _ => rfl
  case movV | movS => exact computes_bits1 ho (fun _ hp => id_eq_bv hp) fun _ => rfl
  case shlV | shlS => exact computes_shift2 ho (fun _ _ hp => shlN_eq hp) fun _ => rfl
  case shrV | shrS => exact computes_shift2 ho (fun _ _ hp => shrN_eq hp) fun _ => rfl
  case sarV | sarS => exact computes_shift2 ho (fun _ _ hp => sarN_eq hp) fun _ => rfl
  case shfV right clamp _ _ _ _ | shfS right clamp _ _ _ _ =>
    exact computes_calc3 ho (.inl rfl) (fun _ _ _ ha hb _ => shfN_eq right clamp ha hb) fun _ => rfl
  case bfeV sg _ _ _ _ | bfeS sg _ _ _ _ => exact computes_calc3 ho (.inl rfl) (fun _ _ _ ha _ _ => bfeN_eq sg ha) fun _ => rfl
  case bfiV | bfiS => exact computes_calc3 ho (.inl rfl) (fun _ _ _ _ hb _ => bfiN_eq hb) fun _ => rfl
  case brevV | brevS => exact computes_calc1 ho (.inl rfl) (fun _ hp => revBits_eq hp) fun _ => rfl
  case bgatV | bgatS => exact computes_calc3 ho (.inl rfl) (fun _ _ _ ha hb _ => bgatN_eq ha hb) fun _ => rfl
  case popcV w _ _ | popcS w _ _ => exact computes_calc1 ho (kOf_cases w) (fun p _ => popcN_eq _ p) fun _ => rfl
  case clzV w _ _ | clzS w _ _ => exact computes_calc1 ho (kOf_cases w) (fun p _ => clzN_eq _ p) fun _ => rfl
  case ctzV w _ _ | ctzS w _ _ => exact computes_calc1 ho (kOf_cases w) (fun p _ => ctzN_eq _ p) fun _ => rfl
  case cvtNarrow sat un t _ _ => exact computes_calc1 ho (.inl rfl) (fun _ hp => narrowInt_eq sat un t hp) fun _ => rfl
  all_goals cases ho

end Sys2Proof.Machine
/-- Settles O17: of sums, products, quotients and extremes, each function of the model is the rules' on what its operands can hold. -/
theorem integerArithmetic : Obligations.IntegerArithmetic := fun _ _ _ _ ho h => (arithCalc_computes ho).did h
/-- Settles O18: the same of bits, bytes and moves. -/
theorem integerBits : Obligations.IntegerBits := fun _ _ _ _ ho h => (bitsCalc_computes ho).did h

end

section
/-! ## Float compares (O23) -/

open Sys2Proof Sys2Proof.Machine

namespace Sys2Proof.Machine

/-- A table of the lanes of a mask holds one entry for each of them. -/
theorem any_laneList_at (m : Mask) {α : Type} (f : Nat → α) (c : α → Bool) (l : Nat) :
    (((laneList m).map fun k => (k, f k)).any fun p => p.1 == l && c p.2) = (m.getLsbD l && c (f l)) := by
  rw [Bool.eq_iff_iff, List.any_map, List.any_eq_true, Bool.and_eq_true]
  simp only [Function.comp_apply, Bool.and_eq_true, beq_iff_eq, mem_laneList]
  constructor
  · rintro ⟨k, hk, rfl, hc⟩
    exact ⟨hk, hc⟩
  · exact fun ⟨hl, hc⟩ => ⟨l, hl, rfl, hc⟩
/-- A write of a predicate reads its values in the lanes of its mask alone. -/
theorem setP_congr (g : Group) (n : Nat) {m : Mask} {f f' : Nat → Bool} (h : ∀ l, m.getLsbD l = true → f l = f' l) : g.setP n m f = g.setP n m f' := by
  have hl : ∀ l, (m.getLsbD l && f l) = (m.getLsbD l && f' l) := fun l => by
    cases hm : m.getLsbD l
    · rfl
    · rw [h l hm]
  simp only [Group.setP, hl]
theorem putCmp_congr (g : Group) {m : Mask} (cmb : Cmb) (pd pc : Nat) {r r' : Nat → Bool} (h : ∀ l, m.getLsbD l = true → r l = r' l) :
    putCmp g m cmb pd pc r = putCmp g m cmb pd pc r' := by
  unfold putCmp
  simp only
  rw [setP_congr g pd fun l hl => by rw [h l hl], setP_congr _ pc fun l hl => by rw [h l hl]]
theorem putCmp_rest (g : Group) (m : Mask) (cmb : Cmb) (pd pc : Nat) (r : Nat → Bool) : (putCmp g m cmb pd pc r).rest = g.rest :=
  (setP_rest ..).trans (setP_rest ..)
theorem wrote_putCmp {i : Instr} {s : State} {x : Ctx} (h : Due i s x) (cmb : Cmb) (pd pc : Nat) (r : Nat → Bool) :
    Wrote x (cmpEff x cmb pd pc r) (putCmp x.g x.e cmb pd pc r) :=
  ((Wrote.none h).setP pd _).setP pc _

/-- What a compare leaves, written out: the lanes that trap write neither predicate, the exceptions of every lane stand in FP_STATUS (R148). -/
theorem resCmpF_eq (x : Ctx) (o : FComp) : resCmpF x o.cmb o.pd o.pc o.f =
    { s := x.withGroup ((putCmp x.g (x.e &&& ~~~o.bad x) o.cmb o.pd o.pc fun l => (o.f l).1).raiseFp (o.fp x)),
      flts := [{ cls := .fpTrap, lanes := o.bad x }] } := by
  simp only [resCmpF, any_laneList_at x.e o.f fun y => y.1, any_laneList_at x.e o.f fun y => trapped x y.2, List.foldl_map]
  rw [putCmp_congr x.g o.cmb o.pd o.pc (r' := fun l => (o.f l).1) fun l hl => ?_]
  · rfl
  · rw [BitVec.getLsbD_and, Bool.and_eq_true] at hl
    rw [hl.1, Bool.true_and]
theorem resCmpF_did {i : Instr} {s : State} {x : Ctx} (h : Due i s x) {o : FComp} (hb : o.bad x = 0#32) :
    ∃ y, Did x { cmpEff x o.cmb o.pd o.pc (fun l => (o.f l).1) with fp := o.fp x } (finish x (resCmpF x o.cmb o.pd o.pc o.f)) y := by
  rw [resCmpF_eq, hb, BitVec.not_zero, BitVec.and_allOnes]
  refine finish_did h ((wrote_putCmp h ..).raiseFp rfl _) (putCmp_rest ..) _ (.inl rfl) (fun f hf => ?_) rfl rfl rfl
  rw [List.mem_singleton.mp hf]
/-- The compares end in one operation on what they find in each lane (R154, R162). -/
theorem exec_cmpF {i : Instr} {q : Bool × FT × FCond × Cmb × Nat × Nat × Src × Src} (h : cmpF i = some q) :
    ∃ F : Ctx → Res, (∀ s, exec i s = issue i s F) ∧ ∀ x, F x = resCmpF x (compOf x q).cmb (compOf x q).pd (compOf x q).pc (compOf x q).f := by
  cases i
  case cmpVF | cmpVF16 | cmpSF =>
    cases h
    exact ⟨_, fun _ => rfl, fun _ => rfl⟩
  all_goals cases h

end Sys2Proof.Machine
/-- Settles O23: with no lane in the trap, the compare's mask is the effective mask. -/
theorem floatCompare : Obligations.FloatCompare := by
  intro i s x q hq h hb
  obtain ⟨F, he, hF⟩ := exec_cmpF hq
  obtain ⟨t, y, ht, hd⟩ := next_did h F (by rw [hF]; exact resCmpF_did h.toDue hb)
  exact ⟨t, y, (he s).trans ht, hd.sameMem h.toDue, hd⟩

end

section
/-! ## Float results: one rounding in each lane, with its exceptions (O22, O24, O25, O26) -/

open Sys2Proof Sys2Proof.Machine

namespace Sys2Proof.Machine

/-- The effect that writes a float result, in the state or lane by lane. -/
def FCalc.res (o : FCalc) (x : Ctx) : Res := if o.uni then resFU x o.k o.d (o.f 0) else resF x o.k o.d o.f
/-- The instruction's own effect on the path is the result's. -/
def FCalc.Computes (o : FCalc) (i : Instr) (x : Ctx) : Prop := ∃ F : Ctx → Res, (∀ s, exec i s = issue i s F) ∧ F x = o.res x

/-! ### The write of the lanes that do not trap (R148) -/

theorem of_maskOf_and {m : Mask} {f : Nat → Bool} {l : Nat} (h : (maskOf fun k => m.getLsbD k && f k).getLsbD l = true) : m.getLsbD l = true := by
  rw [getLsbD_maskOf] at h
  simp only [Bool.and_eq_true] at h
  exact h.2.1
theorem laneList_and_not (m b : Mask) : laneList (m &&& ~~~b) = (laneList m).filter fun l => !b.getLsbD l := by
  rw [laneList, laneList, List.filter_filter]
  refine List.filter_congr fun l hl => ?_
  rw [BitVec.getLsbD_and, BitVec.getLsbD_not, decide_eq_true (List.mem_range.mp hl), Bool.true_and, Bool.and_comm]
/-- A write that passes some lanes by is a write under a smaller mask. -/
theorem foldl_unless_eq_putLanes (g : Group) (m b : Mask) (k : Nat) (d : Dst) (f : Nat → FRes) {c : FRes → Bool}
    (hb : ∀ l, m.getLsbD l = true → b.getLsbD l = c (f l)) :
    ((laneList m).map fun l => (l, f l)).foldl (fun g p => if c p.2 then g else putV g k d p.1 p.2.v) g = putLanes g (m &&& ~~~b) k d fun l => (f l).v := by
  have hls : ∀ l ∈ laneList m, b.getLsbD l = c (f l) := fun l hl => hb l (mem_laneList.mp hl)
  rw [putLanes, forLanes, laneList_and_not, List.foldl_filter, List.foldl_map]
  generalize laneList m = ls at hls
  induction ls generalizing g with
  | nil => rfl
  | cons l ls ih =>
    rw [List.foldl_cons, List.foldl_cons, ih _ fun k hk => hls k (List.mem_cons_of_mem l hk), hls l (List.mem_cons_self ..)]
    cases c (f l) with
    | true => rfl
    | false => rfl
theorem putV_with (g : Group) (k : Nat) (d : Dst) (l val : Nat) : ∃ vs, putV g k d l val = { g with v := vs } := by
  cases d with
  | discard => exact ⟨g.v, rfl⟩
  | reg n =>
    unfold putV
    simp only
    split
    · exact ⟨_, rfl⟩
    · exact ⟨_, rfl⟩
/-- A write of varying registers touches no other part of the group. -/
theorem putLanes_with (g : Group) (m : Mask) (k : Nat) (d : Dst) (f : Nat → Nat) : ∃ vs, putLanes g m k d f = { g with v := vs } := by
  unfold putLanes forLanes
  generalize laneList m = ls
  induction ls generalizing g with
  | nil => exact ⟨g.v, rfl⟩
  | cons l ls ih =>
    obtain ⟨us, hus⟩ := putV_with g k d l (f l)
    obtain ⟨vs, hvs⟩ := ih { g with v := us }
    exact ⟨vs, (congrArg (List.foldl _ · ls) hus).trans hvs⟩

theorem FCalc.bad_uni {o : FCalc} (hu : o.uni = true) (x : Ctx) : o.bad x = if trapped x (o.f 0).x then x.e else 0#32 := if_pos hu
theorem FCalc.getLsbD_bad {o : FCalc} (hu : o.uni = false) (x : Ctx) {l : Nat} (hl : l < 32) :
    (o.bad x).getLsbD l = (x.e.getLsbD l && trapped x (o.f l).x) := by
  rw [FCalc.bad, hu, if_neg Bool.false_ne_true, getLsbD_maskOf, decide_eq_true hl, Bool.true_and]
theorem FCalc.bad_sub (o : FCalc) (x : Ctx) {l : Nat} (hl : (o.bad x).getLsbD l = true) : x.e.getLsbD l = true := by
  unfold FCalc.bad at hl
  split at hl
  · split at hl
    · exact hl
    · simp at hl
  · exact of_maskOf_and hl
/-- With no exception raised enabled, no lane traps. -/
theorem FCalc.bad_of_quiet {o : FCalc} {x : Ctx} (h : o.quiet x) : o.bad x = 0#32 := by
  unfold FCalc.quiet at h
  cases hu : o.uni with
  | true =>
    rw [hu, if_pos rfl] at h
    rw [FCalc.bad_uni hu, h, if_neg Bool.false_ne_true]
  | false =>
    rw [hu, if_neg Bool.false_ne_true] at h
    refine mask_zero_iff.mpr fun l hl => ?_
    rw [FCalc.getLsbD_bad hu x hl]
    cases he : x.e.getLsbD l with
    | false => rfl
    | true => rw [h l he]; rfl

/-- A varying result, written out: the lanes that trap write nothing, the exceptions of every lane stand in FP_STATUS (R148). -/
theorem FCalc.res_varying {o : FCalc} (hu : o.uni = false) (x : Ctx) : o.res x =
    { s := x.withGroup ((putLanes x.g (x.e &&& ~~~o.bad x) o.k o.d fun l => (o.f l).v).raiseFp (o.eff x).fp),
      flts := [{ cls := .fpTrap, lanes := o.bad x }] } := by
  have hbad : (maskOf fun l => ((laneList x.e).map fun l => (l, o.f l)).any fun p => p.1 == l && trapped x p.2.x) = o.bad x := by
    rw [FCalc.bad, hu, if_neg Bool.false_ne_true]
    simp only [any_laneList_at x.e o.f fun y => trapped x y.x]
  have hput := foldl_unless_eq_putLanes x.g x.e (o.bad x) o.k o.d o.f (c := fun y => trapped x y.x) fun l hl => by
    rw [FCalc.getLsbD_bad hu x (laneList_lt l (mem_laneList.mpr hl)), hl, Bool.true_and]
  simp only [FCalc.res, FCalc.eff, hu, Bool.false_eq_true, if_false, resF, resLanes, hbad, hput]
theorem FCalc.res_uni_trapped {o : FCalc} {x : Ctx} (hu : o.uni = true) (ht : trapped x (o.f 0).x = true) :
    o.res x = { s := x.withGroup (x.g.raiseFp (o.f 0).x), flts := [{ cls := .fpTrap, lanes := x.e }] } := by
  simp only [FCalc.res, hu, if_true, resFU, ht]
theorem FCalc.res_uni_quiet {o : FCalc} {x : Ctx} (hu : o.uni = true) (ht : trapped x (o.f 0).x = false) :
    o.res x = { s := x.withGroup ((x.g.setRec x.cur.rc (putS x.st o.k o.d (o.f 0).v)).raiseFp (o.f 0).x) } := by
  simp only [FCalc.res, hu, if_true, resFU, ht, Bool.false_eq_true, if_false]
  rfl

/-! ### With no enabled exception -/

theorem FCalc.res_did {i : Instr} {s : State} {x : Ctx} (h : Due i s x) {o : FCalc} (hq : o.quiet x) : ∃ y, Did x (o.eff x) (finish x (o.res x)) y := by
  cases hu : o.uni with
  | true =>
    have ht : trapped x (o.f 0).x = false := by simpa only [FCalc.quiet, hu, if_true] using hq
    rw [FCalc.res_uni_quiet hu ht, FCalc.eff, hu, if_pos rfl]
    exact finish_did h (((Wrote.none h).putS rfl rfl rfl rfl o.k o.d _).raiseFp rfl _) rfl _ (.inl rfl) (fun _ hf => nomatch hf) rfl rfl rfl
  | false =>
    rw [FCalc.res_varying hu, FCalc.bad_of_quiet hq, BitVec.not_zero, BitVec.and_allOnes, FCalc.eff, hu, if_neg Bool.false_ne_true]
    refine finish_did h (((Wrote.none h).putLanes rfl o.k o.d _).raiseFp rfl _) (putLanes_same ..).2.2.2.2.2 _ (.inl rfl) (fun f hf => ?_) rfl rfl rfl
    rw [List.mem_singleton.mp hf]
theorem FCalc.Computes.did {o : FCalc} {i : Instr} {s : State} {x : Ctx} (hc : o.Computes i x) (h : Issues i s x) (hq : o.quiet x) :
    ∃ t y, exec i s = .next t ∧ Did x (o.eff x) t y ∧ State.sameMem s t := by
  obtain ⟨F, he, hF⟩ := hc
  obtain ⟨t, y, ht, hd⟩ := next_did h F (by rw [hF]; exact FCalc.res_did h.toDue hq)
  exact ⟨t, y, (he s).trans ht, hd, hd.sameMem h.toDue⟩

/-! ### The instructions -/

/-- Arithmetic, rounding and the functions (R150, R151, R157-R162). -/
theorem arithF_computes {i : Instr} {x : Ctx} {o : FCalc} (ho : arithF x i = some o) : o.Computes i x := by
  cases i
  case addVF | addSF | subVF | subSF | mulVF | mulSF | fmaV | fmaS | divVF | divSF | rcpV | rcpS | sqrtV | sqrtS | rndV | ex2 | lg2 | sinpi | cospi |
      dotV =>
    cases ho
    exact ⟨_, fun _ => rfl, rfl⟩
  all_goals cases ho
/-- Minimum, maximum and the sign bit (R152, R153, R162). -/
theorem signF_computes {i : Instr} {x : Ctx} {o : FCalc} (ho : signF x i = some o) : o.Computes i x := by
  cases i
  case minVF | minSF | maxVF | maxSF | minnumV | minnumS | maxnumV | maxnumS | absVF | absSF | negVF | negSF | copysignV | copysignS =>
    cases ho
    exact ⟨_, fun _ => rfl, rfl⟩
  all_goals cases ho
/-- Conversions, reductions and scans (R167-R169, R192, R193): an integer source is read as its type says. -/
theorem convF_computes {i : Instr} {x : Ctx} {o : FCalc} (ho : convF x i = some o) : o.Computes i x := by
  cases i
  case cvtFloatFloat | cvtFloatInt | reduceFloat | scanFloat =>
    cases ho
    exact ⟨_, fun _ => rfl, rfl⟩
  case cvtIntFloat c dt st r d a =>
    cases ho
    refine ⟨_, fun _ => rfl, congrArg (resF x dt.k d) (funext fun l => ?_)⟩
    rw [val_eq st (rdV_typed_lt x st a l)]
  all_goals cases ho

end Sys2Proof.Machine
/-- Settles O22: each instruction's effect is its result, and with no exception enabled no lane is left out of the write. -/
theorem floatArithmetic : Obligations.FloatArithmetic :=
  fun _ _ _ _ ho hq h => (ho.elim arithF_computes signF_computes).did h hq
/-- Settles O24: the same of conversions, reductions and scans. -/
theorem floatConversion : Obligations.FloatConversion := fun _ _ _ _ ho hq h => (convF_computes ho).did h hq

end

section
/-! ## Packed words (O25) -/

open Sys2Proof Sys2Proof.Machine

namespace Sys2Proof.Machine

theorem withFmt_valid {x : Ctx} {fm : BitVec 2} {f : Fmt} (h : fmtOfWord (x.st.getFmt fm.toNat) = some f) (F : Fmt → Res) : withFmt x fm F = F f := by
  rw [withFmt, h]
/-- Packed arithmetic, insertion and extraction end in one result under the format that is there (R163-R166, R170, R171). -/
theorem packF_computes {i : Instr} {x : Ctx} {fm : BitVec 2} {f : Fmt} {o : FCalc} (hfm : fmtNo i = some fm)
    (hf : fmtOfWord (x.st.getFmt fm.toNat) = some f) (ho : packF x f i = some o) : o.Computes i x := by
  cases i
  case addVQ | subVQ | mulVQ | fmaVQ | minVQ | maxVQ | dotVQ | absVQ | negVQ =>
    cases hfm
    cases ho
    exact ⟨_, fun _ => rfl, withFmt_valid hf _⟩
  case cvtQFloat c st _ idx d a e | cvtFloatQ c dt _ idx d a =>
    cases hfm
    obtain ⟨hlt, heq⟩ := Option.ite_none_right_eq_some.mp ho
    cases heq
    exact ⟨_, fun _ => rfl, (withFmt_valid hf _).trans (if_neg (Nat.not_le.mpr hlt))⟩
  all_goals cases ho
/-- An element that the format does not have (R170, R171). -/
theorem elemNo_faults {i : Instr} {x : Ctx} {fm : BitVec 2} {f : Fmt} {n : Nat} (hfm : fmtNo i = some fm)
    (hf : fmtOfWord (x.st.getFmt fm.toNat) = some f) (hn : elemNo i = some n) (hle : f.count ≤ n) :
    ∃ F : Ctx → Res, (∀ s, exec i s = issue i s F) ∧ F x = resFault x .illegalOp := by
  cases i
  case cvtQFloat | cvtFloatQ =>
    cases hfm
    cases hn
    exact ⟨_, fun _ => rfl, (withFmt_valid hf _).trans (if_pos hle)⟩
  all_goals cases hn

end Sys2Proof.Machine
/-- Settles O25: under a valid format, the named element is one of the word's or it is none. -/
theorem packedNarrow : Obligations.PackedNarrow := by
  intro i s x fm f hfm hf h
  refine ⟨fun o ho hq => (packF_computes hfm hf ho).did h hq, fun n hn hle => ?_⟩
  obtain ⟨F, he, hF⟩ := elemNo_faults hfm hf hn hle
  exact faultsIn_of_resFault h (he s) hF

end

section
/-! ## Lanes with an enabled exception (O26) -/

open Sys2Proof Sys2Proof.Machine

namespace Sys2Proof.Machine

/-! ### Parking some lanes of a path whose registers have been written (R77, R148) -/

/-- The path once its group stands as `g`, as an instruction without a guard finds it there: the lemmas on parking speak of a path that is due, and
the guard of this one may read a predicate that has just been written. -/
def Ctx.written (x : Ctx) (g : Group) : Ctx :=
  { x with s := x.withGroup g, tm := x.tm.setGroup x.cur.grp g, g, c := { x.c with gp := 15#4, gn := false }, e := x.cur.m }
theorem Due.written {i : Instr} {s : State} {x : Ctx} (h : Due i s x) {g : Group} (hl : g.lanes = x.g.lanes) (hr : g.recs = x.g.recs) :
    Due (.nop (x.written g).c) (x.withGroup g) (x.written g) where
  ctx := by
    have hc : (x.withGroup g).cur = some x.cur := h.cursor
    have ht : (x.withGroup g).team? x.cur.team = some (x.tm.setGroup x.cur.grp g) := find?_setTeam ..
    have hg : (x.tm.setGroup x.cur.grp g).group? x.cur.grp = some g := find?_setGroup ..
    have hs : g.recs.find? x.cur.rc = some x.st := hr ▸ h.record
    show ctxOf (x.withGroup g) (x.written g).c = _
    simp only [ctxOf, hc, ht, hg, hs, Option.bind_eq_bind, Option.bind_some]
    rfl
  path l hlt hm := by
    have hlane : g.lane l = x.g.lane l := lane_of_lanes hl l
    have hruns : g.runs l = x.g.runs l := by simp only [Group.runs, hlane, hr]
    show g.runs l = true ∧ (g.lane l).rc = x.cur.rc ∧ (g.lane l).pc = x.cur.pc ∧ (g.lane l).off = x.cur.pos ∧ (g.lane l).hdr = some x.cur.hdr
    rw [hruns, hlane]
    exact h.path l hlt hm
/-- Where all lanes go on to the next instruction, what ends it does not ask for the effective mask. -/
theorem finish_written (x : Ctx) (g : Group) (s : State) (fs : List Flt) : finish (x.written g) { s, flts := fs } = finish x { s, flts := fs } := by
  simp only [finish, ite_self]
  rfl
theorem report_written (x : Ctx) (g : Group) (f : Flt) :
    (x.written g).report f (x.withGroup g) = (x.report f x.s).setTeam x.cur.team (x.tm.setGroup x.cur.grp g) := by
  unfold Ctx.report
  show (if x.holds f = true then _ else _) = _
  split
  · rfl
  · rfl
theorem report_teams (x : Ctx) (f : Flt) (s : State) : (x.report f s).teams = s.teams := by
  unfold Ctx.report
  split
  · rfl
  · rfl
/-- An instruction writes registers and exceptions of its group, and lanes of its path fault: they park, and what was written stands. -/
theorem finish_parks_written {i : Instr} {s : State} {x : Ctx} (h : Due i s x) (vs : SMap Word) (ps : SMap Mask) (e : FpExc) {f : Flt}
    (hsub : ∀ l, f.lanes.getLsbD l = true → x.cur.m.getLsbD l = true) (h0 : f.lanes ≠ 0#32) :
    ∃ y, Parks (x.from { x.g with v := vs, preds := ps, fpStatus := x.g.fpStatus ||| e.setWidth 32 }) f x.s
      (finish x { s := x.withGroup (({ x.g with v := vs, preds := ps } : Group).raiseFp e), flts := [f] }) y := by
  let g : Group := ({ x.g with v := vs, preds := ps } : Group).raiseFp e
  have hd : Due (.nop (x.written g).c) (x.withGroup g) (x.written g) := h.written rfl rfl
  obtain ⟨y, hp⟩ := finish_parks hd { s := x.withGroup g, flts := [f] } f (x.written g).tm hd.team rfl ⟨rfl, rfl, rfl, rfl, rfl⟩ rfl hsub h0 rfl rfl
  rw [finish_written] at hp
  have hout : ((x.written g).report f (x.withGroup g)).rest x.cur.team x.cur.grp = (x.report f x.s).rest x.cur.team x.cur.grp := by
    rw [report_written]
    exact rest_put _ _ _ x.tm.lastTick x.tm g (by rw [report_teams]; exact h.team)
  exact ⟨y, {
    group := hp.group
    outside := hp.outside.trans hout
    shared := hp.shared
    regs := hp.regs
    lane := hp.lane
    one := hp.one
    copy := hp.copy
    onward := hp.onward
    others := hp.others }⟩

/-! ### Results -/

/-- What a result with an enabled exception leaves: the writes of the other lanes, and its trap. -/
theorem FCalc.res_trapped {o : FCalc} {x : Ctx} (hb : o.bad x ≠ 0#32) : ∃ vs, o.writes x vs ∧
    o.res x = { s := x.withGroup (({ x.g with v := vs } : Group).raiseFp (o.eff x).fp),
                flts := [{ cls := .fpTrap, lanes := o.bad x }] } := by
  cases hu : o.uni with
  | true =>
    rw [FCalc.bad_uni hu] at hb
    have ht : trapped x (o.f 0).x = true := Decidable.byContradiction fun ht => hb (if_neg ht)
    refine ⟨x.g.v, fun n l _ => ?_, ?_⟩
    · simp only [FCalc.eff, hu, if_true, Eff.vAfter, ite_self]
    · rw [FCalc.res_uni_trapped hu ht, FCalc.bad_uni hu, if_pos ht, FCalc.eff, hu, if_pos rfl]
  | false =>
    obtain ⟨vs, hvs⟩ := putLanes_with x.g (x.e &&& ~~~o.bad x) o.k o.d fun l => (o.f l).v
    refine ⟨vs, fun n l hl => ?_, ?_⟩
    · rw [← hvs, getV_putLanes _ _ _ _ _ hl, BitVec.getLsbD_and, BitVec.getLsbD_not, decide_eq_true hl, Bool.true_and]
      simp only [FCalc.eff, hu, Bool.false_eq_true, if_false, Eff.vAfter]
      cases (o.bad x).getLsbD l <;> cases x.e.getLsbD l <;> rfl
    · rw [FCalc.res_varying hu, hvs]
theorem FCalc.Computes.traps {o : FCalc} {i : Instr} {s : State} {x : Ctx} (hc : o.Computes i x) (h : Issues i s x) (hb : o.bad x ≠ 0#32) :
    o.Traps i s x := by
  obtain ⟨F, he, hF⟩ := hc
  obtain ⟨vs, hw, hres⟩ := FCalc.res_trapped hb
  obtain ⟨y, hy⟩ := finish_parks_written h.toDue vs x.g.preds (o.eff x).fp (f := { cls := .fpTrap, lanes := o.bad x })
    (fun l hl => effMask_sub (h.mask ▸ o.bad_sub x hl)) hb
  exact ⟨_, y, vs, by rw [he, issue_next h, hF, hres], hw, hy⟩

/-! ### Compares (R154) -/

theorem setP_with (g : Group) (n : Nat) (m : Mask) (f : Nat → Bool) : ∃ ps, g.setP n m f = { g with preds := ps } := by
  unfold Group.setP
  split
  · exact ⟨g.preds, rfl⟩
  · exact ⟨_, rfl⟩
theorem putCmp_with (g : Group) (m : Mask) (cmb : Cmb) (pd pc : Nat) (r : Nat → Bool) : ∃ ps, putCmp g m cmb pd pc r = { g with preds := ps } := by
  obtain ⟨ps, hps⟩ := setP_with g pd m fun l => (combine cmb (g.getP pd l) (g.getP pc l) (r l)).1
  obtain ⟨qs, hqs⟩ := setP_with { g with preds := ps } pc m fun l => (combine cmb (g.getP pd l) (g.getP pc l) (r l)).2
  exact ⟨qs, by rw [putCmp, hps, hqs]⟩
theorem getP_putCmp (x : Ctx) (m : Mask) (cmb : Cmb) (pd pc : Nat) (r : Nat → Bool) (n : Nat) {l : Nat} (hl : l < 32) :
    (putCmp x.g m cmb pd pc r).getP n l = (cmpEff x cmb pd pc r).pAfter m n l (x.g.getP n l) := by
  unfold putCmp
  simp only
  rw [getP_setP _ _ _ _ _ hl, getP_setP _ _ _ _ _ hl]
  rfl
theorem cmpF_traps {i : Instr} {s : State} {x : Ctx} {q : Bool × FT × FCond × Cmb × Nat × Nat × Src × Src} (hq : cmpF i = some q) (h : Issues i s x)
    (hb : (compOf x q).bad x ≠ 0#32) : (compOf x q).Traps i s x := by
  obtain ⟨F, he, hF⟩ := exec_cmpF hq
  replace hF := hF x
  generalize compOf x q = o at hb hF ⊢
  obtain ⟨ps, hps⟩ := putCmp_with x.g (x.e &&& ~~~o.bad x) o.cmb o.pd o.pc fun l => (o.f l).1
  obtain ⟨y, hy⟩ := finish_parks_written h.toDue x.g.v ps (o.fp x) (f := { cls := .fpTrap, lanes := o.bad x })
    (fun l hl => effMask_sub (h.mask ▸ of_maskOf_and hl)) hb
  refine ⟨_, y, ps, ?_, fun n l hl => ?_, hy⟩
  · rw [he, issue_next h, hF, resCmpF_eq, hps]
  · rw [← hps]
    exact getP_putCmp x _ _ _ _ _ n hl

end Sys2Proof.Machine
/-- Settles O26: the write passes over the lanes that trap, and these park from the group as it was written. -/
theorem enabledExceptionsTrap : Obligations.EnabledExceptionsTrap := by
  refine ⟨fun i s x o ho h hb => ?_, fun i s x fm f o hfm hf ho h hb => (packF_computes hfm hf ho).traps h hb, fun i s x q hq h hb => cmpF_traps hq h hb⟩
  rcases ho with ho | ho | ho
  · exact (arithF_computes ho).traps h hb
  · exact (signF_computes ho).traps h hb
  · exact (convF_computes ho).traps h hb

end

section
/-! ## Cross-lane results (O21) -/

open Sys2Proof Sys2Proof.Machine

namespace Sys2Proof.Machine

/-- The lane that `crossEff` has a lane `l` of `shfl` read, for the selector `n`: the one named, if it takes part; else `l` itself (R189). -/
def shflPick (e : Mask) (md : ShflMode) (l n : Nat) : Nat :=
  let k : Int := match md with
    | .idx => (n : Int) % 32
    | .up => l - (n : Int)
    | .down => l + (n : Int)
    | .bfly => ((l ^^^ ((n : Int) % 32).toNat : Nat) : Int)
  if 0 ≤ k ∧ k ≤ 31 ∧ e.getLsbD k.toNat = true then k.toNat else l

/-- A lane that takes part is one of the group's 32. -/
theorem pick_natCast (e : Mask) (k l : Nat) :
    (if 0 ≤ (k : Int) ∧ (k : Int) ≤ 31 ∧ e.getLsbD (k : Int).toNat = true then (k : Int).toNat else l) = if e.getLsbD k then k else l := by
  have hpart : 0 ≤ (k : Int) ∧ (k : Int) ≤ 31 ∧ e.getLsbD k = true ↔ e.getLsbD k = true := by
    refine ⟨fun h => h.2.2, fun h => ⟨by omega, ?_, h⟩⟩
    have hlt := BitVec.lt_of_getLsbD h
    omega
  rw [Int.toNat_natCast]
  exact ite_congr (propext hpart) (fun _ => rfl) fun _ => rfl
theorem pick_beyond (e : Mask) {k : Int} (l : Nat) (h : k < 0 ∨ 31 < k) : (if 0 ≤ k ∧ k ≤ 31 ∧ e.getLsbD k.toNat = true then k.toNat else l) = l :=
  if_neg fun hk => by omega
/-- The model's choice of a lane is the rules'. -/
theorem shflLane_eq_pick (e : Mask) (md : ShflMode) (l n : Nat) :
    (match shflLane md l n with | some k => if e.getLsbD k then k else l | none => l) = shflPick e md l n := by
  cases md with
  | idx => exact (pick_natCast e (n % 32) l).symm
  | up =>
    unfold shflLane shflPick
    by_cases hle : n ≤ l
    · simp only [if_pos hle, ← Int.ofNat_sub hle, pick_natCast]
    · simp only [if_neg hle]
      exact (pick_beyond e l (.inl (by omega))).symm
  | down =>
    unfold shflLane shflPick
    by_cases hle : l + n ≤ 31
    · simp only [if_pos hle, ← Int.natCast_add, pick_natCast]
    · simp only [if_neg hle]
      exact (pick_beyond e l (.inr (by omega))).symm
  | bfly => exact (pick_natCast e (l ^^^ n % 32) l).symm

/-- What each of them does to its group. -/
theorem crossEff_did {i : Instr} {s : State} {x : Ctx} {E : Eff} (hE : crossEff x i = some E) (h : Issues i s x) :
    ∃ t y, exec i s = .next t ∧ Did x E t y := by
  cases i with
  | shfl c w md d a b =>
    cases hE
    refine next_resV h _ rfl fun l => ?_
    show _ = x.rdV (kOf w) .zx a (shflPick x.e md l (x.rdV 1 .zx b l))
    rw [← shflLane_eq_pick]
    cases shflLane md l (x.rdV 1 .zx b l) <;> rfl
  | reduceInt c op d a =>
    cases hE
    exact next_resU h _ rfl rfl
  | scanInt c excl op d a =>
    cases hE
    exact next_resV h _ rfl fun _ => rfl
  | matchLanes c ty d a =>
    cases hE
    refine next_resV h _ rfl fun l => congrArg BitVec.toNat (mask_ext fun k hk => ?_)
    rw [BitVec.getLsbD_and, getLsbD_maskOf, getLsbD_maskOf, decide_eq_true hk, Bool.true_and, Bool.true_and]
    rfl
  | _ => cases hE

end Sys2Proof.Machine
/-- Settles O21: each lane reads the lane, the lanes or the keys that `crossEff` names, and memory is no part of it. -/
theorem crossLane : Obligations.CrossLane := by
  intro i s x E hE h
  obtain ⟨t, y, ht, hd⟩ := crossEff_did hE h
  exact ⟨t, y, ht, hd, hd.sameMem h.toDue⟩

end

section
/-! ## trap and brk (O30) -/

open Sys2Proof Sys2Proof.Machine

namespace Sys2Proof.Machine

/-- An instruction whose own effect is one fault of its whole effective mask, beside a change of its team that leaves the groups. -/
theorem next_parks {i : Instr} {s : State} {x : Ctx} (h : Issues i s x) {F : Ctx → Res} {b : State} {f : Flt} (hF : F x = { s := b, flts := [f] })
    (hf : f.lanes = x.e) {T : Team} (hT : b.teams.find? x.cur.team = some T) (hg : T.groups = x.tm.groups)
    (hh : T.handler = x.tm.handler ∧ T.slice = x.tm.slice ∧ T.die = x.tm.die ∧ T.coreId = x.tm.coreId ∧ T.image = x.tm.image) :
    ∃ t y, issue i s F = .next t ∧ Parks x f b t y := by
  obtain ⟨y, hy⟩ := finish_parks h.toDue { s := b, flts := [f] } f T hT hg hh rfl (fun _ hl => effMask_sub (h.mask ▸ hf ▸ hl)) (hf ▸ h.lanes) rfl rfl
  exact ⟨_, y, by rw [issue_next h, hF], hy⟩

end Sys2Proof.Machine
/-- Settles O30: one fault of the effective mask; a claimed break marks the team beside it. -/
theorem trapAndBreak : Obligations.TrapAndBreak := by
  refine ⟨fun c code s x h => next_parks h rfl rfl h.team rfl ⟨rfl, rfl, rfl, rfl, rfl⟩, fun c code s x h => ?_⟩
  cases hc : x.tm.claimed with
  | true =>
    refine next_parks h (by simp only [hc]) rfl (T := { x.tm with stopped := true }) ?_ rfl ⟨rfl, rfl, rfl, rfl, rfl⟩
    exact find?_setTeam ..
  | false => exact next_parks h (by simp only [hc]) rfl h.team rfl ⟨rfl, rfl, rfl, rfl, rfl⟩

end

section
/-! ## Transfers, exits, yields, waits (O28) -/

open Sys2Proof Sys2Proof.Machine

namespace Sys2Proof.Machine

/-! ### Targets held in registers (R175, R176) -/

/-- The lanes whose target is no multiple of 4. -/
def Ctx.misaligned (x : Ctx) (f : Nat → Nat) : Mask := maskOf fun l => x.e.getLsbD l && f l % 4 != 0
/-- The lanes that transfer. -/
def Ctx.transfers (x : Ctx) (f : Nat → Nat) : Mask := maskOf fun l => x.e.getLsbD l && f l % 4 == 0

theorem misaligned_iff {x : Ctx} {f : Nat → Nat} {l : Nat} : (x.misaligned f).getLsbD l = true ↔ x.e.getLsbD l = true ∧ f l % 4 ≠ 0 := by
  rw [Ctx.misaligned, getLsbD_maskOf]
  simp only [Bool.and_eq_true, decide_eq_true_eq, bne_iff_ne]
  exact ⟨fun h => h.2, fun h => ⟨BitVec.lt_of_getLsbD h.1, h⟩⟩
theorem transfers_iff {x : Ctx} {f : Nat → Nat} {l : Nat} : (x.transfers f).getLsbD l = true ↔ x.e.getLsbD l = true ∧ f l % 4 = 0 := by
  rw [Ctx.transfers, getLsbD_maskOf]
  simp only [Bool.and_eq_true, decide_eq_true_eq, beq_iff_eq]
  exact ⟨fun h => h.2, fun h => ⟨BitVec.lt_of_getLsbD h.1, h⟩⟩
theorem misaligned_of_aligned {x : Ctx} {f : Nat → Nat} (h : ∀ l, x.e.getLsbD l = true → f l % 4 = 0) : x.misaligned f = 0#32 :=
  mask_zero_iff.mpr fun l _ => Bool.eq_false_iff.mpr fun hm => (misaligned_iff.mp hm).2 (h l (misaligned_iff.mp hm).1)
theorem transfers_of_aligned {x : Ctx} {f : Nat → Nat} (h : ∀ l, x.e.getLsbD l = true → f l % 4 = 0) : x.transfers f = x.e :=
  mask_ext fun l _ => Bool.eq_iff_iff.mpr (transfers_iff.trans ⟨fun ht => ht.1, fun he => ⟨he, h l he⟩⟩)
theorem misaligned_of_none {x : Ctx} {f : Nat → Nat} (h : ∀ l, l < 32 → x.e.getLsbD l = true → f l % 4 ≠ 0) : x.misaligned f = x.e :=
  mask_ext fun l hl => Bool.eq_iff_iff.mpr (misaligned_iff.trans ⟨fun hm => hm.1, fun he => ⟨he, h l hl he⟩⟩)
theorem transfers_of_none {x : Ctx} {f : Nat → Nat} (h : ∀ l, l < 32 → x.e.getLsbD l = true → f l % 4 ≠ 0) : x.transfers f = 0#32 :=
  mask_zero_iff.mpr fun l hl => Bool.eq_false_iff.mpr fun ht => h l hl (transfers_iff.mp ht).1 (transfers_iff.mp ht).2
theorem resTargets_eq (x : Ctx) (b : State) (f : Nat → Nat) :
    resTargets x b f = { s := b, flts := [{ cls := .memAlign, lanes := x.misaligned f }], nxt := fun l => .goto (BitVec.ofNat 64 (f l)) } := rfl

/-! ### How each instruction leaves its lanes -/

section
variable {i : Instr} {s : State} {x : Ctx} (h : Issues i s x)
include h

/-- An effect that writes its group alone and faults in no lane, while its lanes go where `E` says. -/
theorem next_wrote {E : Eff} {g' : Group} {F : Ctx → Res} (w : Wrote x E g') (hgr : g'.rest = x.g.rest) (hs : (F x).s = x.withGroup g' ∨ (F x).s = x.s ∧ g' = x.g)
    (hf : ∀ f ∈ (F x).flts, f.lanes = 0#32) (hst : (F x).stay = E.stay) (hi : E.idle = false) (hn : (F x).nxt = E.go) :
    ∃ t y, issue i s F = .next t ∧ Did x E t y :=
  next_did h F (finish_did h.toDue w hgr _ hs hf hst hi hn)
/-- Nothing is written. -/
theorem next_go {F : Ctx → Res} {fs : List Flt} (f : Nat → Nxt) (hF : F x = { s := x.s, flts := fs, nxt := f }) (hf : ∀ q ∈ fs, q.lanes = 0#32) :
    ∃ t y, issue i s F = .next t ∧ Did x { go := f } t y :=
  next_wrote h ((Wrote.none h.toDue).go f) rfl (.inr ⟨congrArg Res.s hF, rfl⟩) (hF ▸ hf) (congrArg Res.stay hF) rfl (congrArg Res.nxt hF)
/-- Every lane goes to the target in its register. -/
theorem next_targets {F : Ctx → Res} {f : Nat → Nat} (hF : F x = resTargets x x.s f) (ha : ∀ l, x.e.getLsbD l = true → f l % 4 = 0) :
    ∃ t y, issue i s F = .next t ∧ Did x { go := fun l => .goto (BitVec.ofNat 64 (f l)) } t y :=
  next_go h _ hF fun _ hq => List.mem_singleton.mp hq ▸ misaligned_of_aligned ha
end

theorem putLanes_rest (g : Group) (m : Mask) (k : Nat) (d : Dst) (f : Nat → Nat) : (putLanes g m k d f).rest = g.rest := by
  obtain ⟨vs, h⟩ := putLanes_with g m k d f
  rw [h]
  rfl
/-- Clearing a predicate in the lanes outside a mask keeps it within (R181). -/
theorem setP_clear_outside (g : Group) (n : Nat) (m w : Mask) :
    g.setP n (m &&& ~~~w) (fun _ => false) = g.setP n m fun l => w.getLsbD l && g.getP n l := by
  unfold Group.setP
  split
  · rfl
  · next hn =>
    congr 2
    refine mask_ext fun l hl => ?_
    simp only [Group.getP, if_neg hn, BitVec.getLsbD_or, BitVec.getLsbD_and, BitVec.getLsbD_not, getLsbD_maskOf, decide_eq_true hl, Bool.true_and]
    cases (g.preds.get n).getLsbD l <;> cases m.getLsbD l <;> cases w.getLsbD l <;> rfl

/-- Where each of them sends its lanes, and what it writes before they go. -/
theorem goEff_did {i : Instr} {s : State} {x : Ctx} {E : Eff} (hE : goEff x i = some E) (ha : aligned x i) (h : Issues i s x) :
    ∃ t y, exec i s = .next t ∧ Did x E t y := by
  have h0 := Wrote.none h.toDue
  cases i with
  | bra c imm =>
    cases hE
    exact next_go h _ rfl nofun
  | brxV c a =>
    cases hE
    exact next_targets h rfl (ha _ rfl)
  | brxS c a =>
    cases hE
    exact next_targets h rfl (ha _ rfl)
  | ret c a =>
    cases hE
    exact next_targets h rfl (ha _ rfl)
  | call c d imm =>
    cases hE
    exact next_wrote h ((h0.putLanes rfl 2 d _).go _) (putLanes_rest ..) (.inl rfl) nofun rfl rfl rfl
  | callIndirect c d a =>
    cases hE
    have ht := ha _ rfl
    refine next_wrote h ((h0.putLanes rfl 2 d _).go _) (putLanes_rest ..) (.inl ?_) (fun _ hq => ?_) rfl rfl rfl
    · exact congrArg (fun m => x.withGroup (putLanes x.g m 2 d fun _ => (x.cur.pc + 12#64).toNat)) (transfers_of_aligned ht)
    · exact List.mem_singleton.mp hq ▸ misaligned_of_aligned ht
  | exit c =>
    cases hE
    exact next_go h _ rfl nofun
  | yieldPath c =>
    cases hE
    exact next_wrote h (Wrote.yield h.toDue) rfl (.inl rfl) nofun rfl rfl rfl
  | rejoin c j =>
    cases hE
    exact next_go h _ rfl nofun
  | rejoinTmo c p j b =>
    cases hE
    exact next_wrote h ((h0.setP p _).go _) (setP_rest ..) (.inl (congrArg x.withGroup (setP_clear_outside ..))) nofun rfl rfl rfl
  | _ => cases hE

end Sys2Proof.Machine
/-- Settles O28: each instruction's lanes go where `goEff` says, no lane in the fault of a misaligned target; memory is no part of it. -/
theorem controlFlow : Obligations.ControlFlow := by
  intro i s x E hE ha h
  obtain ⟨t, y, ht, hd⟩ := goEff_did hE ha h
  exact ⟨t, y, ht, hd, hd.sameMem h.toDue⟩

end

section
/-! ## Misaligned targets (O29) -/

open Sys2Proof Sys2Proof.Machine

namespace Sys2Proof.Machine

/-! ### The end of an instruction: its lanes go on, but for those of its faults -/

/-- The group when the lanes that do not fault have gone on. -/
def Ctx.wentOn (x : Ctx) (r : Res) (g : Group) : Group :=
  { (g.updLanes (unfaulted x.cur.m r.flts) fun l y =>
      if r.stay then { y with fresh := none } else y.go x.c (if x.e.getLsbD l then r.nxt l else .seq)) with lastIssue := some x.s.stamp }
/-- The state with that group. -/
def Ctx.afterGoing (x : Ctx) (r : Res) : State :=
  (r.s.updTeam x.cur.team fun t => { t with lastTick := r.s.dieCount t.die }).updGroup x.cur.team x.cur.grp (x.wentOn r)
/-- The state once the lanes of the faults have parked too. -/
def Ctx.afterParking (x : Ctx) (r : Res) : State :=
  let s := r.flts.foldl (fun s f => s.park x.cur.team x.cur.grp x.cur.rc f.lanes (x.cur.info x.c f)) (x.afterGoing r)
  { s with stamp := s.stamp + 1 }
theorem finish_eq_afterParking (x : Ctx) (r : Res) : finish x r = closeCycle (x.afterParking r) x.cur := rfl

theorem updLanes_congr (g : Group) {m : Mask} {f f' : Nat → Lane → Lane} (h : ∀ l, m.getLsbD l = true → f l = f' l) : g.updLanes m f = g.updLanes m f' := by
  unfold Group.updLanes
  congr 1
  refine List.map_congr_left fun l _ => ?_
  split
  · next hm => rw [h l hm]
  · rfl
/-- Where a lane that faults, or is outside the effective mask, would go is of no matter. -/
theorem wentOn_nxt_congr {x : Ctx} {r : Res} {n : Nat → Nxt}
    (h : ∀ l, (unfaulted x.cur.m r.flts).getLsbD l = true → x.e.getLsbD l = true → r.nxt l = n l) : x.wentOn r = x.wentOn { r with nxt := n } := by
  funext g
  unfold Ctx.wentOn
  rw [updLanes_congr g fun l hl => funext fun y => ?_]
  split
  · rfl
  · split
    · next he => rw [h l hl he]
    · rfl
theorem finish_nxt_congr {x : Ctx} {r : Res} {n : Nat → Nxt}
    (h : ∀ l, (unfaulted x.cur.m r.flts).getLsbD l = true → x.e.getLsbD l = true → r.nxt l = n l) : finish x r = finish x { r with nxt := n } := by
  rw [finish_eq_afterParking, finish_eq_afterParking, Ctx.afterParking, Ctx.afterParking, Ctx.afterGoing, Ctx.afterGoing, wentOn_nxt_congr h]

/-! ### Parking some lanes of a group whose other lanes go on -/

theorem lane_park_of_not {m : Mask} {l : Nat} (hm : m.getLsbD l = false) (hl : l < 32) (g : Group) (rc : Nat) (hd : Option Dword) (i : ParkInfo) :
    (g.park rc m hd i).lane l = g.lane l := by
  unfold Group.park
  rw [lane_updLanes _ _ _ hl, hm, if_neg Bool.false_ne_true]
  rfl
theorem lane_park_st {m : Mask} {l : Nat} (hm : m.getLsbD l = true) (hl : l < 32) (g : Group) (rc : Nat) (hd : Option Dword) (i : ParkInfo) :
    ((g.park rc m hd i).lane l).st = .running := by
  unfold Group.park
  rw [lane_updLanes _ _ _ hl, if_pos hm]
theorem recOf_park {m : Mask} {l : Nat} (hm : m.getLsbD l = true) (hl : l < 32) (g : Group) (rc : Nat) (hd : Option Dword) (i : ParkInfo) :
    (g.park rc m hd i).recOf l = parkedRec (g.getRec rc) m (i.claimed || hd.isNone) i := by
  have hlane : ((g.park rc m hd i).lane l).rc = g.freeRec rc := by
    unfold Group.park
    rw [lane_updLanes _ _ _ hl, if_pos hm]
  rw [Group.recOf, hlane]
  exact getRec_setRec_self ..

theorem team_of_group? {s : State} {t g : Nat} {y : Group} (h : s.group? t g = some y) : ∃ T, s.teams.find? t = some T ∧ T.groups.find? g = some y := by
  obtain ⟨T, hT, hy⟩ := Option.bind_eq_some_iff.mp h
  exact ⟨T, hT, hy⟩
/-- Parking no lane leaves the group as it was. -/
theorem group?_park {s : State} {t gi : Nat} {T : Team} {g : Group} (hT : s.teams.find? t = some T) (hg : T.groups.find? gi = some g) (rc : Nat) (m : Mask)
    (i : ParkInfo) : (s.park t gi rc m i).group? t gi = some (if m = 0#32 then g else g.park rc m T.handler i) := by
  by_cases hm : m = 0#32
  · rw [State.park, if_pos hm, if_pos hm, State.group?, State.team?, hT]
    exact hg
  · rw [park_of hT hg hm, if_neg hm]
    have hput : ∀ y, (s.setTeam t (T.setGroup gi y)).group? t gi = some y := fun y => by
      rw [State.group?_setTeam, if_pos rfl, Team.group?_setGroup, if_pos rfl]
    split
    · exact hput _
    · exact hput _

/-- The group once the lanes of the fault have parked, if there are any. -/
def Ctx.parkedFrom (x : Ctx) (hd : Option Dword) (f : Flt) (g : Group) : Group :=
  if f.lanes = 0#32 then g else g.park x.cur.rc f.lanes hd (x.cur.info x.c f)

/-- The end of an instruction with one fault: its lanes park, the others go on, and the cycle may end. -/
theorem finish_oneFault {x : Ctx} {r : Res} {T : Team} {g : Group} {f : Flt} (hT : r.s.teams.find? x.cur.team = some T)
    (hg : T.groups.find? x.cur.grp = some g) (hf : r.flts = [f]) :
    ∃ y, (finish x r).group? x.cur.team x.cur.grp = some y ∧ Ended (x.parkedFrom T.handler f (x.wentOn r g)) y := by
  have hgone : x.afterGoing r = r.s.setTeam x.cur.team (({ T with lastTick := r.s.dieCount T.die } : Team).setGroup x.cur.grp (x.wentOn r g)) := by
    rw [Ctx.afterGoing, updTeam_of hT, updGroup_of (find?_setTeam ..) (by exact hg), setTeam_setTeam]
  obtain ⟨U, hU, hy⟩ := team_of_group? (group?_park (hgone ▸ find?_setTeam ..) (find?_setGroup ..) x.cur.rc f.lanes (x.cur.info x.c f))
  have hparked : (x.afterParking r).teams = ((x.afterGoing r).park x.cur.team x.cur.grp x.cur.rc f.lanes (x.cur.info x.c f)).teams := by
    rw [Ctx.afterParking, hf]
    rfl
  obtain ⟨-, y, hy', he, -⟩ := rest_closeCycle (x.afterParking r) x.cur (hparked ▸ hU) hy
  exact ⟨y, hy', he⟩

section
variable {x : Ctx} {f : Flt} {l : Nat} (hl : l < 32)
include hl

theorem lane_wentOn (r : Res) (g : Group) (hm : (unfaulted x.cur.m r.flts).getLsbD l = true) (he : x.e.getLsbD l = true) (hst : r.stay = false) :
    (x.wentOn r g).lane l = (g.lane l).go x.c (r.nxt l) := by
  have hlane : (x.wentOn r g).lane l = (g.updLanes (unfaulted x.cur.m r.flts) fun l y =>
      if r.stay then { y with fresh := none } else y.go x.c (if x.e.getLsbD l then r.nxt l else .seq)).lane l := rfl
  rw [hlane, lane_updLanes _ _ _ hl, if_pos hm, hst, if_neg Bool.false_ne_true, if_pos he]
theorem lane_parkedFrom (hf : f.lanes.getLsbD l = false) (hd : Option Dword) (g : Group) : (x.parkedFrom hd f g).lane l = g.lane l := by
  unfold Ctx.parkedFrom
  split
  · rfl
  · exact lane_park_of_not hf hl ..
/-- A lane of the fault has the resume record at the instruction. -/
theorem faulted_parkedFrom (hf : f.lanes.getLsbD l = true) (hd : Option Dword) (g : Group) : ((x.parkedFrom hd f g).lane l).st = .running
    ∧ (x.parkedFrom hd f g).recOf l = parkedRec (g.getRec x.cur.rc) f.lanes ((x.cur.info x.c f).claimed || hd.isNone) (x.cur.info x.c f) := by
  rw [Ctx.parkedFrom, if_neg (mask_ne_zero hf)]
  exact ⟨lane_park_st hf hl .., recOf_park hf hl ..⟩
end
theorem parkedFrom_files (x : Ctx) (hd : Option Dword) (f : Flt) (g : Group) : (x.parkedFrom hd f g).v = g.v ∧ (x.parkedFrom hd f g).preds = g.preds := by
  unfold Ctx.parkedFrom
  split <;> exact ⟨rfl, rfl⟩

/-! ### The transfers -/

/-- Where the return address goes: the indirect call alone writes one (R176). -/
def linkDst : Instr → Dst
  | .callIndirect _ d _ => d
  | _ => .discard
/-- The group with the return address in the lanes that transfer. -/
def Ctx.linked (x : Ctx) (i : Instr) (f : Nat → Nat) : Group := putLanes x.g (x.transfers f) 2 (linkDst i) fun _ => (x.cur.pc + 12#64).toNat

theorem putLanes_discard (g : Group) (m : Mask) (k : Nat) (f : Nat → Nat) : putLanes g m k .discard f = g :=
  List.foldlRecOn (motive := fun b => b = g) (laneList m) _ rfl fun _ hb _ _ => hb
theorem putLanes_zero (g : Group) (k : Nat) (d : Dst) (f : Nat → Nat) : putLanes g 0#32 k d f = g := by
  rw [putLanes, forLanes, laneList_eq_nil.mpr rfl, List.foldl_nil]
theorem lane_linked (x : Ctx) (i : Instr) (f : Nat → Nat) (l : Nat) : (x.linked i f).lane l = x.g.lane l := lane_of_lanes (putLanes_same ..).1 l
theorem getP_linked (x : Ctx) (i : Instr) (f : Nat → Nat) (n l : Nat) : (x.linked i f).getP n l = x.g.getP n l := by
  obtain ⟨vs, h⟩ := putLanes_with x.g (x.transfers f) 2 (linkDst i) fun _ => (x.cur.pc + 12#64).toNat
  rw [Ctx.linked, h]
  rfl
theorem getV_linked (x : Ctx) (i : Instr) (f : Nat → Nat) (n : Nat) {l : Nat} (hl : l < 32) : (x.linked i f).getV n l =
    if x.e.getLsbD l = true ∧ f l % 4 = 0 then regAfter 2 (linkDst i) (x.cur.pc + 12#64).toNat n (x.g.getV n l) else x.g.getV n l := by
  rw [Ctx.linked, getV_putLanes _ _ _ _ _ hl]
  exact ite_congr (propext transfers_iff) (fun _ => rfl) fun _ => rfl
theorem getV_linked_of_not_call (x : Ctx) {i : Instr} (h : ∀ c d a, i ≠ .callIndirect c d a) (f : Nat → Nat) (n l : Nat) :
    (x.linked i f).getV n l = x.g.getV n l := by
  have hd : linkDst i = .discard := by
    unfold linkDst
    split
    · next c d a => exact absurd rfl (h c d a)
    · rfl
  rw [Ctx.linked, hd, putLanes_discard]
/-- Every transfer to a register's target ends in one operation, the return address written before it. -/
theorem exec_targetOf {i : Instr} {x : Ctx} {f : Nat → Nat} (h : targetOf x i = some f) : ∃ (F : Ctx → Res) (b : State), (∀ s, exec i s = issue i s F)
    ∧ F x = resTargets x b f ∧ (b = x.withGroup (x.linked i f) ∨ b = x.s ∧ x.linked i f = x.g) := by
  cases i
  case brxV | brxS | ret =>
    cases h
    exact ⟨_, _, fun _ => rfl, rfl, .inr ⟨rfl, putLanes_discard ..⟩⟩
  case callIndirect =>
    cases h
    exact ⟨_, _, fun _ => rfl, rfl, .inl rfl⟩
  all_goals cases h

theorem linked_stands {i : Instr} {s : State} {x : Ctx} {f : Nat → Nat} {b : State} (h : Due i s x)
    (hb : b = x.withGroup (x.linked i f) ∨ b = x.s ∧ x.linked i f = x.g) :
    ∃ T, b.teams.find? x.cur.team = some T ∧ T.groups.find? x.cur.grp = some (x.linked i f) := by
  rcases hb with rfl | ⟨rfl, hg⟩
  · exact ⟨_, find?_setTeam .., find?_setGroup ..⟩
  · exact ⟨x.tm, h.team, hg ▸ h.group⟩

/-- Where no lane's target is aligned, the instruction is one fault of its effective mask. -/
theorem finish_resTargets_none {i : Instr} {s : State} {x : Ctx} {f : Nat → Nat} (h : Due i s x) (he : x.e ≠ 0#32)
    (hn : ∀ l, l < 32 → x.e.getLsbD l = true → f l % 4 ≠ 0) {b : State} (hb : b = x.withGroup x.g ∨ b = x.s) :
    ∃ y, Parks x { cls := .memAlign, lanes := x.e } x.s (finish x (resTargets x b f)) y := by
  have hsub : ∀ l, x.e.getLsbD l = true → x.cur.m.getLsbD l = true := fun l hl => effMask_sub (h.mask ▸ hl)
  rw [resTargets_eq, misaligned_of_none hn, finish_nxt_congr (n := fun _ => .seq) fun l hl hle => ?_]
  · rcases hb with rfl | rfl
    · obtain ⟨y, hy⟩ := finish_parks_written h x.g.v x.g.preds 0#5 (f := { cls := .memAlign, lanes := x.e }) hsub he
      exact ⟨y, by simpa [Ctx.from, Group.raiseFp] using hy⟩
    · exact resFault_parks h he .memAlign
  · simp [unfaulted, hle] at hl

/-- A lane that transfers. -/
theorem lane_transferred {i : Instr} {s : State} {x : Ctx} {f : Nat → Nat} (h : Due i s x) (hd : Option Dword) (b : State) {l : Nat} (hl : l < 32)
    (he : x.e.getLsbD l = true) (ha : f l % 4 = 0) :
    (x.parkedFrom hd { cls := .memAlign, lanes := x.misaligned f } (x.wentOn (resTargets x b f) (x.linked i f))).lane l
      = (x.g.lane l).go x.c (.goto (BitVec.ofNat 64 (f l))) := by
  have hmis : (x.misaligned f).getLsbD l = false := Bool.eq_false_iff.mpr fun hm => (misaligned_iff.mp hm).2 ha
  have hgoes : (unfaulted x.cur.m (resTargets x b f).flts).getLsbD l = true := by
    show (x.cur.m &&& ~~~x.misaligned f).getLsbD l = true
    rw [BitVec.getLsbD_and, BitVec.getLsbD_not, hmis, decide_eq_true hl, effMask_sub (h.mask ▸ he)]
    rfl
  rw [lane_parkedFrom hl hmis, lane_wentOn hl _ _ hgoes he rfl, lane_linked]
  rfl
/-- A lane that does not: its resume record stands at the transfer. -/
theorem record_misaligned {x : Ctx} {f : Nat → Nat} {hd : Option Dword} {g y : Group}
    (hy : Ended (x.parkedFrom hd { cls := .memAlign, lanes := x.misaligned f } g) y) {l : Nat} (hl : l < 32) (he : x.e.getLsbD l = true) (ha : f l % 4 ≠ 0) :
    (y.recOf l).hasRec = true ∧ (y.recOf l).cls = FClass.memAlign.code ∧ (y.recOf l).pc = x.cur.pc ∧ (y.recOf l).off = x.cur.pos := by
  obtain ⟨hst, hrec⟩ := faulted_parkedFrom hl (f := { cls := .memAlign, lanes := x.misaligned f }) (misaligned_iff.mpr ⟨he, ha⟩) hd g
  have hcore := hy.record l hl (by rw [hst]; exact LaneSt.noConfusion)
  rw [hrec] at hcore
  exact ⟨congrArg StRec.hasRec hcore, congrArg StRec.cls hcore, congrArg StRec.pc hcore, congrArg StRec.off hcore⟩

end Sys2Proof.Machine
/-- Settles O29: the lanes of the one fault park at the transfer, the others go on with their return address. -/
theorem misalignedTargets : Obligations.MisalignedTargets := by
  intro i s x f hf h
  obtain ⟨F, b, he, hF, hb⟩ := exec_targetOf hf
  refine ⟨fun hn => ?_, ?_⟩
  · have hg : x.linked i f = x.g := by rw [Ctx.linked, transfers_of_none hn, putLanes_zero]
    rw [hg] at hb
    obtain ⟨y, hy⟩ := finish_resTargets_none h.toDue h.lanes hn (hb.imp_right And.left)
    exact ⟨_, y, by rw [he, issue_next h, hF], hy⟩
  · obtain ⟨T, hT, hg⟩ := linked_stands h.toDue hb
    obtain ⟨y, hy, hend⟩ := finish_oneFault (x := x) (r := resTargets x b f) hT hg rfl
    obtain ⟨hv, hp⟩ := parkedFrom_files x T.handler { cls := .memAlign, lanes := x.misaligned f } (x.wentOn (resTargets x b f) (x.linked i f))
    have hgetV : ∀ n l, y.getV n l = (x.linked i f).getV n l := fun n l => congrArg (SMap.get · (32 * n + l)) (hend.v.trans hv)
    have hgetP : ∀ n l, y.getP n l = (x.linked i f).getP n l := fun n l => by simp only [Group.getP, hend.preds.trans hp]; rfl
    refine ⟨_, y, by rw [he, issue_next h, hF], hy, fun l hl hle => ⟨fun ha => ?_, record_misaligned hend hl hle⟩, ?_, fun hi n l _ => ?_, fun n l _ => ?_⟩
    · exact (hend.lane l hl).trans (congrArg Lane.core (lane_transferred h.toDue T.handler b hl hle ha))
    · rintro c d a rfl n l hl
      exact (hgetV n l).trans (getV_linked x _ f n hl)
    · exact (hgetV n l).trans (getV_linked_of_not_call x hi f n l)
    · exact (hgetP n l).trans (getP_linked ..)

end

section
/-! ## Return from a handler (O31) -/

open Sys2Proof Sys2Proof.Machine

namespace Sys2Proof.Machine

/-- The record as `hret` leaves it: its sub-group is resumed, unless it is the main state. -/
def returnRec (e : Mask) (r : StRec) : StRec :=
  { r with mode := if r.mode = .main then .main else .resumed, rpend := r.rpend &&& ~~~e, claimed := false }
/-- What becomes of a record's mode is left open, as the end of the cycle may change it (R78). -/
theorem Leaves.of_core {x : Ctx} {E : Eff} {r : StRec → StRec} {b t : State} {g y : Group} (hr : (r x.st).core = (E.r x.st).core)
    (h : Leaves x { E with r } b g t y) : Leaves x E b g t y where
  group := h.group
  outside := h.outside
  shared := h.shared
  lane := h.lane
  v := h.v
  p := h.p
  j := h.j
  fp := h.fp
  own l hl hle hrc := by
    obtain ⟨hs, ha, hrest⟩ := h.own l hl hle hrc
    exact ⟨hs, ha, hrest.trans (congrArg (fun q : StRec => { q with s := [], a := [] }) hr)⟩
  others := h.others

/-- The group with its lanes resumed, where nothing of its registers, lanes and records had changed before. -/
theorem wrote_resume {i : Instr} {s : State} {x : Ctx} (h : Due i s x) {g : Group} (hg : sameRegs x.g g) :
    Wrote (x.from x.returned) { go := fun _ => .placed, r := returnRec x.e } (g.resume x.cur.rc x.e) := by
  obtain ⟨hlanes, hrecs, hv, hpreds, hjm, hfp⟩ := hg
  have hrec : g.getRec x.cur.rc = x.st := by rw [Group.getRec, hrecs, h.record]; rfl
  have hres : (g.resume x.cur.rc x.e).lanes = x.returned.lanes := by
    simp only [Group.resume, hrec, Ctx.returned, Group.updLanes, Group.lane, setRec_lanes, hlanes]
  exact {
    lanes := fun l _ => (lane_of_lanes hres l).trans (ite_self _).symm
    v := fun n l _ => congrArg (SMap.get · (32 * n + l)) hv
    p := fun n l _ => congrArg (fun ps : SMap Mask => if n = 15 then true else (ps.get n).getLsbD l) hpreds
    j := fun n => congrArg (SMap.get · n) hjm
    fp := hfp.trans (BitVec.or_zero).symm
    record := by
      refine ⟨returnRec x.e x.st, fun k => ?_, fun _ => rfl, fun _ => rfl, rfl⟩
      show (g.setRec x.cur.rc _).recs.find? k = if x.cur.rc = k then _ else (x.g.setRec x.cur.rc _).recs.find? k
      rw [find?_setRec, find?_setRec, hrecs, hrec]
      split
      · rfl
      · rfl }

section
variable {c : Ctl} {s : State} {x : Ctx} (h : Issues (.hret c) s x)
include h

/-- What `hret` comes to, by its record and its replays. -/
theorem exec_hret : exec (.hret c) s = .next (finish x (
    if !x.st.hasRec then resFault x .illegalOp
    else if x.st.due x.e != 0#32 && x.s.replayWaits x.cur.team x.cur.grp x.cur.rc (x.st.due x.e) x.st.replay then { s := x.s, stay := true }
    else { s := x.s.resumeLanes x.cur.team x.cur.grp x.cur.rc x.e, nxt := fun l => if x.e.getLsbD l then .placed else .seq })) := issue_next h _
theorem resumeLanes_eq : x.s.resumeLanes x.cur.team x.cur.grp x.cur.rc x.e = x.replayed.updGroup x.cur.team x.cur.grp fun g => g.resume x.cur.rc x.e := by
  have hrec : ((x.s.group? x.cur.team x.cur.grp).bind fun g => g.recs.find? x.cur.rc) = some x.st := by
    rw [State.group?, State.team?, h.team]
    show ((x.tm.groups.find? x.cur.grp).bind _) = _
    rw [h.group]
    exact h.record
  simp only [State.resumeLanes, hrec, Ctx.replayed]

theorem hret_noRecord (hr : x.st.hasRec = false) : FaultsIn (.hret c) s x .illegalOp x.s := by
  refine faultsIn_of_resFault h rfl (if_pos ?_)
  rw [hr]
  rfl
theorem hret_waits (hr : x.st.hasRec = true)
    (hw : x.st.due x.e ≠ 0#32 ∧ x.s.replayWaits x.cur.team x.cur.grp x.cur.rc (x.st.due x.e) x.st.replay = true) :
    ∃ t y, exec (.hret c) s = .next t ∧ Did x { stay := true } t y := by
  have same : Same x x.s x.tm x.g := ⟨h.team, h.group, rfl, rfl, rfl, rfl, rfl, rfl⟩
  obtain ⟨y, hy⟩ := finish_did h.toDue (same.wrote h.toDue { stay := true } rfl) rfl { s := x.s, stay := true } (.inr ⟨rfl, rfl⟩) nofun rfl rfl rfl
  refine ⟨_, y, ?_, hy⟩
  rw [exec_hret h, if_neg (by simp [hr]), if_pos (by simpa using hw)]
theorem hret_returns (hr : x.st.hasRec = true)
    (hw : ¬(x.st.due x.e ≠ 0#32 ∧ x.s.replayWaits x.cur.team x.cur.grp x.cur.rc (x.st.due x.e) x.st.replay = true)) {g : Group}
    (hg : x.replayed.group? x.cur.team x.cur.grp = some g) (hsame : sameRegs x.g g) :
    ∃ t y, exec (.hret c) s = .next t
      ∧ Leaves (x.from x.returned) { go := fun _ => .placed, r := fun r => { r with rpend := r.rpend &&& ~~~x.e, claimed := false } } x.replayed g t y := by
  obtain ⟨T, hT, hgT⟩ := team_of_group? hg
  have hres : x.s.resumeLanes x.cur.team x.cur.grp x.cur.rc x.e = x.replayed.setTeam x.cur.team (T.setGroup x.cur.grp (g.resume x.cur.rc x.e)) :=
    (resumeLanes_eq h).trans (updGroup_of hT hgT _)
  obtain ⟨y, hy⟩ := finish_leaves (g := g) (wrote_resume h.toDue hsame)
    { s := x.replayed.setTeam x.cur.team (T.setGroup x.cur.grp (g.resume x.cur.rc x.e)), nxt := fun _ => .placed } _ (find?_setTeam ..) (find?_setGroup ..)
    (rest_put x.replayed x.cur.team x.cur.grp T.lastTick T (g.resume x.cur.rc x.e) hT) rfl nofun rfl rfl rfl
  refine ⟨_, y, ?_, hy.of_core (by rfl)⟩
  rw [exec_hret h, if_neg (by simp [hr]), if_neg (by simpa using hw), hres, finish_nxt_congr (n := fun _ => .placed) fun l _ he => if_pos he]
  rfl
end

end Sys2Proof.Machine
/-- Settles O31: by the record and by the replays that are due. -/
theorem returnFromHandler : Obligations.ReturnFromHandler := fun _ _ _ h =>
  ⟨hret_noRecord h, hret_waits h, fun hr hw _ hg hsame => hret_returns h hr hw hg hsame⟩

end
